-- ==== Sys2Proof/Word.lean ====
section
/-! DEFINITION. The word types of the Gomon Triat (R6 to R10, R22, R25, R26): bits, bytes and addresses. -/

namespace Sys2Proof

/-- A byte. -/
abbrev Byte := BitVec 8
/-- A register or management word (R11). -/
abbrev W32 := BitVec 32
/-- A 64-bit value: shaft counts, FP64, INT64. -/
abbrev W64 := BitVec 64
/-- A 48-bit device virtual address (R25). -/
abbrev VA := BitVec 48
/-- A 40-bit device physical address (R26). -/
abbrev PA := BitVec 40
/-- A 12-bit logical core ID (R22). -/
abbrev CoreId := BitVec 12
/-- A 16-bit device ID (R281). -/
abbrev DevId := BitVec 16
/-- A SHA-384 hash (R400). -/
abbrev Hash := BitVec 384

end Sys2Proof
end

