-- ==== Sys2Proof/Syntax.lean ====
section
/-! DEFINITION. The commands of the block: one constructor for each row of spec/opcode_table.json, with the operands that
its rule gives it. What a row's rule leaves to the outside world (a parity check's outcome, a measured error count, the
verdict of a signature check, a temperature) comes with the command as an operand. -/

namespace Sys2Proof

/-- The stream slot that issues a core command: a logical core (R22) and one of its four slots (R101). -/
structure Site where
  core : CoreId
  slot : BitVec 2
  deriving DecidableEq, Repr

/-- The fields of a 128-bit command word but its OPCODE, which the constructor fixes (R119). -/
structure CmdWord where
  predSrc : BitVec 3 := 0
  predInv : Bool := false
  qa : BitVec 4 := 0
  qb : BitVec 4 := 0
  qo : BitVec 4 := 0
  acc : Bool := false
  tile : Bool := false
  rtz : Bool := false
  last : Bool := false
  emask : BitVec 4 := 0
  params : BitVec 96 := 0
  deriving DecidableEq, Repr

/-- Why an instruction-cache line is fetched (R99): a miss, or a parity error, whose refetched line may fail too. -/
inductive FillCause where
  | miss
  | parity (refetchFails : Bool)
  deriving DecidableEq, Repr

/-- The packet that reaches a fenced core's router (R196). -/
inductive Bounced where
  /-- The oldest push in flight from link queue Q(10 + q) of `core`. -/
  | push (core : CoreId) (q : BitVec 2)
  /-- The oldest token in flight from `src` to `target`. -/
  | token (src : Site) (target : CoreId)
  /-- A response to the fenced core. -/
  | response (core : CoreId)
  deriving DecidableEq, Repr

/-- The answer a prefetch request meets (R256). -/
inductive PfAnswer where
  | data | aborted | busy | fenced
  deriving DecidableEq, Repr

/-- Who holds the translation buffer that is looked up (R234). -/
inductive Requester where
  | core (id : CoreId)
  | csu (cluster : BitVec 6)
  | ce (half : BitVec 1)
  | port (n : BitVec 4)
  deriving DecidableEq, Repr

/-- The permissions an access checks against its leaf (R234). -/
inductive Access where
  | r | w | x | rFab | wFab
  deriving DecidableEq, Repr

/-- What the 64 parity bits of a sector show when it is read (R216). `wrong (some k)`: every failing byte lies in the bytes
of lane group k; `wrong none`: they do not lie in one group (R214). -/
inductive ParityCheck where
  | correct
  | allInverted
  | wrong (group : Option (BitVec 2))
  deriving DecidableEq, Repr

/-- What one credit-audit check found (R193): the link identifier of R194, the recorded H, O and R, the pool size P, and
whether it is the last check of its turn. -/
structure AuditObs where
  link : W32
  h : BitVec 16
  o : BitVec 16
  r : BitVec 16
  p : BitVec 16
  last : Bool
  deriving DecidableEq, Repr

/-- A frame of TYPE PACKET or IDLE at a port (R268): its header fields, its length in bytes, whether its CRC is correct, and
whether it is a PACKET (or else an IDLE) frame. -/
structure Frame where
  seq : W32
  ack : W32
  packet : Bool
  pool : BitVec 4
  credits : BitVec 12
  bytes : BitVec 13
  bodyPool : BitVec 4
  crcOk : Bool
  deriving DecidableEq, Repr

/-- The IDENT frame (R274) as the port checks it: the SHA-384 hash of its PUBKEY stands for the key, and `sigOk` is the
verdict of the signature check. -/
structure IdentFrame where
  serial : W64
  devId : DevId
  port : Byte
  nonceOwn : BitVec 256
  nonceEcho : BitVec 256
  shaft : W64
  keyHash : Hash
  sigOk : Bool
  deriving DecidableEq, Repr

/-- The header of a fabric packet (R281) but OP and RESP, which the constructor fixes or gives apart. -/
structure FabHdr where
  dstDev : DevId := 0
  srcDev : DevId := 0
  addr : VA := 0
  cls : BitVec 3 := 0
  hops : BitVec 4 := 0
  job : Byte := 0
  count : Byte := 0
  len : BitVec 13 := 0
  stepAbort : Bool := false
  last : Bool := false
  seq : W32 := 0
  tag : BitVec 16 := 0
  status : BitVec 16 := 0
  poison : W64 := 0
  deriving DecidableEq, Repr

/-- A sector that a memory controller is to read: its address, whether the read allocates no line (R228), and of a sector that the cache
holds the words whose parity has failed (R229). -/
structure SectorRead where
  pa : PA
  noalloc : Bool
  words : BitVec 16
  deriving DecidableEq, Repr

/-- The row in which a transfer crosses the seam, and its pair (R199). -/
structure SeamPath where
  row : BitVec 2
  src : BitVec 12
  dst : BitVec 12
  deriving DecidableEq, Repr

/-- The codewords of an error window that were corrected and those that could not be (R291). -/
structure Codewords where
  corrected : BitVec 12
  uncorrected : BitVec 12
  deriving DecidableEq, Repr

/-- How a packet passes through: whether it is a response, and whether the earlier packets of its source, destination and class have been
answered (R285). -/
structure Passage where
  resp : Bool
  settled : Bool
  deriving DecidableEq, Repr

/-- The notify of a peer's PUT with N_REMOTE (R178), whose other bytes are written: the manual gives it no packet (log entry 24). -/
structure RemoteNote where
  core : CoreId
  tc : BitVec 3
  n : BitVec 16
  deriving DecidableEq, Repr

/-- The payload of a WRITE, and the remote notify that comes with the last of a peer's PUT. -/
structure WriteBody where
  data : List Byte
  note : Option RemoteNote := none
  deriving DecidableEq, Repr

/-- The payload of a CLOSE packet but its KIND, which the constructor fixes (R313). -/
structure CloseBody where
  dropped : Bool := false
  step : W32 := 0
  arg0 : W32 := 0
  arg1 : W32 := 0
  mark : W64 := 0
  cver : W32 := 0
  deriving DecidableEq, Repr

/-- The 8 bytes that stand before the data of MIRROR_PUT and PARITY_PUT, but KIND (R341). -/
structure PutHead where
  entry : BitVec 10
  gen : Bool
  member : BitVec 5
  epoch : W32
  deriving DecidableEq, Repr

/-- The header of a command packet on a control port (R356) but OPCODE, which the constructor fixes; `crcOk` is the outcome
of the CRC-32C check. LEN_W is the length of the payload. -/
structure CpHdr where
  port : BitVec 1 := 0
  version : Byte := 1
  tag : BitVec 16 := 0
  dlEn : Bool := false
  reserved : BitVec 4 := 0
  deadline : W64 := 0
  crcOk : Bool := true
  deriving DecidableEq, Repr

/-- What the pattern test found on one stack (R239). -/
structure TestResult where
  stack : BitVec 4
  failed : W32
  firstOffset : W32
  firstPlace : W32
  failedChannels : BitVec 16
  deriving DecidableEq, Repr

/-- What training measured on one channel (R212): the dead lanes, and the weak lanes in ascending order of eye width.
Lanes 0 to 35 are functional, 36 to 39 are the spares DS0 to DS3 (R210). -/
structure LaneTest where
  stack : BitVec 4
  ch : BitVec 4
  dead : List (BitVec 6)
  weak : List (BitVec 6)
  deriving DecidableEq, Repr

/-- The verdict on a signed record (R402, R405): the SHA-384 hash of the public key it carries, and whether its signature
is valid. -/
structure Cert where
  keyHash : Hash
  sigOk : Bool
  deriving DecidableEq, Repr

/-- The verdict on a firmware image (R383, R401): its signature and its measurement. -/
structure FwVerdict where
  sigOk : Bool
  measure : Hash
  version : W32
  deriving DecidableEq, Repr

/-- A physical core site (R350): half, cluster site 0 to 33, core site 0 to 65. -/
structure CoreSite where
  half : BitVec 1
  cluster : BitVec 6
  site : BitVec 7
  deriving DecidableEq, Repr

/-- What the self-test of start-up found: the cores that fail, and the memory test's results (R239, R386). -/
structure SelfTest where
  cores : List CoreSite
  memory : List TestResult
  deriving DecidableEq, Repr

/-- The commands of the Triat: one constructor for each row of the opcode table. -/
inductive Instr where
  /-- NOP (R162). -/
  | nop (site : Site) (w : CmdWord)
  /-- HALT (R162). -/
  | halt (site : Site) (w : CmdWord)
  /-- FENCE (R159). -/
  | fence (site : Site) (w : CmdWord)
  /-- TOKEN (R160). -/
  | token (site : Site) (w : CmdWord)
  /-- WAITTOKEN (R160). -/
  | waittoken (site : Site) (w : CmdWord)
  /-- LOOP (R154). -/
  | loop (site : Site) (w : CmdWord)
  /-- FUSE (R157). -/
  | fuse (site : Site) (w : CmdWord)
  /-- CSET (R153). -/
  | cset (site : Site) (w : CmdWord)
  /-- CADD (R153). -/
  | cadd (site : Site) (w : CmdWord)
  /-- CADDC (R153). -/
  | caddc (site : Site) (w : CmdWord)
  /-- CMPSET (R153). -/
  | cmpset (site : Site) (w : CmdWord)
  /-- CLRSEEN (R153). -/
  | clrseen (site : Site) (w : CmdWord)
  /-- OPROD (R124). -/
  | oprod (site : Site) (w : CmdWord)
  /-- OPSLICE (R126). -/
  | opslice (site : Site) (w : CmdWord)
  /-- OPDIAG (R127). -/
  | opdiag (site : Site) (w : CmdWord)
  /-- BEDLOAD (R128). -/
  | bedload (site : Site) (w : CmdWord)
  /-- TREAD (R130). -/
  | tread (site : Site) (w : CmdWord)
  /-- FETCH (R132). -/
  | fetch (site : Site) (w : CmdWord)
  /-- STORE (R132). -/
  | store (site : Site) (w : CmdWord)
  /-- SEND (R136). -/
  | send (site : Site) (w : CmdWord)
  /-- RECV (R136). -/
  | recv (site : Site) (w : CmdWord)
  /-- RACC (R138). -/
  | racc (site : Site) (w : CmdWord)
  /-- VEW (R141). -/
  | vew (site : Site) (w : CmdWord)
  /-- VUN (R141). -/
  | vun (site : Site) (w : CmdWord)
  /-- VRED (R142). -/
  | vred (site : Site) (w : CmdWord)
  /-- VCVT (R142). -/
  | vcvt (site : Site) (w : CmdWord)
  /-- VNORM (R144). -/
  | vnorm (site : Site) (w : CmdWord)
  /-- VNORMB (R145). -/
  | vnormb (site : Site) (w : CmdWord)
  /-- VSMAX (R146). -/
  | vsmax (site : Site) (w : CmdWord)
  /-- VSMAXB (R147). -/
  | vsmaxb (site : Site) (w : CmdWord)
  /-- VSTATM (R148). -/
  | vstatm (site : Site) (w : CmdWord)
  /-- VROPE (R149). -/
  | vrope (site : Site) (w : CmdWord)
  /-- VDROP (R150). -/
  | vdrop (site : Site) (w : CmdWord)
  /-- VSPLIT (R151). -/
  | vsplit (site : Site) (w : CmdWord)
  /-- VSLREC (R151). -/
  | vslrec (site : Site) (w : CmdWord)
  /-- VBXADD (R152). -/
  | vbxadd (site : Site) (w : CmdWord)
  /-- PHASE_CHANGE (R105). -/
  | phaseChange (core : CoreId)
  /-- ICACHE_FILL (R99). -/
  | icacheFill (site : Site) (cause : FillCause)
  /-- RUN_AHEAD_FETCH (R108). -/
  | runAheadFetch (core : CoreId) (va : VA) (w : CmdWord)
  /-- TOKEN_ARRIVAL (R160). -/
  | tokenArrival (src : Site) (target : CoreId)
  /-- TOKEN_RETURN (R161). -/
  | tokenReturn (src : Site) (target : CoreId)
  /-- LINK_QUEUE_PUSH (R96). -/
  | linkQueuePush (core : CoreId) (q : BitVec 2)
  /-- FENCED_BOUNCE (R196). -/
  | fencedBounce (what : Bounced)
  /-- CONTROL_STATE_PARITY (R195). -/
  | controlStateParity (core : CoreId)
  /-- STORE_ACK (R135). -/
  | storeAck (site : Site)
  /-- CSM_WINDOW_CLOSE (R185). -/
  | csmWindowClose (cluster : BitVec 6) (sector : BitVec 15)
  /-- MERGE_WINDOW_SEND (R248). -/
  | mergeWindowSend (cluster : BitVec 6) (line : BitVec 32) (write : Bool)
  /-- PREFETCH_ISSUE (R251). -/
  | prefetchIssue (cluster : BitVec 6) (stream : BitVec 4)
  /-- PREFETCH_RETURN (R256). -/
  | prefetchReturn (cluster : BitVec 6) (answer : PfAnswer)
  /-- CSU_INVALIDATION (R255). -/
  | csuInvalidation (cluster : BitVec 6) (line : BitVec 32)
  /-- PAGE_WALK (R235). -/
  | pageWalk (who : Requester) (va : VA) (acc : Access)
  /-- MC_SECTOR_READ (R216). -/
  | mcSectorRead (read : SectorRead) (first replay : ParityCheck)
  /-- MC_SECTOR_WRITE (R219). -/
  | mcSectorWrite (site : Site)
  /-- LANE_REPAIR (R214). -/
  | laneRepair (stack : BitVec 4) (ch : BitVec 4) (failing : List (BitVec 6))
  /-- SEAM_TRANSFER (R200). -/
  | seamTransfer (half : BitVec 1) (path : SeamPath) (parityOk : Bool)
  /-- SHAFT_TICK (R373). -/
  | shaftTick
  /-- TURN_BOUNDARY (R193). -/
  | turnBoundary
  /-- AUDIT_CHECK (R194). -/
  | auditCheck (half : BitVec 1) (obs : AuditObs)
  /-- HEARTBEAT (R278). -/
  | heartbeat (port : BitVec 5) (shaft : W64)
  /-- HEARTBEAT_WINDOW_EXPIRY (R278). -/
  | heartbeatWindowExpiry (port : BitVec 5)
  /-- PACKET_FRAME (R269). -/
  | packetFrame (port : BitVec 5) (frame : Frame)
  /-- NACK (R269). -/
  | nack (port : BitVec 5) (expected : W32)
  /-- REPLAY_TIMEOUT (R269). -/
  | replayTimeout (port : BitVec 5)
  /-- IDLE_SEND (R269). -/
  | idleSend (port : BitVec 5)
  /-- RESUME (R277). -/
  | resume (port : BitVec 5) (expected : W32)
  /-- HELLO (R274). -/
  | hello (port : BitVec 5) (nonce : BitVec 256)
  /-- HELLO_REPEAT (R274). -/
  | helloRepeat (port : BitVec 5)
  /-- IDENT (R274). -/
  | ident (port : BitVec 5) (frame : IdentFrame)
  /-- IDENT_REPEAT (R274). -/
  | identRepeat (port : BitVec 5)
  /-- PORT_ACQUIRE (R273). -/
  | portAcquire (port : BitVec 5) (signals : BitVec 9)
  /-- PORT_LOCK (R273). -/
  | portLock (port : BitVec 5)
  /-- LANE_CHOICE (R271). -/
  | laneChoice (port : BitVec 5) (errors : List (BitVec 29)) (txPass : BitVec 9)
  /-- PORT_STATE_TIMEOUT (R273). -/
  | portStateTimeout (port : BitVec 5)
  /-- FAILED_EXPIRY (R273). -/
  | failedExpiry (port : BitVec 5)
  /-- BER_WINDOW (R272). -/
  | berWindow (port : BitVec 5) (lam : BitVec 4) (errors : BitVec 25) (codewords : Codewords)
  /-- DEAD_WAVELENGTH (R272). -/
  | deadWavelength (port : BitVec 5) (lam : BitVec 4)
  /-- LANE_MAP_PREPARE (R272). -/
  | laneMapPrepare (port : BitVec 5) (lane : BitVec 3)
  /-- LANE_MAP_SWITCH (R272). -/
  | laneMapSwitch (port : BitVec 5) (lane : BitVec 3)
  /-- LANE_MAP_DROP (R272). -/
  | laneMapDrop (port : BitVec 5) (lane : BitVec 3)
  /-- PING_LINK_FRAME (R278). -/
  | pingLinkFrame (port : BitVec 5) (t1 : W64)
  /-- LASER_LOST (R266). -/
  | laserLost (input : BitVec 3)
  /-- LASER_OK (R265). -/
  | laserOk (input : BitVec 3)
  /-- LASER_GROUP_START (R266). -/
  | laserGroupStart (group : BitVec 2)
  /-- READ (R282). -/
  | read (port : BitVec 4) (h : FabHdr)
  /-- WRITE (R282). -/
  | write (port : BitVec 4) (h : FabHdr) (body : WriteBody)
  /-- GATHER (R322). -/
  | gather (port : BitVec 4) (h : FabHdr)
  /-- RACC_F32 (R300). -/
  | raccF32 (port : BitVec 4) (h : FabHdr) (data : List Byte)
  /-- RACC_F32C (R301). -/
  | raccF32c (port : BitVec 4) (h : FabHdr) (data : List Byte)
  /-- RACC_BX16 (R302). -/
  | raccBx16 (port : BitVec 4) (h : FabHdr) (data : List Byte)
  /-- RACC_I64 (R301). -/
  | raccI64 (port : BitVec 4) (h : FabHdr) (data : List Byte)
  /-- RETRACT_F32 (R304). -/
  | retractF32 (port : BitVec 4) (h : FabHdr) (data : List Byte)
  /-- RETRACT_F32C (R304). -/
  | retractF32c (port : BitVec 4) (h : FabHdr) (data : List Byte)
  /-- RETRACT_BX16 (R304). -/
  | retractBx16 (port : BitVec 4) (h : FabHdr) (data : List Byte)
  /-- RETRACT_I64 (R304). -/
  | retractI64 (port : BitVec 4) (h : FabHdr) (data : List Byte)
  /-- CONTRIB (R315). -/
  | contrib (port : BitVec 4) (h : FabHdr) (body : CloseBody)
  /-- VOID (R309). -/
  | void (port : BitVec 4) (h : FabHdr) (body : CloseBody)
  /-- UP (R318). -/
  | up (port : BitVec 4) (h : FabHdr) (body : CloseBody)
  /-- DOWN (R319). -/
  | down (port : BitVec 4) (h : FabHdr) (body : CloseBody)
  /-- MIRROR_PUT (R341). -/
  | mirrorPut (port : BitVec 4) (h : FabHdr) (head : PutHead) (data : List Byte)
  /-- PARITY_PUT (R341). -/
  | parityPut (port : BitVec 4) (h : FabHdr) (head : PutHead) (data : List Byte)
  /-- SEAL (R342). -/
  | seal (port : BitVec 4) (h : FabHdr) (head : PutHead) (parity : Bool) (bytes : W64)
  /-- PING (R282). -/
  | ping (port : BitVec 4) (h : FabHdr) (t1 : W64)
  /-- FABRIC_RESPONSE (R281). -/
  | fabricResponse (port : BitVec 4) (op : Byte) (h : FabHdr) (data : List Byte)
  /-- TRANSIT (R286). -/
  | transit (port : BitVec 4) (op : Byte) (way : Passage) (h : FabHdr) (data : List Byte)
  /-- BUSY_RESEND (R299). -/
  | busyResend (dst : DevId) (k : BitVec 16)
  /-- PUT (R178). -/
  | put (half : BitVec 1) (ring : BitVec 4)
  /-- GET (R178). -/
  | get (half : BitVec 1) (ring : BitVec 4)
  /-- REDUCTION_SEND (R305). -/
  | reductionSend (half : BitVec 1) (list : BitVec 4)
  /-- REDUCTION_PASS (R310). -/
  | reductionPass (half : BitVec 1) (list : BitVec 4)
  /-- REDUCTION_CLOSE (R314). -/
  | reductionClose (half : BitVec 1) (list : BitVec 4)
  /-- REDUCTION_GATHER (R323). -/
  | reductionGather (half : BitVec 1) (list : BitVec 4)
  /-- GATHER_RESEND (R323). -/
  | gatherResend (dst : DevId) (k : BitVec 16)
  /-- DATA_RESEND (R340). -/
  | dataResend (dst : DevId) (k : BitVec 16)
  /-- ARMING_DONE (R299). -/
  | armingDone (job : BitVec 6)
  /-- CLOSE_SCAN (R315). -/
  | closeScan (job : BitVec 6)
  /-- UP_SEND (R318). -/
  | upSend
  /-- COMMIT_MARK (R319). -/
  | commitMark
  /-- COMMIT_OUTCOME (R320). -/
  | commitOutcome
  /-- OPT_EVENT (R320). -/
  | optEvent (job : BitVec 6)
  /-- SEC_EPOCH_START (R338). -/
  | secEpochStart
  /-- SEC_EPOCH_DONE (R343). -/
  | secEpochDone
  /-- LICHEN_COMPACTION (R349). -/
  | lichenCompaction
  /-- OWN_CLAIM (R362). -/
  | ownClaim (h : CpHdr) (p : List W32)
  /-- OWN_RELEASE (R362). -/
  | ownRelease (h : CpHdr) (p : List W32)
  /-- CONFIG_DONE (R386). -/
  | configDone (h : CpHdr) (p : List W32)
  /-- MODULE_RESET (R385). -/
  | moduleReset (h : CpHdr) (p : List W32)
  /-- REG_READ (R369). -/
  | regRead (h : CpHdr) (p : List W32)
  /-- REG_WRITE (R369). -/
  | regWrite (h : CpHdr) (p : List W32)
  /-- BULK_WRITE (R371). -/
  | bulkWrite (h : CpHdr) (p : List W32)
  /-- BULK_READ (R371). -/
  | bulkRead (h : CpHdr) (p : List W32)
  /-- BULK_DATA (R372). -/
  | bulkData (h : CpHdr) (opcode : BitVec 16) (offset mask : W64) (data : List Byte) (fw : FwVerdict)
  /-- ABORT (R366). -/
  | abort (h : CpHdr) (p : List W32)
  /-- DEADLINE (R366). -/
  | deadline (port : BitVec 1) (tag : BitVec 16)
  /-- SHAFT_SET (R373). -/
  | shaftSet (h : CpHdr) (p : List W32)
  /-- SHAFT_SYNC (R374). -/
  | shaftSync (h : CpHdr) (p : List W32)
  /-- SHAFT_SLEW (R375). -/
  | shaftSlew (h : CpHdr) (p : List W32)
  /-- HOLDOVER (R375). -/
  | holdover
  /-- SCHED_SET (R377). -/
  | schedSet (h : CpHdr) (p : List W32)
  /-- SCHED_CANCEL (R377). -/
  | schedCancel (h : CpHdr) (p : List W32)
  /-- SCHEDULED_ACTION (R377). -/
  | scheduledAction (entry : BitVec 4)
  /-- FN_RESET (R379). -/
  | fnReset (h : CpHdr) (p : List W32)
  /-- FN_RESTART (R379). -/
  | fnRestart (fn : BitVec 6)
  /-- REMAP (R382). -/
  | remap (h : CpHdr) (p : List W32)
  /-- PROGRAM_SWAP (R380). -/
  | programSwap (h : CpHdr) (p : List W32)
  /-- MEM_MAINT (R237). -/
  | memMaint (h : CpHdr) (p : List W32)
  /-- MEM_PPR (R238). -/
  | memPpr (h : CpHdr) (p : List W32)
  /-- MEM_TEST (R239). -/
  | memTest (h : CpHdr) (p : List W32) (found : List TestResult)
  /-- MEM_RETRAIN (R240). -/
  | memRetrain (h : CpHdr) (p : List W32) (lanes : List LaneTest)
  /-- FATE_SET (R334). -/
  | fateSet (h : CpHdr) (p : List W32)
  /-- SEC_PAIR (R337). -/
  | secPair (h : CpHdr) (p : List W32)
  /-- SEC_REBUILD (R345). -/
  | secRebuild (h : CpHdr) (p : List W32)
  /-- DEV_DOWN (R344). -/
  | devDown (h : CpHdr) (p : List W32)
  /-- DEV_UP (R337). -/
  | devUp (h : CpHdr) (p : List W32)
  /-- LICHEN_READ (R352). -/
  | lichenRead (h : CpHdr) (p : List W32)
  /-- LICHEN_EDIT (R352). -/
  | lichenEdit (h : CpHdr) (p : List W32)
  /-- POWER_STATE (R390). -/
  | powerState (h : CpHdr) (p : List W32)
  /-- CLOCK_STEP (R398). -/
  | clockStep (h : CpHdr) (p : List W32)
  /-- CLOCK_STEP_AT (R203). -/
  | clockStepAt (half : BitVec 1)
  /-- ATTEST (R410). -/
  | attest (h : CpHdr) (p : List W32) (measured : Hash)
  /-- DEBUG_OPEN (R406). -/
  | debugOpen (h : CpHdr) (p : List W32) (cert : Cert)
  /-- DEBUG_CLOSE (R407). -/
  | debugClose (h : CpHdr) (p : List W32)
  /-- DEBUG_EXPIRY (R407). -/
  | debugExpiry
  /-- PROVISION (R402). -/
  | provision (h : CpHdr) (p : List W32) (cert : Cert)
  /-- RETIRE (R403). -/
  | retire (h : CpHdr) (p : List W32)
  /-- FW_UPDATE (R383). -/
  | fwUpdate (h : CpHdr) (p : List W32)
  /-- FW_LOAD (R384). -/
  | fwLoad (h : CpHdr) (p : List W32)
  /-- SLOT_START (R101). -/
  | slotStart (h : CpHdr) (half : BitVec 1) (mask : BitVec 4)
  /-- SLOT_STOP (R101). -/
  | slotStop (h : CpHdr) (half : BitVec 1) (mask : BitVec 4)
  /-- SLOT_PTR (R155). -/
  | slotPtr (h : CpHdr) (half : BitVec 1) (n : BitVec 2) (hi : Bool) (v : W32)
  /-- PIPE_POLICY (R106). -/
  | pipePolicy (h : CpHdr) (half : BitVec 1) (v : W32)
  /-- QCFG (R94). -/
  | qcfg (h : CpHdr) (half : BitVec 1) (n : BitVec 4) (v : W32)
  /-- QBIND (R96). -/
  | qbind (h : CpHdr) (half : BitVec 1) (n : BitVec 2) (v : W32)
  /-- CORE_SEEN (R113). -/
  | coreSeen (h : CpHdr) (half : BitVec 1) (v : W32)
  /-- FENCE_CMD (R195). -/
  | fenceCmd (h : CpHdr) (half : BitVec 1) (cl : BitVec 5) (v : W32)
  /-- QUIESCE_REQ (R198). -/
  | quiesceReq (h : CpHdr) (half : BitVec 1) (v : W32)
  /-- CSM_CFG (R253). -/
  | csmCfg (h : CpHdr) (half : BitVec 1) (cl : BitVec 5) (v : W32)
  /-- CSU_CANCEL (R250). -/
  | csuCancel (h : CpHdr) (half : BitVec 1) (cl : BitVec 5) (v : W32)
  /-- MSC_FLUSH (R230). -/
  | mscFlush (h : CpHdr) (stack : BitVec 4)
  /-- MEM_MODE (R224). -/
  | memMode (h : CpHdr) (k : BitVec 2) (v : W32)
  /-- XLAT_INVAL (R236). -/
  | xlatInval (h : CpHdr) (v : W32)
  /-- ROUTE_LOAD (R284). -/
  | routeLoad (h : CpHdr)
  /-- LASER_SWITCH (R266). -/
  | laserSwitch (h : CpHdr) (v : W32)
  /-- PORT_ENABLE (R279). -/
  | portEnable (h : CpHdr) (port : BitVec 5) (enable : Bool)
  /-- ADMIT (R275). -/
  | admitPort (h : CpHdr) (port : BitVec 5) (enable : Bool) (epoch : BitVec 16)
  /-- RETRAIN (R277). -/
  | retrain (h : CpHdr) (port : BitVec 5) (enable : Bool)
  /-- MV_ENABLE (R179). -/
  | mvEnable (h : CpHdr) (half : BitVec 1) (k : BitVec 4) (v : W32)
  /-- MV_TAIL (R176). -/
  | mvTail (h : CpHdr) (half : BitVec 1) (k : BitVec 4) (v : W32)
  /-- RL_ENABLE (R293). -/
  | rlEnable (h : CpHdr) (half : BitVec 1) (k : BitVec 4) (v : W32)
  /-- EVENT_RAISE (R295). -/
  | eventRaise (h : CpHdr) (v : W32)
  /-- ARM (R299). -/
  | arm (h : CpHdr) (job : BitVec 6) (waive : BitVec 16)
  /-- REARM (R299). -/
  | rearm (h : CpHdr) (job : BitVec 6) (waive : BitVec 16)
  /-- RELEASE (R299). -/
  | release (h : CpHdr) (job : BitVec 6) (waive : BitVec 16)
  /-- JOB_WAIVE (R316). -/
  | jobWaive (h : CpHdr) (job : BitVec 6) (waive : BitVec 16)
  /-- CG_DROP (R306). -/
  | cgDrop (h : CpHdr) (g : BitVec 3) (expect : BitVec 16)
  /-- COMMIT_ABORT (R328). -/
  | commitAbort (h : CpHdr)
  /-- COMMIT_RESEND (R321). -/
  | commitResend (h : CpHdr)
  /-- COMMIT_WAIVE (R321). -/
  | commitWaive (h : CpHdr) (n : BitVec 16)
  /-- SEC_START (R338). -/
  | secStart (h : CpHdr) (v : W32)
  /-- SEC_ABANDON (R340). -/
  | secAbandon (h : CpHdr) (v : W32)
  /-- ALERT_STATUS (R428). -/
  | alertStatus (h : CpHdr) (v : W32)
  /-- SHAFT_LO_READ (R387). -/
  | shaftLoRead (h : CpHdr)
  /-- MGMT_ACCESS (R409). -/
  | mgmtAccess (data addr : W32) (write go : Bool)
  /-- MEM_ACCESS (R409). -/
  | memAccess (data : W64) (pa : PA) (write go : Bool)
  /-- EXTEST (R408). -/
  | extest (boundary : BitVec 3)
  /-- SAMPLE_PRELOAD (R408). -/
  | samplePreload (boundary : BitVec 3)
  /-- IDCODE (R408). -/
  | idcode
  /-- CLAMP (R408). -/
  | clamp
  /-- HIGHZ (R408). -/
  | highz
  /-- BYPASS (R408). -/
  | bypass
  /-- WAKE (R396). -/
  | wake
  /-- MEMORY_TRAINING (R212). -/
  | memoryTraining (lanes : List LaneTest)
  /-- SELF_TEST (R386). -/
  | selfTest (found : SelfTest)
  /-- LICHEN_REMAP (R20). -/
  | lichenRemap
  /-- INPUT_VOLTAGE (R421). -/
  | inputVoltage (mv : BitVec 16)
  /-- CURRENT_CEILING_EVALUATION (R424). -/
  | currentCeilingEvaluation (mean : BitVec 16)
  /-- OVER_CURRENT_TRIP (R424). -/
  | overCurrentTrip
  /-- THERMAL_EVALUATION (R434). -/
  | thermalEvaluation (half : BitVec 1) (junction : Byte) (dies : List Byte)
  /-- THERMAL_TRIP (R435). -/
  | thermalTrip
  /-- LOSS_OF_SIGNAL (R277). -/
  | lossOfSignal (port : BitVec 5) (lost : BitVec 9)
  /-- REFRESH_HOT (R211). -/
  | refreshHot (stack : BitVec 4) (temp : Byte)
  /-- TAP_RESET (R426). -/
  | tapReset
  deriving DecidableEq, Repr

end Sys2Proof
end

