-- ==== Sys2Proof/Decode.lean ====
section
/-! DEFINITION. The Triat is a block that takes commands: no row of its opcode table gives a command any bits, so that no word spells
one. -/

namespace Sys2Proof

/-- The command that a word of `nbits` bits spells: none. -/
def decodeTableWord (_nbits _w : Nat) : Option Instr := none

end Sys2Proof
end

