-- ==== Sys2Proof/Config.lean ====
section
/-! DEFINITION. What an implementation fixes and the manual leaves open: the free values (log entry 5). None has a body, so
no proof can depend on what they are. Each is applied to the free-value counter of State, or to nothing. -/

namespace Sys2Proof

/-- The n-th free 64-bit value: a result that a rule bounds without fixing it (R91, R141, R146, R149), or does not state. -/
opaque Config.free64 : Nat → W64
/-- Whether the target of a remote notify is fenced at its own Triat (R178, log entry 24). -/
opaque Config.notifyFenced : Nat → Bool
/-- The n-th nonce that a port sends in HELLO (R274). -/
opaque Config.nonce : Nat → BitVec 256
/-- The n-th signature that the identity key makes (R400); its 96 bytes as one number. -/
opaque Config.signature : Nat → BitVec 768
/-- The identity public key, an uncompressed point of 97 bytes (R400). -/
opaque Config.identityKey : BitVec 776
/-- Its SHA-384, ID_KEYHASH (R400, R417). -/
opaque Config.identityHash : BitVec 384
/-- The fused Fjonis manufacturer identity in bits [11:1] of IDCODE (R408); the manual gives no value. -/
opaque Config.manufacturer : BitVec 11

/-- Which of the routes that the rule allows the tables take that avoid the routers listed (R197): half, those routers, the first and the
last router; and which of the rows in which such a route may cross the seam. -/
opaque Config.detour : Nat → List Nat → Nat → Nat → Nat
opaque Config.detourRow : Nat → List Nat → Nat → Nat → Nat

/-- The function number of the unit at whose port a link of KIND 3 is (R194): half, link identifier. -/
opaque Config.portUnit : Nat → W32 → Nat

/-- The notification code of a report that rule `n` asks for and R364 gives no code (log entry 79). -/
opaque Config.reportCode : Nat → BitVec 16

/-- The initial value and the order of bits of the CRC-16 of a lichen record (R350); the manual gives neither. -/
opaque Config.crcInit : BitVec 16
opaque Config.crcReflected : Bool

end Sys2Proof
end

