-- ==== Sys2Proof/Machine/Map.lean ====
section
/-! DEFINITION. Finite maps as plain data: the keys rise strictly and no entry equals the value that an unlisted key reads
as, so that equal maps are equal lists. Every indexed resource of the Triat is held so; the value of an unlisted key is the
resource's reset value. -/

namespace Sys2Proof

/-- A map from numbers to `α` (a register file, the cores of a die, the sectors of a memory). -/
abbrev SMap (α : Type) := List (Nat × α)

/-- The value at key `k`; an unlisted key reads as `d`. -/
def SMap.get {α : Type} (d : α) (m : SMap α) (k : Nat) : α :=
  match m with
  | [] => d
  | (j, v) :: t => if j = k then v else SMap.get d t k

/-- Takes a key out. -/
def SMap.drop {α : Type} (m : SMap α) (k : Nat) : SMap α := m.filter fun e => decide (e.1 ≠ k)

/-- Puts the pair in its place in front of the first higher key. -/
def SMap.insert {α : Type} (m : SMap α) (k : Nat) (v : α) : SMap α :=
  match m with
  | [] => [(k, v)]
  | (j, w) :: t => if k < j then (k, v) :: (j, w) :: t else (j, w) :: SMap.insert t k v

/-- Puts the pair in its place, or takes the key out where `v` is none. -/
def SMap.put {α : Type} (m : SMap α) (k : Nat) (v : Option α) : SMap α :=
  match v with
  | none => SMap.drop m k
  | some v => SMap.insert (SMap.drop m k) k v

/-- Writes `v` at key `k`; writing the value an unlisted key reads as removes the entry. -/
def SMap.set {α : Type} [DecidableEq α] (d : α) (m : SMap α) (k : Nat) (v : α) : SMap α :=
  SMap.put m k (if v = d then none else some v)

/-- Applies `f` to the value at key `k`. -/
def SMap.upd {α : Type} [DecidableEq α] (d : α) (m : SMap α) (k : Nat) (f : α → α) : SMap α :=
  SMap.set d m k (f (SMap.get d m k))

/-- Every key is above `lo` (or there is no bound), and the keys rise. -/
def SMap.rising {α : Type} (lo : Option Nat) (m : SMap α) : Bool :=
  match m with
  | [] => true
  | (j, _) :: t => (match lo with | none => true | some l => decide (l < j)) && SMap.rising (some j) t

/-- The canonical form: the keys rise strictly and no entry holds the value of an unlisted key. -/
def SMap.wf {α : Type} [DecidableEq α] (d : α) (m : SMap α) : Bool :=
  SMap.rising none m && m.all (fun e => decide (e.2 ≠ d))

/-- Removes the entries whose key `p` holds of. -/
def SMap.dropWhere {α : Type} (p : Nat → Bool) (m : SMap α) : SMap α :=
  m.filter (fun e => !p e.1)

end Sys2Proof
end

