-- ==== Sys2Proof/Machine/Float.lean ====
section
/-! DEFINITION. The values and conversions of "Number formats, conversions and marks": exact values as sign, magnitude and
power of two, their encodings (R32, R38), one rounding (R35), the outcomes of R36, and exact arithmetic on them (R33, R34). -/

namespace Sys2Proof

/-- The value of a floating-point datum: NaN, an infinity, or (-1)^neg × m × 2^e exactly (R32). Zero keeps its sign (R33). -/
inductive FVal where
  | nan
  | inf (neg : Bool)
  | fin (neg : Bool) (m : Nat) (e : Int)
  deriving DecidableEq, Repr

/-- The scalar element types of R32 and R38. -/
inductive FpFmt where
  | e4m3 | e5m2 | bf16 | fp32 | fp64 | e2m3 | e2m1
  deriving DecidableEq, Repr

namespace FpFmt
/-- Fraction bits. -/
def man : FpFmt → Nat
  | e4m3 => 3 | e5m2 => 2 | bf16 => 7 | fp32 => 23 | fp64 => 52 | e2m3 => 3 | e2m1 => 1
/-- Exponent bits. -/
def exp : FpFmt → Nat
  | e4m3 => 4 | e5m2 => 5 | bf16 => 8 | fp32 => 8 | fp64 => 11 | e2m3 => 2 | e2m1 => 2
/-- Bias. -/
def bias : FpFmt → Nat
  | e4m3 => 7 | e5m2 => 15 | bf16 => 127 | fp32 => 127 | fp64 => 1023 | e2m3 => 1 | e2m1 => 1
/-- The code of the largest finite magnitude. -/
def maxCode : FpFmt → Nat
  | e4m3 => 0x7E | e5m2 => 0x7B | bf16 => 0x7F7F | fp32 => 0x7F7FFFFF | fp64 => 0x7FEFFFFFFFFFFFFF
  | e2m3 => 0x1F | e2m1 => 0x7
/-- The canonical NaN (R34); the element types without NaN hold 0. -/
def nanCode : FpFmt → Nat
  | e4m3 => 0x7F | e5m2 => 0x7E | bf16 => 0x7FC0 | fp32 => 0x7FC00000 | fp64 => 0x7FF8000000000000
  | e2m3 => 0 | e2m1 => 0
/-- The code of +infinity, where there is one; FP8E4 writes its NaN for an infinity (R36). -/
def infCode : FpFmt → Nat
  | e4m3 => 0x7F | e5m2 => 0x7C | bf16 => 0x7F80 | fp32 => 0x7F800000 | fp64 => 0x7FF0000000000000
  | e2m3 => 0 | e2m1 => 0
/-- Width in bits. -/
def width (f : FpFmt) : Nat := 1 + f.exp + f.man
/-- The exponent of the smallest subnormal. -/
def quantum (f : FpFmt) : Int := 1 - (f.bias : Int) - (f.man : Int)
end FpFmt

/-- x × 2^k for a natural k, dropping bits for a negative one. -/
def shl (x : Nat) (k : Int) : Nat := if 0 ≤ k then x * 2 ^ k.toNat else x / 2 ^ (-k).toNat

/-- Reads a code (R32). -/
def FpFmt.decode (f : FpFmt) (code : Nat) : FVal :=
  let neg := (code >>> (f.exp + f.man)) % 2 = 1
  let ef := (code >>> f.man) % 2 ^ f.exp
  let fr := code % 2 ^ f.man
  let top := 2 ^ f.exp - 1
  let special : Bool := match f with
    | .e4m3 => decide (ef = top ∧ fr = 7)
    | .e2m3 | .e2m1 => false
    | _ => decide (ef = top)
  if special then
    if fr = 0 then .inf neg else .nan
  else if ef = 0 then .fin neg fr f.quantum
  else .fin neg (2 ^ f.man + fr) (f.quantum + (ef : Int) - 1)

/-- ⌊log2 (num ÷ den)⌋ for positive num and den. -/
def flog2 (num den : Nat) : Int :=
  let g : Int := (num.log2 : Int) - (den.log2 : Int)
  -- g - 1 ≤ ⌊log2⌋ ≤ g
  if shl den g ≤ num ∧ (0 ≤ g ∨ den ≤ num * 2 ^ (-g).toNat) then g else g - 1

/-- num ÷ den × 2^k rounded to an integer: to nearest, ties to even, or toward zero (R35). -/
def roundInt (rtz : Bool) (num den : Nat) (k : Int) : Nat :=
  let n := if 0 ≤ k then num * 2 ^ k.toNat else num
  let d := if 0 ≤ k then den else den * 2 ^ (-k).toNat
  let q := n / d
  let r := n % d
  if rtz then q
  else if 2 * r < d then q
  else if 2 * r > d then q + 1
  else if q % 2 = 0 then q else q + 1

/-- A conversion's result: the code, and whether the element was clamped (R36, R37). -/
structure Enc where
  code : Nat
  sat : Bool := false
  deriving DecidableEq, Repr

/-- The magnitude code of num ÷ den × 2^e, not yet clamped: above `maxCode` it does not fit. -/
def FpFmt.magCode (f : FpFmt) (rtz : Bool) (num den : Nat) (e : Int) : Nat :=
  if num = 0 then 0
  else
    let l := flog2 num den + e
    let q := max (l - (f.man : Int)) f.quantum
    let n := roundInt rtz num den (e - q)
    if n < 2 ^ f.man then n
    else (q - f.quantum + 1).toNat * 2 ^ f.man + (n - 2 ^ f.man)

/-- The sign bit of the format. -/
def FpFmt.signBit (f : FpFmt) (neg : Bool) : Nat := if neg then 2 ^ (f.exp + f.man) else 0

/-- Encodes the exact value (-1)^neg × num ÷ den × 2^e, rounded once, with the outcomes of R36. -/
def FpFmt.encodeRat (f : FpFmt) (rtz neg : Bool) (num den : Nat) (e : Int) : Enc :=
  let c := f.magCode rtz num den e
  if f.maxCode < c then { code := f.signBit neg + f.maxCode, sat := true }
  else { code := f.signBit neg + c }

/-- Encodes a value (R36). -/
def FpFmt.encode (f : FpFmt) (rtz : Bool) (v : FVal) : Enc :=
  match v with
  | .nan => { code := f.nanCode }
  | .inf neg => if f = .e4m3 then { code := f.nanCode } else { code := f.signBit neg + f.infCode }
  | .fin neg m e => f.encodeRat rtz neg m 1 e

namespace FVal

/-- +0. -/
def zero : FVal := .fin false 0 0
/-- A natural number as a value. -/
def ofNat (n : Nat) : FVal := .fin false n 0
/-- An integer as a value. -/
def ofInt (i : Int) : FVal := .fin (decide (i < 0)) i.natAbs 0

def isNan : FVal → Bool
  | nan => true
  | _ => false

def isFin : FVal → Bool
  | fin _ _ _ => true
  | _ => false

def isNeg : FVal → Bool
  | nan => false
  | inf n => n
  | fin n _ _ => n

def isZero : FVal → Bool
  | fin _ m _ => decide (m = 0)
  | _ => false

def neg : FVal → FVal
  | nan => nan
  | inf n => inf (!n)
  | fin n m e => fin (!n) m e

def abs : FVal → FVal
  | nan => nan
  | inf _ => inf false
  | fin _ m e => fin false m e

/-- The signed mantissa at exponent `e0`, which is at most the value's own. -/
def mantAt (v : FVal) (e0 : Int) : Int :=
  match v with
  | fin n m e => (if n then -1 else 1) * (m : Int) * (2 ^ (e - e0).toNat : Nat)
  | _ => 0

/-- The value's exponent. -/
def ex : FVal → Int
  | fin _ _ e => e
  | _ => 0

/-- The exact sum (IEEE 754-2019 signs of zero under round to nearest even, R33). -/
def add (a b : FVal) : FVal :=
  match a, b with
  | nan, _ => nan
  | _, nan => nan
  | inf n, inf n' => if n = n' then inf n else nan
  | inf n, _ => inf n
  | _, inf n => inf n
  | fin n m e, fin n' m' e' =>
    let e0 := min e e'
    let s := (fin n m e).mantAt e0 + (fin n' m' e').mantAt e0
    if s = 0 then fin (n && n') 0 e0 else fin (decide (s < 0)) s.natAbs e0

/-- The exact difference. -/
def sub (a b : FVal) : FVal := add a b.neg

/-- The exact product. -/
def mul (a b : FVal) : FVal :=
  match a, b with
  | nan, _ => nan
  | _, nan => nan
  | inf n, inf n' => inf (n != n')
  | inf n, fin n' m _ => if m = 0 then nan else inf (n != n')
  | fin n m _, inf n' => if m = 0 then nan else inf (n != n')
  | fin n m e, fin n' m' e' => fin (n != n') (m * m') (e + e')

/-- Multiplies by 2^k exactly. -/
def scale (v : FVal) (k : Int) : FVal :=
  match v with
  | fin n m e => fin n m (e + k)
  | v => v

/-- a < b for two numbers; false when either is NaN. -/
def lt (a b : FVal) : Bool :=
  match a, b with
  | nan, _ => false
  | _, nan => false
  | inf true, inf true => false
  | inf true, _ => true
  | _, inf true => false
  | inf false, _ => false
  | _, inf false => true
  | fin n m e, fin n' m' e' =>
    let e0 := min e e'
    decide ((fin n m e).mantAt e0 < (fin n' m' e').mantAt e0)

/-- The larger of two; canonical NaN if either is NaN (R84, R141); of two zeros of unlike sign, +0. -/
def max (a b : FVal) : FVal :=
  if a.isNan || b.isNan then nan
  else if a.isZero && b.isZero then (if a.isNeg then b else a)
  else if lt a b then b else a
/-- The smaller of two; canonical NaN if either is NaN; of two zeros of unlike sign, -0. -/
def min (a b : FVal) : FVal :=
  if a.isNan || b.isNan then nan
  else if a.isZero && b.isZero then (if a.isNeg then a else b)
  else if lt b a then b else a

end FVal

/-- The value rounded once to `f`, as a value: a finite value stays finite (R35, R36). -/
def FpFmt.round (f : FpFmt) (rtz : Bool) (v : FVal) : FVal := f.decode (f.encode rtz v).code

/-- IEEE rounding to nearest even: a magnitude that rounds beyond the largest finite becomes an infinity. The two-sum of R69
tests for it (R71). -/
def FpFmt.roundIeee (f : FpFmt) (v : FVal) : FVal :=
  match v with
  | .fin n m e => if f.maxCode < f.magCode false m 1 e then .inf n else f.decode (f.encode false v).code
  | v => v

/-- The two-sum of R69 on a pair (hi, lo) and an addend p, every operation rounded to nearest even in `f`: the new hi and
lo. -/
def FpFmt.twoSum (f : FpFmt) (hi lo p : FVal) : FVal × FVal :=
  let s := f.roundIeee (hi.add p)
  let bp := f.roundIeee (s.sub hi)
  let e := f.roundIeee ((f.roundIeee (hi.sub (f.roundIeee (s.sub bp)))).add (f.roundIeee (p.sub bp)))
  (s, f.roundIeee (lo.add e))

/-- The quotient a ÷ b rounded once to `f` (IEEE 754-2019 results for zero, infinite and NaN operands). -/
def FpFmt.divRound (f : FpFmt) (rtz : Bool) (a b : FVal) : Enc :=
  match a, b with
  | .nan, _ => f.encode rtz .nan
  | _, .nan => f.encode rtz .nan
  | .inf _, .inf _ => f.encode rtz .nan
  | .inf n, .fin n' _ _ => f.encode rtz (.inf (n != n'))
  | .fin n _ _, .inf n' => f.encode rtz (.fin (n != n') 0 0)
  | .fin n m e, .fin n' m' e' =>
    if m' = 0 then
      if m = 0 then f.encode rtz .nan else f.encode rtz (.inf (n != n'))
    else f.encodeRat rtz (n != n') m m' (e - e')

/-- ⌊√x⌋, one bit a step from bit `k` down. -/
def isqrtFrom (x : Nat) : Nat → Nat → Nat
  | 0, acc => acc
  | k + 1, acc =>
    let c := acc + 2 ^ k
    isqrtFrom x k (if c * c ≤ x then c else acc)

/-- ⌊√x⌋. -/
def isqrt (x : Nat) : Nat := isqrtFrom x (x.log2 / 2 + 1) 0

/-! ### Reference values of the functions a rule bounds in units in the last place

Fixed-point evaluation with 160 fraction bits. The manual fixes no algorithm: these serve only as the exact value that the
bounds of R91, R141, R146 and R149 are measured against (log entry 6). -/

/-- Fraction bits of the reference evaluation. -/
def refBits : Nat := 160

/-- ⌊v × 2^160⌋ toward zero. -/
def FVal.toFix (v : FVal) : Int :=
  match v with
  | .fin n m e => (if n then -1 else 1) * (shl m (e + refBits) : Int)
  | _ => 0

/-- A fixed-point number as a value. -/
def ofFix (x : Int) : FVal := .fin (decide (x < 0)) x.natAbs (-(refBits : Int))

def fixMul (a b : Int) : Int := (a * b) / (2 ^ refBits : Nat)

/-- z + z³/3 + z⁵/5 + …: artanh z for |z| ≤ 1/3. -/
def artanhFix (z z2 : Int) : Nat → Int → Nat → Int
  | 0, _, _ => 0
  | k + 1, pow, d => pow / (d : Int) + artanhFix z z2 k (fixMul pow z2) (d + 2)

/-- ln of a positive num ÷ den near 1. -/
def lnNear (num den : Nat) : Int :=
  let z : Int := (((num : Int) - (den : Int)) * (2 ^ refBits : Nat)) / ((num : Int) + (den : Int))
  2 * artanhFix z (fixMul z z) 52 z 1

/-- ln 2 = 2 artanh (1/3). -/
def ln2Fix : Int := lnNear 2 1

/-- ln (m × 2^e), m > 0. -/
def lnFix (m : Nat) (e : Int) : Int :=
  let l := m.log2
  lnNear m (2 ^ l) + ((l : Int) + e) * ln2Fix

/-- Σ r^k / k!. -/
def expSeries (r : Int) : Nat → Int → Nat → Int
  | 0, _, _ => 0
  | n + 1, t, k => t + expSeries r n (fixMul t r / (k : Int)) (k + 1)

/-- e^x for a fixed-point x, as a value: 2^k × e^r with 0 ≤ r < ln 2. -/
def expFix (x : Int) : FVal :=
  let k := x / ln2Fix
  let r := x - k * ln2Fix
  (ofFix (expSeries r 45 (2 ^ refBits : Nat) 1)).scale k

/-- π by Machin's formula, 16 artan(1/5) - 4 artan(1/239). -/
def artanInv (d : Nat) : Nat → Int → Nat → Int
  | 0, _, _ => 0
  | n + 1, t, k => t / (k : Int) - artanInv d n (t / ((d * d : Nat) : Int)) (k + 2)

def piFix : Int :=
  16 * artanInv 5 80 ((2 ^ refBits : Nat) / 5) 1 - 4 * artanInv 239 30 ((2 ^ refBits : Nat) / 239) 1

/-- t - t·r²/((k)(k+1)) + …: the alternating series of sine and cosine. -/
def trigSeries (r2 : Int) : Nat → Int → Nat → Int
  | 0, _, _ => 0
  | n + 1, t, k => t - trigSeries r2 n (fixMul t r2 / ((k * (k + 1) : Nat) : Int)) (k + 2)

/-- π with 400 fraction bits. -/
def piLong : Int :=
  16 * artanInv 5 180 ((2 ^ 400 : Nat) / 5) 1 - 4 * artanInv 239 60 ((2 ^ 400 : Nat) / 239) 1

/-- A value modulo 2π, with 160 fraction bits; the division is made with 400. -/
def FVal.reduced (v : FVal) : Int :=
  match v with
  | .fin n m e => ((if n then -1 else 1) * (shl m (e + 400) : Int)) % (2 * piLong) / (2 ^ 240 : Nat)
  | _ => 0

/-- Sine of a fixed-point angle. -/
def sinFix (x : Int) : Int :=
  let r := x % (2 * piFix)
  trigSeries (fixMul r r) 40 r 2

/-- Cosine of a fixed-point angle. -/
def cosFix (x : Int) : Int :=
  let r := x % (2 * piFix)
  trigSeries (fixMul r r) 40 (2 ^ refBits : Nat) 1

/-- Whether the finite code `c` of `f` lies within `n` units in the last place of FP32 of the reference value, or, where the
bound is 4 units, within 2^-120 of a reference smaller than 2^-100 (R141). `f` is FP32, or FP64 where R438 has the operation computed in
FP64: the unit goes on below the FP32 range there. -/
def FpFmt.within (f : FpFmt) (n : Nat) (c : Nat) (ref : FVal) : Bool :=
  match f.decode c, ref with
  | .fin s m e, .fin s' m' e' =>
    let q := if m' = 0 then f.quantum else Max.max (flog2 m' 1 + e' - (FpFmt.fp32.man : Int)) f.quantum
    let d := (FVal.fin s m e).sub (.fin s' m' e')
    let lim : FVal := .fin false n q
    !(lim.lt d.abs) ||
      (decide (n = 4) && (FVal.fin false m' e').lt (.fin false 1 (-100)) && !((FVal.fin false 1 (-120)).lt d.abs))
  | _, _ => false

/-- A result that a rule gives within `n` units in the last place of `ref`: the free value, where it lies within the bound,
else the reference rounded to nearest (log entry 6). A reference beyond the largest finite value is clamped (R36). -/
def FpFmt.bounded (f : FpFmt) (n : Nat) (free : W64) (ref : FVal) : Enc :=
  let c := free.toNat % 2 ^ f.width
  let r := f.encode false ref
  if r.sat then r else if f.within n c ref then { code := c } else r

/-! ### Correctly rounded quotients and roots -/

/-- √v with every result bit that a rounding to `f` needs (the last bit is sticky), for a finite positive v. -/
def FVal.sqrtRef (v : FVal) : FVal :=
  match v with
  | .fin _ m e =>
    let j : Nat := if e % 2 = 0 then 0 else 1
    let x := m * 2 ^ (j + 2 * 200)
    let q := isqrt x
    .fin false (2 * q + (if q * q = x then 0 else 1)) ((e - (j : Int)) / 2 - 201)
  | v => v

/-- 1/v to 220 bits, for a finite non-zero v. -/
def FVal.rcpRef (v : FVal) : FVal :=
  match v with
  | .fin n m e => .fin n (2 ^ (m.log2 + 220) / m) (-((m.log2 : Int) + 220) - e)
  | v => v

/-- The square root rounded to `f` (IEEE 754-2019 results). -/
def FpFmt.sqrt (f : FpFmt) (v : FVal) : FVal :=
  match v with
  | .nan => .nan
  | .inf n => if n then .nan else .inf false
  | .fin n m e => if m = 0 then .fin n 0 e else if n then .nan else f.round false v.sqrtRef

/-- a ÷ b with every result bit that one rounding needs (the last bit is sticky); IEEE 754-2019 results for zero, infinite and NaN
operands. -/
def FVal.quot (a b : FVal) : FVal :=
  match a, b with
  | .nan, _ => .nan
  | _, .nan => .nan
  | .inf _, .inf _ => .nan
  | .inf n, .fin n' _ _ => .inf (n != n')
  | .fin n _ _, .inf n' => .fin (n != n') 0 0
  | .fin n m e, .fin n' m' e' =>
    if m' = 0 then (if m = 0 then .nan else .inf (n != n'))
    else
      let k := m'.log2 + 200
      let x := m * 2 ^ k
      .fin (n != n') (2 * (x / m') + (if x % m' = 0 then 0 else 1)) (e - e' - (k : Int) - 1)

/-- The quotient rounded to `f`, as a value. -/
def FpFmt.div (f : FpFmt) (a b : FVal) : FVal := f.decode (f.divRound false a b).code

end Sys2Proof
end

