-- ==== Sys2Proof/Machine/Formats.lean ====
section
/-! DEFINITION. Data with poison marks and the layouts of "Number formats, conversions and marks": words and bytes (R50,
R52), block-scaled rows (R38 to R42), per-row scales (R43), BX16 blocks (R45 to R48), integers (R49), and the rows of a
queue (R140) and of memory (R41). -/

namespace Sys2Proof

/-- A 32-bit word with its poison bit (R50). -/
structure QW where
  v : W32 := 0
  p : Bool := false
  deriving DecidableEq, Repr

/-- A byte of a marked word. -/
structure MB where
  b : Byte := 0
  p : Bool := false
  deriving DecidableEq, Repr

/-- An element's exact value and whether it is poisoned. -/
structure MV where
  v : FVal := .zero
  p : Bool := false
  deriving DecidableEq, Repr

/-- What a conversion of several elements did beside its bytes: elements clamped (R37), a poisoned result or input of a
computation, and a NaN or infinite result (R113). -/
structure Eff where
  sat : Nat := 0
  ps : Bool := false
  nf : Bool := false
  deriving DecidableEq, Repr

def Eff.add (a b : Eff) : Eff := { sat := a.sat + b.sat, ps := a.ps || b.ps, nf := a.nf || b.nf }

/-- The four bytes of a word, lowest first (R7); each carries the word's mark. -/
def QW.bytes (w : QW) : List MB :=
  [⟨w.v.extractLsb' 0 8, w.p⟩, ⟨w.v.extractLsb' 8 8, w.p⟩, ⟨w.v.extractLsb' 16 8, w.p⟩, ⟨w.v.extractLsb' 24 8, w.p⟩]

def bytesOf (ws : List QW) : List MB := ws.flatMap QW.bytes

/-- Packs bytes into words; a word is poisoned if any of its bytes is (R52). A last part word is filled with zero bytes. -/
def wordsOf : List MB → List QW
  | [] => []
  | [a] => [⟨a.b.setWidth 32, a.p⟩]
  | [a, b] => [⟨(b.b ++ a.b).setWidth 32, a.p || b.p⟩]
  | [a, b, c] => [⟨(c.b ++ b.b ++ a.b).setWidth 32, a.p || b.p || c.p⟩]
  | a :: b :: c :: d :: t => ⟨d.b ++ c.b ++ b.b ++ a.b, a.p || b.p || c.p || d.p⟩ :: wordsOf t

/-- `n` bytes of the number `x`, lowest first, all with mark `p`. -/
def leBytes (n x : Nat) (p : Bool := false) : List MB :=
  match n with
  | 0 => []
  | k + 1 => ⟨BitVec.ofNat 8 (x % 256), p⟩ :: leBytes k (x / 256) p

/-- The number that bytes spell, lowest first. -/
def leNat : List MB → Nat
  | [] => 0
  | b :: t => b.b.toNat + 256 * leNat t

def anyPoison (bs : List MB) : Bool := bs.any (·.p)

def zeroBytes (n : Nat) : List MB := List.replicate n {}

/-- Cuts a list into pieces of `n` (the last may be shorter); `fuel` bounds the number of pieces. -/
def chunks {α : Type} (n : Nat) : Nat → List α → List (List α)
  | 0, _ => []
  | f + 1, l => if l.isEmpty then [] else l.take n :: chunks n f (l.drop n)

/-- `l` cut into pieces of `n` elements. -/
def chunk {α : Type} (n : Nat) (l : List α) : List (List α) := chunks n l.length l

/-- Rounds up to a multiple of `m`. -/
def roundUp (m n : Nat) : Nat := (n + m - 1) / m * m

/-- Appends zero bytes up to a multiple of `m`. -/
def padTo (m : Nat) (l : List MB) : List MB := l ++ zeroBytes (roundUp m l.length - l.length)

/-- The formats of R122. -/
inductive Fmt where
  | fp8e4 | fp8e5 | bf16 | fp32 | fp64 | bs8 | bs6 | bs4 | bx16 | int8 | int16 | int32 | int64 | fp8e4r | fp8e5r | trec
  deriving DecidableEq, Repr

/-- R122. -/
def Fmt.ofCode (n : BitVec 4) : Fmt :=
  match n.toNat with
  | 0 => .fp8e4 | 1 => .fp8e5 | 2 => .bf16 | 3 => .fp32 | 4 => .fp64 | 5 => .bs8 | 6 => .bs6 | 7 => .bs4
  | 8 => .bx16 | 9 => .int8 | 10 => .int16 | 11 => .int32 | 12 => .int64 | 13 => .fp8e4r | 14 => .fp8e5r | _ => .trec

namespace Fmt

def isBs : Fmt → Bool
  | bs8 | bs6 | bs4 => true
  | _ => false

def isInt : Fmt → Bool
  | int8 | int16 | int32 | int64 => true
  | _ => false

def isRowScaled : Fmt → Bool
  | fp8e4r | fp8e5r => true
  | _ => false

/-- The scalar floating-point encoding of an element. -/
def elem : Fmt → FpFmt
  | fp8e4 | fp8e4r | bs8 => .e4m3
  | fp8e5 | fp8e5r => .e5m2
  | bf16 => .bf16
  | fp64 => .fp64
  | bs6 => .e2m3
  | bs4 => .e2m1
  | _ => .fp32

/-- Bytes of a scalar or integer element. -/
def bytes : Fmt → Nat
  | fp8e4 | fp8e5 | int8 | fp8e4r | fp8e5r => 1
  | bf16 | int16 => 2
  | fp64 | int64 => 8
  | _ => 4

/-- Element bytes of one 32-element block (R41, R42). -/
def blockBytes : Fmt → Nat
  | bs6 => 24
  | bs4 => 16
  | _ => 32

/-- Bits of an integer format. -/
def intBits (f : Fmt) : Nat := 8 * f.bytes

/-- Millrace formats of R124. -/
def isMillrace : Fmt → Bool
  | fp8e4 | fp8e5 | bf16 | bs8 | bs6 | bs4 | int8 | fp8e4r | fp8e5r => true
  | _ => false

/-- Bytes of a row of `n` elements in a queue (R140): padded to a granule. -/
def rowBytes (f : Fmt) (n : Nat) : Nat :=
  match f with
  | fp8e4r | fp8e5r => roundUp 8 (1 + n)
  | bx16 => n / 32 * 72
  | bs8 | bs6 | bs4 =>
    let b := (n + 31) / 32
    (b / 32) * roundUp 8 (32 * (f.blockBytes + 1)) + roundUp 8 (b % 32 * (f.blockBytes + 1))
  | _ => roundUp 8 (n * f.bytes)

end Fmt

/-! ### Scalar elements -/

/-- 2^(s - 127), the value of a scale byte; 0xFF is NaN (R38). -/
def scaleVal (s : Nat) : FVal := if s = 255 then .nan else .fin false 1 ((s : Int) - 127)

/-- The signed integer that `bits` bits spell. -/
def sInt (bits x : Nat) : Int :=
  let y := x % 2 ^ bits
  if 2 * y < 2 ^ bits then (y : Int) else (y : Int) - (2 ^ bits : Nat)

/-- Two's complement code of `i` in `bits` bits. -/
def ofSInt (bits : Nat) (i : Int) : Nat := (i % (2 ^ bits : Nat)).toNat

/-- The value of one scalar or integer element. -/
def Fmt.decodeElem (f : Fmt) (code : Nat) : FVal :=
  if f.isInt then .ofInt (sInt f.intBits code) else f.elem.decode code

/-- The value bits of a poisoned computed result (R52). -/
def Fmt.poisonCode (f : Fmt) : Nat := if f.isInt then 2 ^ (f.intBits - 1) else f.elem.nanCode

/-- An encoded element. -/
structure ElemEnc where
  code : Nat
  eff : Eff := {}
  deriving DecidableEq, Repr

/-- A finite value rounded to an integer (R35). -/
def FVal.toInt (rtz : Bool) (v : FVal) : Int :=
  match v with
  | .fin n m e => (if n then -1 else 1) * (roundInt rtz m 1 e : Int)
  | _ => 0

/-- The largest and least values of an integer format. -/
def Fmt.intMax (f : Fmt) : Int := ((2 ^ (f.intBits - 1) : Nat) : Int) - 1
def Fmt.intMin (f : Fmt) : Int := -((2 ^ (f.intBits - 1) : Nat) : Int)

/-- An integer into an integer format, saturating (R49). -/
def Fmt.encodeInt (f : Fmt) (i : Int) : ElemEnc :=
  if f.intMax < i then { code := ofSInt f.intBits f.intMax, eff := { sat := 1 } }
  else if i < f.intMin then { code := ofSInt f.intBits f.intMin, eff := { sat := 1 } }
  else { code := ofSInt f.intBits i }

/-- A value into an integer format (R49). -/
def Fmt.encodeToInt (f : Fmt) (rtz : Bool) (v : FVal) : ElemEnc :=
  match v with
  | .nan => { code := 0, eff := { sat := 1, nf := true } }
  | .inf true => { code := ofSInt f.intBits f.intMin, eff := { sat := 1, nf := true } }
  | .inf false => { code := ofSInt f.intBits f.intMax, eff := { sat := 1, nf := true } }
  | v => f.encodeInt (v.toInt rtz)

/-- A marked value into a scalar or integer format (R36, R49, R52): poison takes precedence over non-finiteness. -/
def Fmt.encodeElem (f : Fmt) (rtz : Bool) (x : MV) : ElemEnc :=
  if x.p then { code := f.poisonCode, eff := { ps := true } }
  else if f.isInt then f.encodeToInt rtz x.v
  else
    let c := f.elem.encode rtz x.v
    { code := c.code, eff := { sat := if c.sat then 1 else 0, nf := !x.v.isFin } }

/-! ### Scales (R39, R43) -/

/-- The smallest k with a ≤ x × 2^k, for positive a = ma × 2^ea and x = mx × 2^ex. -/
def scaleExp (ma : Nat) (ea : Int) (mx : Nat) (ex : Int) : Int :=
  let l := flog2 ma mx
  let exact := if 0 ≤ l then decide (ma = mx * 2 ^ l.toNat) else decide (ma * 2 ^ (-l).toNat = mx)
  (if exact then l else l + 1) + ea - ex

/-- The largest magnitude of a list. -/
def amaxOf (vs : List FVal) : FVal := vs.foldl (fun a v => FVal.max a v.abs) .zero

/-- The scale byte for the values `vs` in elements of `f` (R39). -/
def FpFmt.chooseScale (f : FpFmt) (vs : List FVal) : Nat :=
  match amaxOf vs, f.decode f.maxCode with
  | .fin _ ma ea, .fin _ mx ex =>
    if ma = 0 then 0 else ((scaleExp ma ea mx ex + 127).toNat) ⊓ 254
  | _, _ => 255

/-- One element against a scale byte: the value divided by 2^(s - 127), rounded into the element type. -/
def FpFmt.encodeScaled (f : FpFmt) (rtz : Bool) (s : Nat) (v : FVal) : Enc := f.encode rtz (v.scale (127 - (s : Int)))

/-! ### Block-scaled rows (R38 to R42) -/

/-- Packs the element codes of a block, or of one step of a panel (R42). -/
def packBits (f : Fmt) : List (Nat × Bool) → List MB
  | [] => []
  | (a, pa) :: t =>
    match f, t with
    | .bs6, (b, pb) :: (c, pc) :: (d, pd) :: t' =>
      let x := a + 64 * b + 4096 * c + 262144 * d
      leBytes 1 x (pa || pb) ++ leBytes 1 (x / 256) (pb || pc) ++ leBytes 1 (x / 65536) (pc || pd) ++ packBits f t'
    | .bs4, (b, pb) :: t' => leBytes 1 (a + 16 * b) (pa || pb) ++ packBits f t'
    | _, t => leBytes 1 a pa ++ packBits f t

/-- Element `i` of packed bytes, and whether a byte that holds it is marked. -/
def unpackAt (f : Fmt) (bs : List MB) (i : Nat) : Nat × Bool :=
  match f with
  | .bs6 =>
    let g := (bs.drop (i / 4 * 3)).take 3
    let k := i % 4
    let used := (g.drop (6 * k / 8)).take ((6 * k + 5) / 8 - 6 * k / 8 + 1)
    (leNat g / 2 ^ (6 * k) % 64, anyPoison used)
  | .bs4 =>
    let b := (bs.drop (i / 2)).headD {}
    (b.b.toNat / 16 ^ (i % 2) % 16, b.p)
  | _ => let b := (bs.drop i).headD {}
    (b.b.toNat, b.p)

/-- An encoded block: its element bytes, its scale byte, and what the encoding did. -/
structure BlockEnc where
  body : List MB
  scale : MB
  eff : Eff
  deriving DecidableEq, Repr

/-- Codes and effects of a list of elements against scale `s`. -/
def encodeCodes (f : FpFmt) (rtz : Bool) (s : Nat) (vs : List FVal) : List Nat × Nat :=
  let es := vs.map (f.encodeScaled rtz s)
  (es.map (·.code), (es.filter (·.sat)).length)

/-- Encodes one block of 32 (R39, R40). A block with a poisoned source element is poisoned as a whole (R52) and holds the
NaN form of R40; a NaN or infinity among its other sources sets the non-finite-seen source all the same (log entry 7). -/
def Fmt.encodeBlock (f : Fmt) (rtz : Bool) (xs : List MV) : BlockEnc :=
  let zeros := fun p => packBits f (List.replicate 32 (0, p))
  if xs.any (·.p) then
    { body := zeros true, scale := ⟨255, true⟩,
      eff := { ps := true, nf := xs.any (fun x => !x.p && !x.v.isFin) } }
  else if xs.any (fun x => !x.v.isFin) then { body := zeros false, scale := ⟨255, false⟩, eff := { nf := true } }
  else
    let vs := xs.map (·.v)
    let s := f.elem.chooseScale vs
    let c := encodeCodes f.elem rtz s vs
    { body := packBits f (c.1.map (·, false)), scale := ⟨BitVec.ofNat 8 s, false⟩, eff := { sat := c.2 } }

/-- Decodes one block of 32 elements (R38, R40, R52). -/
def Fmt.decodeBlock (f : Fmt) (body : List MB) (scale : MB) : List MV :=
  (List.range 32).map fun i =>
    let c := unpackAt f body i
    { v := (f.elem.decode c.1).mul (scaleVal scale.b.toNat), p := c.2 || scale.p }

/-- Blocks of a segment laid out: elements, then scales, then padding (R41). -/
def layoutSegment (bs : List BlockEnc) : List MB := padTo 8 (bs.flatMap (·.body) ++ bs.map (·.scale))

/-- The blocks of a segment of `b` blocks. -/
def Fmt.decodeSegment (f : Fmt) (b : Nat) (bs : List MB) : List MV :=
  (List.range b).flatMap fun k =>
    f.decodeBlock ((bs.drop (k * f.blockBytes)).take f.blockBytes) ((bs.drop (b * f.blockBytes + k)).headD {})

/-- Decodes a row of `b` blocks; `fuel` bounds its segments. -/
def Fmt.decodeSegments (f : Fmt) : Nat → Nat → List MB → List MV
  | 0, _, _ => []
  | fuel + 1, b, bs =>
    if b = 0 then []
    else
      let n := b ⊓ 32
      let size := roundUp 8 (n * (f.blockBytes + 1))
      f.decodeSegment n (bs.take size) ++ f.decodeSegments fuel (b - n) (bs.drop size)

/-! ### BX16 (R45 to R48) -/

/-- A BX16 block. -/
structure Bx where
  mant : List Int := List.replicate 32 0
  exp : Nat := 0
  nonfin : Bool := false
  poison : Bool := false
  rescaled : Bool := false
  deriving DecidableEq, Repr

/-- Reads a 72-byte block; a marked word of its 66 content bytes poisons it (R46). -/
def Bx.decode (bs : List MB) : Bx :=
  let fl := ((bs.drop 65).headD {}).b.toNat
  { mant := (List.range 32).map fun i => sInt 16 (leNat ((bs.drop (2 * i)).take 2)),
    exp := ((bs.drop 64).headD {}).b.toNat,
    nonfin := fl % 2 = 1, poison := fl / 2 % 2 = 1 || anyPoison (bs.take 66), rescaled := fl / 4 % 2 = 1 }

/-- Writes a block; its storage words carry no marks. A poisoned block holds zero mantissas and EXP 0 (R46). -/
def Bx.encode (x : Bx) : List MB :=
  let zero := x.poison || x.nonfin
  let flags := (if x.nonfin then 1 else 0) + (if x.poison then 2 else 0) + (if x.rescaled then 4 else 0)
  (x.mant.flatMap fun m => leBytes 2 (ofSInt 16 (if zero then 0 else m))) ++
    leBytes 1 (if zero then 0 else x.exp) ++ leBytes 1 flags ++ zeroBytes 6

/-- The value of element mantissa `m` (R46, R48). -/
def Bx.value (x : Bx) (m : Int) : MV :=
  if x.poison then { v := .nan, p := true }
  else if x.nonfin then { v := .nan }
  else { v := .fin (decide (m < 0)) m.natAbs ((x.exp : Int) - 142) }

/-- A value's mantissa at EXP `k` (R47). -/
def bxMant (rtz : Bool) (k : Nat) (v : FVal) : Int := (v.scale (142 - (k : Int))).toInt rtz

def bxFits (rtz : Bool) (k : Nat) (vs : List FVal) : Bool := vs.all fun v => decide ((bxMant rtz k v).natAbs ≤ 32767)

/-- The smallest EXP from `k` upward that fits, if one up to 0xFE does. -/
def bxExp (rtz : Bool) (vs : List FVal) : Nat → Nat → Option Nat
  | 0, _ => none
  | f + 1, k => if 254 < k then none else if bxFits rtz k vs then some k else bxExp rtz vs f (k + 1)

/-- Forms a block from exact values, the exponent from `k0` up; a raise above a fixed or larger exponent sets RESCALED where
`mark` (R47, R302). DESIGN CHOICE (log entry 69): a block that no exponent up to 0xFE fits has EXP 0 and RESCALED 0. -/
def bxForm (rtz mark : Bool) (k0 : Nat) (vs : List FVal) : Bx :=
  match bxExp rtz vs 256 k0 with
  | none => { nonfin := true }
  | some k => { mant := vs.map (bxMant rtz k), exp := k, rescaled := mark && decide (k0 < k) }

/-- Encodes 32 values into a block, with a free exponent or from a fixed one (R47). -/
def Bx.ofValues (rtz : Bool) (fixed : Option Nat) (xs : List MV) : Bx :=
  let nf := xs.any fun x => !x.p && !x.v.isFin
  if xs.any (·.p) then { poison := true, nonfin := nf }
  else if nf then { nonfin := true }
  else bxForm rtz fixed.isSome (fixed.getD 0) (xs.map (·.v))

/-- What a block does to the sources of R113: poison takes precedence (R52). -/
def Bx.eff (x : Bx) : Eff := { ps := x.poison, nf := x.nonfin && !x.poison }

/-- What encoding values into a block did; NONFIN tells of an unpoisoned NaN or infinity among them (log entry 7). -/
def Bx.encEff (x : Bx) : Eff := { ps := x.poison, nf := x.nonfin }

/-- The sum of two blocks, element by element (R152, R302): exact sums at the larger EXP, raised until every sum fits. -/
def Bx.sum (rtz : Bool) (a b : Bx) : Bx :=
  if a.poison || b.poison then
    { nonfin := a.nonfin || b.nonfin, poison := true, rescaled := a.rescaled || b.rescaled }
  else if a.nonfin || b.nonfin then { nonfin := true, rescaled := a.rescaled || b.rescaled }
  else
    let k := Nat.max a.exp b.exp
    let r := bxForm rtz true k (List.zipWith (fun m n => ((a.value m).v).add ((b.value n).v)) a.mant b.mant)
    { r with rescaled := r.rescaled || a.rescaled || b.rescaled }

/-- Mantissas negated; -32,768 becomes 32,767 (R46). The second component counts such elements; a block that is poisoned or not finite
has none (log entry 73). -/
def Bx.negate (x : Bx) : Bx × Nat :=
  ({ x with mant := x.mant.map fun m => if m = -32768 then 32767 else -m },
   if x.poison || x.nonfin then 0 else (x.mant.filter fun m => decide (m = -32768)).length)

/-! ### Rows (R140) -/

/-- The values of a row of `n` elements in format `f`. -/
def Fmt.decodeRow (f : Fmt) (n : Nat) (bs : List MB) : List MV :=
  match f with
  | .bs8 | .bs6 | .bs4 => (f.decodeSegments (n + 1) ((n + 31) / 32) bs).take n
  | .bx16 => (chunk 72 (bs.take (n / 32 * 72))).flatMap fun c => let x := Bx.decode c
    x.mant.map x.value
  | .fp8e4r | .fp8e5r =>
    let s := bs.headD {}
    ((bs.drop 1).take n).map fun b =>
      { v := (f.elem.decode b.b.toNat).mul (scaleVal s.b.toNat), p := b.p || s.p }
  | _ => (chunk f.bytes (bs.take (n * f.bytes))).map fun c => { v := f.decodeElem (leNat c), p := anyPoison c }

/-- The scale byte and elements of a row with a per-row scale (R43): poisoned elements take no part in the choice. -/
def Fmt.encodeRowScaled (f : Fmt) (rtz : Bool) (xs : List MV) : Nat × List MB × Eff :=
  let clean := (xs.filter fun x => !x.p).map (·.v)
  let ps := xs.any (·.p)
  let poisoned : MB := ⟨BitVec.ofNat 8 f.elem.nanCode, true⟩
  if clean.any fun v => !v.isFin then
    (255, xs.map (fun x => if x.p then poisoned else {}), { ps := ps, nf := true })
  else
    let s := f.elem.chooseScale clean
    let es := xs.map fun x => (x.p, f.elem.encodeScaled rtz s x.v)
    (s, es.map (fun e => if e.1 then poisoned else ⟨BitVec.ofNat 8 e.2.code, false⟩),
      { sat := (es.filter fun e => !e.1 && e.2.sat).length, ps := ps })

def effSum (es : List Eff) : Eff := es.foldl Eff.add {}

/-- Encodes a row into format `f`, padded to a granule (R140). `fixed` is the exponent of BX16FIX. -/
def Fmt.encodeRow (f : Fmt) (rtz : Bool) (fixed : Option Nat) (xs : List MV) : List MB × Eff :=
  match f with
  | .bs8 | .bs6 | .bs4 =>
    let padded := xs ++ List.replicate (roundUp 32 xs.length - xs.length) {}
    let bs := (chunk 32 padded).map (f.encodeBlock rtz)
    ((chunk 32 bs).flatMap layoutSegment, effSum (bs.map (·.eff)))
  | .bx16 =>
    let bs := (chunk 32 xs).map (Bx.ofValues rtz fixed)
    (bs.flatMap Bx.encode, effSum (bs.map Bx.encEff))
  | .fp8e4r | .fp8e5r =>
    let r := f.encodeRowScaled rtz xs
    (padTo 8 (⟨BitVec.ofNat 8 r.1, false⟩ :: r.2.1), r.2.2)
  | _ =>
    let es := xs.map fun x => (f.encodeElem rtz x, x.p)
    (padTo 8 (es.flatMap fun e => leBytes f.bytes e.1.code e.2), effSum (es.map (·.1.eff)))

/-! ### Operand streams (R65) -/

/-- Bytes of one step's column of 16 elements in a stream. -/
def Fmt.stepBytes : Fmt → Nat
  | .bf16 => 32
  | .bs6 => 12
  | .bs4 => 8
  | _ => 16

/-- Bytes of the stream of `k` steps, the prefix and the panel scales included. -/
def Fmt.streamBytes (f : Fmt) (k : Nat) : Nat :=
  if k = 0 then 0
  else k * f.stepBytes + (if f.isBs then k / 32 * 16 else if f.isRowScaled then 16 else 0)

/-- The column of one step, each element with its scale applied. -/
def Fmt.decodeColumn (f : Fmt) (bs : List MB) (scales : List MB) : List MV :=
  (List.range 16).map fun i =>
    if f.isBs || f.isRowScaled then
      let c := unpackAt f bs i
      let s := (scales.drop i).headD {}
      { v := (f.elem.decode c.1).mul (scaleVal s.b.toNat), p := c.2 || s.p }
    else
      let c := (bs.drop (i * f.bytes)).take f.bytes
      { v := f.decodeElem (leNat c), p := anyPoison c }

/-- The columns of an operand stream, in step order. -/
def Fmt.decodeStream (f : Fmt) (bs : List MB) : List (List MV) :=
  if f.isBs then
    (chunk (32 * f.stepBytes + 16) bs).flatMap fun p =>
      let sc := p.drop (32 * f.stepBytes)
      (chunk f.stepBytes (p.take (32 * f.stepBytes))).map fun c => f.decodeColumn c sc
  else if f.isRowScaled then (chunk 16 (bs.drop 16)).map fun c => f.decodeColumn c (bs.take 16)
  else (chunk f.stepBytes bs).map fun c => f.decodeColumn c []

/-- Element `i` of a list, or the default. -/
def nth {α : Type} (d : α) (l : List α) (i : Nat) : α := (l.drop i).headD d

/-- The columns of rows of equal length. -/
def columns {α : Type} (d : α) (k : Nat) (rows : List (List α)) : List (List α) :=
  (List.range k).map fun j => rows.map fun r => nth d r j

/-- The operand stream of 16 rows of `k` values each, encoded into `f` (R65, R142): row i becomes tile row i. -/
def Fmt.encodeStream (f : Fmt) (rtz : Bool) (k : Nat) (rows : List (List MV)) : List MB × Eff :=
  if f.isBs then
    let blocks := rows.map fun r => (chunk 32 r).map (f.encodeBlock rtz)
    let panels := columns (α := BlockEnc) ⟨[], {}, {}⟩ (k / 32) blocks
    let bytes := panels.flatMap fun p =>
      let rowsOf := p.map fun b => (List.range 32).map fun i => unpackAt f b.body i
      (columns (0, false) 32 rowsOf).flatMap (packBits f) ++ p.map (·.scale)
    (bytes, effSum (blocks.flatten.map (·.eff)))
  else if f.isRowScaled then
    let rs := rows.map (f.encodeRowScaled rtz)
    (rs.map (fun r => ⟨BitVec.ofNat 8 r.1, false⟩) ++ (columns {} k (rs.map (·.2.1))).flatten,
      effSum (rs.map (·.2.2)))
  else
    let es := rows.map fun r => r.map fun x => (f.encodeElem rtz x, x.p)
    ((columns (α := List MB) [] k (es.map fun r => r.map fun e => leBytes f.bytes e.1.code e.2)).flatten.flatten,
      effSum (es.flatten.map (·.1.eff)))

end Sys2Proof
end

