-- ==== Sys2Proof/Machine/Status.lean ====
section
/-! DEFINITION. The status codes of R360, the notification codes of R364 and R415, and small bit-field helpers (R6). -/

namespace Sys2Proof.Machine

open Sys2Proof

/-- A status code (R360). -/
abbrev Status := BitVec 16

def stOk : Status := 0x0000
def stAlreadyDone : Status := 0x0001
def stAborted : Status := 0x0002
def stPartial : Status := 0x0003
def stBusy : Status := 0x0010
def stBadParam : Status := 0x0011
def stNotPresent : Status := 0x0012
def stDenied : Status := 0x0013
def stFenced : Status := 0x0014
def stImageLocked : Status := 0x0015
def stFateConflict : Status := 0x0016
def stPoisoned : Status := 0x0017
def stVersionMismatch : Status := 0x0018
def stInternal : Status := 0x00FF

/-- Bits [hi:lo] of a word, as a number. -/
def bits {n : Nat} (x : BitVec n) (hi lo : Nat) : Nat := x.toNat / 2 ^ lo % 2 ^ (hi + 1 - lo)

/-- Bit n of a word. -/
def bit {n : Nat} (x : BitVec n) (i : Nat) : Bool := x.getLsbD i

/-- `x` with bits [hi:lo] replaced by `v`. -/
def setBits {n : Nat} (x : BitVec n) (hi lo v : Nat) : BitVec n :=
  let w := hi + 1 - lo
  let m : BitVec n := BitVec.ofNat n ((2 ^ w - 1) * 2 ^ lo)
  (x &&& ~~~ m) ||| BitVec.ofNat n (v % 2 ^ w * 2 ^ lo)

/-- A natural number as a register word. -/
def w32 (n : Nat) : W32 := BitVec.ofNat 32 n

/-- The bit `b` at position `k` of a word. -/
def flag (b : Bool) (k : Nat) : Nat := if b then 2 ^ k else 0

/-- The low and high register words of a 64-bit value. -/
def lo32 (x : W64) : W32 := x.setWidth 32
def hi32 (x : W64) : W32 := (x >>> 32).setWidth 32

/-- Two register words as a 64-bit value, low word first (R7). -/
def join64 (lo hi : W32) : W64 := hi ++ lo

/-- The number of set bits among the low `n` bits. -/
def popcount (n x : Nat) : Nat := ((List.range n).filter fun i => x.testBit i).length

/-- The positions of the set bits among the low `n` bits, ascending. -/
def bitList (n x : Nat) : List Nat := (List.range n).filter fun i => x.testBit i

end Sys2Proof.Machine
end

