-- ==== Sys2Proof/Machine/CoreUnit.lean ====
section
/-! DEFINITION. The state of a core: tiles and bedstones (R61 to R66), queues (R93 to R97), stream slots (R101), counters,
comparators and sources (R110 to R113), the instruction cache (R99), token counters (R160), and its counts (R117). Every
field's default is its value after a whole-module reset. -/

namespace Sys2Proof.Machine

open Sys2Proof

/-- An accumulator cell (R66, R70): hi in bits [31:0] and lo in bits [63:32], or one INT64; its state, 0 NORMAL,
1 SATURATED, 2 NONFINITE, 3 POISONED. Its poison bit is set exactly in state POISONED (R70). -/
structure ACell where
  bits : W64 := 0
  st : BitVec 2 := 0
  deriving DecidableEq, Repr

/-- A tile of 256 cells, cell (i, j) under key 16 i + j; its mode and flags (R66). -/
structure Tile where
  int : Bool := false
  sat : Bool := false
  nf : Bool := false
  psn : Bool := false
  cells : SMap ACell := []
  deriving DecidableEq, Repr

/-- A bedstone (R61 to R64): the format, geometry and scale mode that BEDLOAD records; element codes under key
1,024 row + column, each with its word's mark; and the scale side store, under the key of `Bed.scaleKey`. -/
structure Bed where
  loaded : Bool := false
  fmt : Fmt := .fp8e4
  rows : BitVec 11 := 0
  cols : BitVec 11 := 0
  scale : BitVec 2 := 0
  elems : SMap (BitVec 16 × Bool) := []
  scales : SMap MB := []
  deriving DecidableEq, Repr

/-- A queue's ring (R94, R116) and the words it holds, oldest first; `staged` are words that a command in execution, named by its
issue number, has popped as they came and has not used yet, since its next unit of input was not whole (R95). -/
structure Ring where
  size : BitVec 11 := 0
  base : BitVec 11 := 0
  data : List QW := []
  staged : SMap (List QW) := []
  deriving DecidableEq, Repr

/-- One held level of a slot's hidden loop registers (R154): the first word of the body, the first word behind it, and the
hidden count. -/
structure LoopLevel where
  first : VA
  past : VA
  count : W32
  deriving DecidableEq, Repr

/-- A generation change that waits for a slot's command boundary (R380). -/
structure Swap where
  gen : BitVec 16
  oldBase : VA
  newBase : VA
  len : W32
  deriving DecidableEq, Repr

/-- What a failed command reports (R365): its status, and the faulting address, translation cause and token word where it has
them. -/
structure FaultInfo where
  status : Status
  va : VA := 0
  cause : Byte := 0xFF
  tok : W32 := 0
  deriving DecidableEq, Repr

/-- What a sector of a FETCH in execution has come to (R135, R248, R254): it is not asked for yet; it waits on the prefetch in flight that
holds it, named by its sequence number, or in a merge window; it has been served; or its translation has failed. -/
inductive Piece where
  | todo
  | waits (pa : PA) (prefetch : Option Nat)
  | got (data : List QW) (st : Status)
  | fault (cause : Byte)
  deriving DecidableEq, Repr

/-- A sector that a FETCH has asked for and that is on its way. -/
def Piece.waiting : Piece → Bool
  | .waits _ _ => true
  | _ => false

/-- A command in execution (R88, R95): its issue number on its core, its slot, its index where it is the member of a fused group,
opcode and word, the pointer and the hidden loop registers at its issue, and the counters as they were then; the iteration and the
address step of its group (R157); the units of its work that are done, the bytes it has popped once and keeps, and the sectors of a
FETCH. It has `ended` when all its work is done; it then completes, with `fault` where it failed, when its output has gone out and, for
RACC, when `acks` packets more have been acknowledged (R138). -/
structure Run where
  id : Nat := 0
  slot : BitVec 2 := 0
  member : Option Nat := none
  op : Byte
  w : CmdWord
  ptr : VA
  loops : List LoopLevel := []
  ctr : SMap W32 := []
  iter : Nat := 0
  addrStep : Nat := 0
  unit : Nat := 0
  once : List MB := []
  pieces : List Piece := []
  ended : Bool := false
  acks : Nat := 0
  fault : Option FaultInfo := none
  deriving DecidableEq, Repr

/-- A fused group in execution (R157): the issue number and the word of its FUSE, the pointer and the hidden loop registers at its issue, its members, the
iterations to do, and those that each member has issued. -/
structure GroupRun where
  id : Nat
  w : CmdWord
  ptr : VA
  loops : List LoopLevel
  members : List (Byte × CmdWord)
  total : Nat
  done : List Nat
  deriving DecidableEq, Repr

/-- A stream slot (R101): its state (0 STOPPED, 1 RUNNING, 2 HALTED, 3 FAULTED), pointer, SLOT_FAULT, phase tag, whether it
has executed the mark of the present phase (R105), its generation (R100), its hidden loop registers, innermost first, a
generation change and a STOP that wait for its command boundary, the fused group it executes (R157), and when it last issued or was
started, counted in the issues of its core (R104, R158). -/
structure Slot where
  st : BitVec 2 := 0
  ptr : VA := 0
  fault : W32 := 0
  tag : BitVec 2 := 0
  marked : Bool := false
  gen : BitVec 16 := 0
  loops : List LoopLevel := []
  swap : Option Swap := none
  stop : Bool := false
  group : Option GroupRun := none
  last : Nat := 0
  deriving DecidableEq, Repr

/-- An instruction-cache line (R99, R100): its virtual address, the generation it was fetched under, and its four words. -/
structure ILine where
  va : VA
  gen : BitVec 16
  words : List (BitVec 128)
  deriving DecidableEq, Repr

/-- A comparator (R111): CMP_Kn_CFG but RESULT, and CMP_Kn_IMM. -/
structure Cmp where
  cfg : W32 := 0
  imm : W32 := 0
  deriving DecidableEq, Repr

/-- Tokens on their way (R160): from a slot, or from a collective engine (none), to a counter of a core. -/
structure Tok where
  src : Option Site
  target : CoreId
  tc : BitVec 3
  n : BitVec 16
  deriving DecidableEq, Repr

/-- A FETCH that run-ahead has issued (R108): its pointer, word and queue, and the words of data it pushed; or one that it dropped
at translation (R109). -/
structure Ahead where
  va : VA
  w : CmdWord
  q : BitVec 4
  words : Nat
  dropped : Bool := false
  deriving DecidableEq, Repr

/-- Where words that are pushed come from: slot, opcode, pointer and hidden loop registers of the command at its issue (R97). -/
structure From where
  slot : BitVec 2
  opcode : Byte
  ptr : VA
  loops : List LoopLevel
  deriving DecidableEq, Repr

/-- Output of a command that is larger than its ring and is still to be pushed as space comes free (R95): the queue, the command's issue
number, and what a push names. -/
structure Backlog where
  q : BitVec 4
  id : Nat
  src : From
  data : List QW
  deriving DecidableEq, Repr

/-- A core. Tiles stand under 4 × OPE + tile index, rings under their queue number, the instruction cache under its set, most
recently used line first, and the counts of R117 under their register offsets. `clock` counts what the picker has issued, `runs` are
the commands in execution, oldest first, and `raStop` is where the fetch engine has stopped at the page rule (R109). -/
structure Core where
  tiles : SMap Tile := []
  beds : SMap Bed := []
  rings : SMap Ring := []
  binds : SMap W32 := []
  /-- Bindings the auditor fenced (R194), until QBIND is rewritten at this end. -/
  bindFenced : SMap Bool := []
  slots : SMap Slot := []
  tailrace : Bool := false
  /-- The policy still in force where the half's has been rewritten since (R106); true is READY-FIRST. -/
  lag : Option Bool := none
  pseen : Bool := false
  nfseen : Bool := false
  ctr : SMap W32 := []
  cmps : SMap Cmp := []
  ctrl : W32 := 0x40
  lastGen : BitVec 16 := 0
  icache : SMap (List ILine) := []
  fenced : Bool := false
  tcs : SMap (BitVec 16) := []
  /-- Tokens held back at this core until pops make room (R160), oldest first. -/
  held : List Tok := []
  ahead : List Ahead := []
  raStop : Option VA := none
  clock : Nat := 0
  runs : List Run := []
  backlog : List Backlog := []
  counts : SMap W32 := []
  deriving DecidableEq, Repr

/-- A read window of a CSM bank (R185): its sector and whether it accepts joiners. -/
structure CsmWin where
  sector : BitVec 15
  open_ : Bool := true
  deriving DecidableEq, Repr

/-- A cluster: CSM words under their word offset (R183), CSM_CFG (R207), the windows that are open, CL_STATUS, LINKS_FENCED
and the counts of R208 under their offsets in the cluster's registers. -/
structure Cluster where
  csm : SMap QW := []
  /-- The CSM words whose parity bit does not match, under their word offset (R50, R188; log entry 66). -/
  csmWrong : SMap Bool := []
  cfg : W32 := 8
  wins : List CsmWin := []
  status : W32 := 0
  linksFenced : Byte := 0
  counts : SMap W32 := []
  deriving DecidableEq, Repr

/-- A push in flight to a link queue's ring (R96, R97). `told`: an earlier push of its command has come back, and the command has failed
(R102). -/
structure Push where
  src : CoreId
  srcQ : BitVec 4
  dst : CoreId
  dstQ : BitVec 4
  origin : From
  data : List QW
  told : Bool := false
  deriving DecidableEq, Repr

/-- A sector of a STORE on its way to its memory controller (R135, R219): the granules it covers and their words, the request that
carries it, of which it has none while it stands in a merge window (R248), and whether it was translated through an entry that has been
dropped since (R236). -/
structure StoreSec where
  site : Site
  va : VA
  pa : PA
  noalloc : Bool
  mask : BitVec 16
  data : List QW
  req : Option Nat := none
  inval : Bool := false
  deriving DecidableEq, Repr

/-- A STORE's acknowledgement on its way back (R221), with the invalidations still awaited: those under `wid`, and those of its line that
were sent before `seq`. -/
structure StoreAck where
  site : Site
  va : VA
  status : BitVec 16
  wid : Nat
  line : BitVec 32 := 0
  seq : Nat := 0
  deriving DecidableEq, Repr

/-- An invalidation of a line on its way to a CSU (R231, R255). `seq` orders it behind the data served before it. -/
structure Inval where
  csu : BitVec 6
  line : BitVec 32
  evict : Bool
  wid : Nat
  seq : Nat
  deriving DecidableEq, Repr

/-- What travels on the on-chip networks: pushes, tokens, tokens on their way home, STORE sectors, acknowledgements and
invalidations, each oldest first; and the sequence number of the next. -/
structure Net where
  pushes : List Push := []
  tokens : List Tok := []
  returning : List Tok := []
  stores : List StoreSec := []
  acks : List StoreAck := []
  invals : List Inval := []
  seq : Nat := 0
  deriving DecidableEq, Repr

end Sys2Proof.Machine
end

