-- ==== Sys2Proof/Machine/FabUnit.lean ====
section
/-! DEFINITION. The state of the optical ports (R261 to R292): link layer, lanes, identity, credits and tags of each port,
and the shared fabric registers with the laser groups and the route table. Every field's default is its value after a
whole-module reset. -/

namespace Sys2Proof.Machine

open Sys2Proof

/-- A wavelength's register LANE_l (R290), and whether its last error window held an uncorrectable codeword (R272). -/
structure Lane where
  rxBer : Byte := 0
  txLogical : BitVec 4 := 15
  rxLogical : BitVec 4 := 15
  txState : BitVec 2 := 0
  rxState : BitVec 2 := 0
  uncor : Bool := false
  deriving DecidableEq, Repr

/-- A fabric packet (R281). -/
structure Pkt where
  op : Byte
  resp : Bool
  h : FabHdr
  data : List Byte := []
  deriving DecidableEq, Repr

/-- A notification (R357, R363): code, sequence number and payload. -/
structure Note where
  code : BitVec 16
  seq : W32
  words : List W32
  deriving DecidableEq, Repr

/-- The body of a frame of TYPE PACKET (R268): a fabric packet, a reply (R357), a notification, or BULK_DATA (R372). -/
inductive FBody where
  | fab (p : Pkt)
  | reply (opcode tag : BitVec 16) (status : BitVec 16) (shaft : W32) (words : List W32)
  | note (n : Note)
  | bulk (opcode tag : BitVec 16) (offset mask : W64) (data : List Byte)
  deriving DecidableEq, Repr

/-- The LINK frames that a port sends (R268 to R278). -/
inductive LinkFrame where
  /-- LANE_MAP of a training (R263): the wavelength that the receiver has chosen for each lane. -/
  | laneMap (lanes : List (BitVec 4))
  | nack (expected : W32)
  | hello (nonce : BitVec 256)
  | ident (serial : W64) (dev : DevId) (port : Byte) (own echo : BitVec 256) (shaft : W64) (key : BitVec 776) (sig : BitVec 768)
  | heartbeat (shaft : W64)
  | resume (expected : W32)
  | lanePrepare (lane : BitVec 3)
  | laneSwitch (lane : BitVec 3)
  | laneDrop (lane : BitVec 3)
  | lanePattern
  | laneMark (lane : BitVec 3)
  | pong (t1 t2 t3 : W64)
  deriving DecidableEq, Repr

/-- What the Triat has put out, for the model to show it: frames of TYPE PACKET or IDLE with their header and CRC, LINK frames, and a
remote notify (R178), for which the manual gives no packet (log entry 24). -/
inductive Out where
  | frame (port : Nat) (seq ack : W32) (pool : BitVec 4) (credits : BitVec 12) (body : Option FBody) (crc : W32)
  | link (port : Nat) (f : LinkFrame)
  | remoteNotify (dev : DevId) (core : CoreId) (tc : BitVec 3) (n : BitVec 16)
  deriving DecidableEq, Repr

/-- A frame in the replay buffer (R269): the pool of its body, and its own POOL and CREDITS, with which it is replayed. -/
structure Sent where
  seq : W32
  pool : BitVec 4
  gives : BitVec 4
  credits : BitVec 12
  body : Option FBody
  deriving DecidableEq, Repr

/-- A body that waits at a port for credit or for room in the replay buffer (R269, R270), the receive slots to return when
it is sent: ingress port, pool and slots (R286), and for a response of this Triat the port on which its request arrived (R285). -/
structure QItem where
  pool : BitVec 4
  body : FBody
  ret : Option (Nat × BitVec 4 × Nat) := none
  home : Option Nat := none
  deriving DecidableEq, Repr

/-- A packet received and not yet passed on (R270): its pool and the slots it holds. `again`: it had been passed on, and came back from
a port whose partner is down to wait for another (R277). -/
structure RxItem where
  pool : BitVec 4
  slots : Nat
  again : Bool := false
  deriving DecidableEq, Repr

/-- Who issued a request of this Triat, to whom its answer goes. -/
inductive Issuer where
  /-- A slot's RACC (R138). -/
  | racc (site : Site)
  /-- A chunk of a move descriptor, at this byte offset (R178). -/
  | move (half : BitVec 1) (ring : BitVec 4) (off : Nat)
  /-- A packet of the reduction descriptor that runs under this number, at this byte offset (R305, R310, R323). -/
  | desc (half : BitVec 1) (list : BitVec 4) (id off : Nat)
  /-- A retraction of a close group (R306). -/
  | retract (g : BitVec 3)
  /-- A VOID, for a close group where the packet had one (R308). -/
  | void (g : Option (BitVec 3))
  /-- An UP (R318). -/
  | up
  /-- A DOWN (R319). -/
  | down
  /-- A DATA packet or the SEAL of a securing entry (R340). -/
  | secData (entry : BitVec 10)
  | secSeal (entry : BitVec 10)
  /-- A DATA packet or the SEAL of a SEC_REBUILD (R345). -/
  | rebData (entry : BitVec 10)
  | rebSeal (entry : BitVec 10)
  deriving DecidableEq, Repr

/-- Why a request that was answered waits to be resent 10 µs later: BUSY (R299), an older version (R323), ABORTED (R340). -/
inductive Resend where
  | busy | older | data
  deriving DecidableEq, Repr

/-- A request in flight under a tag (R281); `via` is the port that it was handed to. -/
structure Req where
  pkt : Pkt
  who : Issuer
  via : Nat := 0
  deriving DecidableEq, Repr

/-- A port (R273, R289, R290). `st` is STATE; in RESUME, `phase` is the training step the port has come to (1 DARK to 4 IDENT,
5 awaiting the RESUME frame). `before` is the state before the loss, `down` that its partner was declared down. -/
structure Port where
  enable : Bool := false
  st : BitVec 4 := 0
  phase : BitVec 3 := 1
  before : BitVec 4 := 0
  down : Bool := false
  txLanes : BitVec 4 := 0
  rxLanes : BitVec 4 := 0
  epoch : BitVec 16 := 0
  dev : DevId := 0
  pport : Byte := 0
  serial : W64 := 0
  keyHash : Hash := 0
  lanes : SMap Lane := []
  pools : SMap W32 := []
  counts : SMap W32 := []
  /-- The lane whose move to λ8 this receiver has asked for (R272). -/
  moving : Option (BitVec 3) := none
  /-- The lane for which this sender trains λ8. -/
  training : Option (BitVec 3) := none
  nonce : Option (BitVec 256) := none
  partnerNonce : Option (BitVec 256) := none
  /-- The partner's HELLO and IDENT have arrived (R274). -/
  helloIn : Bool := false
  identIn : Bool := false
  /-- Turn boundaries passed without a HEARTBEAT (R278). -/
  missed : BitVec 4 := 0
  /-- Next SEQ to send, next SEQ expected, and whether its NACK was sent (R269). -/
  txSeq : W32 := 0
  rxSeq : W32 := 0
  nacked : Bool := false
  sent : List Sent := []
  /-- Replays in succession that have not moved ACK. -/
  replays : Nat := 0
  queue : List QItem := []
  /-- Credits held toward the partner, credits owed to it, and the slots of frames not yet passed on (R270). -/
  credit : SMap Nat := []
  owed : SMap Nat := []
  rxHeld : List RxItem := []
  tags : SMap (Option Req) := []
  deriving DecidableEq, Repr

/-- A laser group (R264 to R266): which inputs are OK, the active input (true B), whether it is lit, whether it waits its 1 ms
after the first input has become OK, and whether it has been lit since reset. -/
structure Laser where
  aOk : Bool := false
  bOk : Bool := false
  useB : Bool := false
  lit : Bool := false
  starting : Bool := false
  started : Bool := false
  deriving DecidableEq, Repr

/-- A request that waits for a free tag, or for the order rule of classes 6 and 7 (R281, R285); `hold`: it was answered and waits
to be resent, for this reason; `late`: it has been taken up before and could not be sent; `went`: it has been sent before. -/
structure Waiting where
  pkt : Pkt
  who : Issuer
  hold : Option Resend := none
  late : Bool := false
  went : Bool := false
  deriving DecidableEq, Repr

/-- An answer to a request of this Triat that its issuer has still to take. -/
structure Answered where
  pkt : Pkt
  who : Issuer
  status : BitVec 16
  deriving DecidableEq, Repr

/-- The shared fabric block (R292), the route table (R284), and the order of classes 6 and 7 (R283, R285): next SEQ to each
destination and from each source, under 8 × device + class, and the port that the last request of a source, destination and class took. -/
structure Fab where
  devId : DevId := 0xFFFF
  ctrl : W32 := 0x408
  lasers : SMap Laser := []
  prefer : BitVec 4 := 0
  routeLo : W32 := 0
  routeHi : W32 := 0
  routes : SMap W32 := []
  routeRefused : Bool := false
  routeGen : BitVec 15 := 0
  routeBad : BitVec 16 := 0
  counts : SMap W32 := []
  seqTx : SMap W32 := []
  seqRx : SMap W32 := []
  lastPort : SMap (Option Nat) := []
  waiting : List Waiting := []
  answers : List Answered := []
  deriving DecidableEq, Repr

end Sys2Proof.Machine
end

