-- ==== Sys2Proof/Machine/CollUnit.lean ====
section
/-! DEFINITION. The state of the collective engines (R176 to R179, R293 to R329). Every field's default is its value after a
whole-module reset. -/

namespace Sys2Proof.Machine

open Sys2Proof

/-- A move descriptor in execution (R178): its address and 32 bytes, the packets not yet answered, the first status not OK, and
whether the ring was enabled anew since it started. -/
structure MvRun where
  addr : Nat
  desc : BitVec 256
  left : Nat := 0
  status : BitVec 16 := 0
  stale : Bool := false
  deriving DecidableEq, Repr

/-- A move ring (R176, R179). -/
structure MvRing where
  ctrl : W32 := 0
  baseLo : W32 := 0
  baseHi : W32 := 0
  size : BitVec 16 := 0
  tail : BitVec 16 := 0
  head : BitVec 16 := 0
  owed : BitVec 16 := 0
  lastBad : BitVec 16 := 0
  done : W32 := 0
  raises : BitVec 13 := 0
  run : Option MvRun := none
  deriving DecidableEq, Repr

/-- A reduction descriptor in execution (R294): a number that names it among those of its list, its address and 64 bytes, its
packets not yet answered, the first status not OK, the narrow data that a GATHER has accepted, by byte offset, and whether
the list was enabled anew since it started. -/
structure DRun where
  id : Nat
  addr : Nat
  desc : BitVec 512
  left : Nat := 0
  status : BitVec 16 := 0
  got : SMap (List MB) := []
  stale : Bool := false
  deriving DecidableEq, Repr

/-- A reduction list (R293, R294, R328). `next` is the descriptor of the occurrence in service that starts next; `runs` are
those in execution. -/
structure RList where
  ctrl : W32 := 0
  baseLo : W32 := 0
  baseHi : W32 := 0
  len : BitVec 16 := 0
  owed : BitVec 16 := 0
  lastBad : BitVec 16 := 0
  done : W32 := 0
  raises : BitVec 13 := 0
  next : BitVec 16 := 0
  runs : List DRun := []
  deriving DecidableEq, Repr

/-- A collective engine: its move rings, lots (R178) and reduction lists. -/
structure Ce where
  rings : SMap MvRing := []
  lots : SMap Bool := []
  lists : SMap RList := []
  deriving DecidableEq, Repr

/-- A job entry (R298, R299, R328). `waived` counts the CLOSEs waived for the step; `optRaised` that the optimiser has raised
OPT_EVENT since the job entered COMMITTING. -/
structure Job where
  cfg : W32 := 0
  st : BitVec 3 := 0
  closes : BitVec 16 := 0
  waived : Nat := 0
  armFailed : Bool := false
  scanned : Bool := false
  stepAbort : Bool := false
  bufLo : W32 := 0
  bufHi : W32 := 0
  blocks : BitVec 28 := 0
  cntLo : W32 := 0
  cntHi : W32 := 0
  expvLo : W32 := 0
  expvHi : W32 := 0
  opt : W32 := 0
  version : W32 := 0
  step : W32 := 0
  closeSum : W32 := 0
  rescales : W32 := 0
  bad : W32 := 0
  optRaised : Bool := false
  /-- The arming in progress zeroes the buffer. -/
  armZero : Bool := false
  deriving DecidableEq, Repr

/-- A packet of blocks that a close group has sent (R306): the half whose CE sent it, destination, class,
jobs, form, where the blocks stand in the local job's buffer and at the owner, and the descriptor that sent it. -/
structure SentBlocks where
  half : BitVec 1
  dev : DevId
  cls : BitVec 3
  job : Byte
  ljob : Byte
  form : BitVec 2
  local_ : VA
  remote : VA
  blocks : Nat
  count : W32
  who : Issuer
  deriving DecidableEq, Repr

/-- A close group (R306, R314, R328): its registers, whether it was dropped and whether the step used it, the packets it has
sent, and its retractions, VOIDs and CLOSEs not yet acknowledged. -/
structure Cg where
  expect : BitVec 16 := 0
  st : BitVec 3 := 0
  done : BitVec 16 := 0
  dropped : Bool := false
  used : Bool := false
  sent : List SentBlocks := []
  retracts : Nat := 0
  voids : Nat := 0
  closes : Nat := 0
  deriving DecidableEq, Repr

/-- The commit tree's state (R318 to R321, R328): the registers, the recorded children, the children waived, what their UPs
added up to, the UP last sent (STEP_ABORT, devices, drops), and STEP_ABORT and CVER of the outcome that waits for its mark. -/
structure Commit where
  cfg : W32 := 0xFFFF0002
  st : BitVec 3 := 0
  ups : BitVec 16 := 0
  late : Bool := false
  lastAborted : Bool := false
  abortOwn : Bool := false
  step : W32 := 0
  cver : W32 := 0
  event : W32 := 0
  mark : W64 := 0
  drops : W32 := 0
  children : List DevId := []
  waived : Nat := 0
  subAbort : Bool := false
  subDevs : W32 := 0
  subDrops : W32 := 0
  upOut : Option (Bool × W32 × W32) := none
  outAbort : Bool := false
  outCver : W32 := 0
  /-- An UP of the step is not yet acknowledged. -/
  upWait : Bool := false
  deriving DecidableEq, Repr

/-- The collective block: the CEs by half, the job table, the close groups, the commit state, and the counts of R329. -/
structure Coll where
  ces : SMap Ce := []
  jobs : SMap Job := []
  cgs : SMap Cg := []
  commit : Commit := {}
  /-- Job entries whose optimiser token is held back (R339). -/
  heldJobs : List Nat := []
  counts : SMap W32 := []
  deriving DecidableEq, Repr

end Sys2Proof.Machine
end

