-- ==== Sys2Proof/Machine/CtlUnit.lean ====
section
/-! DEFINITION. The state of securing and the lichen map (R330 to R355), of the miller with its requests, images and reset
control (R356 to R372, R378 to R388), of the shaft unit (R373 to R377, R387), and of power, security, JTAG and the module's
pins (R389 to R435). Every field's default is its value after a whole-module reset. -/

namespace Sys2Proof.Machine

open Sys2Proof

/-! ### Securing and the lichen map -/

/-- A response that a parity holder holds back (R342): the port its SEAL came on (none: this Triat's own) and its packet. -/
structure HeldSeal where
  port : Option (BitVec 4)
  pkt : Pkt
  who : Option Issuer
  deriving DecidableEq, Repr

/-- A rebuild that an entry sends (R345): target device and entry, member, class, packets not yet answered, bytes sent,
the target's address, and the first status not OK. -/
structure RebRun where
  dev : DevId
  entry : BitVec 10
  member : BitVec 5
  cls : BitVec 3
  left : Nat
  bytes : Nat
  base : Nat := 0
  status : BitVec 16 := 0
  /-- A parity member's held copy is not current yet: nothing has been sent. -/
  waits : Bool := false
  deriving DecidableEq, Repr

/-- What the CE keeps of a securing entry beside its 64 bytes: the group list (R337), data bytes accepted in WORK_EPOCH, by source and
address, and held SEALs (R342), whether it takes part in the open epoch with its packets not yet answered (R340), the commit
count at its event's last raise (R332), and a rebuild in progress. -/
structure SecAux where
  group : List DevId := []
  accepted : SMap Nat := []
  held : List HeldSeal := []
  /-- Takes part in the open epoch. -/
  joined : Bool := false
  left : Nat := 0
  bytes : Nat := 0
  /-- A parity DATA packet was answered ABORTED (R340). -/
  torn : Bool := false
  /-- A HOLDER or REBUILD entry has an epoch open that is neither sealed nor abandoned (R337, R342). -/
  taking : Bool := false
  /-- The first packet of a rebuild has come, and WORK_EPOCH is its EPOCH (R345). -/
  begun : Bool := false
  raised : Option Nat := none
  rebuild : Option RebRun := none
  deriving DecidableEq, Repr

/-- The resilience block (R353 to R355) but LM_*: registers, fate domains (R334), the down list (R344), estimates (R343), the
epoch that is open, that is deferred, or that waits to start with its mark (R338), the gate token held (R339), and the entries' other state. -/
structure Resil where
  weight : Byte := 64
  start : Bool := false
  enable : Bool := false
  open_ : Bool := false
  deferred : Bool := false
  baseLo : W32 := 0
  baseHi : W32 := 0
  count : BitVec 11 := 0
  epoch : W32 := 0
  period : W32 := 0
  next : W64 := 0
  /-- C in ticks (R343). -/
  cost : Nat := 0
  mtbi : W32 := 0x00274A48
  tprop : W32 := 0
  /-- FEED, LOOP, TRAY and RACK, 16 bits each, FEED lowest (R334). -/
  own : BitVec 64 := 0xFFFFFFFFFFFFFFFF
  gate : W32 := 0
  down : List DevId := []
  fates : SMap (Option (BitVec 64)) := []
  lastInt : Option W64 := none
  hold : Nat := 0
  busy : Nat := 0
  due : Option W64 := none
  gateHeld : Bool := false
  commits : Nat := 0
  aux : SMap SecAux := []
  /-- Records that wait for the next compaction of the lichen map (R351). -/
  lmWait : List (BitVec 128) := []
  counts : SMap W32 := []
  deriving DecidableEq, Repr

/-- An area of the lichen map (R349): whether its header is valid, its GEN, and its records; an erased record is all ones. -/
structure LmArea where
  valid : Bool := false
  gen : W32 := 0
  recs : SMap (BitVec 128) := []
  deriving DecidableEq, Repr

/-- Boot flash and fuses (R27, R349, R383, R399 to R402): they survive every reset. The serial, the steppings, the firmware's
version and measurement and the key hashes are the module's own; the values here are log entry 10's. -/
structure Flash where
  a : LmArea := { valid := true, gen := 1 }
  b : LmArea := {}
  useB : Bool := false
  fwOk : Bool := true
  fwVersion : W32 := 0
  fwMeasure : Hash := 0
  serial : W64 := 0
  stepMajor : BitVec 4 := 0
  stepMinor : BitVec 4 := 0
  /-- 0 FACTORY, 1 SEALED, 3 RETURNED, as fused. -/
  fused : BitVec 2 := 1
  fwKey : Hash := 0
  provKey : Hash := 0
  dbgKey : Hash := 0
  idKey : Hash := 0
  deriving DecidableEq, Repr

/-! ### The miller -/

/-- A program image (R380): its table entry and its physical ranges. -/
structure Image where
  valid : Bool := false
  gen : BitVec 16 := 0
  base : VA := 0
  len : W32 := 0
  halves : BitVec 2 := 0
  ranges : List (PA × Nat) := []
  deriving DecidableEq, Repr

/-- A descriptor of a bulk transfer (R371): device virtual or physical, address, bytes, the status it has failed with, and whether a byte of
it has been written (R367). -/
structure BulkDesc where
  virt : Bool
  addr : VA
  len : Nat
  status : BitVec 16 := 0
  wrote : Bool := false
  deriving DecidableEq, Repr

/-- What a request in flight waits for. -/
inductive Wait where
  /-- BULK_DATA from this offset on, with the descriptors (R372). -/
  | bulk (next : Nat) (descs : List BulkDesc)
  /-- The image of FW_UPDATE or FW_LOAD: its length, the next offset, and its bytes' verdict as last seen (R383). -/
  | image (len next : Nat)
  /-- The functions still to restart, those that have, and those named that were not reset, as busy (R378, R397). -/
  | fnReset (left done busy : List Nat)
  /-- A clock step at a shaft count (R398): the halves still to step. -/
  | clockStep (halves : BitVec 2) (step : BitVec 2) (at_ : W64)
  /-- The rebuild of a securing entry (R345). -/
  | rebuild (entry : BitVec 10)
  /-- MEM_TEST (R239): what the engines find, the stacks still under test, those whose part has ended ABORTED and BUSY, and the ticks
  left (log entry 31). -/
  | memTest (found : List TestResult) (left aborted busy : BitVec 12) (ticks : Nat)
  /-- The image is being written to flash (R383): the verdict on it, and the ticks left. -/
  | flash (v : FwVerdict) (ticks : Nat)
  /-- It is done, with this reply, which waits for a request before it that touches the same function, block or entry (R359). -/
  | behind (status : BitVec 16) (words : List W32)
  /-- Its turn among the requests that the miller serves one at a time (R414); the request as it came. -/
  | turn (h : CpHdr) (words : List W32) (cert : Cert) (measured : Hash)
  deriving DecidableEq, Repr

/-- A request in flight (R358, R359); `units` names the functions, register blocks and securing entries that it touches. -/
structure Inflight where
  port : BitVec 1
  tag : BitVec 16
  opcode : BitVec 16
  deadline : Option W64
  wait : Wait
  units : List Nat := []
  deriving DecidableEq, Repr

/-- The control and reset block (R388) with what the miller keeps: requests in flight, tags replied to (R366), notifications
that wait for a port (R363), the functions under reset, and the self-test that CONFIG_DONE selected. -/
structure Ctl where
  step : BitVec 4 := 0
  ready : Bool := false
  recovery : Bool := false
  /-- The boot ROM found no valid firmware and serves recovery requests (R384). -/
  inRecovery : Bool := false
  test : BitVec 2 := 0
  fwVersion : W32 := 0
  owner : Option Hash := none
  lapsed : BitVec 16 := 0
  lapse : BitVec 16 := 4096
  fnReset : BitVec 34 := 0
  notifyPort : Bool := false
  noteSeq : W32 := 0
  /-- The number of the notification that was sent last. -/
  noteSent : W32 := 0
  notes : List Note := []
  images : SMap Image := []
  inflight : List Inflight := []
  replied : SMap Bool := []
  counts : SMap W32 := []
  /-- Cores retired in this start-up (R364). -/
  newRetired : Nat := 0
  /-- CAP_GEN and CAP_SPARES (R27), and the physical cluster site of each logical cluster, under 32 × half + cluster (R20), where it
  is not its own; `some none`: it has no backing. -/
  capGen : W32 := 0
  capSpares : W32 := 0
  sites : SMap (Option (Option Nat)) := []
  deriving DecidableEq, Repr

/-! ### The shaft unit -/

/-- A scheduled action (R377, R387). -/
structure Sched where
  valid : Bool := false
  at_ : W64 := 0
  action : BitVec 4 := 0
  status : BitVec 16 := 0
  arg0 : W32 := 0
  arg1 : W32 := 0
  arg2 : W64 := 0
  deriving DecidableEq, Repr

/-- The shaft unit (R373 to R377, R387). `slewAcc` counts advances toward the next tick of slew. -/
structure Shaft where
  count : W64 := 0
  since : BitVec 16 := 0
  holdover : Bool := false
  locked : Bool := false
  slewRem : W32 := 0
  slewAcc : Nat := 0
  rate : W32 := 0
  limit : BitVec 16 := 4096
  late : BitVec 16 := 0
  sched : SMap Sched := []
  /-- SHAFT_HI as latched for each control port (R387). -/
  latch : SMap W32 := []
  /-- The turn boundary that has been acted on last (the model's own). -/
  turnSeen : Option W64 := none
  counts : SMap W32 := []
  deriving DecidableEq, Repr

/-! ### Power, security, JTAG and pins -/

/-- A half's clock (R202, R398, R424, R434): requested step, thermal and current ceilings, step in force, evaluations in
succession at or below 86 °C, and junction temperature. -/
structure HalfClock where
  req : BitVec 2 := 0
  therm : BitVec 2 := 0
  curr : BitVec 2 := 0
  step : BitVec 2 := 0
  cool : BitVec 7 := 0
  junction : Byte := 0
  deriving DecidableEq, Repr

/-- The power block (R416) and the module's supply (R421 to R428): `vin` is what PWR_INPUT shows, `supply` the input itself. `off` tells that
a protective turn-off happened, after which the module starts only from an input within 32.0 to 40.0 V (R421); `low5` that the input
has been below 5.0 V and has not reached 32.0 V since (R427). -/
structure Power where
  st : BitVec 3 := 0
  gated : BitVec 2 := 0
  clocks : SMap HalfClock := []
  low : BitVec 7 := 0
  iin : BitVec 16 := 0
  vin : BitVec 16 := 0
  supply : BitVec 16 := 0
  low5 : Bool := true
  tjMax : Byte := 0
  alert : BitVec 4 := 0
  mask : BitVec 4 := 0xF
  thermN : Bool := false
  off : Bool := false
  counts : SMap W32 := []
  deriving DecidableEq, Repr

/-- The security block (R417) but what is fused. `scope` is 0 when no session is open. -/
structure Sec where
  memLock : Bool := false
  sessions : BitVec 16 := 0
  lastCause : BitVec 3 := 0
  scopesOr : BitVec 2 := 0
  scope : BitVec 2 := 0
  notAfter : W64 := 0
  first : W64 := 0
  last : W64 := 0
  fwMeasure : Hash := 0
  counts : SMap W32 := []
  deriving DecidableEq, Repr

/-- The TAP (R408, R409): the instruction, the preloaded boundary cells, and the capture values of the access registers. -/
structure Tap where
  ir : Byte := 0x02
  boundary : BitVec 3 := 0
  mgmt : BitVec 66 := 0
  mem : BitVec 106 := 0
  /-- The value that the selected data register captured last. -/
  capture : BitVec 106 := 0
  deriving DecidableEq, Repr

end Sys2Proof.Machine
end

