-- ==== Sys2Proof/Machine/MemUnit.lean ====
section
/-! DEFINITION. The state of external memory, of its controllers (R209 to R243), of translation (R232 to R236), of the
cluster stream units (R246 to R260), of a half's network registers (R207) and of the seam (R199 to R208). Every field's
default is its value after a whole-module reset. -/

namespace Sys2Proof.Machine

open Sys2Proof

/-- External memory (R26, R53): the bytes that are not zero, and the 64-byte sectors that are not poisoned. An unlisted
sector reads poisoned (log entry 8). `wrong` lists the sectors whose cells have shown a persistent mismatch since they were last written
(R216): 1, or 4 and the lane group to which all wrong bytes belong. -/
structure Mem where
  bytes : List Host.Cell := []
  clean : SMap Bool := []
  wrong : SMap (BitVec 3) := []
  deriving DecidableEq, Repr

/-- A channel of a stack (R242): STATE, the functional lane each spare carries (62: the spare has failed its test; unlisted: it is
free), CH_LANE_ERR's count per group, the run of persistent mismatches in one group with their sectors (R214), whether a write dropped
at a FAILED channel has been reported (R215), and the counts of R243 under their offsets. -/
structure Channel where
  st : BitVec 3 := 0
  spares : SMap (BitVec 6) := []
  laneErr : SMap (BitVec 16) := []
  runGroup : BitVec 2 := 0
  run : Nat := 0
  runPas : List PA := []
  told : Bool := false
  counts : SMap W32 := []
  deriving DecidableEq, Repr

/-- A line of the memory-side cache: its number, the valid and dirty bits of its sectors (R227), and the words that it holds poisoned
where memory below is not marked (R216, R229). -/
structure MLine where
  line : Nat
  valid : BitVec 4
  dirty : BitVec 4
  bad : BitVec 64 := 0
  deriving DecidableEq, Repr

/-- A set of the memory-side cache: the lines by way, and the tree of R227 over the 16 ways. -/
structure MSet where
  ways : SMap MLine := []
  tree : BitVec 15 := 0
  deriving DecidableEq, Repr

/-- An entry of the prefetch directory (R231): a line of the physical address space and its mask of CSUs. -/
structure DirEntry where
  line : BitVec 32
  mask : BitVec 64
  deriving DecidableEq, Repr

/-- A memory controller (R241, R242). The poison log's entries hold the physical address with VALID and LINK. -/
structure Mc where
  st : BitVec 2 := 0
  temp : Byte := 0
  hot : Bool := false
  log : SMap (PA × Bool) := []
  logNext : BitVec 3 := 0
  logTotal : BitVec 16 := 0
  chans : SMap Channel := []
  msc : SMap MSet := []
  dir : SMap (List DirEntry) := []
  /-- Repair rows used, per entry e of R238. -/
  pprUsed : SMap Nat := []
  counts : SMap W32 := []
  deriving DecidableEq, Repr

/-- A leaf held in a translation buffer (R234): its page and its page-table entry. -/
structure TbEntry where
  base : VA
  giant : Bool
  pte : W64
  deriving DecidableEq, Repr

/-- A half's walk cache (R234): table pointers by L1 index and by VA [47:30], most recently used first. -/
structure WalkCache where
  l1 : List (Nat × PA) := []
  l2 : List (Nat × PA) := []
  deriving DecidableEq, Repr

/-- The shared memory registers (R244, R245), the translation buffers by requester, and the walk caches by half. -/
structure Xlat where
  mode : BitVec 72 := 0
  rootLo : W32 := 0
  rootHi : W32 := 0
  invalLo : W32 := 0
  invalHi : W32 := 0
  tbs : SMap (List TbEntry) := []
  caches : SMap WalkCache := []
  counts : SMap W32 := []
  deriving DecidableEq, Repr

/-- A frame of the CSU area (R253): a physical line, valid and hit bits per sector, its 64 words, and the active stream to which each sector
belongs (R251). -/
structure CFrame where
  line : BitVec 32
  valid : BitVec 4
  hit : BitVec 4
  data : List QW
  own : SMap (Option (BitVec 4)) := []
  /-- The words whose parity bit does not match (R50, R256; log entry 66). -/
  wrong : BitVec 64 := 0
  /-- Its place in the CSU area, in frames from its start: the lowest that was free (log entry 66). -/
  slot : Nat := 0
  deriving DecidableEq, Repr

/-- A prefetch stream (R249, R250): its span as rows of (address, bytes), the sector it issues next, and whether it has
stopped (R252). -/
structure Stream where
  start : VA
  rows : List (VA × Nat)
  stopped : Bool := false
  /-- When it last issued or was hit, by the CSU's own count of such events (R250). -/
  used : Nat := 0
  /-- The 2 MiB pages of its span of which a walk has failed: it stops before them (R252). -/
  barred : List Nat := []
  deriving DecidableEq, Repr

/-- A prefetch in flight (R251, R254): its line and sectors, the line's words as its controller served them or the status it was
turned away with, the demands that wait for it, whether its stream was cancelled since, whether it is still active, and whether a write of
its own cluster has passed its line since (R255). -/
structure PfReq where
  stream : BitVec 4
  line : BitVec 32
  sectors : BitVec 4
  data : List QW
  demanded : BitVec 4 := 0
  cancelled : Bool := false
  live : Bool := true
  stale : Bool := false
  status : BitVec 16 := 0
  seq : Nat := 0
  deriving DecidableEq, Repr

/-- A merge window (R248): its line, whether it merges writes, the sectors it covers, NOALLOC of its page, and whether a read in it was
translated through an entry that has been dropped since (R236). -/
structure MWin where
  line : BitVec 32
  write : Bool
  sectors : BitVec 4
  noalloc : Bool := false
  inval : Bool := false
  deriving DecidableEq, Repr

/-- A cluster stream unit (R246 to R260). Frames stand most recently used first. -/
structure Csu where
  cfg : W32 := 0x04008010
  streams : SMap (Option Stream) := []
  frames : List CFrame := []
  inflight : List PfReq := []
  wins : List MWin := []
  clock : Nat := 0
  /-- The stream that issued last (R251). -/
  turn : BitVec 4 := 15
  counts : SMap W32 := []
  deriving DecidableEq, Repr

/-- A channel of the seam as the side that receives on it sees it (R200): its transfer number, the run of failed replays, and the
transfers that its sender keeps because they have not been acknowledged, oldest first; new traffic follows them. -/
structure SeamCh where
  seq : BitVec 10 := 0
  fails : Nat := 0
  kept : List SeamPath := []
  deriving DecidableEq, Repr

/-- A half: CORE_SEL per control port (R114), PIPE_POLICY (R116), NET_CTRL and the audit registers (R207), the fenced mesh
links (R194), and its side of the seam (R207). -/
structure Half where
  sel : SMap (BitVec 11) := []
  policy : Bool := false
  /-- The generation that is current in the half's cores (R380). -/
  gen : BitVec 16 := 0
  netCtrl : W32 := 2
  auditTurn : W32 := 0
  auditCount : BitVec 16 := 0
  auditLink : W32 := 0
  auditDiff : W32 := 0
  meshFenced : List W32 := []
  /-- The routers, 8 × row + column, that the half-mesh tables avoid (R197). -/
  avoid : List Nat := []
  /-- A REMAP that has been accepted takes effect when the quiesce point ends (R197, R382). -/
  remap : Bool := false
  /-- The audit of this turn is running (R193). -/
  auditing : Option W32 := none
  seamUp : Bool := false
  seamStilled : Bool := false
  seamActive : BitVec 34 := 0
  seamFenced : BitVec 34 := 0
  /-- The row that each active channel serves (R199). -/
  seamRow : SMap (BitVec 2) := []
  seamCh : SMap SeamCh := []
  /-- The counts of the half under their register offsets (R207). -/
  counts : SMap W32 := []
  deriving DecidableEq, Repr

end Sys2Proof.Machine
end

