-- ==== Sys2Proof/Machine/State.lean ====
section
/-! DEFINITION. The state of the Triat: every unit's registers, stores and queues, what is in flight between them, and the
queue of commands that wait. Indexed units are maps whose unlisted keys read as the unit's reset value. -/

namespace Sys2Proof.Machine

open Sys2Proof

/-- The three parts (R18). -/
inductive Part where
  | gt4096F | gt4096S | gt2048H
  deriving DecidableEq, Repr

/-- The Triat. -/
structure State where
  /-- The commands that wait, first in, first out (the model's own). -/
  pending : List Instr := []
  /-- The part this Triat is (R18), as fused. -/
  part : Part := .gt4096F
  /-- CAP_CLUSTERS by half (R20, R27). -/
  backed : SMap W32 := []
  /-- Logical cores by ID (R22). -/
  cores : SMap Core := []
  /-- Clusters, under 32 × half + logical cluster. -/
  clusters : SMap Cluster := []
  halves : SMap Half := []
  /-- Memory controllers by stack. -/
  mcs : SMap Mc := []
  /-- External memory by physical address. -/
  mem : Mem := {}
  xl : Xlat := {}
  /-- Cluster stream units, under the cluster's key. -/
  csus : SMap Csu := []
  net : Net := {}
  /-- Fabric ports 0 to 15, CP0 16 and CP1 17. -/
  ports : SMap Port := []
  fab : Fab := {}
  coll : Coll := {}
  sec : Resil := {}
  flash : Flash := {}
  ctl : Ctl := {}
  sh : Shaft := {}
  pwr : Power := {}
  lock : Sec := {}
  tap : Tap := {}
  /-- What the ports have put out, latest first (the model's own). -/
  out : List Out := []
  /-- How many free values have been taken (the model's own, log entry 5). -/
  fresh : Nat := 0
  deriving DecidableEq, Repr

/-- Faults: none. No rule of the manual stops the Triat as a whole, and every command ends in a next state. -/
inductive Fault where
  /-- Raised by nothing; it is here because the type may not be empty of names. -/
  | none_
  deriving DecidableEq, Repr

/-- Refusals. -/
inductive Refusal where
  /-- An arm of `exec` whose command has no meaning yet, named by its mnemonic; safe: nothing is claimed of it. -/
  | notModelled (mnemonic : String)
  deriving DecidableEq, Repr

/-- The Triat right after a whole-module reset: every map empty, so that every unit is at its reset values; no command
waits; the start-up has not begun (BOOT_STATUS.STEP 0). -/
def State.reset : State := {}

end Sys2Proof.Machine
end

