-- ==== Sys2Proof/Machine/Link.lean ====
section
/-! DEFINITION. Sending on the ports (R268 to R270): frames, credits and the replay buffer; LINK frames; and notifications
(R363, R364). -/

namespace Sys2Proof.Machine

open Sys2Proof

/-- Adds `n` to the count at an offset, modulo 2^32. -/
def bump (m : SMap W32) (off n : Nat) : SMap W32 := if n = 0 then m else SMap.upd 0 m off (· + w32 n)

/-- Port states (R273). -/
def psOff : BitVec 4 := 0
def psDark : BitVec 4 := 1
def psAcquire : BitVec 4 := 2
def psDeskew : BitVec 4 := 3
def psIdent : BitVec 4 := 4
def psHeld : BitVec 4 := 5
def psActive : BitVec 4 := 6
def psResume : BitVec 4 := 7
def psFailed : BitVec 4 := 8

namespace State

/-- Port `p`: a fabric port 0 to 15, or CP0 16, CP1 17. -/
def port (s : State) (p : Nat) : Port := SMap.get {} s.ports p
def setPort (s : State) (p : Nat) (v : Port) : State := { s with ports := SMap.set {} s.ports p v }
def updPort (s : State) (p : Nat) (f : Port → Port) : State := s.setPort p (f (s.port p))

/-- Records what a port puts out. -/
def emit (s : State) (o : Out) : State := { s with out := o :: s.out }

/-- Sends a LINK frame (R268). -/
def link (s : State) (p : Nat) (f : LinkFrame) : State := s.emit (.link p f)

end State

def Port.count (p : Port) (off n : Nat) : Port := { p with counts := bump p.counts off n }

/-- POOL_CFG_c at reset (R290). -/
def poolReset (c : Nat) : W32 := if c < 6 then w32 (288 + 288 * 2 ^ 16) else w32 (160 + 160 * 2 ^ 16)

def Port.poolCfg (p : Port) (c : Nat) : W32 := SMap.get (poolReset c) p.pools c

/-- The slots of a pool, numbered 2 × class + VC (R268, R270); a control port has two pools of 2,048 (R288). -/
def Port.poolSize (p : Port) (n pool : Nat) : Nat :=
  if 16 ≤ n then (if pool < 2 then 2048 else 0)
  else if pool % 2 = 0 then bits (p.poolCfg (pool / 2)) 11 0 else bits (p.poolCfg (pool / 2)) 27 16

/-- CRC-32C (R268, R349), with the usual reflected form (log entry 26). -/
def crc32cBit (c : W32) : W32 := if c.getLsbD 0 then (c >>> 1) ^^^ 0x82F63B78 else c >>> 1
def crc32cByte (c : W32) (b : Byte) : W32 := (List.range 8).foldl (fun c _ => crc32cBit c) (c ^^^ b.setWidth 32)
def crc32c (bs : List Byte) : W32 := ~~~(bs.foldl crc32cByte (BitVec.allOnes 32))

/-- The bytes of words, lowest first. -/
def wordBytes (ws : List W32) : List Byte := ws.flatMap fun w => (leBytes 4 w.toNat).map (·.b)

/-- The header of a fabric packet (R281). -/
def Pkt.header (p : Pkt) : List W32 :=
  let h := p.h
  [w32 (h.dstDev.toNat + h.srcDev.toNat * 2 ^ 16), lo32 (h.addr.setWidth 64),
   w32 (bits h.addr 47 32 + p.op.toNat * 2 ^ 16 + h.cls.toNat * 2 ^ 24 + h.hops.toNat * 2 ^ 27 + flag p.resp 31),
   w32 (h.job.toNat + h.count.toNat * 2 ^ 8 + h.len.toNat * 2 ^ 16 + flag h.stepAbort 29 + flag h.last 30), h.seq,
   w32 (h.tag.toNat + h.status.toNat * 2 ^ 16), lo32 h.poison, hi32 h.poison]

/-- A control packet that the Triat sends (R356, R357): its header, payload and CRC-32C. -/
def ctlBytes (kind code tag : Nat) (lenW : Nat) (w2 w3 : W32) (payload : List Byte) : List Byte :=
  let bs := wordBytes [w32 (1 + kind * 2 ^ 8 + code * 2 ^ 16), w32 (tag + lenW % 2 ^ 11 * 2 ^ 16), w2, w3] ++ payload
  bs ++ wordBytes [crc32c bs]

/-- The bytes of a body (R281, R356, R357, R372). -/
def FBody.encode : FBody → List Byte
  | .fab p => wordBytes p.header ++ p.data
  | .reply op tag st shaft ws => ctlBytes 0x80 op.toNat tag.toNat ws.length (st.setWidth 32) shaft (wordBytes ws)
  | .note n => ctlBytes 0x81 n.code.toNat 0 n.words.length 0 n.seq (wordBytes n.words)
  | .bulk op tag offset mask d =>
    ctlBytes 0x02 op.toNat tag.toNat (2 + d.length / 4) (lo32 offset) (hi32 offset) (wordBytes [lo32 mask, hi32 mask] ++ d)

/-- Bytes of a body (R281, R356, R357, R372). -/
def FBody.bytes : FBody → Nat
  | .fab p => 32 + p.data.length
  | .reply _ _ _ _ ws => 20 + 4 * ws.length
  | .note n => 20 + 4 * n.words.length
  | .bulk _ _ _ _ d => 28 + d.length

/-- Bytes of a frame: header, body, padding to a multiple of 16, and CRC (R268). -/
def frameBytes (b : Option FBody) : Nat := (16 + (b.map FBody.bytes).getD 0 + 4 + 15) / 16 * 16

/-- The CRC-32C of a frame of TYPE PACKET or IDLE (R268): over the link header, the body and the padding. -/
def frameCrc (seq ack : W32) (pool : BitVec 4) (credits : BitVec 12) (b : Option FBody) : W32 :=
  let body := (b.map FBody.encode).getD []
  crc32c (wordBytes [seq, ack, w32 (flag b.isNone 0 + pool.toNat * 2 ^ 8 + credits.toNat * 2 ^ 12), 0] ++ body ++
    List.replicate (frameBytes b - 20 - body.length) 0)

/-- Slots of a frame (R270). -/
def frameSlots (b : Option FBody) : Nat := (frameBytes b + 255) / 256

/-- Bytes in the replay buffer (R269). -/
def Port.retained (p : Port) : Nat := (p.sent.map fun t => frameBytes t.body).sum

/-- A frame with this body may be sent now: the port is ACTIVE, holds credit for all its slots, and has room to retain it. -/
def Port.canSend (p : Port) (pool : BitVec 4) (b : FBody) : Bool :=
  decide (p.st = psActive ∧ frameSlots (some b) ≤ SMap.get 0 p.credit pool.toNat ∧
    p.retained + frameBytes (some b) ≤ 2 ^ 20)

/-- The credits that the next frame returns: those owed of the lowest pool that has some (R268). -/
def Port.returns (p : Port) : BitVec 4 × Nat :=
  match p.owed with
  | [] => (0, 0)
  | (k, n) :: _ => (BitVec.ofNat 4 k, n ⊓ 4095)

/-- Puts a frame on the fibre, with the ACK of the moment (R268, R269). -/
def State.putFrame (s : State) (n : Nat) (ack : W32) (t : Sent) : State :=
  s.emit (.frame n t.seq ack t.gives t.credits t.body (frameCrc t.seq ack t.gives t.credits t.body))

/-- A reply to SHAFT_SYNC tells as T3 the count at which it crosses the transmitter (R374). -/
def FBody.stamped (count : W64) : FBody → FBody
  | .reply op tag st shaft ws =>
    .reply op tag st shaft (if op = 0x0021 ∧ ws.length = 6 then ws.take 4 ++ [lo32 count, hi32 count] else ws)
  | b => b

/-- The IDENT notification (R364). -/
def FBody.isIdent : FBody → Bool
  | .note n => decide (n.code = 1)
  | _ => false

/-- Step 4 of start-up ends when IDENT has gone out (R386). -/
def State.identSent (s : State) (b : Option FBody) : State :=
  if s.ctl.step = 4 ∧ b.any FBody.isIdent then { s with ctl := { s.ctl with step := 5 } } else s

/-- Sends a frame of TYPE PACKET, or IDLE without a body: it takes the next SEQ and is kept until acknowledged (R269). -/
def State.sendFrame (s : State) (n : Nat) (pool : BitVec 4) (b : Option FBody) : State :=
  let p := s.port n
  let r := p.returns
  let b := b.map (FBody.stamped s.sh.count)
  let sent : Sent := { seq := p.txSeq, pool := pool, gives := r.1, credits := BitVec.ofNat 12 r.2, body := b }
  let s := (s.putFrame n p.rxSeq sent).identSent b
  let p := if b.isSome then (p.count 0x100 1).count 0x128 1 else p
  let used := if b.isSome then frameSlots b else 0
  s.setPort n { p with
    txSeq := p.txSeq + 1, sent := p.sent ++ [sent],
    credit := SMap.upd 0 p.credit pool.toNat (· - used),
    owed := SMap.upd 0 p.owed r.1.toNat (· - r.2) }

/-- Returns receive slots to a pool's partner (R270). -/
def State.giveBack (s : State) (ret : Option (Nat × BitVec 4 × Nat)) : State :=
  match ret with
  | none => s
  | some (n, pool, k) => s.updPort n fun p => { p with owed := SMap.upd 0 p.owed pool.toNat (· + k) }

/-- Sends what waits, in order within each pool. `kept` holds what still waits. -/
def State.drainFrom (s : State) (n : Nat) : List QItem → List QItem → State
  | [], kept => s.updPort n fun p => { p with queue := kept }
  | q :: rest, kept =>
    if (s.port n).canSend q.pool q.body && !(kept.any fun k => decide (k.pool = q.pool)) then
      ((s.sendFrame n q.pool (some q.body)).giveBack q.ret).drainFrom n rest kept
    else s.drainFrom n rest (kept ++ [q])

def State.drain (s : State) (n : Nat) : State := s.drainFrom n (s.port n).queue []

/-- Hands a body to a port (R268 to R270). -/
def State.enqueue (s : State) (n : Nat) (q : QItem) : State :=
  (s.updPort n fun p => { p with queue := p.queue ++ [q] }).drain n

/-- A control port's pools (R288, log entry 22): requests and notifications in pool 0, replies and BULK_DATA in pool 1. -/
def cpRequestPool : BitVec 4 := 0
def cpReplyPool : BitVec 4 := 1

/-! ### Notifications -/

/-- A port takes new packets: it is ACTIVE, and its partner is not being declared down (R277). -/
def Port.live (p : Port) : Bool := decide (p.st = psActive) && !p.down

/-- The port holds a partner. -/
def State.holdsPartner (s : State) (n : Nat) : Bool :=
  let p := s.port n
  decide (p.st = psHeld ∨ p.st = psActive ∨ (p.st = psResume ∧ p.down = false))

/-- The control port that notifications take: the one NOTIFY_CTRL names, else the other, where ACTIVE (R363). -/
def State.notePort (s : State) : Option Nat :=
  let a := if s.ctl.notifyPort then 17 else 16
  let b := if s.ctl.notifyPort then 16 else 17
  if (s.port a).live then some a else if (s.port b).live then some b else none

/-- Hands every notification that waits to its port. -/
def State.pumpNotes (s : State) : State :=
  match s.notePort with
  | none => s
  | some n =>
    let ns := s.ctl.notes
    let sent := (ns.getLast?.map (·.seq)).getD s.ctl.noteSent
    ns.foldl (fun s x => s.enqueue n { pool := cpRequestPool, body := .note x })
      { s with ctl := { s.ctl with notes := [], noteSent := sent } }

/-- A notification. -/
def FBody.isNote : FBody → Bool
  | .note _ => true
  | _ => false

/-- Notifications that wait for a port: at the miller, or in a control port's queue (R363). -/
def State.notesWaiting (s : State) : Nat :=
  s.ctl.notes.length + (((s.port 16).queue ++ (s.port 17).queue).countP fun q => q.body.isNote)

/-- Sends a notification: two words of shaft count, then the fields (R363, R364). With 512 waiting it is lost and counted; its
number is used up either way, so that the gap shows. -/
def State.notify (s : State) (code : BitVec 16) (words : List W32) : State :=
  let k := s.ctl.noteSeq + 1
  let note : Note := { code := code, seq := k, words := lo32 s.sh.count :: hi32 s.sh.count :: words }
  if s.notesWaiting < 512 then
    ({ s with ctl := { s.ctl with noteSeq := k, notes := s.ctl.notes ++ [note] } }).pumpNotes
  else { s with ctl := { s.ctl with noteSeq := k, counts := bump s.ctl.counts 0x210 1 } }

/-- A report to the control node for which R364 lists no code: under a free one (log entry 79). -/
def State.report (s : State) (rule : Nat) (words : List W32) : State := s.notify (Config.reportCode rule) words

end Sys2Proof.Machine
end

