-- ==== Sys2Proof/Machine/Flags.lean ====
section
/-! DEFINITION. Flag computations: the states of accumulator cells with the flags of their tile (R66 to R74), the sources
PSEEN and NFSEEN and the conversion saturation count (R37, R72, R113), and the comparators (R111). -/

namespace Sys2Proof.Machine

open Sys2Proof

/-! ### Counts and sources of a core -/

/-- Adds `n` to the count at offset `off`, modulo 2^32 (R117). -/
def Core.count (c : Core) (off n : Nat) : Core :=
  if n = 0 then c else { c with counts := SMap.upd 0 c.counts off (· + w32 n) }

/-- Applies what a command's conversions and results did: CONV_SAT (R37), PSEEN and NFSEEN (R113). -/
def Core.effect (c : Core) (e : Eff) : Core :=
  { c.count 0x30C e.sat with pseen := c.pseen || e.ps, nfseen := c.nfseen || e.nf }

/-! ### Comparators and predicates -/

/-- The relation `rel` of R111 between two counter values; 6 and 7 never hold (they cannot be written). -/
def cmpRel (rel : Nat) (signed : Bool) (a b : W32) : Bool :=
  let lt := if signed then a.slt b else a.ult b
  match rel with
  | 0 => a == b
  | 1 => a != b
  | 2 => lt
  | 3 => lt || a == b
  | 4 => !lt && a != b
  | 5 => !lt
  | _ => false

/-- Counter Cn. -/
def Core.cnt (c : Core) (n : Nat) : W32 := SMap.get 0 c.ctr n
def Core.setCnt (c : Core) (n : Nat) (v : W32) : Core := { c with ctr := SMap.set 0 c.ctr n v }

/-- Comparator Kn's result for the counters as they stand (R111). -/
def Core.cmpResult (c : Core) (n : Nat) : Bool :=
  let k := SMap.get {} c.cmps n
  let b := if bit k.cfg 7 then k.imm else c.cnt (bits k.cfg 10 8)
  cmpRel (bits k.cfg 2 0) (bit k.cfg 3) (c.cnt (bits k.cfg 6 4)) b

/-- A predicate source (R112), for source 0 to 6. -/
def Core.predSource (c : Core) (src : Nat) : Bool :=
  match src with
  | 0 => true
  | 5 => c.pseen
  | 6 => c.nfseen
  | k => c.cmpResult (k - 1)

/-! ### Accumulator cells -/

namespace ACell

def hi (c : ACell) : FVal := FpFmt.fp32.decode (c.bits.toNat % 2 ^ 32)
def lo (c : ACell) : FVal := FpFmt.fp32.decode (c.bits.toNat / 2 ^ 32)

/-- A cell that holds the pair (hi, lo). -/
def ofPair (hi lo : FVal) (st : BitVec 2) : ACell :=
  { bits := BitVec.ofNat 64 ((FpFmt.fp32.encode false hi).code + 2 ^ 32 * (FpFmt.fp32.encode false lo).code), st := st }

/-- POISONED (R70). -/
def poisoned (int : Bool) : ACell :=
  if int then { bits := 0x8000000000000000, st := 3 } else ofPair .nan .nan 3

/-- NONFINITE (R70). -/
def nonfinite : ACell := ofPair .nan .nan 2

/-- SATURATED (R70). -/
def saturated (int neg : Bool) : ACell :=
  if int then { bits := if neg then 0x8000000000000000 else 0x7FFFFFFFFFFFFFFF, st := 1 }
  else ofPair (FpFmt.fp32.decode (FpFmt.fp32.signBit neg + FpFmt.fp32.maxCode)) .zero 1

/-- A product below 2^-126 is rounded into FP32; every other one is taken exactly (R69). -/
def product (p : FVal) : FVal :=
  if (p.abs).lt (.fin false 1 (-126)) then FpFmt.fp32.roundIeee p else p

/-- |p| exceeds the largest finite FP32. -/
def tooLarge (p : FVal) : Bool := (FpFmt.fp32.decode FpFmt.fp32.maxCode).lt p.abs

/-- One float step of a cell on a finite product, the cell being NORMAL: R69, or SATURATED under R71. -/
def addFloat (first : Bool) (p : FVal) (c : ACell) : ACell :=
  let p' := product p
  if first then
    if tooLarge p' then saturated false p.isNeg else ofPair p' .zero 0
  else
    let r := FpFmt.fp32.twoSum c.hi c.lo p'
    if tooLarge p' || !r.1.isFin || !r.2.isFin then saturated false ((c.hi.add c.lo).add p).isNeg
    else ofPair r.1 r.2 0

/-- One integer step of a NORMAL cell (R74). -/
def addInt (p : Int) (c : ACell) : ACell :=
  let s := c.bits.toInt + p
  if 2 ^ 63 ≤ s then saturated true false
  else if s < -(2 ^ 63) then saturated true true
  else { bits := BitVec.ofInt 64 s }

/-- One step of a cell: the first matching row of R71. `first` is the first step of a command with ACC = 0, which writes the
cell (R67); `poison`: either operand element is poisoned. -/
def step (int first poison : Bool) (p : FVal) (c : ACell) : ACell :=
  let c := if first then {} else c
  if poison then poisoned int
  else if c.st = 3 then c
  else if int then
    if c.st = 1 then c else c.addInt (p.toInt true)
  else if !p.isFin then nonfinite
  else if c.st = 2 then c
  else if c.st = 1 then c
  else c.addFloat first p

end ACell

/-! ### Tiles -/

namespace Tile

/-- The 256 cells in row order. -/
def list (t : Tile) : List ACell := (List.range 256).map fun i => SMap.get {} t.cells i

/-- Cells in row order as a map in canonical form. -/
def ofList (l : List ACell) : SMap ACell :=
  ((List.range l.length).zip l).filter fun e => decide (e.2 ≠ {})

/-- Sets the flags of the states that cells enter on the way from `old` to `new` (R72). -/
def flagsFrom (t : Tile) (old new : List ACell) : Tile :=
  let entered (st : BitVec 2) := (old.zip new).any fun e => decide (e.1.st ≠ st ∧ e.2.st = st)
  { t with sat := t.sat || entered 1, nf := t.nf || entered 2, psn := t.psn || entered 3 }

/-- The product of a cell sets NF (R52, R71): it is NaN or infinite, no operand is poisoned, and the cell is not. -/
def setsNf (first : Bool) (p : FVal × Bool) (c : ACell) : Bool := !p.1.isFin && !p.2 && (first || decide (c.st ≠ 3))

/-- One step: `ps` holds each cell's product and whether an operand was poisoned. -/
def step (t : Tile) (first : Bool) (ps : List (FVal × Bool)) (cells : List ACell) : Tile × List ACell :=
  let new := List.zipWith (fun (e : FVal × Bool) c => ACell.step t.int first e.2 e.1 c) ps cells
  let t := t.flagsFrom (if first then cells.map (fun _ => {}) else cells) new
  ({ t with nf := t.nf || (List.zipWith (setsNf first) ps cells).any id }, new)

/-- The steps of a command, in order; the first overwrites where `ow`. -/
def steps (t : Tile) (ow : Bool) (cells : List ACell) : List (List (FVal × Bool)) → Tile × List ACell
  | [] => (t, cells)
  | ps :: rest =>
    let r := t.step ow ps cells
    r.1.steps false r.2 rest

/-- A product command's whole effect on its tile (R67): with ACC = 0 the mode is set and the flags are cleared; no step with
ACC = 0 leaves the reset state in the command's mode. -/
def run (t : Tile) (acc int : Bool) (prods : List (List (FVal × Bool))) : Tile :=
  let t0 : Tile := if acc then t else { int := int }
  let r := t0.steps (!acc) (if acc then t.list else List.replicate 256 {}) prods
  { r.1 with cells := ofList r.2 }

/-- Cells in state `st`. -/
def cellsIn (t : Tile) (st : BitVec 2) : Nat := (t.cells.filter fun e => decide (e.2.st = st)).length

/-- Every cell POISONED and PSN set (R73). -/
def poisonAll (t : Tile) : Tile :=
  { t with psn := true, cells := ofList (List.replicate 256 (ACell.poisoned t.int)) }

end Tile

/-- The products of a column and a row, in row order of the tile (R56). -/
def outer (a b : List MV) : List (FVal × Bool) := a.flatMap fun x => b.map fun y => (x.v.mul y.v, x.p || y.p)

/-- The sum of two steps' products, for BS4 × BS4 (R57). -/
def pairSum (p q : List (FVal × Bool)) : List (FVal × Bool) :=
  List.zipWith (fun x y => (x.1.add y.1, x.2 || y.2)) p q

/-- Joins the steps of BS4 × BS4 in pairs. -/
def pairSteps : List (List (FVal × Bool)) → List (List (FVal × Bool))
  | p :: q :: t => pairSum p q :: pairSteps t
  | l => l

/-! ### Bedstones -/

namespace Bed

/-- Where the scale of element (r, c) stands in the side store (R61): per row, per column, or per block of 32 rows. -/
def scaleKey (b : Bed) (r c : Nat) : Nat :=
  match b.scale.toNat with
  | 1 => r
  | 2 => c
  | _ => r / 32 * 1024 + c

/-- Element (r, c) with its scale applied (R62). -/
def elem (b : Bed) (r c : Nat) : MV :=
  let e := SMap.get (0, false) b.elems (1024 * r + c)
  let v := b.fmt.decodeElem e.1.toNat
  if b.scale = 0 then { v := v, p := e.2 }
  else
    let s := SMap.get {} b.scales (b.scaleKey r c)
    { v := v.mul (scaleVal s.b.toNat), p := e.2 || s.p }

/-- The 16 elements that a step reads at line `line` of the axis, from the first row `r0` and column `c0` (R62). -/
def line (b : Bed) (col : Bool) (r0 c0 line : Nat) : List MV :=
  (List.range 16).map fun i => if col then b.elem (r0 + i) line else b.elem line (c0 + i)

/-- R63: the lines up to `last` and the 16 elements across lie inside the array. -/
def inside (b : Bed) (col : Bool) (r0 c0 last : Nat) : Bool :=
  b.loaded &&
    (if col then decide (last < b.cols.toNat ∧ r0 + 15 < b.rows.toNat)
     else decide (last < b.rows.toNat ∧ c0 + 15 < b.cols.toNat))

/-- R61, with the combinations of R128 that fail. -/
def geometryOk (f : Fmt) (scale rows cols : Nat) : Bool :=
  let cap := match f with
    | .bs6 => 10240
    | .bs4 => 16384
    | .bf16 => 4096
    | _ => 8192
  decide (16 ≤ cols ∧ cols % 16 = 0 ∧ cols ≤ 1024 ∧ 16 ≤ rows ∧ rows ≤ 1024 ∧ rows * cols ≤ cap) &&
    decide (rows % (if f.isBs then 32 else 16) = 0) &&
    (match f with
     | .bs8 => decide (scale = 3 ∧ rows / 32 * cols ≤ 256)
     | .bs6 => decide (scale = 3 ∧ rows / 32 * cols ≤ 320)
     | .bs4 => decide (scale = 3 ∧ rows / 32 * cols ≤ 512)
     | .fp8e4 | .fp8e5 =>
       decide (scale = 0 ∨ (scale = 1 ∧ rows ≤ 512) ∨ (scale = 2 ∧ cols ≤ 512))
     | _ => decide (scale = 0))

end Bed

end Sys2Proof.Machine
end

