-- ==== Sys2Proof/Machine/Ops.lean ====
section
/-! DEFINITION. Shared operations: access to the units of State, presence (R18, R22, R23, R29), notifications (R363 to R365),
device memory (R209 to R231, R53), translation (R232 to R236) and image locks (R381). -/

namespace Sys2Proof.Machine

open Sys2Proof

/-! ### Units of the state -/

namespace State

def core (s : State) (c : Nat) : Core := SMap.get {} s.cores c
def setCore (s : State) (c : Nat) (v : Core) : State := { s with cores := SMap.set {} s.cores c v }
def updCore (s : State) (c : Nat) (f : Core → Core) : State := s.setCore c (f (s.core c))

def cluster (s : State) (k : Nat) : Cluster := SMap.get {} s.clusters k
def updCluster (s : State) (k : Nat) (f : Cluster → Cluster) : State :=
  { s with clusters := SMap.upd {} s.clusters k f }

def half (s : State) (h : Nat) : Half := SMap.get {} s.halves h
def updHalf (s : State) (h : Nat) (f : Half → Half) : State := { s with halves := SMap.upd {} s.halves h f }

def mc (s : State) (k : Nat) : Mc := SMap.get {} s.mcs k
def updMc (s : State) (k : Nat) (f : Mc → Mc) : State := { s with mcs := SMap.upd {} s.mcs k f }

def csu (s : State) (k : Nat) : Csu := SMap.get {} s.csus k
def updCsu (s : State) (k : Nat) (f : Csu → Csu) : State := { s with csus := SMap.upd {} s.csus k f }

end State

/-- The cluster key of a core: bits [11:6] of its ID, half and logical cluster (R22). -/
def clusterOf (c : CoreId) : Nat := c.toNat / 64
/-- The half of a core. -/
def halfOf (c : CoreId) : Nat := c.toNat / 2048

/-- Slot n of a core. -/
def Core.slot (c : Core) (n : Nat) : Slot := SMap.get {} c.slots n
def Core.setSlot (c : Core) (n : Nat) (v : Slot) : Core := { c with slots := SMap.set {} c.slots n v }
def Core.updSlot (c : Core) (n : Nat) (f : Slot → Slot) : Core := c.setSlot n (f (c.slot n))
/-- Some slot is RUNNING. -/
def Core.anyRunning (c : Core) : Bool := c.slots.any fun e => decide (e.2.st = 1)

/-- A core's ring. -/
def Core.ring (c : Core) (q : Nat) : Ring := SMap.get {} c.rings q
def Core.updRing (c : Core) (q : Nat) (f : Ring → Ring) : Core := { c with rings := SMap.upd {} c.rings q f }

/-- Every FETCH issued ahead is cancelled: what is left of its data at the end of its queue goes (R109). -/
def Core.cancelAhead (c : Core) : Core :=
  let c' := c.ahead.foldl (fun c a => c.updRing a.q.toNat fun r => { r with data := r.data.take (r.data.length - a.words) }) c
  ({ c' with ahead := [], raStop := none }).count 0x324 (c.ahead.filter fun (a : Ahead) => !a.dropped).length

def Cluster.count (c : Cluster) (off n : Nat) : Cluster := { c with counts := bump c.counts off n }
def Csu.count (c : Csu) (off n : Nat) : Csu := { c with counts := bump c.counts off n }
def Mc.count (c : Mc) (off n : Nat) : Mc := { c with counts := bump c.counts off n }
def Half.count (c : Half) (off n : Nat) : Half := { c with counts := bump c.counts off n }

/-! ### Presence -/

/-- STACK_PRESENT (R27). -/
def Part.stacks : Part → Nat
  | .gt4096F => 0xFFF
  | .gt4096S => 0x3CF
  | .gt2048H => 0x03F

/-- PORT_PRESENT (R27). -/
def Part.ports : Part → Nat
  | .gt4096F => 0xFFFF
  | .gt4096S => 0x3F3F
  | .gt2048H => 0x00FF

/-- CAP_UNITS (R27). -/
def Part.units : Part → Nat
  | .gt4096F => 0x1FF
  | .gt4096S => 0x0EF
  | .gt2048H => 0x0B1

namespace State

def unit (s : State) (k : Nat) : Bool := s.part.units.testBit k
/-- Half h is present (R18). -/
def hasHalf (s : State) (h : Nat) : Bool := decide (h < 2) && s.unit h
def hasSeam (s : State) : Bool := s.unit 2
def hasSlice (s : State) : Bool := s.unit 3
def hasMsa (s : State) : Bool := s.unit 4
def hasCe (s : State) (h : Nat) : Bool := decide (h < 2) && s.unit (5 + h)
def hasStack (s : State) (k : Nat) : Bool := decide (k < 12) && s.part.stacks.testBit k
/-- Fabric ports 0 to 15; 16 and 17 are CP0 and CP1. -/
def hasPort (s : State) (p : Nat) : Bool :=
  if p < 16 then s.part.ports.testBit p else decide (p < 18) && s.unit (7 + (p - 16))
/-- The stacks present, ascending (R222). -/
def stackList (s : State) : List Nat := bitList 12 s.part.stacks
/-- Installed capacity in bytes (R26). -/
def capacity (s : State) : Nat := s.stackList.length * 72 * 2 ^ 30
/-- A logical cluster has a physical site: its CAP_CLUSTERS bit (R23). -/
def hasCluster (s : State) (k : Nat) : Bool :=
  s.hasHalf (k / 32) && (SMap.get 0 s.backed (k / 32)).getLsbD (k % 32)
/-- A logical core is present (R23). -/
def hasCore (s : State) (c : CoreId) : Bool := s.hasCluster (clusterOf c)
/-- The Triat has no power: in DORMANT only the wake detector works (R389). -/
def dormant (s : State) : Bool := decide (s.pwr.st = 4)
/-- The halves present. -/
def halfList (s : State) : List Nat := (List.range 2).filter s.hasHalf

end State

/-! ### Fault reports -/

/-- A physical address as two payload words (R364). -/
def paWords (pa : PA) : List W32 := [pa.setWidth 32, (pa >>> 32).setWidth 32]

/-- A CORE_FAULT notification (R365). -/
def State.coreFault (s : State) (core : CoreId) (slot : BitVec 2) (opcode : Byte) (ptr : VA) (i : FaultInfo) : State :=
  s.notify 0x0003
    [w32 (core.toNat + slot.toNat * 2 ^ 12 + opcode.toNat * 2 ^ 16), i.status.setWidth 32,
      ptr.setWidth 32, (ptr >>> 32).setWidth 32,
      i.va.setWidth 32, w32 ((i.va >>> 32).toNat + i.cause.toNat * 2 ^ 16), i.tok]

/-- A packet to this core is answered FENCED: it is fenced, or its half is under reset (R196, R379). -/
def State.fencedCore (s : State) (k : Nat) : Bool := (s.core k).fenced || s.ctl.fnReset.getLsbD (1 + k / 2048)

/-- A command of a slot failed (R102): the slot becomes FAULTED unless it is, keeping its first failure; the failure is
reported either way, unless the core is fenced. DEDUCED (log entry 74): what is left of a fused group is dropped, and
the pointer stays where it is, behind the group, where a token that returns fails the slot (R161). -/
def State.failSlot (s : State) (site : Site) (opcode : Byte) (i : FaultInfo) : State :=
  let c := s.core site.core.toNat
  if c.fenced then s
  else
    let sl := c.slot site.slot.toNat
    let s := if sl.st = 3 then s
      else s.setCore site.core.toNat (c.setSlot site.slot.toNat
        { sl with st := 3, fault := w32 (opcode.toNat * 2 ^ 16 + i.status.toNat), stop := false, swap := none, group := none }).cancelAhead
    s.coreFault site.core site.slot opcode sl.ptr i

/-- Tokens held back at a core go home to their senders (R161, R192); the collective engines', which have none, end (log entry 24). -/
def State.returnHeld (s : State) (core : Nat) : State :=
  let ts := (s.core core).held.filter fun t => t.src.isSome
  { s with net := { s.net with returning := s.net.returning ++ ts } }.updCore core fun c => { c with held := [] }

/-! ### Physical placement (R222, R223) -/

/-- Where a physical address lies: stack, stack offset. -/
structure Place where
  stack : Nat
  off : Nat
  deriving DecidableEq, Repr

/-- R222. -/
def State.place (s : State) (pa : Nat) : Place :=
  let st := s.stackList
  let n := st.length
  let c := pa / (n * 2 ^ 30)
  let o := pa % (n * 2 ^ 30)
  let base := c * 2 ^ 30
  if s.xl.mode.getLsbD c && s.part ≠ .gt2048H then
    let k := n / 2
    let upper := decide (k * 2 ^ 30 ≤ o)
    let o' := if upper then o - k * 2 ^ 30 else o
    let u := o' / 4096
    { stack := nth 0 st (u % k + (if upper then k else 0)), off := base + u / k * 4096 + o' % 4096 }
  else
    let u := o / 4096
    { stack := nth 0 st (u % n), off := base + u / n * 4096 + o % 4096 }

/-- The inverse of `place`: the physical address of a stack offset (R222). -/
def State.paOf (s : State) (p : Place) : Nat :=
  let st := s.stackList
  let n := st.length
  let c := p.off / 2 ^ 30
  let o := p.off % 2 ^ 30
  let i := (st.filter fun k => decide (k < p.stack)).length
  let base := c * (n * 2 ^ 30)
  if s.xl.mode.getLsbD c && s.part ≠ .gt2048H then
    let k := n / 2
    base + (if k ≤ i then k * 2 ^ 30 else 0) + (o / 4096 * k + i % k) * 4096 + o % 4096
  else base + (o / 4096 * n + i) * 4096 + o % 4096

/-- The channel of a stack offset (R223). -/
def channelOf (off : Nat) : Nat :=
  let q := off / 4096
  (q % 16) ^^^ (q / 16 % 16) ^^^ (q / 256 % 16)

/-- Bank group, bank, rank, row and sector of a stack offset (R223), as LICHEN records them. -/
structure Loc where
  stack : Nat
  channel : Nat
  rank : Nat
  bank : Nat
  row : Nat
  sector : Nat
  deriving DecidableEq, Repr

/-- R223; `bank` counts 4 × bank group + bank. -/
def locOf (p : Place) : Loc :=
  let q := p.off / 4096
  let w := p.off % 4096
  let v := q / 16
  let pr := v % 8
  { stack := p.stack, channel := channelOf p.off, rank := v / 8 % 12,
    bank := 4 * (2 * (pr / 4) + (if w < 2048 then 0 else 1)) + pr % 4,
    row := v / 96, sector := w % 2048 / 64 }

/-! ### The bytes of memory -/

/-- A byte that nothing has written reads 0 in its value bits (log entry 8). -/
def Mem.read (m : Mem) (a : Nat) : Byte := SMap.get 0 m.bytes a
/-- Writes one byte, keeping the canonical form. -/
def Mem.write (m : Mem) (a : Nat) (b : Byte) : Mem := { m with bytes := SMap.set 0 m.bytes a b }
/-- The sector of address `a` is poisoned (R53). -/
def Mem.poisoned (m : Mem) (a : Nat) : Bool := !SMap.get false m.clean (a / 64)
/-- Sets or clears the mark of the sector of `a`. -/
def Mem.setPoison (m : Mem) (a : Nat) (p : Bool) : Mem := { m with clean := SMap.set false m.clean (a / 64) (!p) }
/-- What the cells of the sector of `a` have shown since they were last written (R216). -/
def Mem.wrongAt (m : Mem) (a : Nat) : BitVec 3 := SMap.get 0 m.wrong (a / 64)
def Mem.setWrong (m : Mem) (a : Nat) (v : BitVec 3) : Mem := { m with wrong := SMap.set 0 m.wrong (a / 64) v }
/-- The sectors that `p` picks by their number become poisoned, with no request to a controller. -/
def Mem.dropMarks (m : Mem) (p : Nat → Bool) : Mem := { m with clean := SMap.dropWhere p m.clean, wrong := SMap.dropWhere p m.wrong }
/-- The canonical form of memory: rising addresses, and no entry equal to what an unlisted one reads as. -/
def Mem.wf (m : Mem) : Bool := SMap.wf 0 m.bytes && SMap.wf false m.clean && SMap.wf 0 m.wrong

/-- Writes bytes from address `a` up. -/
def Mem.writeBytes (m : Mem) (a : Nat) : List Byte → Mem
  | [] => m
  | b :: t => Mem.writeBytes (m.write a b) (a + 1) t

/-- The 16 words of the sector at `a`, as memory holds them, each with the sector's mark. -/
def Mem.sector (m : Mem) (a : Nat) : List QW :=
  let base := a / 64 * 64
  (List.range 16).map fun i =>
    ⟨m.read (base + 4 * i + 3) ++ m.read (base + 4 * i + 2) ++ m.read (base + 4 * i + 1) ++ m.read (base + 4 * i),
      m.poisoned a⟩

/-- A write into one sector (R53, R219): word i of `data` where bit i of `mask` is set. A poisoned written word poisons the
sector; a full sector of unpoisoned data clears its mark; a partial write leaves a poisoned sector poisoned. The cells are written
anew. -/
def Mem.writeSector (m : Mem) (a : Nat) (mask : BitVec 16) (data : List QW) : Mem :=
  let base := a / 64 * 64
  let ws := (List.range 16).filter fun i => mask.getLsbD i
  let m1 := ws.foldl (fun m i => m.writeBytes (base + 4 * i) ((nth {} data i).bytes.map (·.b))) m
  let bad := ws.any fun i => (nth {} data i).p
  let full := decide (mask = 0xFFFF)
  (m1.setPoison a (bad || (m.poisoned a && !full))).setWrong a 0

/-! ### Memory-side cache and prefetch directory (R227 to R231) -/

/-- The set of a line of 256 bytes of a stack (R227). -/
def mscSet (line : Nat) : Nat := (line % 1024) ^^^ (line / 1024 % 1024)

/-- Points the tree away from way `w`: the four nodes on its path (R227). -/
def treeTouch (t : BitVec 15) (w : Nat) : BitVec 15 :=
  let n1 := 0
  let n2 := 1 + w / 8
  let n3 := 3 + w / 4
  let n4 := 7 + w / 2
  let put (t : BitVec 15) (n : Nat) (b : Bool) : BitVec 15 := setBits t n n (if b then 1 else 0)
  put (put (put (put t n1 (w / 8 % 2 = 0)) n2 (w / 4 % 2 = 0)) n3 (w / 2 % 2 = 0)) n4 (w % 2 = 0)

/-- The way the tree points to. -/
def treeVictim (t : BitVec 15) : Nat :=
  let b (n : Nat) : Nat := if t.getLsbD n then 1 else 0
  let w3 := b 0
  let w2 := 2 * w3 + b (1 + w3)
  let w1 := 2 * w2 + b (3 + w2)
  2 * w1 + b (7 + w1)

namespace Mc

/-- The set of a line. -/
def set (m : Mc) (line : Nat) : MSet := SMap.get {} m.msc (mscSet line)
def putSet (m : Mc) (line : Nat) (x : MSet) : Mc := { m with msc := SMap.set {} m.msc (mscSet line) x }
/-- The way that holds a line. -/
def wayOf (m : Mc) (line : Nat) : Option Nat := ((m.set line).ways.find? fun e => decide (e.2.line = line)).map (·.1)
/-- The line's entry. -/
def lineOf (m : Mc) (line : Nat) : Option MLine := ((m.set line).ways.find? fun e => decide (e.2.line = line)).map (·.2)

/-- Sets the valid bit, and the dirty bit where `dirty`, of a sector of a line that is present, and which of its 16 words it holds
poisoned. -/
def enter (m : Mc) (line sec : Nat) (dirty : Bool) (bad : BitVec 16) : Mc :=
  match m.wayOf line, m.lineOf line with
  | some w, some l =>
    let x := m.set line
    let b : BitVec 4 := BitVec.ofNat 4 (2 ^ sec)
    m.putSet line { ways := SMap.put x.ways w (some { l with valid := l.valid ||| b, dirty := if dirty then l.dirty ||| b else l.dirty,
                                                             bad := setBits l.bad (16 * sec + 15) (16 * sec) bad.toNat }),
                    tree := treeTouch x.tree w }
  | _, _ => m

/-- The words of a sector that the cache holds poisoned; none: it does not hold the sector. -/
def held (m : Mc) (line sec : Nat) : Option (BitVec 16) :=
  match m.lineOf line with
  | some l => if l.valid.getLsbD sec then some (l.bad.extractLsb' (16 * sec) 16) else none
  | none => none

/-- The way that a new line takes: a free one, else the one that the tree points to. -/
def victim (m : Mc) (line : Nat) : Nat :=
  let x := m.set line
  ((List.range 16).find? fun w => !(x.ways.any fun e => decide (e.1 = w))).getD (treeVictim x.tree)

/-- Makes room for a line and enters it, writing back the victim's dirty sectors (R227). -/
def allocate (m : Mc) (line : Nat) : Mc :=
  let x := m.set line
  let w := m.victim line
  let back := match x.ways.find? fun e => decide (e.1 = w) with
    | some e => popcount 4 e.2.dirty.toNat
    | none => 0
  let m := (m.count 0x110 back).count 0x104 back
  m.putSet line { ways := SMap.put x.ways w (some { line := line, valid := 0, dirty := 0 }), tree := treeTouch x.tree w }

/-- Lines with a dirty sector (MSC_STATUS.DIRTY_LINES). -/
def dirtyLines (m : Mc) : Nat := (m.msc.map fun e => (e.2.ways.filter fun w => decide (w.2.dirty ≠ 0)).length).sum

/-- A flush (R230): every dirty sector is written back and every line stays valid and clean. -/
def flush (m : Mc) : Mc :=
  let n := (m.msc.map fun e => (e.2.ways.map fun w => popcount 4 w.2.dirty.toNat).sum).sum
  let m := (m.count 0x110 n).count 0x104 n
  { m with msc := m.msc.map fun e => (e.1, { e.2 with ways := e.2.ways.map fun w => (w.1, { w.2 with dirty := 0 }) }) }

end Mc

/-- The dirty sectors of a line that hold a poisoned word: a write-back writes them poisoned (R229). -/
def MLine.spoilt (l : MLine) : List Nat :=
  (bitList 4 l.dirty.toNat).filter fun i => decide (l.bad.extractLsb' (16 * i) 16 ≠ 0)

/-- The write-back of lines of a stack, as far as it changes marks. -/
def State.backMarks (s : State) (stack : Nat) (ls : List MLine) : State :=
  let as_ := ls.flatMap fun l => l.spoilt.map fun i => s.paOf { stack := stack, off := 256 * l.line + 64 * i }
  { s with mem := as_.foldl (fun m a => m.setPoison a true) s.mem }

/-- Makes room for a line in a stack's cache. -/
def State.mscAllocate (s : State) (stack line : Nat) : State :=
  let m := s.mc stack
  let old := ((m.set line).ways.filter fun e => decide (e.1 = m.victim line)).map (·.2)
  (s.backMarks stack old).updMc stack (·.allocate line)

/-- MSC_CTRL.FLUSH (R230). -/
def State.mscFlush (s : State) (stack : Nat) : State :=
  (s.backMarks stack ((s.mc stack).msc.flatMap fun e => e.2.ways.map (·.2))).updMc stack Mc.flush

/-- Bit of a CSU in a directory mask: 32 × HALF + logical cluster (R231). -/
def csuBit (k : Nat) : BitVec 64 := BitVec.ofNat 64 (2 ^ k)

/-- Sends an invalidation of a line to every CSU of a mask (R231). -/
def State.sendInvals (s : State) (line : BitVec 32) (mask : BitVec 64) (evict : Bool) (wid : Nat) : State :=
  let ks := bitList 64 mask.toNat
  { s with net := { s.net with
      invals := s.net.invals ++ ks.map fun k =>
        { csu := BitVec.ofNat 6 k, line := line, evict := evict, wid := wid, seq := s.net.seq },
      seq := s.net.seq + 1 } }

/-- Drops every copy of a line; unhit sectors count at `off` (R255). -/
def Csu.dropLine (c : Csu) (line : BitVec 32) (off : Nat) : Csu :=
  let n := (c.frames.map fun f => if f.line = line then popcount 4 (f.valid &&& ~~~ f.hit).toNat else 0).sum
  { c.count off n with frames := c.frames.filter fun f => decide (f.line ≠ line) }

/-- A write passes a line: its copies go at once, and what is in flight will not be kept (R255). -/
def Csu.passWrite (c : Csu) (line : BitVec 32) : Csu :=
  let c := c.dropLine line 0x20
  { c with inflight := c.inflight.map fun r => if r.line = line then { r with stale := true } else r }

/-- Invalidations that a write causes. Those of a core's STORE travel, and its acknowledgement waits for them under `wid`; any other write
is one step with its invalidations and their acknowledgements (R221, log entry 78). -/
def State.writeInvals (s : State) (line : BitVec 32) (mask : BitVec 64) (wid : Nat) : State :=
  if wid = 0 then (bitList 64 mask.toNat).foldl (fun s k => s.updCsu k (·.passWrite line)) s else s.sendInvals line mask false wid

/-- Invalidations of a line that are on their way arrive: a write that is one step with its invalidations waits for these too (R221). -/
def State.landInvals (s : State) (line : BitVec 32) : State :=
  let mine := s.net.invals.filter fun i => decide (i.line = line)
  mine.foldl (fun s i => s.updCsu i.csu.toNat fun c => (c.dropLine line (if i.evict then 0x1C else 0x20)).passWrite line)
    { s with net := { s.net with invals := s.net.invals.filter fun i => decide (i.line ≠ line) } }

/-- A write to a line clears its directory entry and invalidates the copies (R231). -/
def State.dirWrite (s : State) (stack line : Nat) (paLine : BitVec 32) (wid : Nat) : State :=
  let s := if wid = 0 ∧ s.net.invals ≠ [] then s.landInvals paLine else s
  let m := s.mc stack
  let es := SMap.get [] m.dir (mscSet line)
  match es.find? fun e => decide (e.line = paLine) with
  | none => s
  | some e =>
    let s := s.updMc stack fun m =>
      { m with dir := SMap.set [] m.dir (mscSet line) (es.filter fun e => decide (e.line ≠ paLine)) }
    (s.updMc stack fun m => m.count 0x118 (popcount 64 e.mask.toNat)).writeInvals paLine e.mask wid

/-- A prefetch read sets its CSU's bit in the directory, evicting the oldest of eight entries where it must (R231). -/
def State.dirRecord (s : State) (stack line : Nat) (paLine : BitVec 32) (csu : Nat) : State :=
  let m := s.mc stack
  let es := SMap.get [] m.dir (mscSet line)
  let put (l : List DirEntry) : State := s.updMc stack fun m => { m with dir := SMap.set [] m.dir (mscSet line) l }
  match es.find? fun e => decide (e.line = paLine) with
  | some e => put ({ e with mask := e.mask ||| csuBit csu } :: es.filter fun e => decide (e.line ≠ paLine))
  | none =>
    let s := put ({ line := paLine, mask := csuBit csu } :: es.take 7)
    match es.drop 7 with
    | [] => s
    | e :: _ =>
      (s.updMc stack fun m => m.count 0x11C (popcount 64 e.mask.toNat)).sendInvals e.line e.mask true 0

/-- Clears a controller's prefetch directory, sending the invalidations of an eviction (R230, R231). -/
def State.dirClear (s : State) (stack : Nat) : State :=
  let es := (s.mc stack).dir.flatMap (·.2)
  let s := s.updMc stack fun m => { m with dir := [] }
  es.foldl (fun s e => (s.updMc stack fun m => m.count 0x11C (popcount 64 e.mask.toNat)).sendInvals e.line e.mask true 0) s

/-- Flushes and invalidates a memory-side cache (R230). -/
def State.mscDrop (s : State) (stack : Nat) : State := (s.mscFlush stack).updMc stack fun m => { m with msc := [] }

/-! ### Counts -/

/-- Adds to a count of R355. -/
def State.countSec (s : State) (off n : Nat) : State := { s with sec := { s.sec with counts := bump s.sec.counts off n } }

end Sys2Proof.Machine
end

