-- ==== Sys2Proof/Machine/Lichen.lean ====
section
/-! DEFINITION. The lichen map (R349 to R352): records, their writing and clearing, compaction. -/

namespace Sys2Proof.Machine

open Sys2Proof

/-! ### Records (R350) -/

def lmCoreRetired : Nat := 1
def lmClusterRetired : Nat := 2
def lmSeam : Nat := 3
def lmLaneSpare : Nat := 4
def lmChannelFailed : Nat := 5
def lmWavelength : Nat := 6
def lmPoison : Nat := 7
def lmRowRepair : Nat := 8

/-- An erased record. -/
def lmErased : BitVec 128 := BitVec.allOnes 128

def lmType (r : BitVec 128) : Nat := bits r 7 0
def lmState (r : BitVec 128) : Nat := bits r 15 8
def lmLoc (r : BitVec 128) : BitVec 48 := r.extractLsb' 16 48

/-- A byte with its bits in the other order. -/
def flipByte (b : Byte) : Byte := BitVec.ofNat 8 ((List.range 8).map fun i => flag (b.getLsbD i) (7 - i)).sum

/-- CRC-16 with polynomial 0x1021 (R350), a byte at a time, its highest bit first. -/
def crc16Byte (c : BitVec 16) (b : Byte) : BitVec 16 :=
  (List.range 8).foldl (fun c _ => if c.getLsbD 15 then (c <<< 1) ^^^ 0x1021 else c <<< 1) (c ^^^ (b.setWidth 16 <<< 8))

/-- The CRC of a record, over bytes 0 and 2 to 13; its initial value and the order of bits are free (log entry 26). -/
def lmCrc (r : BitVec 128) : BitVec 16 :=
  let bs : List Byte := (List.range 14).filterMap fun i => if i = 1 then none else some (r.extractLsb' (8 * i) 8)
  let c := (if Config.crcReflected then bs.map flipByte else bs).foldl crc16Byte Config.crcInit
  if Config.crcReflected then flipByte (c.extractLsb' 0 8) ++ flipByte (c.extractLsb' 8 8) else c

/-- Valid, with its CRC. -/
def lmValid (r : BitVec 128) : Bool := decide (lmState r = 0xFE) && decide (r.extractLsb' 112 16 = lmCrc r)

/-- A new record. -/
def lmRecord (type : Nat) (loc : BitVec 48) (shaft : W64) : BitVec 128 :=
  let r : BitVec 128 := BitVec.ofNat 128 (type + loc.toNat * 2 ^ 16 + shaft.toNat % 2 ^ 48 * 2 ^ 64)
  setBits (setBits r 15 8 0xFE) 127 112 (lmCrc r).toNat

/-- A record cleared. -/
def lmCleared (r : BitVec 128) : BitVec 128 := setBits r 15 8 0

/-- Records of an area. -/
def lmRecords : Nat := 8188

def LmArea.record (a : LmArea) (i : Nat) : BitVec 128 := SMap.get lmErased a.recs i
def LmArea.free (a : LmArea) : Nat := lmRecords - a.recs.length

/-- The records that count, in order. -/
def LmArea.good (a : LmArea) : List (BitVec 128) := (a.recs.map (·.2)).filter lmValid

/-- The 64-byte header (R349): CRC-32C over its first 60 bytes. -/
def LmArea.header (a : LmArea) (serial : W64) : List W32 :=
  let ws : List W32 := [0x4843494C, a.gen, lo32 serial, hi32 serial] ++ List.replicate 11 0
  ws ++ [crc32c (wordBytes ws)]

namespace State

/-- The area in use. -/
def lm (s : State) : LmArea := if s.flash.useB then s.flash.b else s.flash.a
def updLm (s : State) (f : LmArea → LmArea) : State :=
  { s with flash := if s.flash.useB then { s.flash with b := f s.flash.b } else { s.flash with a := f s.flash.a } }

/-- The valid records in the area in use. -/
def lmList (s : State) : List (BitVec 128) := s.lm.good

/-- A record of this type and location is held. -/
def lmHolds (s : State) (type : Nat) (loc : BitVec 48) : Bool :=
  s.lmList.any fun r => decide (lmType r = type ∧ lmLoc r = loc)

/-- Clears the valid records that `p` picks. -/
def lmClear (s : State) (p : BitVec 128 → Bool) : State :=
  s.updLm fun a => { a with recs := a.recs.map fun e => if lmValid e.2 && p e.2 then (e.1, lmCleared e.2) else e }

/-- Clears the oldest valid POISON_SECTOR record. -/
def lmClearOldest (s : State) : State :=
  match s.lm.recs.find? fun e => lmValid e.2 && decide (lmType e.2 = lmPoison) with
  | none => s
  | some e => s.updLm fun a => { a with recs := SMap.set lmErased a.recs e.1 (lmCleared e.2) }

/-- Compaction (R349): the valid records, and those that wait, go into the other area, whose GEN is one higher. -/
def lmCompact (s : State) : State :=
  let rs := (s.lmList ++ s.sec.lmWait).take lmRecords
  let area : LmArea := { valid := true, gen := s.lm.gen + 1, recs := (List.range rs.length).zip rs }
  let old : LmArea := {}
  { s with
    flash := if s.flash.useB then { s.flash with a := area, b := old, useB := false } else { s.flash with b := area, a := old, useB := true }
    sec := { s.sec with lmWait := [] } }

/-- Writes a record in the next erased place; where none is free the map is compacted first if that frees 1,024, else R351 applies. -/
def lmAdd (s : State) (type : Nat) (loc : BitVec 48) : State :=
  let r := lmRecord type loc s.sh.count
  let put (s : State) : State := s.updLm fun a => { a with recs := SMap.set lmErased a.recs a.recs.length r }
  if s.lm.recs.length < lmRecords then put s
  else if s.lmList.length + s.sec.lmWait.length + 1024 ≤ lmRecords then put s.lmCompact
  else if type = lmPoison then s.countSec 0x128 1
  else
    let s := s.lmClearOldest
    { s with sec := { s.sec with lmWait := s.sec.lmWait ++ [r] } }

/-- Writes a record unless its like is held. -/
def lmAddNew (s : State) (type : Nat) (loc : BitVec 48) : State := if s.lmHolds type loc then s else s.lmAdd type loc

end State

/-- The location of a sector (R350). -/
def sectorLoc (l : Loc) : BitVec 48 :=
  BitVec.ofNat 48 (l.stack + l.channel * 2 ^ 4 + l.rank * 2 ^ 8 + l.bank / 4 * 2 ^ 12 + l.bank % 4 * 2 ^ 14 + l.row * 2 ^ 16 +
    l.sector * 2 ^ 30)

/-- The location of a row. -/
def rowLoc (l : Loc) : BitVec 48 := sectorLoc { l with sector := 0 }

/-- LICHEN_COMPACTION (R349): when fewer than 1,024 records are free. -/
def execLichenCompaction (s : State) : Host.Outcome State Fault Refusal :=
  .next (if s.lm.free < 1024 ∧ !s.dormant then s.lmCompact else s)

end Sys2Proof.Machine
end

