-- ==== Sys2Proof/Machine/Requests.lean ====
section
/-! DEFINITION. Requests at a memory controller (R215 to R221, R228, R381): what turns one away, reads and writes of a sector, persistent
mismatches. -/

namespace Sys2Proof.Machine

open Sys2Proof

/-! ### Requests at a memory controller (R215, R216, R219, R228) -/

/-- What a sector request is answered. -/
inductive SecAnswer where
  | ok (data : List QW)
  | bad (st : Status)
  deriving DecidableEq, Repr

/-- The channel of a place. -/
def Mc.chan (m : Mc) (c : Nat) : Channel := SMap.get {} m.chans c
def Mc.updChan (m : Mc) (c : Nat) (f : Channel → Channel) : Mc := { m with chans := SMap.upd {} m.chans c f }
def Channel.count (c : Channel) (off n : Nat) : Channel := { c with counts := bump c.counts off n }

/-- Sixteen poisoned words. -/
def poisonSector (d : List QW) : List QW := d.map fun w => { w with p := true }

/-- A sector of a locked image is refused to every write, and counted (R381). `touches` is `State.locked`. -/
def Image.touches (i : Image) (pa n : Nat) : Bool :=
  i.ranges.any fun r => decide (r.1.toNat < pa + n ∧ pa < r.1.toNat + r.2)

/-- Some slot of the die is RUNNING under generation `g` (R100). -/
def State.genRunning (s : State) (g : BitVec 16) : Bool :=
  s.cores.any fun c => c.2.slots.any fun e => decide (e.2.st = 1 ∧ e.2.gen = g)

/-- A write of `n` bytes at `pa` touches a locked range (R381). -/
def State.locked (s : State) (pa n : Nat) : Bool :=
  s.ctl.images.any fun e => e.2.valid && e.2.touches pa n && s.genRunning e.2.gen

/-- The status at which a stack's controller turns a request away: MEMORY_LOCK (R395), a gated half (R204, R392), a reset
(R230, R379), MAINT or TEST (R237). -/
def State.mcShut (s : State) (stack : Nat) : Option Status :=
  if s.lock.memLock then some stDenied
  else if s.pwr.gated.getLsbD (stack / 6) then some stFenced
  else if s.ctl.fnReset.getLsbD (3 + stack) then some stAborted
  else if (s.mc stack).st = 2 ∨ (s.mc stack).st = 3 then some stBusy
  else none

/-- Counts a request that a stack in MAINT or TEST turned away. -/
def State.noteShut (s : State) (stack : Nat) (st : Status) : State :=
  if st = stBusy then s.updMc stack (·.count 0x12C 1) else s

/-- A write that a stack turned away: one answered ABORTED is reported with its address (R230). -/
def State.noteShutWrite (s : State) (stack pa : Nat) (st : Status) : State :=
  let s := s.noteShut stack st
  if st = stAborted then
    s.notify 0x0007 ([w32 stack, w32 (channelOf (s.place pa).off), 4] ++ paWords (BitVec.ofNat 40 pa))
  else s

/-- A persistent mismatch on a channel (R214, R216): counted, and the run of those confined to one group followed. -/
def Channel.mismatch (c : Channel) (pa : PA) (g : Option (BitVec 2)) : Channel :=
  let c := c.count 0x10 1
  match g with
  | none => { c with run := 0, runPas := [] }
  | some k =>
    if c.run ≠ 0 ∧ c.runGroup = k then { c with run := c.run + 1, runPas := c.runPas ++ [pa] }
    else { c with run := 1, runGroup := k, runPas := [pa] }

/-- A replayed read whose failing bytes point to a group (CH_LANE_ERR). -/
def Channel.noteLane (c : Channel) (g : Option (BitVec 2)) : Channel :=
  match g with
  | none => c
  | some k => { c with laneErr := SMap.upd 0 c.laneErr k.toNat fun n => if n = 65535 then n else n + 1 }

/-- An entry of the poison log (R217, R242). -/
def Mc.logPoison (m : Mc) (pa : PA) : Mc :=
  { m with log := SMap.put m.log m.logNext.toNat (some (pa, false)), logNext := m.logNext + 1,
           logTotal := if m.logTotal = 65535 then m.logTotal else m.logTotal + 1 }

/-- How the group of a sector's wrong bytes, if they are in one, is held. -/
def wrongMark (g : Option (BitVec 2)) : BitVec 3 :=
  match g with
  | some k => 4 ||| k.setWidth 3
  | none => 1

/-- A persistent mismatch: the cells show it again until they are written (R217); it is counted, and recorded and reported where its
location is new. -/
def State.mismatch (s : State) (pa : PA) (g : Option (BitVec 2)) : State :=
  let p := s.place pa.toNat
  let ch := channelOf p.off
  let loc := sectorLoc (locOf p)
  let s := { s with mem := s.mem.setWrong pa.toNat (wrongMark g) }
  let s := s.updMc p.stack fun m => m.updChan ch (·.mismatch pa g)
  if s.lmHolds lmPoison loc then s
  else
    ((s.lmAdd lmPoison loc).updMc p.stack (·.logPoison pa)).notify 0x0007
      ([w32 p.stack, w32 ch, 1] ++ paWords pa)

/-- What the cells of a sector show again as long as they are not written (R217): the group of their wrong bytes. -/
def wrongGroup (v : BitVec 3) : Option (BitVec 2) := if v.getLsbD 2 then some (v.extractLsb' 0 2) else none

/-- Enters a sector that has been read from its stack: in its line where that is present, else in a new one unless the page is
NOALLOC (R228). -/
def State.fillSector (s : State) (p : Place) (noalloc : Bool) (bad : BitVec 16) : State :=
  let line := p.off / 256
  let sec := p.off / 64 % 4
  if ((s.mc p.stack).wayOf line).isSome then s.updMc p.stack (·.enter line sec false bad)
  else if noalloc then s
  else (s.mscAllocate p.stack line).updMc p.stack (·.enter line sec false bad)

/-- A read of a sector from its stack (R216): a stored mark, a sector whose cells have mismatched before and do so again, which is recorded
again where the lichen map does not hold it (R217), or a clean one. True: it is delivered poisoned. -/
def State.cellRead (s : State) (pa : Nat) : Bool × State :=
  let p := s.place pa
  let ch := channelOf p.off
  let v := s.mem.wrongAt pa
  let s := s.updMc p.stack fun m => (m.count 0x10C 1).count 0x100 1
  if s.mem.poisoned pa then (true, s.updMc p.stack fun m => m.updChan ch (·.count 0x14 1))
  else if v ≠ 0 then
    (true, (s.updMc p.stack fun m => (m.count 0x100 1).updChan ch (·.noteLane (wrongGroup v))).mismatch (BitVec.ofNat 40 pa) (wrongGroup v))
  else (false, s)

/-- The words of a sector with those marked that `bad` lists. -/
def markWords (bad : BitVec 16) (d : List QW) : List QW :=
  ((List.range d.length).zip d).map fun e => { e.2 with p := e.2.p || bad.getLsbD e.1 }

/-- Reads the sector at a physical address through its controller: turned away where the stack is shut; a FAILED channel
delivers it poisoned (R215); a miss allocates unless the page is NOALLOC (R228). -/
def State.mcRead (s : State) (pa : Nat) (noalloc : Bool) : SecAnswer × State :=
  let p := s.place pa
  let m := s.mc p.stack
  let ch := channelOf p.off
  match s.mcShut p.stack with
  | some st => (.bad st, s.noteShut p.stack st)
  | none =>
  if (m.chan ch).st = 4 then
    (.ok (poisonSector (s.mem.sector pa)), s.updMc p.stack fun m => m.updChan ch (·.count 0x18 1))
  else
    let line := p.off / 256
    let sec := p.off / 64 % 4
    let d := s.mem.sector pa
    match m.held line sec with
    | some b => (.ok (markWords b d), s.updMc p.stack fun m => (m.count 0x108 1).enter line sec false b)
    | none =>
      let stored := s.mem.poisoned pa
      match s.cellRead pa with
      | (bad, s) =>
        (.ok (if bad then poisonSector d else d), s.fillSector p noalloc (if bad && !stored then 0xFFFF else 0))

/-- The counts and cache state of a write of one sector that leaves the words `bad` of it poisoned in the cache (R219, R228). A write that
the cache serves without a stack read is a hit. -/
def State.noteWrite (s : State) (p : Place) (noalloc : Bool) (bad : BitVec 16) (read : Bool) : State :=
  let line := p.off / 256
  let sec := p.off / 64 % 4
  if ((s.mc p.stack).wayOf line).isSome then
    s.updMc p.stack fun m => (m.count 0x108 (if read then 0 else 1)).enter line sec true bad
  else if noalloc then s.updMc p.stack (·.count 0x104 1)
  else (s.mscAllocate p.stack line).updMc p.stack fun m => (m.count 0x108 (if read then 0 else 1)).enter line sec true bad

/-- Merges words into a sector in the cache (R53, R219): a partial write reads the stack where the cache does not hold the sector, and one
over a sector that is delivered poisoned leaves it poisoned. -/
def State.mergeWrite (s : State) (pa : Nat) (noalloc : Bool) (mask : BitVec 16) (data : List QW) : State :=
  let p := s.place pa
  let full := decide (mask = 0xFFFF)
  match (s.mc p.stack).held (p.off / 256) (p.off / 64 % 4) with
  | some b =>
    let spoilt := !full && decide (b = 0xFFFF)
    let m := s.mem.writeSector pa mask data
    { s with mem := if spoilt then m.setPoison pa true else m }.noteWrite p noalloc (if spoilt then 0 else b &&& ~~~ mask) false
  | none =>
    match (if full then (false, s) else s.cellRead pa) with
    | (bad, s) =>
      let m := s.mem.writeSector pa mask data
      { s with mem := if bad then m.setPoison pa true else m }.noteWrite p noalloc 0 (!full)

/-- A word that the cache holds loses its mark; the others of a poisoned sector keep theirs, which a write-back writes (R229). -/
def State.unmarkWord (s : State) (pa : Nat) : State :=
  let p := s.place pa
  let line := p.off / 256
  let sec := p.off / 64 % 4
  match (s.mc p.stack).held line sec with
  | none => s
  | some b =>
    let b : BitVec 16 := (if s.mem.poisoned pa then 0xFFFF else b) &&& ~~~ BitVec.ofNat 16 (2 ^ (pa / 4 % 16))
    ({ s with mem := s.mem.setPoison pa false }).updMc p.stack (·.enter line sec true b)

/-- A write that a FAILED channel drops; the first is reported (R215, log entry 77). -/
def State.dropWrite (s : State) (pa : Nat) : State :=
  let p := s.place pa
  let ch := channelOf p.off
  let told := ((s.mc p.stack).chan ch).told
  let s := s.updMc p.stack fun m => (m.count 0x128 1).updChan ch fun c => { c with told := true }
  if told then s else s.notify 0x0007 ([w32 p.stack, w32 ch, 3] ++ paWords (BitVec.ofNat 40 pa))

/-- Writes words of a sector through its controller: turned away where the stack is shut, refused where an image is locked
(R381), dropped at a FAILED channel (R215), else performed
with the invalidations it causes (R231). `wid` names the write for its acknowledgement. -/
def State.mcWrite (s : State) (pa : Nat) (noalloc : Bool) (mask : BitVec 16) (data : List QW) (wid : Nat) :
    Status × State :=
  let p := s.place pa
  let m := s.mc p.stack
  let ch := channelOf p.off
  match s.mcShut p.stack with
  | some st => (st, s.noteShutWrite p.stack pa st)
  | none =>
  if s.locked (pa / 64 * 64) 64 then
    (stImageLocked, { s with ctl := { s.ctl with counts := bump s.ctl.counts 0x21C 1 } })
  else if (m.chan ch).st = 4 then (stOk, s.dropWrite pa)
  else
    let s := s.mergeWrite pa noalloc mask data
    (stOk, s.dirWrite p.stack (p.off / 256) (BitVec.ofNat 32 (pa / 256)) wid)

end Sys2Proof.Machine
end

