-- ==== Sys2Proof/Machine/Path.lean ====
section
/-! DEFINITION. Routes on the core meshes, the half meshes and across the seam (R17, R189 to R191, R197, R199), the links that the
auditor has fenced (R194), and what turns a packet back on its way (R194, R196, R204). -/

namespace Sys2Proof.Machine

open Sys2Proof

/-- A link identifier of R194 without VC. -/
def linkId (kind cluster node dir : Nat) : W32 := w32 (kind * 2 ^ 28 + cluster * 2 ^ 23 + node * 2 ^ 17 + dir * 2 ^ 14)

def dirN : Nat := 0
def dirE : Nat := 1
def dirS : Nat := 2
def dirW : Nat := 3
def dirSpur : Nat := 5

/-- A link and the half it lies in. -/
abbrev Hop := Nat × W32

/-- Steps along a row from column `a` to column `b`: the router each starts from, and its direction. -/
def rowSteps (a b : Nat) : List (Nat × Nat) :=
  if a ≤ b then (List.range (b - a)).map fun i => (a + i, dirE) else (List.range (a - b)).map fun i => (a - i, dirW)

/-- Steps along a column. -/
def colSteps (a b : Nat) : List (Nat × Nat) :=
  if a ≤ b then (List.range (b - a)).map fun i => (a + i, dirS) else (List.range (a - b)).map fun i => (a - i, dirN)

/-- The links from router (r, c) to router (r', c'), for routers numbered 8 × row + column: along the row first, then along the
column (R189, R190). -/
def meshLinks (kind cluster r c r' c' : Nat) : List W32 :=
  (rowSteps c c').map (fun e => linkId kind cluster (8 * r + e.1) e.2) ++
    (colSteps r r').map fun e => linkId kind cluster (8 * e.1 + c') e.2

/-- The router that a step from one leads to, and whether the 4 × 8 mesh of a half has it. -/
def stepTo (a : Nat × Nat) (dir : Nat) : Option (Nat × Nat) :=
  if dir = dirN then (if a.1 = 0 then none else some (a.1 - 1, a.2))
  else if dir = dirS then (if a.1 = 3 then none else some (a.1 + 1, a.2))
  else if dir = dirE then (if a.2 = 7 then none else some (a.1, a.2 + 1))
  else if a.2 = 0 then none else some (a.1, a.2 - 1)

/-- A packet that came by `last` may go on by `dir` (R197): under the west-first rule it turns west from no other direction, and it does not
turn back. -/
def turnOk (last : Option Nat) (dir : Nat) : Bool :=
  match last with
  | none => true
  | some l => (decide (dir ≠ dirW) || decide (l = dirW)) && decide (dir ≠ (l + 2) % 4)

/-- The routes of at most `fuel` steps from router `a` to router `b` of a half that pass no router of `f`, under the turn rule; `past` is
the way to `a`. -/
def detours (f : List Nat) (b : Nat × Nat) : Nat → Nat × Nat → Option Nat → List W32 → List (List W32)
  | 0, a, _, past => if a = b then [past] else []
  | fuel + 1, a, last, past =>
    if a = b then [past]
    else ([dirN, dirE, dirS, dirW].filter (turnOk last)).flatMap fun d =>
      match stepTo a d with
      | none => []
      | some n => if f.contains (8 * n.1 + n.2) then [] else detours f b fuel n (some d) (past ++ [linkId 1 0 (8 * a.1 + a.2) d])

/-- A unit that sends or receives packets (R17): a core, a cluster's stream unit, the controller of a stack, a fabric or control port
(16 CP0, 17 CP1), a collective engine. -/
inductive Endpoint where
  | core (c : CoreId)
  | csu (k : Nat)
  | stack (k : Nat)
  | port (p : Nat)
  | ce (h : Nat)
  deriving DecidableEq, Repr

/-- The half of a unit. -/
def Endpoint.half : Endpoint → Nat
  | .core c => halfOf c
  | .csu k => k / 32
  | .stack k => k / 6
  | .port p => if p < 16 then p / 8 else p - 16
  | .ce h => h

/-- The cluster router that a stack's controller attaches to (R17). -/
def stackRouter (k : Nat) : Nat × Nat :=
  let i := k % 6
  let c := 2 * (i % 3) + 1
  (if i < 3 then 0 else 3, if k < 6 then c else 7 - c)

/-- The cluster router that a fabric or control port attaches to (R17). -/
def portRouter (p : Nat) : Nat × Nat :=
  if p < 16 then (p % 8 / 2, if p < 8 then 0 else 7) else (1, if p = 16 then 0 else 7)

/-- The cluster router that a collective engine attaches to (R17). -/
def ceRouter (h : Nat) : Nat × Nat := (1, if h = 0 then 3 else 4)

namespace State

/-- The router of a core, and whether it stands on a spur: SC0 east of (2, 7), SC1 east of (5, 7) (R189, R191). -/
def routerOf (s : State) (core : CoreId) : Nat × Nat × Bool :=
  let st := (s.cluster (clusterOf core)).status
  let n := core.toNat % 64
  if bit st 0 ∧ bits st 13 8 = n then (2, 7, true)
  else if bit st 1 ∧ bits st 21 16 = n then (5, 7, true)
  else (n / 8, n % 8, false)

/-- The spur of a core on a spare site; both its directions bear one identifier (log entry 71). -/
def spurLink (s : State) (core : CoreId) : List W32 :=
  match s.routerOf core with
  | (r, c, spur) => if spur then [linkId 0 (clusterOf core % 32) (8 * r + c) dirSpur] else []

/-- The link between the cluster router and the router of row 7 in column `c`; both its directions bear one identifier (log entry
71). -/
def gateLink (cluster c : Nat) : W32 := linkId 0 cluster (56 + c) dirS

/-- The links inside a cluster that a packet of a core needs on its way out (R189). -/
def outLinks (s : State) (core : CoreId) : List W32 :=
  let k := clusterOf core % 32
  match s.routerOf core with
  | (r, c, _) => s.spurLink core ++ (colSteps r 7).map (fun e => linkId 0 k (8 * e.1 + c) e.2) ++ [gateLink k c]

/-- The links inside a cluster that a packet to a core needs on its way in. -/
def inLinks (s : State) (core : CoreId) : List W32 :=
  let k := clusterOf core % 32
  match s.routerOf core with
  | (r, c, _) => gateLink k c :: (colSteps 7 r).map (fun e => linkId 0 k (8 * e.1 + c) e.2) ++ s.spurLink core

/-- The half-mesh router of a cluster: its own, or that beside its spare site (R17, R191). -/
def clusterRouter (s : State) (k : Nat) : Nat × Nat :=
  let st := (s.cluster k).status
  if bit st 24 then ((if bit st 25 then 3 else 0), if k < 32 then 0 else 7) else (k % 32 / 8, k % 8)

/-- The hop that a cluster on XC0 or XC1 costs (R191): north of row 0, south of row 3. -/
def spareHop (s : State) (k : Nat) : List W32 :=
  let st := (s.cluster k).status
  match s.clusterRouter k with
  | (r, c) => if bit st 24 then [linkId 1 0 (8 * r + c) (if bit st 25 then dirS else dirN)] else []

/-- The half-mesh router of a unit. -/
def routerOfUnit (s : State) (u : Endpoint) : Nat × Nat :=
  match u with
  | .core c => s.clusterRouter (clusterOf c)
  | .csu k => s.clusterRouter k
  | .stack k => stackRouter k
  | .port p => portRouter p
  | .ce h => ceRouter h

/-- The links from a unit to its half-mesh router. -/
def unitOut (s : State) (u : Endpoint) : List W32 :=
  match u with
  | .core c => s.outLinks c ++ s.spareHop (clusterOf c)
  | .csu k => s.spareHop k
  | _ => []

/-- The links from its half-mesh router to a unit. -/
def unitIn (s : State) (u : Endpoint) : List W32 :=
  match u with
  | .core c => s.spareHop (clusterOf c) ++ s.inLinks c
  | .csu k => s.spareHop k
  | _ => []

/-- The half-mesh links of half `h` from one router to another: by the default tables (R190), or by those that avoid its fenced routers
(R197): one of the routes that the turn rule allows. Which one is free (log entry 71); with none, nothing passes. -/
def halfLinks (s : State) (h : Nat) (a b : Nat × Nat) : List W32 :=
  let f := (s.half h).avoid
  if f.isEmpty then meshLinks 1 0 a.1 a.2 b.1 b.2
  else
    let rs := detours f b 16 a none []
    nth [] rs (Config.detour h f (8 * a.1 + a.2) (8 * b.1 + b.2) % rs.length)

/-- The row in which a packet of half `h` crosses the seam: its own (R199), or by the tables of R197 one at whose edges no router of either
half is fenced. -/
def crossRow (s : State) (h : Nat) (a b : Nat × Nat) : Nat :=
  let f := (s.half h).avoid
  let out := if h = 0 then 7 else 0
  let rows := (List.range 4).filter fun r => !f.contains (8 * r + out) && !(s.half (1 - h)).avoid.contains (8 * r + (7 - out))
  if f.isEmpty && (s.half (1 - h)).avoid.isEmpty then a.1
  else nth a.1 rows (Config.detourRow h f (8 * a.1 + a.2) (8 * b.1 + b.2) % rows.length)

/-- The links that a packet needs (R189 to R191, R199), from its source on. -/
def route (s : State) (a b : Endpoint) : List Hop :=
  let h := a.half
  let h' := b.half
  let inCluster := match a, b with
    | .core x, .core y => if clusterOf x = clusterOf y then some (x, y) else none
    | _, _ => none
  match inCluster with
  | some (x, y) =>
    let r := s.routerOf x
    let r' := s.routerOf y
    (s.spurLink x ++ meshLinks 0 (clusterOf x % 32) r.1 r.2.1 r'.1 r'.2.1 ++ s.spurLink y).map fun l => (h, l)
  | none =>
    let p := s.routerOfUnit a
    let p' := s.routerOfUnit b
    let out := if h = 0 then 7 else 0
    let mid : List Hop :=
      if h = h' then (s.halfLinks h p p').map fun l => (h, l)
      else
        let r := s.crossRow h p p'
        (s.halfLinks h p (r, out)).map (fun l => (h, l)) ++ (s.halfLinks h' (r, 7 - out) p').map fun l => (h', l)
    (s.unitOut a).map (fun l => (h, l)) ++ mid ++ (s.unitIn b).map fun l => (h', l)

/-- A link of half `h` is fenced, on either virtual channel: it carries nothing more (R194). -/
def linkFenced (s : State) (e : Hop) : Bool := (s.half e.1).meshFenced.any fun x => decide (x &&& 0xFFFFC000 = e.2)

/-- The cluster whose router turns packets back before a link: that of a core-mesh link, or that at whose position the half-mesh router
stands (R208). -/
def turner (e : Hop) : Nat := 32 * e.1 + (if bits e.2 31 28 = 0 then bits e.2 27 23 else bits e.2 22 17 % 32)

/-- The function number of a unit, where it has one (R378). -/
def fnOf : Endpoint → Option Nat
  | .stack k => some (3 + k)
  | .port p => if p < 16 then some (15 + p) else none
  | .ce h => some (31 + h)
  | _ => none

/-- The port of a unit is fenced (R194). -/
def portFenced (s : State) (u : Endpoint) : Bool :=
  match fnOf u with
  | none => false
  | some f => (s.half u.half).meshFenced.any fun l => decide (bits l 31 28 = 3) && decide (Config.portUnit u.half (l &&& 0xFFFFC000) = f)

/-- A packet from half `a` to half `b` would cross the seam to a half in HALF-STILL (R204). -/
def stilledCross (s : State) (a b : Nat) : Bool := decide (a ≠ b) && (s.half a).seamStilled

end State

/-- What turns a packet back with FENCED (R194, R196, R204): its half's side of the seam, or a router of a cluster. -/
inductive Turned where
  | seam (half : Nat)
  | router (cluster : Nat)
  deriving DecidableEq, Repr

namespace State

/-- The router of a half-mesh position as the cluster that turns packets back there (R208). -/
def routerTurn (s : State) (u : Endpoint) : Turned :=
  let r := s.routerOfUnit u
  .router (32 * u.half + 8 * r.1 + r.2)

/-- What turns back a packet from one unit to another, if anything does: a seam whose far half is gated, a fenced port of either, else the
first fenced link of its route. -/
def turned (s : State) (a b : Endpoint) : Option Turned :=
  if s.stilledCross a.half b.half then some (.seam a.half)
  else if (s.half a.half).meshFenced.isEmpty && (s.half b.half).meshFenced.isEmpty then none
  else
    match (s.route a b).find? s.linkFenced with
    | some e => some (.router (turner e))
    | none => if s.portFenced a then some (s.routerTurn a) else if s.portFenced b then some (s.routerTurn b) else none

/-- What turns back an access of a core to the shared memory of its cluster: a fenced port of the crossbar (R194). -/
def csmTurned (s : State) (core : CoreId) : Option Turned :=
  if (s.half (halfOf core)).meshFenced.any fun l =>
      decide (bits l 31 28 = 2 ∧ bits l 27 23 = clusterOf core % 32 ∧ bits l 22 17 = core.toNat % 64) then
    some (.router (clusterOf core))
  else none

/-- The same, of a packet to a core: one that is fenced turns it back at its own router (R196). -/
def turnedTo (s : State) (a : Endpoint) (core : CoreId) : Option Turned :=
  match s.turned a (.core core) with
  | some t => some t
  | none => if s.fencedCore core.toNat then some (.router (clusterOf core)) else none

/-- A bounce is counted where it happens: SEAM_STILL_NACKS (R204), BOUNCED (R208). -/
def countTurn (s : State) (t : Turned) : State :=
  match t with
  | .seam h => s.updHalf h (·.count 0x4020 1)
  | .router k => s.updCluster k (·.count 0x3C 1)

/-- A packet that something turns back is counted there. -/
def noteTurn (s : State) (t : Option Turned) : State :=
  match t with
  | some t => s.countTurn t
  | none => s

/-- The unit of a requester. -/
def endpointOf (who : Requester) : Endpoint :=
  match who with
  | .core c => .core c
  | .csu k => .csu k.toNat
  | .ce h => .ce h.toNat
  | .port n => .port n.toNat

/-- What turns back a request of a unit to the controller of a physical address, or would turn back its response (log entry 71). -/
def turnedAt (s : State) (u : Endpoint) (pa : Nat) : Option Turned :=
  match s.turned u (.stack (s.place pa).stack) with
  | some t => some t
  | none => s.turned (.stack (s.place pa).stack) u

end State

end Sys2Proof.Machine
end

