-- ==== Sys2Proof/Machine/Xlate.lean ====
section
/-! DEFINITION. Translation (R232 to R236): the page tables, the walkers, their caches and the translation buffers of requesters. -/

namespace Sys2Proof.Machine

open Sys2Proof

/-! ### Translation (R232 to R236) -/

/-- Causes of R235. -/
def causeNotValid : Byte := 0
def causePerm : Byte := 1
def causeRange : Byte := 2
def causePoisoned : Byte := 3
def causeMalformed : Byte := 4

/-- The status a failed translation is answered with (R235). -/
def causeStatus (c : Byte) : Status := if c = causePoisoned then stPoisoned else stDenied

/-- An entry's address field (R233). -/
def pteAddr (e : W64) : Nat := bits e 39 12 * 4096

/-- R233: `level` is 1, 2 or 3. -/
def pteMalformed (level : Nat) (e : W64) : Bool :=
  let leaf := bit e 1
  decide (bits e 11 7 ≠ 0 ∨ bits e 63 40 ≠ 0) ||
    (level = 1 && leaf) || (level = 3 && !leaf) ||
    (level = 3 && decide (bits e 20 12 ≠ 0)) || (level = 2 && leaf && decide (bits e 29 12 ≠ 0))

/-- The permissions of R234 against a leaf. -/
def permits (a : Access) (e : W64) : Bool :=
  match a with
  | .r => bit e 2
  | .w => bit e 3
  | .x => bit e 4
  | .rFab => bit e 2 && bit e 5
  | .wFab => bit e 3 && bit e 5

end Sys2Proof.Machine

namespace Sys2Proof

/-- The key of a requester's translation buffer, its half and its size (R234). -/
def Requester.key : Requester → Nat
  | .core id => id.toNat
  | .csu k => 4096 + k.toNat
  | .ce h => 4160 + h.toNat
  | .port n => 4162 + n.toNat

def Requester.half : Requester → Nat
  | .core id => id.toNat / 2048
  | .csu k => k.toNat / 32
  | .ce h => h.toNat
  | .port n => n.toNat / 8

def Requester.size : Requester → Nat
  | .core _ => 32
  | _ => 64

end Sys2Proof

namespace Sys2Proof.Machine

/-- The leaf's page covers the address. -/
def TbEntry.covers (t : TbEntry) (va : VA) : Bool :=
  if t.giant then decide (t.base.toNat / 2 ^ 30 = va.toNat / 2 ^ 30) else decide (t.base.toNat / 2 ^ 21 = va.toNat / 2 ^ 21)

/-- The physical address of `va` under a leaf. -/
def TbEntry.pa (t : TbEntry) (va : VA) : Nat :=
  pteAddr t.pte + va.toNat % (if t.giant then 2 ^ 30 else 2 ^ 21)

/-- A table entry read through the memory-side cache by the walker of half `h` (R232), which stands where the half's control port does (log
entry 71). A read that is turned back on its way delivers nothing (R194, R204). -/
def State.readPte (s : State) (h table idx : Nat) : Except Byte W64 × State :=
  let a := table + 8 * idx
  if s.capacity ≤ table then (.error causeRange, s)
  else
    match s.turnedAt (.port (16 + h)) a with
    | some t => (.error causePoisoned, s.countTurn t)
    | none =>
    match s.mcRead a false with
    | (.bad st, s) => (.error (if st = stDenied then causeNotValid else causePoisoned), s)
    | (.ok d, s) =>
      let k := a % 64 / 4
      let lo := nth {} d k
      let hi := nth {} d (k + 1)
      if lo.p || hi.p then (.error causePoisoned, s) else (.ok (hi.v ++ lo.v), s)

/-- Checks an entry in the order of R235. -/
def checkPte (level : Nat) (e : W64) : Option Byte :=
  if !bit e 0 then some causeNotValid else if pteMalformed level e then some causeMalformed else none

/-- Keeps the first `n` after putting `x` in front. -/
def pushFront {α : Type} (n : Nat) (x : α) (l : List α) : List α := (x :: l).take n

/-- Enters a table pointer in a half's walk cache. -/
def Xlat.noteL1 (x : Xlat) (h i table : Nat) : Xlat :=
  { x with caches := SMap.upd {} x.caches h fun w => { w with l1 := pushFront 32 (i, BitVec.ofNat 40 table) w.l1 } }
def Xlat.noteL2 (x : Xlat) (h i table : Nat) : Xlat :=
  { x with caches := SMap.upd {} x.caches h fun w => { w with l2 := pushFront 256 (i, BitVec.ofNat 40 table) w.l2 } }
/-- Enters a leaf in a requester's translation buffer, as its most recently used. -/
def Xlat.noteTb (x : Xlat) (who : Requester) (va : VA) (t : TbEntry) : Xlat :=
  { x with tbs := SMap.upd [] x.tbs who.key fun l => pushFront who.size t (l.filter fun y => !y.covers va) }

/-- A walk of the page tables from the deepest level that the half's walk cache knows (R232, R234, R235). -/
def State.walk (s : State) (h : Nat) (va : VA) : Except Byte TbEntry × State :=
  let s := { s with xl := { s.xl with counts := bump s.xl.counts (0x104 + 0x20 * h) 1 } }
  if !bit s.xl.rootLo 0 then (.error causeNotValid, s)
  else
    let root := bits s.xl.rootHi 7 0 * 2 ^ 32 + bits s.xl.rootLo 31 12 * 4096
    let i1 := bits va 47 39
    let i2 := bits va 38 30
    let wc := SMap.get {} s.xl.caches h
    let fromL3 (s : State) (table : Nat) : Except Byte TbEntry × State :=
      match s.readPte h table (bits va 29 21) with
      | (.error c, s) => (.error c, s)
      | (.ok e, s) =>
        match checkPte 3 e with
        | some c => (.error c, s)
        | none =>
          if s.capacity ≤ pteAddr e then (.error causeRange, s)
          else (.ok { base := BitVec.ofNat 48 (va.toNat / 2 ^ 21 * 2 ^ 21), giant := false, pte := e }, s)
    let fromL2 (s : State) (table : Nat) : Except Byte TbEntry × State :=
      match s.readPte h table i2 with
      | (.error c, s) => (.error c, s)
      | (.ok e, s) =>
        match checkPte 2 e with
        | some c => (.error c, s)
        | none =>
          if bit e 1 then
            if s.capacity ≤ pteAddr e then (.error causeRange, s)
            else (.ok { base := BitVec.ofNat 48 (va.toNat / 2 ^ 30 * 2 ^ 30), giant := true, pte := e }, s)
          else
            match fromL3 s (pteAddr e) with
            | (.error c, s) => (.error c, s)
            | (.ok t, s) =>
              (.ok t, { s with xl := s.xl.noteL2 h (va.toNat / 2 ^ 30) (pteAddr e) })
    match wc.l2.find? fun e => decide (e.1 = va.toNat / 2 ^ 30) with
    | some e => fromL3 s e.2.toNat
    | none =>
      match wc.l1.find? fun e => decide (e.1 = i1) with
      | some e => fromL2 s e.2.toNat
      | none =>
        match s.readPte h root i1 with
        | (.error c, s) => (.error c, s)
        | (.ok e, s) =>
          match checkPte 1 e with
          | some c => (.error c, s)
          | none =>
            match fromL2 s (pteAddr e) with
            | (.error c, s) => (.error c, s)
            | (.ok t, s) =>
              (.ok t, { s with xl := s.xl.noteL1 h i1 (pteAddr e) })

/-- The requester's translation buffer. -/
def State.tb (s : State) (who : Requester) : List TbEntry := SMap.get [] s.xl.tbs who.key

/-- A resident leaf that covers the address, without a walk (R109). -/
def State.resident (s : State) (who : Requester) (va : VA) : Option TbEntry := (s.tb who).find? (·.covers va)

/-- A translation: its leaf's physical address and NOALLOC, or the cause of R235. -/
inductive Xl where
  | ok (pa : Nat) (noalloc : Bool)
  | bad (cause : Byte)
  deriving DecidableEq, Repr

/-- Translates an address for a requester (R234, R235): through its translation buffer, else by a walk, whose leaf the buffer
then holds, least recently used out. -/
def State.translate (s : State) (who : Requester) (va : VA) (a : Access) : Xl × State :=
  let h := who.half
  let failed (s : State) (c : Byte) : Xl × State :=
    (.bad c, { s with xl := { s.xl with counts := bump s.xl.counts (0x10C + 0x20 * h) 1 } })
  let answer (s : State) (t : TbEntry) : Xl × State :=
    let s := { s with xl := s.xl.noteTb who va t }
    if permits a t.pte then (.ok (t.pa va) (bit t.pte 6), s) else failed s causePerm
  match s.resident who va with
  | some t => answer s t
  | none =>
    let s := { s with xl := { s.xl with counts := bump s.xl.counts (0x100 + 0x20 * h) 1 } }
    match s.walk h va with
    | (.error c, s) => failed s c
    | (.ok t, s') =>
      if permits a t.pte then answer s' t
      else failed { s' with xl := { s'.xl with tbs := s.xl.tbs, caches := s.xl.caches } } causePerm

end Sys2Proof.Machine
end

