-- ==== Sys2Proof/Machine/Access.lean ====
section
/-! DEFINITION. Access to device memory by units other than a core's transfers (R26, R53, R215 to R221, R234, R235): ranges of
bytes, by virtual or physical address. -/

namespace Sys2Proof.Machine

open Sys2Proof

/-- The 64-byte sectors that `n` bytes at `a` touch: sector address, first byte in it, bytes. `fuel` bounds their number. -/
def sectorsFrom : Nat → Nat → Nat → List (Nat × Nat × Nat)
  | 0, _, _ => []
  | f + 1, a, n =>
    if n = 0 then []
    else
      let o := a % 64
      let k := (64 - o) ⊓ n
      (a / 64 * 64, o, k) :: sectorsFrom f (a + k) (n - k)

def sectorsOf (a n : Nat) : List (Nat × Nat × Nat) := sectorsFrom (n / 64 + 2) a n

/-- How an access reaches memory: by virtual address through a requester's translation buffer, by physical address, from a control port
where it comes from one, or by virtual address with a walk of a half's walker alone, for the miller, to which R234 gives no buffer (log
entry 30). -/
inductive Via where
  | va (who : Requester)
  | pa (port : Option Nat)
  | walked (half : Nat)
  deriving DecidableEq, Repr

/-- The unit that an access comes from. -/
def Via.unit : Via → Option Endpoint
  | .va who => some (State.endpointOf who)
  | .pa p => p.map fun n => .port (16 + n)
  | .walked h => some (.port (16 + h))

/-- What turns an access back on its way to a controller (R194, R204). -/
def State.accessTurned (s : State) (v : Via) (pa : Nat) : Option Turned :=
  match v.unit with
  | some u => s.turnedAt u pa
  | none => none

/-- The physical address of an access. -/
def State.resolve (s : State) (v : Via) (a : Nat) (acc : Access) : Xl × State :=
  match v with
  | .pa _ => if s.capacity ≤ a then (.bad causeRange, s) else (.ok a false, s)
  | .va who => s.translate who (BitVec.ofNat 48 a) acc
  | .walked h =>
    let failed (s : State) (c : Byte) : Xl × State :=
      (.bad c, { s with xl := { s.xl with counts := bump s.xl.counts (0x10C + 0x20 * h) 1 } })
    match s.walk h (BitVec.ofNat 48 a) with
    | (.error c, s) => failed s c
    | (.ok t, s') =>
      if permits acc t.pte then (.ok (t.pa (BitVec.ofNat 48 a)) (bit t.pte 6), s')
      else failed { s' with xl := { s'.xl with caches := s.xl.caches } } causePerm

/-- Reads the sectors of a range. A failed sector gives poisoned zeros; the status is the first that is not OK. -/
def State.readParts (s : State) (v : Via) (acc : Access) : List (Nat × Nat × Nat) → List MB → Status → List MB × Status × State
  | [], bs, st => (bs, st, s)
  | (a, o, n) :: rest, bs, st =>
    let bad (e : Status) (s : State) : List MB × Status × State :=
      s.readParts v acc rest (bs ++ List.replicate n ⟨0, true⟩) (if st = 0 then e else st)
    match s.resolve v a acc with
    | (.bad c, s) => bad (causeStatus c) s
    | (.ok p noalloc, s) =>
      match s.accessTurned v p with
      | some t => bad stFenced (s.countTurn t)
      | none =>
        match s.mcRead p noalloc with
        | (.bad e, s) => bad e s
        | (.ok d, s) => s.readParts v acc rest (bs ++ ((bytesOf d).drop o).take n) st

/-- Reads `n` bytes. -/
def State.readMem (s : State) (v : Via) (acc : Access) (a n : Nat) : List MB × Status × State :=
  s.readParts v acc (sectorsOf a n) [] 0

/-- The first status at which a range cannot be reached (R235); the translations stay in the buffer. -/
def State.reachParts (s : State) (v : Via) (acc : Access) : List (Nat × Nat × Nat) → Status × State
  | [] => (stOk, s)
  | (a, _, _) :: rest =>
    match s.resolve v a acc with
    | (.bad c, s) => (causeStatus c, s)
    | (.ok _ _, s) => s.reachParts v acc rest

def State.reach (s : State) (v : Via) (acc : Access) (a n : Nat) : Status × State := s.reachParts v acc (sectorsOf a n)

/-- The mask and words that put bytes `bs` at byte `o` of the sector at physical address `p`, whole words made up from what
memory holds. -/
def Mem.patch (m : Mem) (p o : Nat) (bs : List MB) : BitVec 16 × List QW :=
  let base := p / 64 * 64
  let n := bs.length
  let all : List MB := (List.range 64).map fun b => if o ≤ b ∧ b < o + n then nth {} bs (b - o) else ⟨m.read (base + b), false⟩
  let w0 := o / 4
  let w1 := (o + n + 3) / 4
  (BitVec.ofNat 16 (2 ^ w1 - 2 ^ w0), wordsOf all)

/-- Writes bytes over the sectors of a range; the status is the first that is not OK, and a sector that fails is not written. -/
def State.writeParts (s : State) (v : Via) (acc : Access) (wid : Nat) : List (Nat × Nat × Nat) → List MB → Status → Status × State
  | [], _, st => (st, s)
  | (a, o, n) :: rest, bs, st =>
    match s.resolve v a acc with
    | (.bad c, s) => s.writeParts v acc wid rest (bs.drop n) (if st = 0 then causeStatus c else st)
    | (.ok p noalloc, s) =>
      match s.accessTurned v p with
      | some t => (s.countTurn t).writeParts v acc wid rest (bs.drop n) (if st = 0 then stFenced else st)
      | none =>
        let w := s.mem.patch p o (bs.take n)
        match s.mcWrite p noalloc w.1 w.2 wid with
        | (e, s) => s.writeParts v acc wid rest (bs.drop n) (if st = 0 then e else st)

/-- Writes bytes; each sector goes as memory lets it. -/
def State.writeMem (s : State) (v : Via) (acc : Access) (a : Nat) (bs : List MB) : Status × State :=
  s.writeParts v acc 0 (sectorsOf a bs.length) bs 0

/-- Writes bytes only if the whole range can be reached. -/
def State.writeWhole (s : State) (v : Via) (acc : Access) (a : Nat) (bs : List MB) : Status × State :=
  match s.reach v acc a bs.length with
  | (st, s) => if st = stOk then s.writeMem v acc a bs else (st, s)

/-- `n` poisoned bytes (R51). -/
def poisonBytes (n : Nat) : List MB := List.replicate n ⟨0, true⟩

/-- The sectors that a physical range covers become poisoned, with no request to a controller (R224, R239, R403). -/
def Mem.poisonRange (m : Mem) (a n : Nat) : Mem :=
  m.dropMarks fun k => decide (a / 64 ≤ k ∧ k < (a + n + 63) / 64)

/-- Bytes as a number of `n` bits, lowest first (R7). -/
def bitsOf (n : Nat) (bs : List MB) : BitVec n := BitVec.ofNat n (leNat bs)

end Sys2Proof.Machine
end

