-- ==== Sys2Proof/Machine/Operands.lean ====
section
/-! DEFINITION. Operand forms of core commands: the command word and its fields (R119), the stream and its words (R99, R100),
issue and its checks (R101 to R112, R120), queues (R93 to R97), and the outcome of a command's body. -/

namespace Sys2Proof

/-- Bits [hi:lo] of the command word, for PARAMS fields (R119). -/
def CmdWord.f (w : CmdWord) (hi lo : Nat) : Nat := w.params.toNat / 2 ^ (lo - 32) % 2 ^ (hi + 1 - lo)
/-- Bit n of the command word, n ≥ 32. -/
def CmdWord.b (w : CmdWord) (n : Nat) : Bool := w.params.getLsbD (n - 32)
/-- Bits [hi:lo] are all 0, as R120 asks of a reserved field. -/
def CmdWord.z (w : CmdWord) (hi lo : Nat) : Bool := decide (w.f hi lo = 0)

/-- The 128 bits of a command word (R119). -/
def CmdWord.encode (op : Byte) (w : CmdWord) : BitVec 128 :=
  w.params ++ w.emask ++ BitVec.ofBool w.last ++ BitVec.ofBool w.rtz ++ BitVec.ofBool w.tile ++ BitVec.ofBool w.acc ++
    w.qo ++ w.qb ++ w.qa ++ BitVec.ofBool w.predInv ++ w.predSrc ++ op

/-- The fields of 128 bits (R119). -/
def CmdWord.decode (x : BitVec 128) : Byte × CmdWord :=
  (x.extractLsb' 0 8,
    { predSrc := x.extractLsb' 8 3, predInv := x.getLsbD 11, qa := x.extractLsb' 12 4, qb := x.extractLsb' 16 4,
      qo := x.extractLsb' 20 4, acc := x.getLsbD 24, tile := x.getLsbD 25, rtz := x.getLsbD 26, last := x.getLsbD 27,
      emask := x.extractLsb' 28 4, params := x.extractLsb' 32 96 })

namespace Machine

/-- Why a command does not go on: input queue `q` lacks data, output queue `q` lacks credit, or another condition (R95, R103). -/
inductive Why where
  | inQ (q : BitVec 4)
  | outQ (q : BitVec 4)
  | other
  deriving DecidableEq, Repr

/-- A command as its body takes it: the command in execution, and the core and slot it stands in. -/
structure Ctx extends Run where
  site : Site
  deriving DecidableEq, Repr

def Ctx.c (x : Ctx) : Nat := x.site.core.toNat
/-- The command is a member of a fused group. -/
def Ctx.fused (x : Ctx) : Bool := x.member.isSome
/-- Counter n as the command read it at its issue (R131, R157). -/
def Ctx.cnt (x : Ctx) (n : Nat) : W32 := SMap.get 0 x.ctr n

/-- What a command comes to at one turn: it has done all its work; it has failed, with what was done until then (R102); one unit of its work
is done and the command keeps what `x` holds; its next unit does not go, and nothing of that unit was done; it stands at the unit of `x`,
which does not go; or its work is done and it waits for acknowledgements. -/
inductive Body where
  | done (s : State)
  | fail (s : State) (i : FaultInfo)
  | unit (s : State) (x : Ctx)
  | wait (y : Why)
  | more (s : State) (x : Ctx) (y : Why)
  | held (s : State) (x : Ctx)
  deriving DecidableEq, Repr

/-- BAD_PARAM: the outcome of a check that fails at issue (R120), or in execution. -/
def badParam (s : State) : Body := .fail s { status := stBadParam }

/-- The status at which an issue check fails, if it does (R120). -/
def orBad (ok : Bool) : Option Status := if ok then none else some stBadParam

/-- The next `k` units of a command, one after the other, as far as they go (R95). -/
def units (one : Ctx → State → Body) : Nat → Ctx → State → Body
  | 0, _, s => .done s
  | k + 1, x, s =>
    match one x s with
    | .done s => units one k { x with unit := x.unit + 1 } s
    | .unit s x => units one k { x with unit := x.unit + 1 } s
    | .wait y => .more s x y
    | b => b

/-- A command of `n` units. -/
def stream (n : Nat) (one : Ctx → State → Body) (x : Ctx) (s : State) : Body := units one (n - x.unit) x s

/-! ### Queues (R93 to R97) -/

/-- A link queue's binding register. -/
def Core.bind (c : Core) (q : Nat) : W32 := SMap.get 0 c.binds q

/-- The peer that a link queue's binding names: core and queue (R116). -/
def peerOf (core : CoreId) (b : W32) : CoreId × Nat :=
  (BitVec.ofNat 12 (core.toNat / 2048 * 2048 + bits b 10 0), 10 + bits b 13 12)

/-- QSTATE.BOUND_OK (R96, R194): both ends are bound to one another and not fenced by the auditor, and both rings are
enabled. -/
def State.boundOk (s : State) (core : CoreId) (q : Nat) : Bool :=
  let c := s.core core.toNat
  let b := c.bind q
  let p := peerOf core b
  let d := s.core p.1.toNat
  let b' := d.bind p.2
  decide (10 ≤ q ∧ q ≤ 13) && bit b 31 && bit b' 31 && decide (peerOf p.1 b' = (core, q)) &&
    decide ((c.ring q).size ≠ 0 ∧ (d.ring p.2).size ≠ 0) &&
    !(SMap.get false c.bindFenced q) && !(SMap.get false d.bindFenced p.2)

/-- Words in flight to a ring. -/
def State.inFlight (s : State) (core : CoreId) (q : Nat) : Nat :=
  ((s.net.pushes.filter fun p => decide (p.dst = core ∧ p.dstQ.toNat = q)).map (·.data.length)).sum

/-- Words a ring holds in all. -/
def Ring.words (r : Ring) : Nat := r.size.toNat * 16

/-- Words of push credit of a queue (R95, R96): a ring's free space, or the free space of the peer's ring less what is on
its way there. -/
def State.creditWords (s : State) (core : CoreId) (q : Nat) : Nat :=
  if 10 ≤ q ∧ q ≤ 13 then
    if s.boundOk core q then
      let p := peerOf core ((s.core core.toNat).bind q)
      let r := (s.core p.1.toNat).ring p.2
      r.words - r.data.length - s.inFlight p.1 p.2
    else 0
  else
    let r := (s.core core.toNat).ring q
    r.words - r.data.length

/-- A queue may be used: it is Q15, or its ring is enabled and, for a link queue, its binding holds; a decoupled core uses
no link queue (R94, R96, R107). -/
def State.queueOk (s : State) (core : CoreId) (q : BitVec 4) : Bool :=
  let n := q.toNat
  if n = 15 then true
  else if 10 ≤ n ∧ n ≤ 13 then s.boundOk core n && !bit (s.core core.toNat).ctrl 0
  else decide (((s.core core.toNat).ring n).size ≠ 0)

/-- An output queue of a command other than TREAD and FETCH: Q0 to Q13 or Q15 (R121). -/
def State.outOk (s : State) (core : CoreId) (q : BitVec 4) : Bool := decide (q ≠ 14) && s.queueOk core q

/-- The words that a command in execution has popped from a ring and not used yet. -/
def Ring.own (r : Ring) (id : Nat) : List QW := SMap.get [] r.staged id

/-- Pops `n` bytes, a multiple of 4, for the command of issue number `id`; Q15 gives zeros (R93). None where there are fewer. -/
def State.pop (s : State) (core : CoreId) (id : Nat) (q : BitVec 4) (n : Nat) : Option (List MB × State) :=
  if q = 15 then some (zeroBytes n, s)
  else
    let r := (s.core core.toNat).ring q.toNat
    let k := n / 4
    let l := r.own id ++ r.data
    if l.length < k then none
    else
      let j := k - (r.own id).length
      some (bytesOf (l.take k), s.updCore core.toNat fun c => c.updRing q.toNat fun r =>
        { r with staged := SMap.set [] r.staged id ((r.own id).drop k), data := r.data.drop j })

/-- A command in execution whose next unit of input is not whole pops what has come (R95). -/
def State.absorb (s : State) (x : Ctx) (y : Why) : State :=
  match y with
  | .inQ q => s.updCore x.c fun c => c.updRing q.toNat fun r =>
      { r with staged := SMap.set [] r.staged x.id (r.own x.id ++ r.data), data := [] }
  | _ => s

/-- Appends words to a core's own ring. -/
def State.append (s : State) (core : Nat) (q : Nat) (ws : List QW) : State :=
  s.updCore core fun c => c.updRing q fun r => { r with data := r.data ++ ws }

/-- Pushes what a backlog holds: a link queue sends it to the peer's ring (R96), another ring takes it. -/
def State.deliver (s : State) (core : CoreId) (b : Backlog) : State :=
  let n := b.q.toNat
  if b.data.isEmpty then s
  else if 10 ≤ n ∧ n ≤ 13 then
    let p := peerOf core ((s.core core.toNat).bind n)
    { s with net := { s.net with pushes := s.net.pushes ++
        [{ src := core, srcQ := b.q, dst := p.1, dstQ := BitVec.ofNat 4 p.2, origin := b.src, data := b.data }] } }
  else s.append core.toNat n b.data

/-- Pushes of a backlog what its credit allows, and keeps the rest. -/
def State.deliverSome (s : State) (core : CoreId) (b : Backlog) : State :=
  let k := s.creditWords core b.q.toNat
  let s := s.deliver core { b with data := b.data.take k }
  if (b.data.drop k).isEmpty then s
  else s.updCore core.toNat fun c => { c with backlog := c.backlog ++ [{ b with data := b.data.drop k }] }

/-- The core's backlogs are pushed as far as there is credit. -/
def State.drainBacklog (s : State) (core : CoreId) : State :=
  let bs := (s.core core.toNat).backlog
  if bs.isEmpty then s
  else bs.foldl (fun s b => s.deliverSome core b) (s.updCore core.toNat fun c => { c with backlog := [] })

/-- Output waits to be pushed on queue `q`. -/
def Core.clogged (c : Core) (q : BitVec 4) : Bool := c.backlog.any fun b => decide (b.q = q)

/-- Where the words of a command come from. -/
def Ctx.origin (x : Ctx) : From := { slot := x.site.slot, opcode := x.op, ptr := x.ptr, loops := x.loops }

/-- Pushes bytes: Q15 discards them (R93); what exceeds the credit of a ring waits in the backlog. -/
def State.push (s : State) (x : Ctx) (q : BitVec 4) (bs : List MB) : State :=
  let ws := wordsOf bs
  let b : Backlog := { q := q, id := x.id, src := x.origin, data := ws }
  if q = 15 || ws.isEmpty then s
  else if (s.core x.c).clogged q then s.updCore x.c fun c => { c with backlog := c.backlog ++ [b] }
  else if ws.length ≤ s.creditWords x.site.core q.toNat then s.deliver x.site.core b
  else s.deliverSome x.site.core b

/-- The words of the ring that a push to queue `q` fills. -/
def State.capWords (s : State) (core : CoreId) (q : Nat) : Nat :=
  if 10 ≤ q ∧ q ≤ 13 then
    let p := peerOf core ((s.core core.toNat).bind q)
    ((s.core p.1.toNat).ring p.2).words
  else ((s.core core.toNat).ring q).words

/-- There is credit for a unit of `n` bytes, of which the whole ring at most is asked, once `freed` bytes more of the ring are free; and
nothing waits in front of it (R95, R103). -/
def State.roomBut (s : State) (core : CoreId) (q : BitVec 4) (n freed : Nat) : Bool :=
  decide (q = 15) || decide (n = 0) || (!(s.core core.toNat).clogged q &&
    decide (n ⊓ (4 * s.capWords core q.toNat) ≤ 4 * s.creditWords core q.toNat + freed))

/-- A command may push a unit of `n` bytes now. -/
def State.room (s : State) (x : Ctx) (q : BitVec 4) (n : Nat) : Bool := s.roomBut x.site.core q n 0

/-! ### Readiness (R103) -/

/-- What a command's first unit asks of its queues: bytes of input, bytes of credit. -/
structure Needs where
  ins : List (BitVec 4 × Nat) := []
  outs : List (BitVec 4 × Nat) := []
  deriving DecidableEq, Repr

/-- Bytes that a list asks of one queue. -/
def askOf (l : List (BitVec 4 × Nat)) (q : BitVec 4) : Nat := ((l.filter fun e => decide (e.1 = q)).map (·.2)).sum

/-- The queue's ring holds `n` bytes, or is full. -/
def Core.holds (c : Core) (q : BitVec 4) (n : Nat) : Bool :=
  decide (q = 15) || decide (n ⊓ (4 * (c.ring q.toNat).words) ≤ 4 * (c.ring q.toNat).data.length)

/-- What a pop of the input frees of the ring that a push on `q` fills (R95); a link queue's two rings are apart (R96). -/
def Needs.frees (n : Needs) (q : BitVec 4) : Nat := if 10 ≤ q.toNat ∧ q.toNat ≤ 13 then 0 else askOf n.ins q

/-- The queues that lack input or credit for a command's first unit. -/
def State.lacks (s : State) (core : CoreId) (n : Needs) : List Why :=
  ((n.ins.filter fun e => !(s.core core.toNat).holds e.1 (askOf n.ins e.1)).map fun e => .inQ e.1) ++
    (n.outs.filter fun e => !s.roomBut core e.1 (askOf n.outs e.1) (n.frees e.1)).map fun e => .outQ e.1

/-- A command of an opcode: the unit of R88 that executes it (0 millrace, 1 read-out path, 2 VE, 3 transfer unit, 4 scalar unit); how many
words it passes when it is skipped; whether its body itself sets the pointer; the condition that it adds to R103; its issue check; what
its first unit needs; and its meaning. -/
structure Cmd where
  unit : Nat
  words : CmdWord → Nat := fun _ => 1
  moves : Bool := false
  cond : Ctx → State → Bool := fun _ _ => true
  check : Ctx → State → Option Status
  needs : Ctx → State → Needs := fun _ _ => {}
  body : Ctx → State → Body

/-! ### Input and output of a unit -/

/-- What taking a command's input comes to: the input with the state behind it, or what the command comes to without it. -/
inductive Taken (α : Type) where
  | got (a : α) (s : State)
  | no (b : Body)

/-- Goes on with input that was taken. -/
def Taken.body {α : Type} (t : Taken α) (f : α → State → Body) : Body :=
  match t with
  | .got a s => f a s
  | .no b => b

/-- Takes more input behind what was taken. -/
def Taken.more {α β : Type} (t : Taken α) (f : α → State → Taken β) : Taken β :=
  match t with
  | .got a s => f a s
  | .no b => .no b

/-- Takes `n` bytes of a queue, or waits for them (R95). -/
def take (s : State) (x : Ctx) (q : BitVec 4) (n : Nat) : Taken (List MB) :=
  if n = 0 then .got [] s
  else
    match s.pop x.site.core x.id q n with
    | none => .no (.wait (.inQ q))
    | some (bs, s) => .got bs s

/-- Pops `n` bytes or waits for them (R95). -/
def popThen (s : State) (x : Ctx) (q : BitVec 4) (n : Nat) (f : List MB → State → Body) : Body := (take s x q n).body f

/-- Pushes bytes or waits for credit (R95). -/
def pushThen (s : State) (x : Ctx) (q : BitVec 4) (bs : List MB) (f : State → Body) : Body :=
  if s.room x q bs.length then f (s.push x q bs) else .wait (.outQ q)

/-! ### The stream (R99, R100, R154) -/

/-- The cache line of an address under a generation. -/
def Core.iline (c : Core) (gen : BitVec 16) (va : VA) : Option ILine :=
  (SMap.get [] c.icache (va.toNat / 64 % 64)).find? fun l => decide (l.gen = gen ∧ l.va.toNat = va.toNat / 64 * 64)

/-- Makes a line the most recently used of its set. -/
def Core.itouch (c : Core) (gen : BitVec 16) (va : VA) : Core :=
  match c.iline gen va with
  | none => c
  | some l => { c with icache := SMap.upd [] c.icache (va.toNat / 64 % 64) fun ls => l :: ls.filter fun y => decide (y ≠ l) }

/-- The command word at an address as the cache holds it. -/
def Core.iword (c : Core) (gen : BitVec 16) (va : VA) : Option (BitVec 128) :=
  match c.iline gen va with
  | none => none
  | some l => some (nth 0 l.words (va.toNat % 64 / 16))

/-- A pointer moved on by `n` command words. -/
def nextPtr (p : VA) (n : Nat) : VA := p + BitVec.ofNat 48 (16 * n)

/-- The end of a body reached by pointer `p` (R154): the innermost levels that end here are counted down, or released. -/
def loopBack (p : VA) : List LoopLevel → VA × List LoopLevel
  | [] => (p, [])
  | l :: t =>
    if p = l.past then
      if 1 < l.count.toNat then (l.first, { l with count := l.count - 1 } :: t) else loopBack p t
    else (p, l :: t)

/-- Applies a waiting generation change at a command boundary (R380). -/
def Slot.relocate (sl : Slot) : Slot :=
  match sl.swap with
  | none => sl
  | some w =>
    let mv (p : VA) : VA := w.newBase + (p - w.oldBase)
    { sl with gen := w.gen, swap := none, ptr := mv sl.ptr,
              loops := sl.loops.map fun l => { l with first := mv l.first, past := mv l.past } }

/-- A relocated pointer at or beyond the new image's length (R380). -/
def Slot.swapBad (sl : Slot) : Bool :=
  match sl.swap with
  | none => false
  | some w => decide (w.len.toNat ≤ (sl.ptr - w.oldBase).toNat)

/-- A command boundary of a slot that goes on running: a waiting STOP takes effect (R101), then a waiting generation change
(R380), whose bad pointer faults the slot. -/
def State.boundary (s : State) (site : Site) : State :=
  let c := s.core site.core.toNat
  let sl := c.slot site.slot.toNat
  if sl.st ≠ 1 then s
  else if sl.stop then s.setCore site.core.toNat (c.setSlot site.slot.toNat { sl with st := 0, stop := false, swap := none }).cancelAhead
  else
    match sl.swap with
    | none => s
    | some w =>
      let ahead (a : Ahead) : Ahead := if site.slot = 0 then { a with va := a.va - w.oldBase + w.newBase } else a
      let s' := s.setCore site.core.toNat
        { c.setSlot site.slot.toNat sl.relocate with
          lastGen := w.gen
          ahead := c.ahead.map ahead
          raStop := none }
      if sl.swapBad then s'.failSlot site 0 { status := stBadParam } else s'

/-- The slot goes on behind `n` command words (R154). -/
def Slot.behind (sl : Slot) (n : Nat) : Slot :=
  let r := loopBack (nextPtr sl.ptr n) sl.loops
  { sl with ptr := r.1, loops := r.2 }

/-! ### Issue (R101 to R112) -/

/-- The policy in force at a core (R106). -/
def State.readyFirst (s : State) (core : CoreId) : Bool :=
  ((s.core core.toNat).lag).getD (s.half (halfOf core)).policy

/-- The pipeline policy makes the slot eligible (R105, R107). -/
def State.eligible (s : State) (site : Site) : Bool :=
  let c := s.core site.core.toNat
  let sl := c.slot site.slot.toNat
  s.readyFirst site.core || bit c.ctrl 0 ||
    (match sl.tag.toNat with
     | 1 => !c.tailrace && !sl.marked
     | 2 => c.tailrace && !sl.marked
     | _ => true)

/-- What the picker finds when a command is presented for a slot (R103, R112, R120). -/
inductive Gate where
  /-- The slot does not issue this command now. -/
  | wait
  /-- Its predicate is false. -/
  | skip
  /-- PRED_SRC is reserved (R112). -/
  | bad
  /-- Its predicate lets it issue. -/
  | go
  deriving DecidableEq, Repr

/-- The slot has a command in execution (R89, R158). -/
def Core.busy (c : Core) (slot : BitVec 2) : Bool := (c.slot slot.toNat).group.isSome || c.runs.any fun r => decide (r.slot = slot)

/-- The slot issues the command `op`, `w` only when it is RUNNING, has no command in execution, is eligible, and its next command in the
instruction cache is this word (R89, R101, R103). -/
def State.gate (s : State) (site : Site) (op : Byte) (w : CmdWord) : Gate :=
  let c := s.core site.core.toNat
  let sl := c.slot site.slot.toNat
  if sl.st ≠ 1 ∨ c.fenced ∨ c.busy site.slot = true then .wait
  else if !s.eligible site then .wait
  else if c.iword sl.gen sl.ptr ≠ some (w.encode op) then .wait
  else if w.predSrc = 7 then .bad
  else if (c.predSource w.predSrc.toNat) != w.predInv then .go else .skip

/-- A command as it issues (R88). -/
def State.ctx (s : State) (site : Site) (op : Byte) (w : CmdWord) : Ctx :=
  let c := s.core site.core.toNat
  let sl := c.slot site.slot.toNat
  { site := site, slot := site.slot, id := c.clock, op := op, w := w, ptr := sl.ptr, loops := sl.loops, ctr := c.ctr }

end Machine
end Sys2Proof
end

