-- ==== Sys2Proof/Machine/Events.lean ====
section
/-! DEFINITION. Events (R125, R176, R293 to R295, R320, R332): raises at the move rings and reduction lists of a collective
engine, at jobs and at securing entries; with access to these units. -/

namespace Sys2Proof.Machine

open Sys2Proof

/-! ### Units -/

namespace State

def ce (s : State) (h : Nat) : Ce := SMap.get {} s.coll.ces h
def updCe (s : State) (h : Nat) (f : Ce → Ce) : State := { s with coll := { s.coll with ces := SMap.upd {} s.coll.ces h f } }
def job (s : State) (j : Nat) : Job := SMap.get {} s.coll.jobs j
def updJob (s : State) (j : Nat) (f : Job → Job) : State :=
  { s with coll := { s.coll with jobs := SMap.upd {} s.coll.jobs j f } }
def cg (s : State) (g : Nat) : Cg := SMap.get {} s.coll.cgs g
def updCg (s : State) (g : Nat) (f : Cg → Cg) : State := { s with coll := { s.coll with cgs := SMap.upd {} s.coll.cgs g f } }
def updCommit (s : State) (f : Commit → Commit) : State := { s with coll := { s.coll with commit := f s.coll.commit } }
/-- Adds to a count of R329. -/
def countCe (s : State) (off n : Nat) : State := { s with coll := { s.coll with counts := bump s.coll.counts off n } }
/-- Adds to a count of R388. -/
def countCtl (s : State) (off n : Nat) : State := { s with ctl := { s.ctl with counts := bump s.ctl.counts off n } }

end State

def Ce.ring (c : Ce) (k : Nat) : MvRing := SMap.get {} c.rings k
def Ce.updRing (c : Ce) (k : Nat) (f : MvRing → MvRing) : Ce := { c with rings := SMap.upd {} c.rings k f }
def Ce.list (c : Ce) (k : Nat) : RList := SMap.get {} c.lists k
def Ce.updList (c : Ce) (k : Nat) (f : RList → RList) : Ce := { c with lists := SMap.upd {} c.lists k f }

/-- A 48-bit address from a register pair. -/
def addr48 (lo hi : W32) : Nat := bits hi 15 0 * 2 ^ 32 + lo.toNat

/-- How a collective engine reaches memory (R234). -/
def viaCe (h : Nat) : Via := .va (.ce (BitVec.ofNat 1 h))

/-! ### Raises (R176, R293, R295) -/

/-- `n` raises at a counter with an EXPECT: the new raise count, and the occurrences that become owed. -/
def raiseCount (raises expect n : Nat) : Nat × Nat :=
  if expect = 0 then (0, 0) else ((raises + n) % expect, (raises + n) / expect)

/-- Bound to the event: ENABLE is set and EVENT matches (R179, R328). -/
def boundTo (ctrl : W32) (ev : Nat) : Bool := bit ctrl 31 && decide (bits ctrl 27 16 = ev)

def MvRing.raise (r : MvRing) (ev n : Nat) : MvRing :=
  if boundTo r.ctrl ev then
    let c := raiseCount r.raises.toNat (bits r.ctrl 12 0) n
    { r with raises := BitVec.ofNat 13 c.1, owed := r.owed + BitVec.ofNat 16 c.2 }
  else r

def RList.raise (r : RList) (ev n : Nat) : RList :=
  if boundTo r.ctrl ev then
    let c := raiseCount r.raises.toNat (bits r.ctrl 12 0) n
    { r with raises := BitVec.ofNat 13 c.1, owed := r.owed + BitVec.ofNat 16 c.2 }
  else r

/-- `n` raises of an event at every enabled ring and list of the CE of a half that is bound to it. -/
def State.raiseAt (s : State) (h ev n : Nat) : State :=
  if s.hasCe h then
    s.updCe h fun c => (List.range 16).foldl (fun c k => (c.updRing k (·.raise ev n)).updList k (·.raise ev n)) c
  else s

/-! ### Securing entries (R330, R331) -/

namespace State

/-- The securing table's address. -/
def secBase (s : State) : Nat := addr48 s.sec.baseLo s.sec.baseHi

/-- An entry's 64 bytes; one that cannot be read, or reads poisoned, is all zeros, and so not VALID. -/
def secEntry (s : State) (i : Nat) : BitVec 512 × State :=
  match s.readMem (viaCe 0) .r (s.secBase + 64 * i) 64 with
  | (bs, st, s) => (if st = stOk ∧ !anyPoison bs then bitsOf 512 bs else 0, s)

/-- Writes an entry. -/
def setSecEntry (s : State) (i : Nat) (e : BitVec 512) : State :=
  (s.writeMem (viaCe 0) .w (s.secBase + 64 * i) (leBytes 64 e.toNat)).2

def secAux (s : State) (i : Nat) : SecAux := SMap.get {} s.sec.aux i
def updSecAux (s : State) (i : Nat) (f : SecAux → SecAux) : State :=
  { s with sec := { s.sec with aux := SMap.upd {} s.sec.aux i f } }

end State

/-- Fields of a securing entry (R331). -/
structure SecFields where
  method : Nat
  resolved : Nat
  role : Nat
  format : Bool
  rare : Bool
  valid : Bool
  dirty : Bool
  cls : Nat
  k : Nat
  member : Nat
  partner : DevId
  event : Nat
  local_ : Nat
  held : Nat
  remote : Nat
  remoteEntry : Nat
  len : Nat
  sealedEpoch : W32
  sealedGen : Nat
  heldCurrent : Bool
  workEpoch : W32
  sealMask : Nat
  deriving DecidableEq, Repr

def secFields (e : BitVec 512) : SecFields :=
  { method := bits e 1 0, resolved := bits e 3 2, role := bits e 5 4, format := bit e 6, rare := bit e 7, valid := bit e 8,
    dirty := bit e 11, cls := bits e 14 12, k := bits e 20 16, member := bits e 25 21, partner := e.extractLsb' 32 16,
    event := bits e 59 48, local_ := bits e 111 64, held := bits e 175 128, remote := bits e 239 192,
    remoteEntry := bits e 249 240, len := bits e 295 256, sealedEpoch := e.extractLsb' 320 32, sealedGen := bits e 352 352,
    heldCurrent := bit e 353, workEpoch := e.extractLsb' 384 32, sealMask := bits e 432 416 }

/-- A PARITY_CHANGE owner whose EVENT was raised: DIRTY, and SEC_RATE_WARN when the previous raise is less than 100 commits
old (R332). -/
def State.dirtyAt (s : State) (ev i : Nat) : State :=
  match s.secEntry i with
  | (e, s) =>
    let f := secFields e
    if f.valid ∧ f.role = 0 ∧ f.resolved = 3 ∧ f.event = ev then
      let early := match (s.secAux i).raised with
        | none => false
        | some c => decide (s.sec.commits - c < 100)
      let s := (s.setSecEntry i (setBits e 11 11 1)).updSecAux i fun a => { a with raised := some s.sec.commits }
      s.countSec 0x118 (if early then 1 else 0)
    else s

/-- A layer event raised by a core of half `h` (R125): it counts at the rings and lists of that half's CE, ends the optimiser of
a COMMITTING job (R320), and sets DIRTY (R332). A fenced core raises nothing; it issues nothing. -/
def State.layerEvent (s : State) (h ev : Nat) : State :=
  let s := s.raiseAt h ev 1
  let s := (List.range 64).foldl (fun s j =>
    let b := s.job j
    if b.st = 4 ∧ bits b.opt 27 16 = ev then s.updJob j fun b => { b with optRaised := true } else s) s
  (List.range s.sec.count.toNat).foldl (fun s i => s.dirtyAt ev i) s

end Sys2Proof.Machine
end

