-- ==== Sys2Proof/Machine/Runs.lean ====
section
/-! DEFINITION. Commands in execution (R88, R89, R95, R102, R157): their issue, what is left of them between two turns, and their
completion. -/

namespace Sys2Proof.Machine

open Sys2Proof

/-- Enters a command in execution, or what it has become. -/
def Core.putRun (c : Core) (r : Run) : Core :=
  { c with runs := if c.runs.any fun y => decide (y.id = r.id) then c.runs.map fun y => if y.id = r.id then r else y else c.runs ++ [r] }

/-- A command is in execution no longer, and what it had popped without using it is gone. -/
def Core.dropRun (c : Core) (id : Nat) : Core :=
  let d := { c with runs := c.runs.filter fun r => decide (r.id ≠ id) }
  if c.rings.all fun e => (e.2.own id).isEmpty then d
  else
    { d with rings := (c.rings.map fun e => (e.1, { e.2 with staged := SMap.set [] e.2.staged id [] })).filter fun e => decide (e.2 ≠ {}) }

namespace State

def putRun (s : State) (x : Ctx) : State := s.updCore x.c (·.putRun x.toRun)

/-- The picker issues a command for a slot (R104), which goes on behind `n` command words; with 0 the body sets its pointer, or it stays.
Where run-ahead had stopped at this command it goes on (R109). -/
def mark (s : State) (x : Ctx) (n : Nat) : State :=
  s.updCore x.c fun c =>
    let d := (c.itouch (c.slot x.site.slot.toNat).gen x.ptr).updSlot x.site.slot.toNat fun sl =>
      { (if n = 0 then sl else sl.behind n) with last := c.clock + 1 }
    { d with clock := c.clock + 1, raStop := if x.site.slot = 0 ∧ c.raStop = some x.ptr then none else c.raStop }

/-- A slot whose commands in execution have all completed: a fused group with iterations left goes on, one that has none releases the
slot and raises its event (R157), and one that a STOP ends is dropped (R101; log entry 74); outside a group this is a command boundary. -/
def released (s : State) (site : Site) : State :=
  let c := s.core site.core.toNat
  let k := site.slot.toNat
  if c.runs.any fun r => decide (r.slot = site.slot) then s
  else
    match (c.slot k).group with
    | none => s.boundary site
    | some g =>
      if g.done.all fun n => decide (n = g.total) then
        let s := s.updCore site.core.toNat fun c => c.updSlot k fun sl => { sl with group := none }
        (if g.w.b 100 then s.layerEvent (halfOf site.core) (g.w.f 99 88) else s).boundary site
      else if (c.slot k).stop then (s.updCore site.core.toNat fun c => c.updSlot k fun sl => { sl with group := none }).boundary site
      else s

/-- A command fails in execution (R102): unless its slot has failed before, the pointer goes back to it, or to the FUSE of its group
(R157), with the hidden loop registers. -/
def failRun (s : State) (x : Ctx) (i : FaultInfo) : State :=
  let back (sl : Slot) : Slot :=
    if sl.st = 3 then sl
    else
      match x.member, sl.group with
      | some _, some g => { sl with ptr := g.ptr, loops := g.loops }
      | _, _ => { sl with ptr := x.ptr, loops := x.loops }
  (s.updCore x.c fun c => c.updSlot x.site.slot.toNat back).failSlot x.site x.op i

/-- A command completes, with a failure or without. -/
def complete (s : State) (x : Ctx) (f : Option FaultInfo) : State :=
  let s := s.updCore x.c (·.dropRun x.id)
  match f with
  | some i => s.failRun x i
  | none => s.released x.site

/-- All work of a command is done: it completes, unless output of it still waits to be pushed. -/
def ended (s : State) (x : Ctx) (f : Option FaultInfo) : State :=
  if (s.core x.c).backlog.any fun b => decide (b.id = x.id) then s.putRun { x with ended := true, fault := f } else s.complete x f

/-- What is left of a command after a turn. -/
def after (s : State) (x : Ctx) : Body → State
  | .done t => t.ended x none
  | .fail t i => t.ended x (some i)
  | .unit t y => t.ended y none
  | .wait y => (s.putRun x).absorb x y
  | .more t x y => (t.putRun x).absorb x y
  | .held t x => t.putRun { x with ended := true }

/-- A command whose work is done, and that waits for its output to go out or for acknowledgements, completes when it need not wait. -/
def settleRun (s : State) (x : Ctx) : State :=
  if x.acks ≠ 0 ∨ ((s.core x.c).backlog.any fun b => decide (b.id = x.id)) = true then s else s.complete x x.fault

end State

end Sys2Proof.Machine
end

