-- ==== Sys2Proof/Machine/Scalar.lean ====
section
/-! DEFINITION. Scalar commands: NOP, HALT, FENCE, TOKEN, WAITTOKEN, LOOP and the counter and comparator commands (R153 to
R155, R158 to R162). -/

namespace Sys2Proof.Machine

open Sys2Proof

/-- LAST = 1 on a command other than OPROD outside a fused group fails the issue check (R125). -/
def lastOk (x : Ctx) : Bool := x.fused || !x.w.last

/-- A command of the scalar unit that completes as it issues, with effect `f`. -/
def scalar (ok : Ctx → Bool) (f : Ctx → State → State) : Cmd :=
  { unit := 4, check := fun x _ => orBad (lastOk x && ok x), body := fun x s => .done (f x s) }

/-- NOP (R162). -/
def cmdNop : Cmd := scalar (fun x => x.w.z 127 32) fun _ s => s

/-- HALT (R162): the slot becomes HALTED with its pointer at the command after HALT. -/
def cmdHalt : Cmd := scalar (fun x => x.w.z 127 32) fun x s =>
  s.updCore x.c fun c => c.updSlot x.site.slot.toNat fun sl => { sl with st := 2 }

/-! ### Scopes (R158) -/

/-- Every STORE of the slot has been acknowledged. -/
def State.storesDone (s : State) (site : Site) : Bool :=
  !(s.net.stores.any fun t => decide (t.site = site)) && !(s.net.acks.any fun t => decide (t.site = site))

/-- Every command that the core had issued when the slot's next command became so has completed: the slot's last issue, or its start,
fixes the scope (log entry 70). A fused group completes when it releases its slot. -/
def Core.earlierDone (c : Core) (slot : BitVec 2) : Bool :=
  let n := (c.slot slot.toNat).last
  (c.runs.all fun r => decide (n ≤ r.id)) && c.slots.all fun e => match e.2.group with
    | some g => decide (n ≤ g.id)
    | none => true

/-- The scope's condition holds (R158); SLOT holds of every command that may issue (R89). -/
def State.scopeHolds (s : State) (site : Site) (scope : Nat) : Bool :=
  match scope with
  | 2 => (s.core site.core.toNat).earlierDone site.slot
  | 3 => s.storesDone site
  | _ => true

/-- FENCE (R159): with a matching mark the slot has marked its phase (R105); under READY-FIRST a mark has no effect. -/
def cmdFence : Cmd :=
  { scalar (fun x => x.w.z 127 37 && decide (x.w.f 34 32 ≤ 3 ∧ x.w.f 36 35 ≤ 2)) fun x s =>
      s.updCore x.c fun c => c.updSlot x.site.slot.toNat fun sl =>
        if x.w.f 36 35 ≠ 0 ∧ sl.tag.toNat = x.w.f 36 35 ∧ !s.readyFirst x.site.core then { sl with marked := true } else sl with
    cond := fun x s => s.scopeHolds x.site (x.w.f 34 32) }

/-! ### Tokens (R160, R161, R204) -/

/-- The token of a TOKEN command. -/
def tokenOf (x : Ctx) : Tok :=
  { src := some x.site, target := BitVec.ofNat 12 (x.w.f 47 36), tc := BitVec.ofNat 3 (x.w.f 50 48), n := BitVec.ofNat 16 (x.w.f 66 51) }

/-- A TOKEN puts its token on its way; one that would cross to a half in HALF-STILL comes back (R204). -/
def State.sendToken (s : State) (x : Ctx) : State :=
  let t := tokenOf x
  if s.stilledCross (halfOf x.site.core) (halfOf t.target) then
    { s.countTurn (.seam (halfOf x.site.core)) with net := { s.net with returning := s.net.returning ++ [t] } }
  else { s with net := { s.net with tokens := s.net.tokens ++ [t] } }

/-- TOKEN (R160). -/
def cmdToken : Cmd :=
  { unit := 4
    cond := fun x s => s.scopeHolds x.site (x.w.f 34 32)
    check := fun x s =>
      if !(lastOk x && x.w.z 35 35 && x.w.z 127 67 && decide (x.w.f 34 32 ≤ 3 ∧ x.w.f 66 51 ≠ 0)) then some stBadParam
      else if !s.hasCore (tokenOf x).target then some stNotPresent
      else none
    body := fun x s => .done (s.sendToken x) }

def Core.tc (c : Core) (n : Nat) : BitVec 16 := SMap.get 0 c.tcs n

/-- Takes tokens in where their counter has room; only those whose number would take it above 65,535 stay held back, in order (R160). -/
def Core.takeTokens (c : Core) : List Tok → Core
  | [] => c
  | t :: rest =>
    let k := t.tc.toNat
    if (c.tc k).toNat + t.n.toNat ≤ 65535 then
      Core.takeTokens { c with tcs := SMap.set 0 c.tcs k (c.tc k + t.n) } rest
    else Core.takeTokens { c with held := c.held ++ [t] } rest

/-- After a pop, held-back tokens that now fit are counted. -/
def Core.release (c : Core) : Core := Core.takeTokens { c with held := [] } c.held

/-- WAITTOKEN (R160). -/
def cmdWaitToken : Cmd :=
  { scalar (fun x => x.w.z 127 51 && decide (x.w.f 50 35 ≠ 0)) fun x s =>
      s.updCore x.c fun c =>
        ({ c with tcs := SMap.set 0 c.tcs (x.w.f 34 32) (c.tc (x.w.f 34 32) - BitVec.ofNat 16 (x.w.f 50 35)) } : Core).release with
    cond := fun x s => decide (x.w.f 50 35 ≤ ((s.core x.c).tc (x.w.f 34 32)).toNat) }

/-- TOKEN_ARRIVAL (R160): the oldest token in flight from a slot to a core arrives, in issue order. A token to a fenced core, or
one whose way is fenced (R194), is bounced instead (FENCED_BOUNCE), so it waits here. -/
def execTokenArrival (src : Site) (target : CoreId) (s : State) : Host.Outcome State Fault Refusal :=
  match s.net.tokens.find? fun t => decide (t.src = some src ∧ t.target = target) with
  | none => .next s
  | some t =>
    if (s.turnedTo (.core src.core) target).isSome then .next s
    else
      let s := { s with net := { s.net with tokens := s.net.tokens.erase t } }
      .next (s.updCore target.toNat fun c => c.takeTokens [t])

/-- TOKEN_RETURN (R161): a bounced token reaches its sender, whose slot becomes FAULTED with status FENCED. -/
def execTokenReturn (src : Site) (target : CoreId) (s : State) : Host.Outcome State Fault Refusal :=
  match s.net.returning.find? fun t => decide (t.src = some src ∧ t.target = target) with
  | none => .next s
  | some t =>
    let s := { s with net := { s.net with returning := s.net.returning.erase t } }
    .next (s.failSlot src 0x03
      { status := stFenced, tok := w32 (target.toNat + t.tc.toNat * 2 ^ 12 + t.n.toNat * 2 ^ 16) })

/-! ### Counters, comparators and sources (R153) -/

/-- CSET. -/
def cmdCset : Cmd := scalar (fun x => x.w.z 63 35 && x.w.z 127 96) fun x s =>
  s.updCore x.c fun c => c.setCnt (x.w.f 34 32) (w32 (x.w.f 95 64))

/-- CADD: modulo 2^32. -/
def cmdCadd : Cmd := scalar (fun x => x.w.z 63 35 && x.w.z 127 96) fun x s =>
  s.updCore x.c fun c => c.setCnt (x.w.f 34 32) (c.cnt (x.w.f 34 32) + w32 (x.w.f 95 64))

/-- CADDC: modulo 2^32. -/
def cmdCaddc : Cmd := scalar (fun x => x.w.z 35 35 && x.w.z 127 39) fun x s =>
  s.updCore x.c fun c => c.setCnt (x.w.f 34 32) (c.cnt (x.w.f 34 32) + c.cnt (x.w.f 38 36))

/-- CMP_Kn_CFG from its fields (R116). -/
def cmpCfg (ca cb : Nat) (immSel signed : Bool) (rel : Nat) : W32 :=
  w32 (rel + flag signed 3 + ca * 2 ^ 4 + flag immSel 7 + cb * 2 ^ 8)

/-- CMPSET: configures comparator K; REL 6 and 7 fail the check. -/
def cmdCmpset : Cmd := scalar (fun x => x.w.z 63 45 && x.w.z 127 96 && decide (x.w.f 44 42 ≤ 5)) fun x s =>
  let k : Cmp := { cfg := cmpCfg (x.w.f 36 34) (x.w.f 39 37) (x.w.b 40) (x.w.b 41) (x.w.f 44 42), imm := w32 (x.w.f 95 64) }
  s.updCore x.c fun c => { c with cmps := SMap.set {} c.cmps (x.w.f 33 32) k }

/-- CLRSEEN: clears each selected source (R113). -/
def cmdClrseen : Cmd := scalar (fun x => x.w.z 127 34) fun x s =>
  s.updCore x.c fun c => { c with pseen := c.pseen && !x.w.b 32, nfseen := c.nfseen && !x.w.b 33 }

/-! ### LOOP (R154, R155) -/

/-- The command word at an address as the slot would fetch it: from the instruction cache, else from memory with X
permission. -/
def State.streamWord (s : State) (core : CoreId) (gen : BitVec 16) (va : VA) : Option (BitVec 128) :=
  match (s.core core.toNat).iword gen va with
  | some x => some x
  | none =>
    match (s.translate (.core core) va .x).1 with
    | .bad _ => none
    | .ok pa _ =>
      let d := (s.mem.sector pa).drop (pa % 64 / 4)
      if (d.take 4).any (·.p) then none
      else some ((nth {} d 3).v ++ (nth {} d 2).v ++ (nth {} d 1).v ++ (nth {} d 0).v)

/-- A loop body of `n` words from `va` holds no LOOP inside a fused group and does not end inside one (R155). `inGroup` counts
the members of a group still to come. -/
def State.bodyOk (s : State) (core : CoreId) (gen : BitVec 16) : Nat → Nat → VA → Bool
  | 0, inGroup, _ => decide (inGroup = 0)
  | n + 1, inGroup, va =>
    match s.streamWord core gen va with
    | none => s.bodyOk core gen n (inGroup - 1) (nextPtr va 1)
    | some x =>
      let d := CmdWord.decode x
      if 0 < inGroup then
        if d.1 = 0x05 then false else s.bodyOk core gen n (inGroup - 1) (nextPtr va 1)
      else if d.1 = 0x06 then s.bodyOk core gen n (d.2.f 34 32) (nextPtr va 1)
      else s.bodyOk core gen n 0 (nextPtr va 1)

/-- The count a LOOP or FUSE takes at issue (R154, R156). -/
def countOf (c : Core) (imm : Bool) (v ctr : Nat) : Nat := if imm then v else (c.cnt ctr).toNat

/-- The words of a LOOP's body. -/
def loopWords (w : CmdWord) : Nat := w.f 71 60

/-- The count of a LOOP. -/
def loopCount (x : Ctx) (s : State) : Nat := countOf (s.core x.c) (x.w.b 35) (x.w.f 59 36) (x.w.f 34 32)

/-- LOOP's issue check (R155). -/
def loopOk (x : Ctx) (s : State) : Bool :=
  let n := loopWords x.w
  let sl := (s.core x.c).slot x.site.slot.toNat
  let past := nextPtr sl.ptr (1 + n)
  let inner := match sl.loops with
    | [] => true
    | l :: _ => decide ((past - sl.ptr).toNat ≤ (l.past - sl.ptr).toNat)
  lastOk x && x.w.z 127 72 && decide (n ≠ 0 ∧ sl.loops.length < 4) && inner &&
    (decide (loopCount x s = 0) || s.bodyOk x.site.core sl.gen n 0 (nextPtr sl.ptr 1))

/-- A slot enters a loop. -/
def Slot.enter (sl : Slot) (n count : Nat) : Slot :=
  { sl with ptr := nextPtr sl.ptr 1,
            loops := { first := nextPtr sl.ptr 1, past := nextPtr sl.ptr (1 + n), count := w32 count } :: sl.loops }

/-- LOOP (R154): takes a level and goes to the body's first word; a count of 0 passes the body (R155). -/
def cmdLoop : Cmd :=
  { unit := 4
    words := fun w => 1 + loopWords w
    moves := true
    check := fun x s => orBad (loopOk x s)
    body := fun x s => .done (s.updCore x.c fun c => c.updSlot x.site.slot.toNat fun sl =>
      if loopCount x s = 0 then sl.behind (1 + loopWords x.w) else sl.enter (loopWords x.w) (loopCount x s)) }

end Sys2Proof.Machine
end

