-- ==== Sys2Proof/Machine/Matrix.lean ====
section
/-! DEFINITION. Matrix commands: OPROD, OPSLICE, OPDIAG, BEDLOAD and TREAD (R56 to R87, R124 to R130). -/

namespace Sys2Proof.Machine

open Sys2Proof

/-- The OPEs a command enables, ascending (R119). -/
def Ctx.opes (x : Ctx) : List Nat := bitList 4 x.w.emask.toNat
/-- The tile a command names: 2 p + TILE, TILE toggled in odd iterations of a fused group where `x.w.tile` says so (R157). -/
def tileKey (ope pair : Nat) (tile : Bool) : Nat := 4 * ope + 2 * pair + (if tile then 1 else 0)

def Core.bed (c : Core) (e : Nat) : Bed := SMap.get {} c.beds e
def Core.tile (c : Core) (k : Nat) : Tile := SMap.get {} c.tiles k
def Core.setTile (c : Core) (k : Nat) (t : Tile) : Core := { c with tiles := SMap.set {} c.tiles k t }

/-- Bytes of the first unit of an operand stream of `k` steps: a step, with its prefix, or a panel (R65). -/
def firstUnit (f : Fmt) (k : Nat) : Nat := f.streamBytes (k ⊓ (if f.isBs then 32 else 1))

/-- Bit 0 of a number. -/
def oddBit (n : Nat) : Nat := n % 2

/-- R57, the pairing of the millrace format with a bedstone's. -/
def pairOk (a b : Fmt) (k : Nat) : Bool :=
  decide ((a = .int8) = (b = .int8)) && (!(a.isBs || b.isBs) || decide (k % 32 = 0))

/-- Cycles of `k` steps (R56): four a step where either operand is BF16, two steps a cycle where every pair is BS4 × BS4. -/
def stepCycles (a : Fmt) (bs : List Fmt) (k : Nat) : Nat :=
  if a = .bf16 || bs.any (· == .bf16) then 4 * k
  else if a = .bs4 && bs.all (· == .bs4) then k / 2
  else k

/-- The lines that a slice reads: from `first`, `k` lines `stride` apart. -/
def lines (first stride k : Nat) : List Nat := (List.range k).map fun t => first + t * stride

/-- Every step's products of a stream against a bedstone, read along `ls`. -/
def products (b : Bed) (col : Bool) (r0 c0 : Nat) (cols : List (List MV)) (ls : List Nat) : List (List (FVal × Bool)) :=
  List.zipWith (fun a l => outer a (b.line col r0 c0 l)) cols ls

/-- Runs the products of each enabled OPE into its tile, with the sources that its flags set (R67, R72). `prods` gives an OPE's
products from its bedstone. -/
def Core.runTiles (c : Core) (acc int : Bool) (opes : List Nat) (pair : Nat) (tile : Bool)
    (prods : Bed → List (List (FVal × Bool))) : Core :=
  opes.foldl (fun c e =>
    let k := tileKey e pair tile
    let ps := prods (c.bed e)
    let old := c.tile k
    let r := ({ old with sat := false, nf := false, psn := false } : Tile).run acc int ps
    let t : Tile := { r with sat := r.sat || (acc && old.sat), nf := r.nf || (acc && old.nf), psn := r.psn || (acc && old.psn) }
    { c.setTile k t with
      pseen := c.pseen || r.psn || ps.any fun p => p.any (·.2)
      nfseen := c.nfseen || r.nf }) c

/-- The tile modes suit an ACC = 1 command (R67). -/
def Core.modesOk (c : Core) (acc int : Bool) (opes : List Nat) (pair : Nat) (tile : Bool) : Bool :=
  !acc || opes.all fun e => decide ((c.tile (tileKey e pair tile)).int = int)

/-- The fields of OPROD and OPDIAG, from where they part on (R124, R127). -/
structure Slice where
  col : Bool
  pair : Nat
  fa : Fmt
  r0 : Nat
  c0 : Nat
  stride : Nat
  k : Nat
  deriving DecidableEq, Repr

/-- The first line read, and the last. -/
def Slice.first (f : Slice) : Nat := if f.col then f.c0 else f.r0
def Slice.last (f : Slice) : Nat := f.first + (f.k - 1) * f.stride
/-- Operands are INT8, and so the tile is an integer tile. -/
def Slice.int (f : Slice) : Bool := decide (f.fa = .int8)
/-- The lines read, and the products of a stream against a bedstone along them. -/
def Slice.lines (f : Slice) : List Nat := Machine.lines f.first f.stride f.k
/-- R57, R63: the slice suits the bedstone. -/
def Slice.suits (f : Slice) (b : Bed) : Bool := b.inside f.col f.r0 f.c0 f.last && pairOk f.fa b.fmt f.k

def oprodSlice (w : CmdWord) : Slice :=
  { col := w.b 32, pair := oddBit (w.f 33 33), fa := Fmt.ofCode (BitVec.ofNat 4 (w.f 37 34)), r0 := w.f 47 38,
    c0 := w.f 57 48, stride := w.f 67 58, k := w.f 83 68 }

/-- OPROD's issue check. -/
def oprodOk (s : State) (x : Ctx) : Bool :=
  let f := oprodSlice x.w
  let c := s.core x.c
  f.fa.isMillrace && x.w.z 127 96 && decide (x.w.emask ≠ 0) && s.queueOk x.site.core x.w.qa &&
    (decide (f.k = 0) || (x.opes.map c.bed).all f.suits) && c.modesOk x.w.acc f.int x.opes f.pair x.w.tile

/-- OPROD's products against a bedstone; steps of BS4 × BS4 go in pairs (R57). -/
def oprodProds (f : Slice) (ls : List Nat) (two : Bool) (cols : List (List MV)) (b : Bed) : List (List (FVal × Bool)) :=
  let ps := products b f.col f.r0 f.c0 cols ls
  if two then pairSteps ps else ps

/-- The units of an operand stream that a product command goes through (R60, R65): panels, or single steps. -/
def Slice.units (f : Slice) : Nat := if f.fa.isBs then f.k / 32 else f.k

/-- The lines of a unit of `n` columns, for a command that reads the lines `ls`. -/
def unitLines (x : Ctx) (f : Fmt) (ls : List Nat) : List Nat :=
  let per := if f.isBs then 32 else 1
  (ls.drop (x.unit * per)).take per

/-- The first unit overwrites the tile where ACC is 0, the others add to it (R67). -/
def Ctx.adds (x : Ctx) : Bool := x.w.acc || decide (0 < x.unit)

/-- The columns of the unit `x.unit` of an operand stream, with the scales of its prefix, which are kept for the later steps (R65). -/
def takeCols (x : Ctx) (f : Fmt) (s : State) : Taken (List MB × List (List MV)) :=
  if f.isBs then (take s x x.w.qa (f.streamBytes 32)).more fun p s => .got ([], f.decodeStream p) s
  else
    (take s x x.w.qa (if x.unit = 0 ∧ f.isRowScaled then 16 else 0)).more fun p s =>
      let p := if x.unit = 0 then p else x.once
      (take s x x.w.qa f.stepBytes).more fun b s => .got (p, f.decodeStream (p ++ b)) s

/-- A product command of `n` units, each of which does `f` to the core with its columns; with no unit, `f` of no columns is what an
overwrite of the tiles does (R67). -/
def productUnits (n : Nat) (fmt : Fmt) (f : Ctx → List (List MV) → Core → Core) (x : Ctx) (s : State) : Body :=
  if n = 0 then .done (if x.w.acc then s else s.updCore x.c (f x []))
  else stream n (fun x s => (takeCols x fmt s).body fun r s => .unit (s.updCore x.c (f x r.2)) { x with once := r.1 }) x s

/-- A unit of OPROD on a core: the tiles, and the cycles it counts. -/
def Core.oprod (x : Ctx) (cols : List (List MV)) (c : Core) : Core :=
  let f := oprodSlice x.w
  let beds := x.opes.map c.bed
  let two := decide (f.fa = .bs4) && beds.all fun b => decide (b.fmt = .bs4)
  (c.runTiles x.adds f.int x.opes f.pair x.w.tile (oprodProds f (unitLines x f.fa f.lines) two cols)).count 0x304
    (x.opes.length * stepCycles f.fa (beds.map (·.fmt)) cols.length)

/-- OPROD (R124): K steps of outer products into the tile of each enabled OPE, each as its column comes (R60); LAST = 1 raises its layer
event (R125). -/
def bodyOprod (x : Ctx) (s : State) : Body :=
  let f := oprodSlice x.w
  match productUnits f.units f.fa Core.oprod x s with
  | .done s => .done (if x.w.last && !x.fused then s.layerEvent (halfOf x.site.core) (x.w.f 95 84) else s)
  | b => b

def cmdOprod : Cmd :=
  { unit := 0
    check := fun x s => orBad (oprodOk s x)
    needs := fun x _ => { ins := [(x.w.qa, firstUnit (oprodSlice x.w).fa (oprodSlice x.w).k)] }
    body := bodyOprod }

/-- The fields of OPSLICE (R126). -/
structure SliceGroup where
  col : Bool
  pair : Nat
  slices : Nat
  g : Nat
  r0 : Nat
  c0 : Nat
  stride : Nat
  k : Nat
  sstride : Nat
  deriving DecidableEq, Repr

def sliceGroup (w : CmdWord) : SliceGroup :=
  { col := w.b 32, pair := oddBit (w.f 33 33), slices := w.f 37 34, g := w.f 41 38, r0 := w.f 51 42, c0 := w.f 61 52,
    stride := w.f 71 62, k := w.f 87 72, sstride := w.f 97 88 }

def SliceGroup.first (f : SliceGroup) : Nat := if f.col then f.c0 else f.r0
/-- The last line of the last slice read. -/
def SliceGroup.far (f : SliceGroup) : Nat := f.first + (f.g - 2) * f.sstride + (f.k - 1) * f.stride
/-- The lines in the order of the stream: slice i of A, i = 1 to G - 1, meets slice G - i of the bedstone. -/
def SliceGroup.lines (f : SliceGroup) : List Nat :=
  (List.range (f.g - 1)).flatMap fun i => Machine.lines (f.first + (f.g - 2 - i) * f.sstride) f.stride f.k

/-- OPSLICE's issue check. DESIGN CHOICE: an empty EMASK fails (log entry 76), and K = 0, which reads no line (R63), lifts the check
that a bedstone holds INT8 with those of its bounds (log entry 88). -/
def opsliceOk (s : State) (x : Ctx) : Bool :=
  let f := sliceGroup x.w
  let c := s.core x.c
  lastOk x && x.w.z 127 98 && decide (x.w.emask ≠ 0 ∧ 2 ≤ f.slices ∧ f.slices ≤ 9 ∧ 2 ≤ f.g ∧ f.g ≤ f.slices + 1) &&
    s.queueOk x.site.core x.w.qa &&
    (decide (f.k = 0) || (x.opes.map c.bed).all fun b => b.inside f.col f.r0 f.c0 f.far && decide (b.fmt = .int8)) &&
    c.modesOk x.w.acc true x.opes f.pair x.w.tile

/-- A step of OPSLICE on a core. -/
def Core.opslice (x : Ctx) (cols : List (List MV)) (c : Core) : Core :=
  let f := sliceGroup x.w
  (c.runTiles x.adds true x.opes f.pair x.w.tile fun b => products b f.col f.r0 f.c0 cols (unitLines x .int8 f.lines)).count 0x304
    (x.opes.length * cols.length)

/-- OPSLICE (R80, R126): the group G of slice products into one integer tile of each enabled OPE. -/
def bodyOpslice (x : Ctx) (s : State) : Body :=
  let f := sliceGroup x.w
  productUnits ((f.g - 1) * f.k) .int8 Core.opslice x s

def cmdOpslice : Cmd :=
  { unit := 0
    check := fun x s => if s.hasSlice then orBad (opsliceOk s x) else some stNotPresent
    needs := fun x _ => { ins := [(x.w.qa, firstUnit .int8 (sliceGroup x.w).k)] }
    body := bodyOpslice }

/-- OPDIAG's operations on one pair (R84). -/
def diagOp (op : Nat) (a b : MV) : MV :=
  { p := a.p || b.p,
    v := match op with
      | 0 => a.v.mul b.v
      | 1 => a.v.add b.v
      | 2 => a.v.sub b.v
      | 3 => FVal.max a.v b.v
      | _ => FVal.min a.v b.v }

/-- The products of MAC: only the diagonal cells take part, the others add an exact zero (R84, R86). -/
def diagProducts (a b : List MV) : List (Option (FVal × Bool)) :=
  (List.range 16).flatMap fun i => (List.range 16).map fun j =>
    if i = j then
      let u := nth {} a i
      let v := nth {} b i
      some (u.v.mul v.v, u.p || v.p)
    else none

/-- MAC's step on the cells (R86): with ACC = 0 the off-diagonal cells become +0 pairs in state NORMAL. -/
def diagStep (t : Tile) (first : Bool) (ps : List (Option (FVal × Bool))) (cells : List ACell) : Tile × List ACell :=
  let new := List.zipWith (fun (p : Option (FVal × Bool)) c => match p with
    | some e => ACell.step t.int first e.2 e.1 c
    | none => if first then {} else c) ps cells
  let t := t.flagsFrom (if first then cells.map (fun _ => {}) else cells) new
  let sets (o : Option (FVal × Bool)) (c : ACell) : Bool := match o with
    | some p => Tile.setsNf first p c
    | none => false
  ({ t with nf := t.nf || (List.zipWith sets ps cells).any id }, new)

def diagSteps (t : Tile) (ow : Bool) (cells : List ACell) : List (List (Option (FVal × Bool))) → Tile × List ACell
  | [] => (t, cells)
  | p :: rest =>
    let r := diagStep t ow p cells
    diagSteps r.1 false r.2 rest

/-- Some product of MAC has a poisoned operand. -/
def diagPoison (ps : List (List (Option (FVal × Bool)))) : Bool :=
  ps.any fun p => p.any fun o => match o with
    | some q => q.2
    | none => false

/-- MAC into one tile. -/
def Tile.runDiag (t : Tile) (acc int : Bool) (ps : List (List (Option (FVal × Bool)))) : Tile :=
  let t0 : Tile := if acc then t else { int := int }
  let r := diagSteps t0 (!acc) (if acc then t.list else List.replicate 256 {}) ps
  { r.1 with cells := Tile.ofList r.2 }

def opdiagSlice (w : CmdWord) : Slice :=
  { col := w.b 32, pair := oddBit (w.f 33 33), fa := Fmt.ofCode (BitVec.ofNat 4 (w.f 37 34)), r0 := w.f 52 43,
    c0 := w.f 62 53, stride := w.f 72 63, k := w.f 88 73 }

/-- OPDIAG's operation; 5 is MAC, whose result stays in the tile. -/
def opdiagOp (w : CmdWord) : Nat := w.f 41 38
/-- OPDIAG's output format. -/
def opdiagFmt (w : CmdWord) : Fmt := if w.b 42 then .bf16 else .fp32

/-- OPDIAG's issue check. DESIGN CHOICE (log entry 76): an empty EMASK fails. -/
def opdiagOk (s : State) (x : Ctx) : Bool :=
  let f := opdiagSlice x.w
  let c := s.core x.c
  let mac := decide (opdiagOp x.w = 5)
  lastOk x && f.fa.isMillrace && x.w.z 127 89 && decide (x.w.emask ≠ 0 ∧ opdiagOp x.w ≤ 5) && s.queueOk x.site.core x.w.qa &&
    (!f.int || mac) && (mac || s.outOk x.site.core x.w.qo) && (decide (f.k = 0) || (x.opes.map c.bed).all f.suits) &&
    (!mac || c.modesOk x.w.acc f.int x.opes f.pair x.w.tile)

/-- A unit of MAC on a core. -/
def Core.diagMac (x : Ctx) (cols : List (List MV)) (c : Core) : Core :=
  let f := opdiagSlice x.w
  let acc := x.adds
  x.opes.foldl (fun c e =>
    let key := tileKey e f.pair x.w.tile
    let ps := List.zipWith (fun a l => diagProducts a ((c.bed e).line f.col f.r0 f.c0 l)) cols (unitLines x f.fa f.lines)
    let old := c.tile key
    let r := ({ old with sat := false, nf := false, psn := false } : Tile).runDiag acc f.int ps
    let t : Tile := { r with sat := r.sat || (acc && old.sat), nf := r.nf || (acc && old.nf), psn := r.psn || (acc && old.psn) }
    { c.setTile key t with pseen := c.pseen || r.psn || diagPoison ps, nfseen := c.nfseen || r.nf }) c

/-- What a step of OPDIAG's other operations pushes: the diagonals, OPE by OPE, of a column against the line of each bedstone. -/
def diagOut (x : Ctx) (beds : List Bed) (col : List MV) (line : Nat) : List MB × Eff :=
  let f := opdiagSlice x.w
  let fo := opdiagFmt x.w
  let out := (beds.flatMap fun b => List.zipWith (diagOp (opdiagOp x.w)) col (b.line f.col f.r0 f.c0 line)).map fun m =>
    (fo.encodeElem x.w.rtz m, m.p)
  (out.flatMap fun e => leBytes fo.bytes e.1.code e.2, effSum (out.map (·.1.eff)))

/-- The column of step `x.unit`, with what is kept for later steps: a panel, or the scales of a prefix (R65). -/
def diagColumn (x : Ctx) (s : State) : Taken (List MB × List MV) :=
  let f := opdiagSlice x.w
  if f.fa.isBs then
    (take s x x.w.qa (if x.unit % 32 = 0 then f.fa.streamBytes 32 else 0)).more fun p s =>
      let p := if x.unit % 32 = 0 then p else x.once
      .got (p, nth [] (f.fa.decodeStream p) (x.unit % 32)) s
  else
    (take s x x.w.qa (if x.unit = 0 ∧ f.fa.isRowScaled then 16 else 0)).more fun p s =>
      let p := if x.unit = 0 then p else x.once
      (take s x x.w.qa f.fa.stepBytes).more fun b s => .got (p, nth [] (f.fa.decodeStream (p ++ b)) 0) s

/-- A step of OPDIAG's other operations. -/
def diagUnit (x : Ctx) (s : State) : Body :=
  (diagColumn x s).body fun r s =>
    let out := diagOut x (x.opes.map (s.core x.c).bed) r.2 (nth 0 (opdiagSlice x.w).lines x.unit)
    pushThen s x x.w.qo out.1 fun s => .unit (s.updCore x.c (·.effect out.2)) { x with once := r.1 }

/-- OPDIAG (R84 to R87, R127): MAC stays in the tiles; the other operations push each step's results, and stall for credit (R85). -/
def bodyOpdiag (x : Ctx) (s : State) : Body :=
  let f := opdiagSlice x.w
  if opdiagOp x.w = 5 then productUnits f.units f.fa Core.diagMac x s
  else stream f.k diagUnit x s

def cmdOpdiag : Cmd :=
  { unit := 0
    check := fun x s => orBad (opdiagOk s x)
    needs := fun x _ =>
      let f := opdiagSlice x.w
      { ins := [(x.w.qa, firstUnit f.fa f.k)]
        outs := if opdiagOp x.w = 5 ∨ f.k = 0 then [] else [(x.w.qo, 16 * x.opes.length * (opdiagFmt x.w).bytes)] }
    body := bodyOpdiag }

/-! ### BEDLOAD (R61, R64, R128, R129) -/

/-- Bytes of one image. -/
def imageBytes (f : Fmt) (scale rows cols : Nat) (orient : Bool) : Nat :=
  if f.isBs then roundUp 64 (cols * f.rowBytes rows)
  else
    let stored := if orient then cols else rows
    let len := (if orient then rows else cols) * f.bytes
    roundUp 64 (stored * len) + (match scale with
      | 1 => roundUp 64 rows
      | 2 => roundUp 64 cols
      | _ => 0)

/-- The bedstone that an image fills (R129). DESIGN CHOICE (log entry 88): with ORIENT = 1 a poisoned word of the image marks the elements
that stood in that word, and no other element of the words that they come to stand in. -/
def loadImage (f : Fmt) (scale rows cols : Nat) (orient : Bool) (img : List MB) : Bed :=
  let base : Bed := { loaded := true, fmt := f, rows := BitVec.ofNat 11 rows, cols := BitVec.ofNat 11 cols,
                      scale := BitVec.ofNat 2 scale }
  let put (m : SMap (BitVec 16 × Bool)) (r c code : Nat) (p : Bool) := SMap.set (0, false) m (1024 * r + c) (BitVec.ofNat 16 code, p)
  if f.isBs then
    let len := f.rowBytes rows
    let nb := rows / 32
    (List.range cols).foldl (fun b c =>
      let seg := (img.drop (c * len)).take len
      (List.range nb).foldl (fun b k =>
        let body := (seg.drop (k * f.blockBytes)).take f.blockBytes
        let sc := nth {} seg (nb * f.blockBytes + k)
        let b := { b with scales := SMap.set {} b.scales (1024 * k + c) sc }
        (List.range 32).foldl (fun b i =>
          let e := unpackAt f body i
          { b with elems := put b.elems (32 * k + i) c e.1 e.2 }) b) b) base
  else
    let stored := if orient then cols else rows
    let n := if orient then rows else cols
    let sc := img.drop (roundUp 64 (stored * n * f.bytes))
    let b := (List.range stored).foldl (fun b i =>
      (List.range n).foldl (fun b j =>
        let e := (img.drop ((i * n + j) * f.bytes)).take f.bytes
        let r := if orient then j else i
        let c := if orient then i else j
        { b with elems := put b.elems r c (leNat e) (anyPoison e) }) b) base
    let m := match scale with
      | 1 => rows
      | 2 => cols
      | _ => 0
    { b with scales := (List.range m).foldl (fun x i => SMap.set {} x i (nth {} sc i)) [] }

/-- The image of the `i`-th of `n` enabled OPEs, whose 64-byte units are interleaved (R129). -/
def deinterleave (n i : Nat) (bs : List MB) : List MB :=
  (((chunk 64 bs).zip (List.range (bs.length / 64))).filter fun u => decide (u.2 % n = i)).flatMap (·.1)

/-- The fields of BEDLOAD (R128). -/
structure BedF where
  fmt : Fmt
  scale : Nat
  orient : Bool
  rows : Nat
  cols : Nat
  shared : Bool
  deriving DecidableEq, Repr

def bedF (w : CmdWord) : BedF :=
  { fmt := Fmt.ofCode (BitVec.ofNat 4 (w.f 35 32)), scale := w.f 37 36, orient := w.b 38, rows := w.f 49 39,
    cols := w.f 60 50, shared := w.b 61 }

/-- The bytes that a BEDLOAD takes for `n` OPEs. -/
def BedF.bytes (f : BedF) (n : Nat) : Nat :=
  let img := imageBytes f.fmt f.scale f.rows f.cols f.orient
  if f.shared then img else n * img

/-- BEDLOAD's issue check. -/
def bedloadOk (s : State) (x : Ctx) : Bool :=
  let f := bedF x.w
  lastOk x && decide (f.fmt ∈ [Fmt.fp8e4, .fp8e5, .bf16, .bs8, .bs6, .bs4, .int8]) && x.w.z 127 62 &&
    decide (x.w.emask ≠ 0) && s.queueOk x.site.core x.w.qa && (f.orient || !f.fmt.isBs) &&
    Bed.geometryOk f.fmt f.scale f.rows f.cols

/-- BEDLOAD on a core: a bedstone for each OPE, from one image or from its own. -/
def Core.bedload (c : Core) (f : BedF) (opes : List Nat) (bs : List MB) : Core :=
  (List.range opes.length).foldl (fun c i =>
    let b := loadImage f.fmt f.scale f.rows f.cols f.orient (if f.shared then bs else deinterleave opes.length i bs)
    { c with beds := SMap.set {} c.beds (nth 0 opes i) b }) c

/-- BEDLOAD (R128). -/
def bodyBedload (x : Ctx) (s : State) : Body :=
  let f := bedF x.w
  popThen s x x.w.qa (f.bytes x.opes.length) fun bs s => .done (s.updCore x.c (·.bedload f x.opes bs))

def cmdBedload : Cmd :=
  { unit := 0
    check := fun x s => orBad (bedloadOk s x)
    needs := fun x _ => { ins := [(x.w.qa, 64 ⊓ (bedF x.w).bytes x.opes.length)] }
    body := bodyBedload }

/-! ### TREAD (R75 to R78, R130) -/

/-- A cell's exact value (R76). -/
def ACell.value (int : Bool) (c : ACell) : MV :=
  { v := if int then .ofInt c.bits.toInt else if c.st = 2 then .nan else c.hi.add c.lo, p := decide (c.st = 3) }

/-- The data of a record (R78), with the effects of its conversion. -/
def recordData (t : Tile) (conv : Nat) (rtz : Bool) : List MB × Eff :=
  let cells := t.list
  let vals := cells.map (ACell.value t.int)
  let ps := cells.any fun c => decide (c.st = 3)
  let conv1 (f : Fmt) : List MB × Eff :=
    let es := vals.map fun m => (f.encodeElem rtz m, m.p)
    (es.flatMap fun e => leBytes f.bytes e.1.code e.2, effSum (es.map (·.1.eff)))
  let scaled (f : Fmt) : List MB × Eff :=
    let rs := (chunk 16 vals).map (f.encodeRowScaled rtz)
    (rs.map (fun r => ⟨BitVec.ofNat 8 r.1, false⟩) ++ rs.flatMap (·.2.1), effSum (rs.map (·.2.2)))
  match conv with
  | 0 => conv1 .fp32
  | 1 => conv1 .bf16
  | 2 => scaled .fp8e4r
  | 3 => scaled .fp8e5r
  | 5 => conv1 .fp64
  | _ => (cells.flatMap fun c => leBytes 8 c.bits.toNat (decide (c.st = 3)),
      { ps := ps, nf := cells.any fun c => decide (c.st = 2) })

/-- The read-out header (R77). -/
def recordHeader (t : Tile) (ope idx conv len : Nat) : List MB :=
  leBytes 4 (1 + ope * 2 ^ 8 + idx * 2 ^ 10 + conv * 2 ^ 12 + flag t.int 15 + flag t.sat 16 + flag t.nf 17 + flag t.psn 18) ++
    leBytes 4 (t.cellsIn 1 + t.cellsIn 2 * 2 ^ 16) ++ leBytes 4 (t.cellsIn 3) ++ leBytes 4 len

/-- A conversion that suits the tile's mode (R75). -/
def convOk (int : Bool) (conv : Nat) : Bool := if int then decide (conv = 5 ∨ conv = 6) else decide (conv ≤ 5)

/-- TREAD's tile pair. -/
def treadPair (w : CmdWord) : Nat := oddBit (w.f 35 35)

/-- TREAD's issue check. -/
def treadOk (s : State) (x : Ctx) : Bool :=
  lastOk x && x.w.z 127 36 && decide (x.w.emask ≠ 0 ∧ x.w.qo = 14) && s.queueOk x.site.core 14 &&
    x.opes.all fun e => convOk ((s.core x.c).tile (tileKey e (treadPair x.w) x.w.tile)).int (x.w.f 34 32)

/-- TREAD's record of OPE `e`: header and data, with the effects of its conversion. -/
def treadRec (x : Ctx) (c : Core) (e : Nat) : List MB × Eff :=
  let conv := x.w.f 34 32
  let t := c.tile (tileKey e (treadPair x.w) x.w.tile)
  let d := recordData t conv x.w.rtz
  (recordHeader t e (2 * treadPair x.w + (if x.w.tile then 1 else 0)) conv d.1.length ++ d.1, d.2)

/-- One record: pushed whole, with its effects. -/
def treadUnit (x : Ctx) (s : State) : Body :=
  let r := treadRec x (s.core x.c) (nth 0 x.opes x.unit)
  pushThen s x 14 r.1 fun s => .done (s.updCore x.c (·.effect r.2))

/-- TREAD (R130): one record per enabled OPE into Q14, each only with credit for the whole of it (R78); the ring of Q14 holds a record
(R94). -/
def bodyTread (x : Ctx) (s : State) : Body := stream x.opes.length treadUnit x s

def cmdTread : Cmd :=
  { unit := 1
    check := fun x s => orBad (treadOk s x)
    needs := fun x s => { outs := [(14, (treadRec x (s.core x.c) (nth 0 x.opes 0)).1.length)] }
    body := bodyTread }

/-! ### Order on the tiles (R59, R67, R68, R73) -/

/-- The tiles of a product command. -/
def targetTiles (op : Byte) (w : CmdWord) : List Nat :=
  if op = 0x10 ∨ op = 0x11 ∨ (op = 0x12 ∧ w.f 41 38 = 5) then
    (bitList 4 w.emask.toNat).map fun e => tileKey e (oddBit (w.f 33 33)) w.tile
  else []

/-- The tiles that a TREAD reads. -/
def readTiles (op : Byte) (w : CmdWord) : List Nat :=
  if op = 0x14 then (bitList 4 w.emask.toNat).map fun e => tileKey e (treadPair w) w.tile else []

/-- Tiles in common. -/
def meet (a b : List Nat) : Bool := a.any fun k => b.contains k

/-- The tiles that a TREAD in execution has yet to read. -/
def Run.unread (r : Run) : List Nat := (readTiles r.op r.w).drop r.unit

/-- A product command waits for a TREAD of its tiles that is in execution, and a TREAD for a product command (R68). -/
def Core.tilesClear (c : Core) (op : Byte) (w : CmdWord) : Bool :=
  c.runs.all fun r => !meet (targetTiles op w) r.unread && !meet (readTiles op w) (targetTiles r.op r.w)

end Sys2Proof.Machine
end

