-- ==== Sys2Proof/Machine/Transfer.lean ====
section
/-! DEFINITION. Transfer commands FETCH, STORE, SEND and RECV (R131 to R136), with the part that the cluster shared memory
(R183 to R188) and the cluster stream unit (R246 to R257) take in them. -/

namespace Sys2Proof.Machine

open Sys2Proof

/-! ### Spans -/

/-- The fields of FETCH and STORE (R132). -/
structure Xfer where
  space : Nat
  layout : Nat
  fmt : Fmt
  addr : Nat
  len : Nat
  nrows : Nat
  stride : Nat
  scaleBase : Nat
  hint : Bool
  deriving DecidableEq, Repr

/-- The effective address and fields of a transfer (R131, R132, R157). -/
def xferOf (x : Ctx) : Xfer :=
  let w := x.w
  let raise := x.iter * 64 * x.addrStep
  let offs := if w.b 119 then 64 * (x.cnt (w.f 122 120)).toNat else 0
  let j := w.f 124 123
  { space := w.f 33 32, layout := w.f 35 34, fmt := Fmt.ofCode (BitVec.ofNat 4 (w.f 39 36)),
    addr := (w.f 87 40 + offs + raise) % 2 ^ 48,
    len := w.f 103 88, nrows := w.f 115 104, stride := (x.cnt (w.f 118 116)).toNat,
    scaleBase := bits (x.cnt (2 * j + 1)) 15 0 * 2 ^ 32 + (x.cnt (2 * j)).toNat + x.iter * w.f 115 104,
    hint := w.b 125 }

/-- Bytes of one stored row (R133). -/
def Xfer.rowLen (t : Xfer) : Nat :=
  if t.layout = 2 then
    if t.fmt.isBs then t.fmt.rowBytes (t.len * 8) else t.len * 8 * t.fmt.bytes
  else t.len * 8

/-- The rows of a span: address and bytes (R133, R249). -/
def Xfer.rows (t : Xfer) : List (Nat × Nat) :=
  if t.layout = 0 then [(t.addr, t.len * 8)]
  else (List.range t.nrows).map fun r => ((t.addr + r * t.stride) % 2 ^ 48, t.rowLen)

/-- The scale bytes of the rows of a PANEL with a per-row scale, which stand at a virtual address (R133). -/
def Xfer.scaleRows (t : Xfer) : List (Nat × Nat) :=
  if t.layout = 2 && t.fmt.isRowScaled then [(t.scaleBase % 2 ^ 48, t.nrows)] else []

/-- Bytes that a FETCH pushes. -/
def Xfer.pushed (t : Xfer) : Nat :=
  if t.layout = 2 then t.nrows / 16 * t.fmt.streamBytes (t.len * 8)
  else (t.rows.map (·.2)).sum

/-- The checks that FETCH and STORE share (R131, R132). -/
def xferOk (x : Ctx) (t : Xfer) : Bool :=
  lastOk x && x.w.z 127 126 &&
    decide (t.space ≤ 1 ∧ t.layout ≤ 2 ∧ t.len ≠ 0 ∧ t.addr % 8 = 0) &&
    (decide (t.space = 0) || x.w.z 87 61) &&
    (decide (t.layout = 0) || decide (t.nrows ≠ 0 ∧ t.stride % 8 = 0)) &&
    (decide (t.layout ≠ 2) || (t.fmt.isMillrace && decide (t.nrows % 16 = 0) &&
      (!t.fmt.isBs || decide (t.len * 8 % 32 = 0))))

/-! ### PANEL (R65, R133) -/

/-- The blocks of a stored block-scaled row: element bytes and scale (R41). -/
def rowBlocks (f : Fmt) : Nat → Nat → List MB → List (List MB × MB)
  | 0, _, _ => []
  | fuel + 1, b, bs =>
    if b = 0 then []
    else
      let n := b ⊓ 32
      let size := roundUp 8 (n * (f.blockBytes + 1))
      ((List.range n).map fun k =>
        ((bs.drop (k * f.blockBytes)).take f.blockBytes, nth {} bs (n * f.blockBytes + k))) ++
        rowBlocks f fuel (b - n) (bs.drop size)

/-- The operand stream of 16 stored rows of `k` elements: elements rearranged, not converted. -/
def panelOf (f : Fmt) (k : Nat) (rows : List (List MB)) (scales : List MB) : List MB :=
  if f.isBs then
    let blocks := rows.map fun r => rowBlocks f (k + 1) (k / 32) r
    (columns (α := List MB × MB) ([], {}) (k / 32) blocks).flatMap fun p =>
      let codes := p.map fun b => (List.range 32).map fun i => unpackAt f b.1 i
      (columns (0, false) 32 codes).flatMap (packBits f) ++ p.map (·.2)
  else
    (if f.isRowScaled then scales else []) ++
      (columns (α := List MB) [] k (rows.map (chunk f.bytes))).flatten.flatten

/-! ### Cluster shared memory (R183 to R188) -/

/-- The first byte of the CSU area (R184). -/
def Cluster.csuBase (c : Cluster) : Nat := (32 - bits c.cfg 5 0) * 65536

def Cluster.word (c : Cluster) (off : Nat) : QW := SMap.get {} c.csm (off / 4)

/-- The parity of a CSM word fails. -/
def Cluster.wrongAt (c : Cluster) (off : Nat) : Bool := SMap.get false c.csmWrong (off / 4)

/-- The words of a CSM sector as a read delivers them: one whose parity fails is poisoned (R188). -/
def Cluster.sector (c : Cluster) (off : Nat) : List QW :=
  (List.range 16).map fun i =>
    let a := off / 64 * 64 + 4 * i
    { c.word a with p := (c.word a).p || c.wrongAt a }

/-- The words of a sector whose parity fails. -/
def Cluster.wrongIn (c : Cluster) (off : Nat) : Nat :=
  ((List.range 16).filter fun i => c.wrongAt (off / 64 * 64 + 4 * i)).length

/-- One read request of a sector: it joins the open window of its sector or opens one, the oldest of a full bank closing
first (R185); the bank's read counts the words whose parity fails (R188, R208). -/
def Cluster.readNote (c : Cluster) (off : Nat) : Cluster :=
  let sec : BitVec 15 := BitVec.ofNat 15 (off / 64)
  let c := c.count 0x20 1
  if c.wins.any fun w => decide (w.sector = sec) && w.open_ then c.count 0x28 1
  else
    let bank := c.wins.filter fun w => decide (w.sector.toNat % 16 = sec.toNat % 16)
    let wins := if 4 ≤ bank.length then c.wins.erase (bank.headD { sector := sec }) else c.wins
    { (c.count 0x24 1).count 0x34 (c.wrongIn off) with wins := wins ++ [{ sector := sec }] }

/-- Writes bytes into CSM: counted per sector, and each written sector's window takes no more joiners (R186). -/
def Cluster.writeBytes (c : Cluster) (off : Nat) (ws : List QW) : Cluster :=
  let secs := (sectorsOf off (4 * ws.length)).map fun t => t.1 / 64
  let c := c.count 0x30 secs.length
  let csm := ((List.range ws.length).zip ws).foldl (fun m e => SMap.set {} m (off / 4 + e.1) e.2) c.csm
  let wrong := (List.range ws.length).foldl (fun m i => SMap.set false m (off / 4 + i) false) c.csmWrong
  { c with csm := csm, csmWrong := wrong,
           wins := c.wins.map fun w => if secs.contains w.sector.toNat then { w with open_ := false } else w }

/-- The rows of cluster shared memory, up to the boundary of the CSU area (R184); the last component tells that the span
reaches it. -/
def Cluster.readRows (c : Cluster) : List (Nat × Nat) → List (List MB) → List (List MB) × Bool × Cluster
  | [], acc => (acc, false, c)
  | (a, n) :: rest, acc =>
    let m := (c.csuBase - a) ⊓ n
    let secs := sectorsOf a m
    let bytes := secs.flatMap fun t => ((bytesOf (c.sector t.1)).drop t.2.1).take t.2.2
    let c' := secs.foldl (fun c t => c.readNote t.1) c
    if m < n then (acc ++ [bytes], true, c') else Cluster.readRows c' rest (acc ++ [bytes])

/-! ### Cluster stream unit (R246 to R256) -/

def Csu.lineHas (f : CFrame) (line : BitVec 32) (sec : Nat) : Bool := decide (f.line = line) && f.valid.getLsbD sec

/-- The physical line and sector of an address. -/
def lineOfPa (pa : Nat) : BitVec 32 := BitVec.ofNat 32 (pa / 256)
def secOfPa (pa : Nat) : Nat := pa / 64 % 4
def secMask (k : Nat) : BitVec 4 := BitVec.ofNat 4 (2 ^ k)

/-- The sectors among those listed, as a mask. -/
def maskOf (l : List Nat) : BitVec 4 := l.foldl (fun m k => m ||| secMask k) 0

/-- The words of the sectors of a line. -/
def wordMask (secs : BitVec 4) : BitVec 64 :=
  BitVec.ofNat 64 (((bitList 4 secs.toNat).map fun i => 65535 * 2 ^ (16 * i)).sum)

/-- Words of a frame's sector whose parity fails. -/
def CFrame.wrongIn (f : CFrame) (sec : Nat) : Nat := popcount 64 (f.wrong &&& wordMask (secMask sec)).toNat

/-- The active stream of a frame's sector. -/
def CFrame.owner (f : CFrame) (sec : Nat) : Option (BitVec 4) := SMap.get none f.own sec

/-- A prefetch in flight that a demand can join and whose data will be kept: neither cancelled nor passed by a write (R250, R255). -/
def PfReq.sound (r : PfReq) : Bool := !r.cancelled && !r.stale

/-- Lines for which a frame is spoken for: resident, or in flight. -/
def Csu.lines (c : Csu) : List (BitVec 32) :=
  let ls := c.frames.map (·.line)
  ls ++ (((c.inflight.filter (·.sound)).map (·.line)).filter fun l => !ls.contains l).eraseDups

/-- The prefetch in flight that holds a sector. -/
def Csu.flying (c : Csu) (pa : Nat) : Option PfReq :=
  c.inflight.find? fun r => decide (r.line = lineOfPa pa) && r.sectors.getLsbD (secOfPa pa) && r.sound

/-- A stream issues a prefetch or has a sector hit now (R250). -/
def Csu.useStream (c : Csu) (st : Option (BitVec 4)) : Csu :=
  let c := { c with clock := c.clock + 1 }
  match st with
  | none => c
  | some k =>
    match SMap.get none c.streams k.toNat with
    | some t => { c with streams := SMap.set none c.streams k.toNat (some { t with used := c.clock }) }
    | none => c

/-- A demand joins the prefetch that holds its sector (R254). -/
def Csu.join (c : Csu) (r : PfReq) (sec : Nat) : Csu :=
  ({ c.count 0x30 1 with
    inflight := c.inflight.map fun y => if y = r then { y with demanded := y.demanded ||| secMask sec } else y }).useStream
      (if r.live then some r.stream else none)

/-- A demand hits a sector of a frame (R254). -/
def Csu.hitFrame (c : Csu) (f : CFrame) (sec : Nat) : Csu :=
  ({ (c.count 0x30 1).count 0x14 (if f.hit.getLsbD sec then 0 else 1) with
    frames := { f with hit := f.hit ||| secMask sec } :: c.frames.erase f }).useStream (f.owner sec)

/-- Parity fails at a demand hit: the frame's sector is dropped (R256). -/
def Csu.parityDrop (c : Csu) (f : CFrame) (sec : Nat) : Csu :=
  let g := { f with valid := f.valid &&& ~~~ secMask sec, hit := f.hit &&& ~~~ secMask sec,
                    wrong := f.wrong &&& ~~~ wordMask (secMask sec), own := SMap.set none f.own sec none }
  let rest := c.frames.erase f
  let c := (c.count 0x3C (f.wrongIn sec)).count 0x20 (if f.hit.getLsbD sec then 0 else 1)
  { c with frames := if g.valid = 0 then rest else g :: rest }

/-! ### Request trackers (R247) -/

/-- Sectors of FETCHes that a core waits for. -/
def Core.waiting (c : Core) : Nat :=
  (c.runs.map fun r => (r.pieces.filter Piece.waiting).length).sum

/-- The trackers that a core holds. -/
def State.trackersOf (s : State) (core : Nat) : Nat :=
  (s.core core).waiting + (s.net.stores.filter fun t => decide (t.site.core.toNat = core)).length +
    (s.net.acks.filter fun t => decide (t.site.core.toNat = core)).length

/-- Trackers that prefetches hold: one a sector. -/
def Csu.trackers (c : Csu) : Nat := (c.inflight.map fun r => popcount 4 r.sectors.toNat).sum

/-- The trackers of a stream unit that are taken. -/
def State.trackersIn (s : State) (k : Nat) : Nat :=
  (s.csu k).trackers + ((List.range 64).map fun n => s.trackersOf (64 * k + n)).sum

/-- The trackers that a core can still take. -/
def State.trackerRoom (s : State) (core : Nat) : Nat := (48 - s.trackersOf core) ⊓ (3072 - s.trackersIn (core / 64))

/-- The trackers for which demands of the cluster wait (R247). -/
def State.demandNeed (s : State) (k : Nat) : Nat :=
  ((s.cores.filter fun e => decide (e.1 / 64 = k)).map fun e =>
    (48 - s.trackersOf e.1) ⊓ ((e.2.runs.filter fun r => decide (r.op = 0x20)).map fun r =>
      (r.pieces.filter fun p => decide (p = .todo)).length).sum).sum

/-! ### Merge windows (R248) -/

/-- The open window of a line for reads, or for writes. -/
def Csu.win (c : Csu) (line : BitVec 32) (write : Bool) : Option MWin := c.wins.find? fun w => decide (w.line = line ∧ w.write = write)

def Csu.dropWin (c : Csu) (line : BitVec 32) (write : Bool) : Csu :=
  { c with wins := c.wins.filter fun w => decide (w.line ≠ line ∨ w.write ≠ write) }

def Run.mapPieces (r : Run) (f : Piece → Piece) : Run := { r with pieces := r.pieces.map f }

/-- Every demand of the cluster that waits for a sector in a window, or on the prefetch `prefetch`, comes to `v`. -/
def State.answer (s : State) (k : Nat) (pa : Nat) (prefetch : Option Nat) (v : Piece) : State :=
  let f (p : Piece) : Piece := if p = .waits (BitVec.ofNat 40 pa) prefetch then v else p
  { s with cores := s.cores.map fun e =>
      if e.1 / 64 = k then (e.1, { e.2 with runs := e.2.runs.map fun r => r.mapPieces f }) else e }

/-- The words and status of a sector that a controller answered. -/
def SecAnswer.piece (a : SecAnswer) : Piece :=
  match a with
  | .ok d => .got d stOk
  | .bad st => .got (List.replicate 16 ⟨0, true⟩) st

/-- One request for sectors of a line is served by its controller: each sector is read once, and delivered to every demand that waits for
it. -/
def State.serveLine (s : State) (k : Nat) (line : BitVec 32) (secs : BitVec 4) (noalloc : Bool) : State :=
  (bitList 4 secs.toNat).foldl (fun s i =>
    let pa := line.toNat * 256 + 64 * i
    match s.mcRead pa noalloc with
    | (a, s) => s.answer k pa none a.piece) s

/-- The STOREs that stand in the write window of a line, as one request. -/
def State.sendWrites (s : State) (k : Nat) (line : BitVec 32) : State :=
  let n := s.net.seq
  { s with net := { s.net with
      seq := n + 1
      stores := s.net.stores.map fun t =>
        if clusterOf t.site.core = k ∧ lineOfPa t.pa.toNat = line ∧ t.req = none then { t with req := some n } else t } }

/-- An open window of a line goes to its controller as one request. -/
def State.sendWindow (s : State) (k : Nat) (line : BitVec 32) (write : Bool) : State :=
  match (s.csu k).win line write with
  | none => s
  | some w =>
    let s := s.updCsu k (·.dropWin line write)
    if write then s.sendWrites k line else s.serveLine k line w.sectors w.noalloc

/-- `n` sector requests of one transfer, of the sectors `secs` of a line, reach the windows: they join the open window of their kind, or
open one, or go at once; a window that covers the line is sent. -/
def State.mergeIn (s : State) (k : Nat) (line : BitVec 32) (write : Bool) (secs : BitVec 4) (n : Nat) (noalloc : Bool) : State :=
  match (s.csu k).win line write with
  | some w =>
    let u := w.sectors ||| secs
    let s := s.updCsu k fun c => { (c.dropWin line write).count 0x38 n with wins := (c.dropWin line write).wins ++ [{ w with sectors := u }] }
    if u = 0xF then s.sendWindow k line write else s
  | none =>
    let s := s.updCsu k fun c =>
      { c.count 0x38 (n - popcount 4 secs.toNat) with wins := c.wins ++ [{ line := line, write := write, sectors := secs, noalloc := noalloc }] }
    if secs = 0xF ∨ bits (s.csu k).cfg 15 10 = 0 then s.sendWindow k line write else s

/-! ### Demand reads (R254) -/

def State.runOf (s : State) (x : Ctx) : Run := ((s.core x.c).runs.find? fun r => decide (r.id = x.id)).getD x.toRun
def State.pieceOf (s : State) (x : Ctx) (i : Nat) : Piece := nth .todo (s.runOf x).pieces i
def State.setPiece (s : State) (x : Ctx) (i : Nat) (p : Piece) : State :=
  s.updCore x.c (·.putRun { s.runOf x with pieces := (s.runOf x).pieces.set i p })

/-- A STORE of the cluster to a line has not been served yet: reads of the line stay behind it (R220, R255). -/
def State.storePending (s : State) (k : Nat) (line : BitVec 32) : Bool :=
  s.net.stores.any fun t => decide (clusterOf t.site.core = k ∧ lineOfPa t.pa.toNat = line)

/-- Where a frame's sector stands in cluster shared memory. -/
def State.frameAt (s : State) (k : Nat) (f : CFrame) (sec : Nat) : Nat := (s.cluster k).csuBase + 256 * f.slot + 64 * sec

/-- A sector that a frame holds is read there, through the crossbar (R185), and one that a prefetch in flight holds waits on it, where the
core can take a tracker (R247, R254). -/
def State.askSector (s : State) (x : Ctx) (i pa : Nat) : State :=
  let k := clusterOf x.site.core
  let c := s.csu k
  let sec := secOfPa pa
  match c.frames.find? fun f => Csu.lineHas f (lineOfPa pa) sec with
  | some f =>
    if f.wrongIn sec ≠ 0 then s.updCsu k (·.parityDrop f sec)
    else ((s.updCsu k (·.hitFrame f sec)).updCluster k (·.readNote (s.frameAt k f sec))).setPiece x i (.got ((f.data.drop (16 * sec)).take 16) stOk)
  | none =>
    match c.flying pa with
    | some r => if s.trackerRoom x.c = 0 then s else (s.updCsu k (·.join r sec)).setPiece x i (.waits (BitVec.ofNat 40 pa) (some r.seq))
    | none => s

/-- The sectors of a request that miss go toward their controller, or are turned back on the way (R194, R204). -/
def State.askMiss (s : State) (x : Ctx) (line : BitVec 32) (noalloc : Bool) (l : List (Nat × Nat)) : State :=
  let k := clusterOf x.site.core
  match l with
  | [] => s
  | (_, pa) :: _ =>
    let s := s.updCsu k (·.count 0x34 l.length)
    match s.turnedAt (.core x.site.core) pa with
    | some t => l.foldl (fun s e => s.setPiece x e.1 (SecAnswer.bad stFenced).piece) (s.countTurn t)
    | none =>
      (l.foldl (fun s e => s.setPiece x e.1 (.waits (BitVec.ofNat 40 e.2) none)) s).mergeIn k line false
        (maskOf (l.map fun e => secOfPa e.2)) l.length noalloc

/-- One request of a FETCH: the sectors of one line, from piece `i` on. A write window of the line is sent before it (R248), and it waits
while a STORE to the line is on its way. True: its translation fails. -/
def State.askLine (s : State) (x : Ctx) (i : Nat) (as_ : List Nat) : State × Bool :=
  let k := clusterOf x.site.core
  match (List.range as_.length).filter fun j => decide (s.pieceOf x (i + j) = .todo) with
  | [] => (s, (List.range as_.length).any fun j => match s.pieceOf x (i + j) with
      | .fault _ => true
      | _ => false)
  | j :: js =>
    match s.translate (.core x.site.core) (BitVec.ofNat 48 (nth 0 as_ j)) .r with
    | (.bad c, s) => (s.setPiece x (i + j) (.fault c), true)
    | (.ok pa noalloc, s) =>
      let line := lineOfPa pa
      let mine := (j :: js).map fun j => (i + j, pa / 256 * 256 + nth 0 as_ j % 256)
      let s := s.sendWindow k line true
      if s.storePending k line then (s, false)
      else
        let s := mine.foldl (fun s e => s.askSector x e.1 e.2) s
        let miss := mine.filter fun e => decide (s.pieceOf x e.1 = .todo) && ((s.csu k).flying e.2).isNone
        (s.askMiss x line noalloc (miss.take (s.trackerRoom x.c)), false)

/-- Sectors in the order in which they are asked for, those of one line together: the first one's place, and their addresses. -/
def lineRuns : Nat → Nat → List Nat → List (Nat × List Nat)
  | 0, _, _ => []
  | _, _, [] => []
  | f + 1, i, a :: rest =>
    let mine := rest.takeWhile fun b => decide (b / 256 = a / 256)
    (i, a :: mine) :: lineRuns f (i + 1 + mine.length) (rest.drop mine.length)

/-- The requests of a FETCH in order; what lies behind a translation fault is not asked for (R135). -/
def State.askAll (s : State) (x : Ctx) : List (Nat × List Nat) → State
  | [] => s
  | (i, as_) :: rest =>
    match s.askLine x i as_ with
    | (s, true) => s
    | (s, false) => s.askAll x rest

/-! ### Hints (R134, R249, R250) -/

/-- The stream's sectors belong to no active stream any more. -/
def CFrame.disown (f : CFrame) (k : Nat) : CFrame := { f with own := f.own.filter fun e => decide (e.2 ≠ some (BitVec.ofNat 4 k)) }

/-- Cancels a stream: its prefetches in flight are discarded on return (R250). -/
def Csu.cancel (c : Csu) (k : Nat) : Csu :=
  match SMap.get none c.streams k with
  | none => c
  | some _ =>
    { c with streams := SMap.set none c.streams k none,
             frames := c.frames.map (·.disown k),
             inflight := c.inflight.map fun r =>
               if r.stream.toNat = k ∧ r.live then { r with cancelled := true, live := false } else r }

/-- The entry a hint takes (R250). -/
def Csu.entryFor (c : Csu) (start : VA) : Nat :=
  match c.streams.find? fun e => match e.2 with
      | some t => decide (t.start = start)
      | none => false with
  | some e => e.1
  | none =>
    match (List.range 16).find? fun k => (SMap.get none c.streams k).isNone with
    | some k => k
    | none =>
      let age (k : Nat) : Nat := match SMap.get none c.streams k with
        | some t => t.used
        | none => 0
      (List.range 16).foldl (fun b k => if age k < age b then k else b) 0

/-- Enters a stretch of memory among stretches in address order. -/
def spanInsert (e : Nat × Nat) : List (Nat × Nat) → List (Nat × Nat)
  | [] => [e]
  | y :: l => if e.1 ≤ y.1 then e :: y :: l else y :: spanInsert e l

/-- Stretches in address order, those that meet or overlap joined to one: a stream walks its span in address order (R251). -/
def spanJoin : List (Nat × Nat) → List (Nat × Nat)
  | [] => []
  | e :: l =>
    match spanJoin l with
    | [] => [e]
    | y :: t => if y.1 ≤ e.1 + e.2 then (e.1, (e.2 ⊔ (y.1 + y.2 - e.1))) :: t else e :: y :: t

/-- Places a hint (R250): its start address, and its span. -/
def Csu.hint (c : Csu) (start : VA) (rows : List (Nat × Nat)) : Csu :=
  let span := spanJoin (rows.foldr spanInsert [])
  let k := c.entryFor start
  let c := c.cancel k
  let c := { c with clock := c.clock + 1 }
  let t : Stream := { start := start, rows := span.map fun r => (BitVec.ofNat 48 r.1, r.2), used := c.clock }
  { c with streams := SMap.set none c.streams k (some t) }

/-! ### FETCH -/

/-- What run-ahead has done with the FETCH that execution reaches (R108): its oldest entry. -/
def Core.aheadOf (c : Core) (va : VA) (w : CmdWord) : Option Ahead := c.ahead.find? fun a => decide (a.va = va ∧ a.w = w)

/-- Execution passes that FETCH. -/
def Core.passAhead (c : Core) (va : VA) (w : CmdWord) : Core :=
  match c.aheadOf va w with
  | some a => { c with ahead := c.ahead.erase a }
  | none => c

/-- FETCH's issue check. -/
def fetchOk (s : State) (x : Ctx) : Bool :=
  let t := xferOf x
  xferOk x t && decide (x.w.qo.toNat ≤ 9) && (t.hint || s.queueOk x.site.core x.w.qo) && !(t.hint && t.space = 1)

/-- The rows that a FETCH reads in device memory: scales first. -/
def Xfer.devRows (t : Xfer) : List (Nat × Nat) := t.scaleRows ++ if t.space = 1 then [] else t.rows

/-- The device sectors that a FETCH reads: address, first byte, bytes. -/
def Xfer.secs (t : Xfer) : List (Nat × Nat × Nat) := t.devRows.flatMap fun r => sectorsOf r.1 r.2

/-- The sectors of its scales. -/
def Xfer.scaleCount (t : Xfer) : Nat := (t.scaleRows.flatMap fun r => sectorsOf r.1 r.2).length

/-- The bytes that a served sector gives to a span. -/
def Piece.bytes (p : Piece) (t : Nat × Nat × Nat) : Option (List MB) :=
  match p with
  | .got d _ => some (((bytesOf d).drop t.2.1).take t.2.2)
  | _ => none

/-- The bytes of the served sectors up to the first that is not. -/
def servedBytes : List (Piece × (Nat × Nat × Nat)) → List (List MB)
  | [] => []
  | (p, t) :: l =>
    match p.bytes t with
    | some b => b :: servedBytes l
    | none => []

/-- The first status that is not OK among the served sectors (R135). -/
def badStatus (l : List Piece) : Status :=
  l.foldl (fun st p => match p with
    | .got _ e => if st = stOk then e else st
    | _ => st) stOk

/-- What a FETCH can push of the rows that it has, unit by unit: sectors, or for PANEL the operand streams of whole groups of 16 rows. -/
def Xfer.output (t : Xfer) (scales : List MB) (parts : List (List MB)) : List (List MB) :=
  if t.layout = 2 then
    let full := (chunk t.rowLen parts.flatten).filter fun r => decide (r.length = t.rowLen)
    let groups := (chunk 16 full).filter fun g => decide (g.length = 16)
    ((List.range groups.length).zip groups).map fun g => panelOf t.fmt (t.len * 8) g.2 ((scales.drop (16 * g.1)).take 16)
  else parts

/-- A FETCH pushes what has come since its last turn; `open_`: more is to come. -/
def fetchPush (x : Ctx) (s : State) (out : List (List MB)) (next : Ctx → State → Body) : Body :=
  let new := (out.drop x.unit).flatten
  next { x with unit := out.length } (if new.isEmpty then s else s.push x x.w.qo new)

/-- A turn of a FETCH: it asks for the sectors that it has not asked for, pushes what has come in order, and ends when all has come, at a
translation fault, or at the boundary of the CSU area (R132 to R135, R184). -/
def fetchTurn (x : Ctx) (t : Xfer) (s : State) : Body :=
  let k := clusterOf x.site.core
  let secs := t.secs
  let s := (s.putRun x).askAll x (lineRuns secs.length 0 (secs.map (·.1)))
  let x := { x with pieces := (s.runOf x).pieces }
  let got := servedBytes (x.pieces.zip secs)
  let scales := (got.take t.scaleCount).flatten
  let stop : Option Piece := (x.pieces.drop got.length).head?
  let end_ (s : State) : Body :=
    match stop with
    | some (.fault c) =>
      let e := nth (0, 0, 0) secs got.length
      .fail s { status := causeStatus c, va := BitVec.ofNat 48 (e.1 + e.2.1), cause := c }
    | some _ => .more s x .other
    | none => if badStatus x.pieces = stOk then .done s else .fail s { status := badStatus x.pieces }
  if got.length < t.scaleCount then end_ s
  else if t.space = 1 then
    match s.csmTurned x.site.core with
    | some w => .fail (s.countTurn w) { status := stFenced }
    | none =>
    let r := (s.cluster k).readRows t.rows []
    fetchPush x (s.updCluster k fun _ => r.2.2) (t.output scales r.1) fun _ s => if r.2.1 then .fail s { status := stDenied } else end_ s
  else fetchPush x s (t.output scales (got.drop t.scaleCount)) fun y s =>
    match end_ s with
    | .more s _ z => .more s y z
    | b => b

/-- FETCH (R132 to R135): a hint reaches the stream unit; one that run-ahead has issued is passed (R108). -/
def bodyFetch (x : Ctx) (s : State) : Body :=
  let t := xferOf x
  let k := clusterOf x.site.core
  let first := x.pieces.isEmpty
  if t.hint then
    .done (if bits (s.cluster k).cfg 5 0 = 0 then s else s.updCsu k (·.hint (BitVec.ofNat 48 t.addr) (t.rows ++ t.scaleRows)))
  else if first && ((s.core x.c).aheadOf x.ptr x.w).any (!·.dropped) then .done (s.updCore x.c (·.passAhead x.ptr x.w))
  else
    let s := if first then s.updCore x.c (·.passAhead x.ptr x.w) else s
    fetchTurn (if first then { x with pieces := List.replicate t.secs.length .todo } else x) t s

/-- The credit that a FETCH's first unit asks for: 64 bytes, or a step or panel unit (R95, R133). -/
def fetchNeeds (x : Ctx) (s : State) : Needs :=
  let t := xferOf x
  if t.hint || ((s.core x.c).aheadOf x.ptr x.w).any (!·.dropped) then {}
  else { outs := [(x.w.qo, if t.layout = 2 then firstUnit t.fmt (t.len * 8) else 64 ⊓ t.pushed)] }

def cmdFetch : Cmd :=
  { unit := 3
    check := fun x s => orBad (fetchOk s x)
    needs := fetchNeeds
    body := bodyFetch }

/-! ### STORE -/

/-- The stretches of a span, each within one row and one line of 256 bytes: address and bytes. -/
def linesFrom : Nat → Nat → Nat → List (Nat × Nat)
  | 0, _, _ => []
  | f + 1, a, n => if n = 0 then [] else (a, n ⊓ (256 - a % 256)) :: linesFrom f (a + (n ⊓ (256 - a % 256))) (n - (n ⊓ (256 - a % 256)))

def Xfer.lines (t : Xfer) : List (Nat × Nat) := t.rows.flatMap fun r => linesFrom (r.2 / 256 + 2) r.1 r.2

/-- The sectors of a stretch with the words that go to each: its address, the granules it covers, and their words. -/
def storeParts (a n : Nat) (ws : List QW) : List (Nat × BitVec 16 × List QW) :=
  (sectorsOf a n).map fun t =>
    let first := (t.1 + t.2.1 - a) / 4
    let cnt := t.2.2 / 4
    let from_ := t.2.1 / 4
    (t.1, BitVec.ofNat 16 ((2 ^ cnt - 1) * 2 ^ from_), List.replicate from_ ({} : QW) ++ (ws.drop first).take cnt)

def State.addAck (s : State) (a : StoreAck) : State := { s with net := { s.net with acks := s.net.acks ++ [a] } }
def State.addStore (s : State) (t : StoreSec) : State := { s with net := { s.net with stores := s.net.stores ++ [t] } }

/-- One request of a STORE goes toward its controller: the CSU drops its copies of the line first (R255), a read window of the line is sent
before it (R248), and one that is turned back is answered FENCED (R194, R204). -/
def State.sendStore (s : State) (x : Ctx) (pa : Nat) (noalloc : Bool) (l : List (Nat × BitVec 16 × List QW)) : State :=
  let k := clusterOf x.site.core
  let line := lineOfPa pa
  let s := (s.updCsu k (·.passWrite line)).sendWindow k line false
  match s.turnedAt (.core x.site.core) pa with
  | some t => l.foldl (fun s e =>
      s.addAck { site := x.site, va := BitVec.ofNat 48 e.1, status := stFenced, wid := 0 }) (s.countTurn t)
  | none =>
    (l.foldl (fun s e => s.addStore
      { site := x.site, va := BitVec.ofNat 48 e.1, pa := BitVec.ofNat 40 (pa / 256 * 256 + e.1 % 256), noalloc := noalloc,
        mask := e.2.1, data := e.2.2 }) s).mergeIn k line true (maskOf (l.map fun e => e.1 / 64 % 4)) l.length noalloc

/-- Writes rows into cluster shared memory up to the boundary of the CSU area (R184, R186); true: the stretch reaches it. -/
def Cluster.writeLine (c : Cluster) (a n : Nat) (ws : List QW) : Bool × Cluster :=
  let m := (c.csuBase - a) ⊓ n
  (decide (m < n), if m = 0 then c else c.writeBytes a (ws.take (m / 4)))

/-- STORE's issue check. -/
def storeOk (s : State) (x : Ctx) : Bool :=
  let t := xferOf x
  xferOk x t && decide (t.layout ≠ 2) && !t.hint && s.queueOk x.site.core x.w.qa

/-- One stretch of a STORE. -/
def storeUnit (x : Ctx) (s : State) : Body :=
  let t := xferOf x
  let k := clusterOf x.site.core
  let e := nth (0, 0) t.lines x.unit
  if t.space = 0 ∧ s.trackerRoom x.c < (sectorsOf e.1 e.2).length then .wait .other
  else popThen s x x.w.qa e.2 fun bs s =>
    let ws := wordsOf bs
    if t.space = 1 then
      match s.csmTurned x.site.core with
      | some w => .fail (s.countTurn w) { status := stFenced }
      | none =>
      let r := (s.cluster k).writeLine e.1 e.2 ws
      let s := s.updCluster k fun _ => r.2
      if r.1 then .fail s { status := stDenied } else .done s
    else
      match s.translate (.core x.site.core) (BitVec.ofNat 48 e.1) .w with
      | (.bad c, s) => .fail s { status := causeStatus c, va := BitVec.ofNat 48 e.1, cause := c }
      | (.ok pa noalloc, s) => .done (s.sendStore x pa noalloc (storeParts e.1 e.2 ws))

/-- STORE (R132, R135). -/
def bodyStore (x : Ctx) (s : State) : Body := stream (xferOf x).lines.length storeUnit x s

def cmdStore : Cmd :=
  { unit := 3
    check := fun x s => orBad (storeOk s x)
    needs := fun x _ => { ins := [(x.w.qa, 64 ⊓ (xferOf x).pushed)] }
    body := bodyStore }

/-! ### SEND and RECV (R136) -/

/-- LEN of SEND and RECV, in granules. -/
def moveLen (w : CmdWord) : Nat := w.f 47 32

/-- The issue check of SEND and RECV but which queue is a link queue. -/
def moveOk (s : State) (x : Ctx) : Bool :=
  lastOk x && x.w.z 127 48 && decide (moveLen x.w ≠ 0) && s.queueOk x.site.core x.w.qa && s.outOk x.site.core x.w.qo

/-- The granules that a command in execution can pop of a queue. -/
def State.granulesIn (s : State) (x : Ctx) (q : BitVec 4) (n : Nat) : Nat :=
  let r := (s.core x.c).ring q.toNat
  if q = 15 then n else n ⊓ (((r.own x.id).length + r.data.length) / 2)

/-- The granules that it can push to a queue. -/
def State.granulesOut (s : State) (x : Ctx) (q : BitVec 4) (n : Nat) : Nat :=
  if q = 15 then n else if (s.core x.c).clogged q then 0 else n ⊓ (s.creditWords x.site.core q.toNat / 2)

/-- Moves granules from QA to QO as far as there are data and credit, changing no bits or marks; x.unit counts those moved. -/
def bodyMove (x : Ctx) (s : State) : Body :=
  let left := moveLen x.w - x.unit
  let a := s.granulesIn x x.w.qa left
  let k := a ⊓ s.granulesOut x x.w.qo left
  if k = 0 then .wait (if a = 0 then .inQ x.w.qa else .outQ x.w.qo)
  else popThen s x x.w.qa (8 * k) fun bs s =>
    let s := s.push x x.w.qo bs
    if k = left then .done s else .more s { x with unit := x.unit + k } (if k = a then .inQ x.w.qa else .outQ x.w.qo)

def isLink (q : BitVec 4) : Bool := decide (10 ≤ q.toNat ∧ q.toNat ≤ 13)

/-- SEND or RECV: `link` says which of its queues must be a link queue. A decoupled core has none (R107). -/
def cmdMove (link : CmdWord → BitVec 4) : Cmd :=
  { unit := 3
    check := fun x s => orBad (isLink (link x.w) && moveOk s x)
    needs := fun x _ => { ins := [(x.w.qa, 64 ⊓ (8 * moveLen x.w))], outs := [(x.w.qo, 64 ⊓ (8 * moveLen x.w))] }
    body := bodyMove }

/-- SEND: QO is a link queue. -/
def cmdSend : Cmd := cmdMove (·.qo)

/-- RECV: QA is a link queue. -/
def cmdRecv : Cmd := cmdMove (·.qa)

end Sys2Proof.Machine
end

