-- ==== Sys2Proof/Machine/Functions.lean ====
section
/-! DEFINITION. Results of vector operations: exact values, and functions that a rule bounds (R91, R141, R146, R149),
with their encoding into the output format (R35 to R37, R438). -/

namespace Sys2Proof.Machine

open Sys2Proof

/-- What an operation gives for one element: an exact value, a value within `n` units in the last place of a
reference in FP32, or a value that no rule states. -/
inductive Calc where
  | exact (v : FVal)
  /-- An exact value that the computation has clamped on the way (R36, R37). -/
  | clamped (v : FVal)
  | near (n : Nat) (ref : FVal)
  | unstated
  deriving DecidableEq, Repr

/-- The FP32 value a bounded function yields under free value `k` (log entry 6). -/
def nearVal (k n : Nat) (ref : FVal) : FVal := FpFmt.fp32.decode (FpFmt.fp32.bounded n (Config.free64 k) ref).code

/-- An unstated FP32 value (log entry 5). -/
def freeVal (k : Nat) : FVal := FpFmt.fp32.decode ((Config.free64 k).toNat % 2 ^ 32)

/-- The value before the last rounding, and whether it was clamped on the way (R36, R37). `wide`: the operation is computed in FP64
(R438), where a bounded result is a value of FP64 within its bound. -/
def Calc.narrow (rtz wide : Bool) (k : Nat) : Calc → FVal × Bool
  | .exact v =>
    if wide then
      let e := FpFmt.fp64.encode rtz v
      (FpFmt.fp64.decode e.code, e.sat)
    else (v, false)
  | .clamped v => (v, true)
  | .near n ref =>
    let f : FpFmt := if wide then .fp64 else .fp32
    let e := f.bounded n (Config.free64 k) ref
    (f.decode e.code, e.sat)
  | .unstated => (freeVal k, false)

/-- The value before the last rounding. -/
def Calc.value (k : Nat) (c : Calc) : FVal := (c.narrow false false k).1

/-- Encodes a result into format `fo` (R35 to R37, R49, R52); an element that was clamped on the way is counted once. -/
def Calc.encode (fo : Fmt) (rtz wide p : Bool) (k : Nat) (c : Calc) : ElemEnc :=
  if p then fo.encodeElem rtz { v := .nan, p := true }
  else
    let n := c.narrow rtz wide k
    let r := fo.encodeElem rtz { v := n.1 }
    { r with eff := { r.eff with sat := if n.2 then 1 else r.eff.sat } }

/-! ### Elementary functions (R91, R141) -/

def num (n d : Nat) : FVal := .fin false (n * 2 ^ 200 / d) (-200)

/-- a > n for a natural n. -/
def above (a : FVal) (n : Nat) : Bool := (FVal.ofNat n).lt a
def below (a : FVal) (n : Nat) : Bool := a.lt (FVal.ofNat n).neg

/-- e^a as a reference value, for finite a. -/
def expRef (a : FVal) : FVal :=
  if above a 2000 then .fin false 1 2800 else if below a 2000 then .fin false 1 (-2800) else expFix a.toFix

/-- e^a. -/
def calcExp (a : FVal) : Calc :=
  match a with
  | .nan => .exact .nan
  | .inf n => .exact (if n then .zero else .inf false)
  | .fin n m e => if m = 0 then .exact (.ofNat 1) else .near 3 (expRef (.fin n m e))

/-- ln a. -/
def calcLog (a : FVal) : Calc :=
  match a with
  | .nan => .exact .nan
  | .inf n => .exact (if n then .nan else .inf false)
  | .fin n m e => if m = 0 then .exact (.inf true) else if n then .exact .nan else .near 3 (ofFix (lnFix m e))

/-- 1/a. -/
def calcRcp (a : FVal) : Calc :=
  match a with
  | .nan => .exact .nan
  | .inf n => .exact (.fin n 0 0)
  | .fin n m e => if m = 0 then .exact (.inf n) else .near 2 (FVal.rcpRef (.fin n m e))

/-- √a. -/
def calcSqrt (a : FVal) : Calc :=
  match a with
  | .nan => .exact .nan
  | .inf n => .exact (if n then .nan else .inf false)
  | .fin n m e =>
    if m = 0 then .exact (.fin n m e) else if n then .exact .nan else .near 2 (FVal.sqrtRef (.fin n m e))

/-- 1/√a. -/
def calcRsqrt (a : FVal) : Calc :=
  match a with
  | .nan => .exact .nan
  | .inf n => .exact (if n then .nan else .zero)
  | .fin n m e =>
    if m = 0 then .exact (.inf n) else if n then .exact .nan
    else .near 2 (FVal.rcpRef (FVal.sqrtRef (.fin n m e)))

/-! ### Functions built from them (R141) -/

/-- σ(a) for finite a. -/
def sigRef (a : FVal) : FVal :=
  if above a 300 then .ofNat 1
  else if below a 300 then expRef a
  else FVal.rcpRef ((FVal.ofNat 1).add (expRef a.neg))

/-- A function of one finite element, NaN for NaN, with its limits at the infinities; a limit that the formula does not give is
unstated. -/
def built (a : FVal) (f : FVal → FVal) (lo hi : Calc) : Calc :=
  match a with
  | .nan => .exact .nan
  | .inf n => if n then lo else hi
  | .fin n m e => .near 4 (f (.fin n m e))

def calcSigmoid (a : FVal) : Calc := built a sigRef (.exact .zero) (.exact (.ofNat 1))

/-- tanh a = 2σ(2a) - 1. -/
def tanhRef (a : FVal) : FVal := if a.isZero then a else ((sigRef (a.scale 1)).scale 1).sub (.ofNat 1)
def calcTanh (a : FVal) : Calc := built a tanhRef (.exact (FVal.ofNat 1).neg) (.exact (.ofNat 1))

def calcSilu (a : FVal) : Calc := built a (fun a => a.mul (sigRef a)) .unstated (.exact (.inf false))

/-- √(2/π). -/
def rootTwoOverPi : FVal := (FVal.mul (.ofNat 2) (ofFix piFix).rcpRef).sqrtRef

/-- 2√(2/π)(a + 0.044715 a³): 0.5(1 + tanh u) = σ(2u). -/
def geluArg (a : FVal) : FVal :=
  let a3 := (a.mul a).mul a
  ((rootTwoOverPi.mul (a.add ((num 44715 1000000).mul a3)))).scale 1

/-- Past this magnitude σ(2u) is 0 or 1 to more than FP32 precision. -/
def geluSig (a : FVal) : FVal :=
  if above a 100 then .ofNat 1 else if below a 100 then .fin false 1 (-2800) else sigRef (geluArg a)

def calcGelu (a : FVal) : Calc := built a (fun a => a.mul (geluSig a)) .unstated (.exact (.inf false))

/-- σ(2u) + 2aσ(2u)(1 - σ(2u))√(2/π)(1 + 3 × 0.044715 a²). -/
def geluSlope (a : FVal) : FVal :=
  if above a 100 then .ofNat 1 else if below a 100 then .zero
  else
    let g := geluSig a
    let d := rootTwoOverPi.mul ((FVal.ofNat 1).add ((num 134145 1000000).mul (a.mul a)))
    g.add ((((a.scale 1).mul g).mul ((FVal.ofNat 1).sub g)).mul d)

/-- σ(a)(1 + a(1 - σ(a))). -/
def siluSlope (a : FVal) : FVal :=
  if above a 300 then .ofNat 1 else if below a 300 then .zero
  else
    let g := sigRef a
    g.mul ((FVal.ofNat 1).add (a.mul ((FVal.ofNat 1).sub g)))

/-- σ(a)(1 - σ(a)), which is 0 at an infinity. -/
def sigSlope (a : FVal) : FVal :=
  if above a 300 || below a 300 then .zero else (sigRef a).mul ((FVal.ofNat 1).sub (sigRef a))

/-- b × f′(a) (R141): at an infinite a the slope is a limit that no rule states. -/
def slopeTimes (a b : FVal) (f : FVal → FVal) : Calc :=
  match a, b with
  | .nan, _ => .exact .nan
  | _, .nan => .exact .nan
  | .inf _, _ => .unstated
  | a, .inf n => .exact ((FVal.inf n).mul (f a))
  | a, b => .near 4 (b.mul (f a))

/-- b × σ(a) × (1 - σ(a)): at an infinite a one factor is 0. -/
def sigmB (a b : FVal) : Calc :=
  match a with
  | .inf _ => .exact (b.mul .zero)
  | a => slopeTimes a b sigSlope

/-! ### Sums (R91) -/

/-- The largest finite value of a format, with the sign of `v`. -/
def fpLimit (f : FpFmt) (v : FVal) : FVal :=
  let m := f.decode f.maxCode
  if v.lt .zero then m.neg else m

/-- The pair (hi, lo) of the values in order (R69), as an exact value. A step that leaves the format's range ends the sum at the largest
finite value with the sign of the exact sum, as in a cell of R71 (log entry 67). -/
def pairFrom (f : FpFmt) : List FVal → FVal → FVal → Calc
  | [], hi, lo => .exact (hi.add lo)
  | v :: t, hi, lo =>
    let r := f.twoSum hi lo v
    if r.1.isFin && r.2.isFin then pairFrom f t r.1 r.2 else .clamped (fpLimit f ((hi.add lo).add v))

/-- A row's sum (R91): the compensated pair; a non-finite element gives the IEEE sum. -/
def rowSum (f : FpFmt) (vs : List FVal) : Calc :=
  if vs.all FVal.isFin then
    match vs with
    | [] => .exact .zero
    | v :: t =>
      pairFrom f t v .zero
  else .exact (vs.foldl FVal.add .zero)

/-- The sum's value, and whether it was clamped. -/
def rowSumVal (f : FpFmt) (vs : List FVal) : FVal × Nat :=
  let r := (rowSum f vs).narrow false false 0
  (r.1, if r.2 then 1 else 0)

end Sys2Proof.Machine
end

