-- ==== Sys2Proof/Machine/Vector.lean ====
section
/-! DEFINITION. Vector commands (R90, R91, R139 to R152, R438). -/

namespace Sys2Proof.Machine

open Sys2Proof

/-- The PARAMS of a VOP (R139). -/
structure Vop where
  sub : Nat
  fa : Fmt
  fb : Fmt
  fo : Fmt
  rowlen : Nat
  rows : Nat
  qs : BitVec 4
  imm : W32
  deriving DecidableEq, Repr

def vopOf (w : CmdWord) : Vop :=
  { sub := w.f 39 32, fa := Fmt.ofCode (BitVec.ofNat 4 (w.f 43 40)), fb := Fmt.ofCode (BitVec.ofNat 4 (w.f 47 44)),
    fo := Fmt.ofCode (BitVec.ofNat 4 (w.f 51 48)), rowlen := w.f 67 52 + 1, rows := w.f 91 68,
    qs := BitVec.ofNat 4 (w.f 95 92), imm := w32 (w.f 127 96) }

/-- Bits [hi:lo] of SUB. -/
def Vop.s (v : Vop) (hi lo : Nat) : Nat := v.sub / 2 ^ lo % 2 ^ (hi + 1 - lo)
def Vop.sb (v : Vop) (i : Nat) : Bool := v.sub.testBit i
/-- IMM as FP32 (R139, R438). -/
def Vop.immVal (v : Vop) : FVal := FpFmt.fp32.decode v.imm.toNat

/-- A format that rows of `n` elements can be held in: whole blocks for BX16, and no tile records (R122, R140). -/
def rowFmtOk (f : Fmt) (n : Nat) : Bool := decide (f ≠ .trec) && (decide (f ≠ .bx16) || decide (n % 32 = 0))

/-- QA's format suits: with TREC, ROWLEN is 16 and ROWS a multiple of 16 (R140). -/
def Vop.inOk (v : Vop) : Bool :=
  if v.fa = .trec then decide (v.rowlen = 16 ∧ v.rows % 16 = 0) else rowFmtOk v.fa v.rowlen

/-- Some input format or FO is an integer format and not all are, or the operation is none of R438's: computed in FP64. -/
def wideClass (intOp : Bool) (fs : List Fmt) : Bool := fs.any Fmt.isInt && !(intOp && fs.all Fmt.isInt)

/-- An input element as the computation takes it: in FP64 where it is wide (R438). -/
def enterWide (wide rtz : Bool) (f : Fmt) (x : MV) : MV :=
  if wide && f.isInt then { x with v := FpFmt.fp64.round rtz x.v } else x

/-! ### Input rows (R140) -/

/-- Element format and data bytes of a record (R78). -/
def recFmt (conv : Nat) : Fmt :=
  match conv with
  | 0 => .fp32
  | 1 => .bf16
  | 2 => .fp8e4r
  | 3 => .fp8e5r
  | 6 => .int64
  | _ => .fp64

def recBytes (conv : Nat) : Nat :=
  match conv with
  | 0 => 1024
  | 1 => 512
  | 2 => 272
  | 3 => 272
  | _ => 2048

/-- A cell of a PAIR record: hi + lo, rounded once to the computing format `f` (R140), and whether that clamps it (R36, R37). -/
def pairCell (f : FpFmt) (rtz : Bool) (c : List MB) : MV × Bool :=
  let e := f.encode rtz ((FpFmt.fp32.decode (leNat (c.take 4))).add (FpFmt.fp32.decode (leNat (c.drop 4))))
  ({ v := f.decode e.code, p := anyPoison c }, e.sat && !anyPoison c)

/-- The 256 elements of a record's data, and how many of them were clamped on entry. -/
def recElems (conv : Nat) (f : FpFmt) (rtz : Bool) (d : List MB) : List MV × Nat :=
  match conv with
  | 2 | 3 =>
    let s := d.take 16
    ((List.range 256).map fun i =>
      let b := nth {} d (16 + i)
      let sc := nth {} s (i / 16)
      { v := ((recFmt conv).elem.decode b.b.toNat).mul (scaleVal sc.b.toNat), p := b.p || sc.p }, 0)
  | 4 =>
    let cs := (chunk 8 d).map (pairCell f rtz)
    (cs.map (·.1), (cs.filter (·.2)).length)
  | _ => ((chunk (recFmt conv).bytes d).map fun c => { v := (recFmt conv).decodeElem (leNat c), p := anyPoison c }, 0)

/-- Takes `n` records; their elements, with what their headers' flags set (R140). `ok` tells the conversions that suit. -/
def takeRecs (x : Ctx) (q : BitVec 4) (ok : Nat → Bool) (f : FpFmt) : Nat → List (List MV) → Eff → State →
    Taken (List (List MV) × Eff)
  | 0, acc, e, s => .got (acc, e) s
  | n + 1, acc, e, s =>
    (take s x q 16).more fun h s =>
      let w0 := leNat (h.take 4)
      let conv := w0 / 2 ^ 12 % 8
      if !ok conv then .no (badParam s)
      else
        (take s x q (recBytes conv)).more fun d s =>
          let r := recElems conv f x.w.rtz d
          takeRecs x q ok f n (acc ++ [r.1]) (e.add { sat := r.2, ps := w0.testBit 18, nf := w0.testBit 17 }) s

/-- Takes `n` rows of `len` elements of format `f` from queue `q`. -/
def takeRows (s : State) (x : Ctx) (q : BitVec 4) (f : Fmt) (n len : Nat) : Taken (List (List MV)) :=
  (take s x q (n * f.rowBytes len)).more fun bs s => .got ((chunk (f.rowBytes len) bs).map (f.decodeRow len)) s

/-- Takes QA's input: rows, or tile records cut into rows of 16 (R140). -/
def takeA (s : State) (x : Ctx) (v : Vop) : Taken (List (List MV) × Eff) :=
  if v.fa = .trec then
    (takeRecs x x.w.qa (fun c => decide (c ≤ 5)) (if v.fo = .fp64 then .fp64 else .fp32) (v.rows / 16) [] {} s).more
      fun r s => .got (r.1.flatMap (chunk 16), r.2) s
  else (takeRows s x x.w.qa v.fa v.rows v.rowlen).more fun rs s => .got (rs, {}) s

/-- A poisoned input element of a computation sets PSEEN (R113). -/
def rowsEff (rs : List (List MV)) : Eff := { ps := rs.any fun r => r.any (·.p) }

/-- Elements of a result, with their free-value numbers, as marked bytes of a row in `fo`; blocks and row-scaled formats take
the values, scalars the encoding of each calculation. An element that a computation has clamped counts once (R37): one beyond FP64
that a block or row scale clamps again counts there. -/
def outRow (fo : Fmt) (rtz wide : Bool) (fixed : Option Nat) (k0 : Nat) (cs : List (Calc × Bool)) : List MB × Eff :=
  let ks := (List.range cs.length).zip cs
  if fo.isBs || fo.isRowScaled || fo = .bx16 then
    let ns := ks.map fun e => (e.2.1.narrow rtz wide (k0 + e.1), e.2.2)
    let r := fo.encodeRow rtz fixed (ns.map fun e => { v := e.1.1, p := e.2 })
    (r.1, r.2.add { sat := if wide && decide (fo ≠ .bx16) then 0 else (ns.filter fun e => e.1.2 && !e.2).length })
  else
    let es := ks.map fun e => (e.2.1.encode fo rtz wide e.2.2 (k0 + e.1), e.2.2)
    (padTo 8 (es.flatMap fun e => leBytes fo.bytes e.1.code e.2), effSum (es.map (·.1.eff)))

/-- Result rows numbered from the state's free-value counter. -/
def outRows (fo : Fmt) (rtz wide : Bool) (k0 : Nat) (rs : List (List (Calc × Bool))) : List MB × Eff :=
  let len := (rs.headD []).length
  let os := ((List.range rs.length).zip rs).map fun e => outRow fo rtz wide none (k0 + e.1 * len) e.2
  (os.flatMap (·.1), effSum (os.map (·.2)))

/-- Pushes result rows to QO and applies their effects. -/
def finish (s : State) (x : Ctx) (q : BitVec 4) (out : List MB × Eff) (e : Eff) (used : Nat) : Body :=
  pushThen s x q out.1 fun s =>
    .done { s.updCore x.c (·.effect (e.add out.2)) with fresh := s.fresh + used }

/-! ### Units of a VOP (R95, R103; log entry 72) -/

/-- The part of a VOP that is unit `u` of `n` rows. -/
def Vop.part (v : Vop) (n u : Nat) : Vop := { v with rows := n ⊓ (v.rows - u * n) }

/-- The units of a VOP. -/
def Vop.units (v : Vop) (n : Nat) : Nat := (v.rows + n - 1) / n

/-- A unit is a row, or the 16 rows of a tile record. -/
def Vop.rowStep (v : Vop) : Nat := if v.fa = .trec then 16 else 1

/-- What a unit of a VOP does: its part, and the number of its first row. -/
abbrev VopUnit := Vop → Nat → Ctx → State → Body

/-- A VOP, unit by unit. -/
def vopBody (n : Vop → Nat) (one : VopUnit) (x : Ctx) (s : State) : Body :=
  let v := vopOf x.w
  stream (v.units (n v)) (fun x s => one (v.part (n v) x.unit) (x.unit * n v) x s) x s

/-- A VOP: the rows of a unit, its issue check, what its first unit needs, and its units. With ROWS = 0 it needs nothing (R139). -/
def cmdVop (n : Vop → Nat) (ok : State → Ctx → Bool) (needs : Vop → Ctx → State → Needs) (one : VopUnit) : Cmd :=
  { unit := 2
    check := fun x s => orBad (ok s x)
    needs := fun x s => if (vopOf x.w).rows = 0 then {} else needs ((vopOf x.w).part (n (vopOf x.w)) 0) x s
    body := vopBody n one }

/-- Bytes that the first unit asks of QA: rows, or a tile record, whose length its header tells. -/
def Vop.aNeed (v : Vop) (x : Ctx) (s : State) : Nat :=
  if v.fa = .trec then
    let d := ((s.core x.c).ring x.w.qa.toNat).data
    if d.length < 4 then 16 else 16 + recBytes (leNat (bytesOf (d.take 1)) / 2 ^ 12 % 8)
  else v.rows * v.fa.rowBytes v.rowlen

/-- Bytes that a unit pushes in FO. -/
def Vop.oNeed (v : Vop) : Nat := v.rows * v.fo.rowBytes v.rowlen

/-- Bytes that a command pops once, in its first unit, and keeps. -/
def takeOnce (s : State) (x : Ctx) (q : BitVec 4) (n : Nat) : Taken (List MB) := if x.unit = 0 then take s x q n else .got x.once s

/-- A unit that is done leaves bytes for the later ones. -/
def keepOnce (x : Ctx) (bs : List MB) (b : Body) : Body :=
  match b with
  | .done s => .unit s { x with once := bs }
  | b => b

/-- The checks every VOP shares. -/
def vopOk (s : State) (x : Ctx) (v : Vop) : Bool := lastOk x && s.queueOk x.site.core x.w.qa && v.inOk

/-! ### VEW and VUN (R141) -/

/-- VEW's operation `op` on two elements (R141). -/
def vewOp (op : Nat) (imm : FVal) (a b : FVal) : Calc :=
  match op with
  | 0 => .exact (a.add b)
  | 1 => .exact (a.sub b)
  | 2 => .exact (a.mul b)
  | 3 => .exact (FVal.min a b)
  | 4 => .exact (FVal.max a b)
  | 5 => .exact ((a.mul imm).add b)
  | 6 => .exact (a.mul imm)
  | 7 => .exact (a.add imm)
  | 8 => .exact (if FVal.zero.lt a then b else .zero)
  | 9 => slopeTimes a b geluSlope
  | 10 => slopeTimes a b siluSlope
  | _ => sigmB a b

/-- INT32 ADD and SUB (R49): a VOID operand gives VOID; any other result stops one above VOID. -/
def voidOp (op : Nat) (a b : MV) : ElemEnc :=
  let lim : Int := -(2 ^ 31)
  let x := a.v.toInt true
  let y := b.v.toInt true
  if a.p || b.p then Fmt.int32.encodeElem false { v := .zero, p := true }
  else if x = lim ∨ y = lim then { code := 2 ^ 31 }
  else
    let r := if op = 0 then x + y else x - y
    if r ≤ lim then { code := ofSInt 32 (lim + 1), eff := { sat := 1 } } else Fmt.int32.encodeInt r

/-- A row of VEW: element by element with QB's row. The VOID rule of R49 holds where all three formats are INT32 (log entry 88). -/
def vewRow (v : Vop) (op : Nat) (wide rtz : Bool) (k0 : Nat) (a b : List MV) : List MB × Eff :=
  if op ≤ 1 && decide (v.fa = .int32 ∧ v.fb = .int32 ∧ v.fo = .int32) then
    let es := List.zipWith (fun p q => (voidOp op p q, p.p || q.p)) a b
    (padTo 8 (es.flatMap fun e => leBytes 4 e.1.code e.2), effSum (es.map (·.1.eff)))
  else
    outRow v.fo rtz wide none k0 (List.zipWith (fun p q =>
      let p := enterWide wide rtz v.fa p
      let q := enterWide wide rtz v.fb q
      (vewOp op v.immVal p.v q.v, p.p || q.p)) a b)

/-- VEW's operation code; MULIMM and ADDIMM take no second row. -/
def Vop.vewOp (v : Vop) : Nat := v.s 4 0
def Vop.useB (v : Vop) : Bool := decide (v.vewOp ≠ 6 ∧ v.vewOp ≠ 7)
/-- The length of QB's rows, and how many it gives: one element a row with ROWB, one row with BCAST. -/
def Vop.bLen (v : Vop) : Nat := if v.sb 6 then 1 else v.rowlen
def Vop.bRows (v : Vop) : Nat := if !v.useB then 0 else if v.sb 5 then (if v.rows = 0 then 0 else 1) else v.rows

/-- VEW's issue check. -/
def vewOk (s : State) (x : Ctx) : Bool :=
  let v := vopOf x.w
  vopOk s x v && decide (v.vewOp ≤ 11) && !(v.sb 5 && v.sb 6) && !v.sb 7 && rowFmtOk v.fo v.rowlen &&
    (!v.useB || (s.queueOk x.site.core x.w.qb && rowFmtOk v.fb v.bLen)) && s.outOk x.site.core x.w.qo

/-- The row of QB that row `i` of QA meets. -/
def Vop.bRow (v : Vop) (bs : List (List MV)) (i : Nat) : List MV :=
  if !v.useB then List.replicate v.rowlen {}
  else if v.sb 5 then nth [] bs 0
  else if v.sb 6 then List.replicate v.rowlen (nth {} (nth [] bs i) 0)
  else nth [] bs i

/-- VEW's result: row by row, free values numbered from `k`. -/
def vewOut (v : Vop) (rtz : Bool) (k : Nat) (as bs : List (List MV)) : List MB × Eff :=
  let op := v.vewOp
  let wide := wideClass (op = 0 ∨ op = 1 ∨ op = 3 ∨ op = 4) (v.fa :: v.fo :: if v.useB then [v.fb] else [])
  let outs := ((List.range as.length).zip as).map fun r => vewRow v op wide rtz (k + r.1 * v.rowlen) r.2 (v.bRow bs r.1)
  (outs.flatMap (·.1), effSum (outs.map (·.2)))

/-- A row of QB meets every row of QA (BCAST). -/
def Vop.bcast (v : Vop) : Bool := v.useB && v.sb 5

/-- Bytes that a unit takes of QB. -/
def Vop.bNeed (v : Vop) : Nat := v.bRows * v.fb.rowBytes v.bLen

/-- A unit of VEW (R141). -/
def vewUnit : VopUnit := fun v _ x s =>
  (takeA s x v).body fun a s =>
    (if v.bcast then takeOnce s x x.w.qb v.bNeed else take s x x.w.qb v.bNeed).body fun bb s =>
      let bs := (chunk (v.fb.rowBytes v.bLen) bb).map (v.fb.decodeRow v.bLen)
      keepOnce x (if v.bcast then bb else [])
        (finish s x x.w.qo (vewOut v x.w.rtz s.fresh a.1 bs)
          ((a.2.add (rowsEff a.1)).add (if v.useB then rowsEff bs else {})) (v.rows * v.rowlen))

def cmdVew : Cmd := cmdVop Vop.rowStep vewOk
  (fun v x s => { ins := [(x.w.qa, v.aNeed x s), (x.w.qb, v.bNeed)], outs := [(x.w.qo, v.oNeed)] }) vewUnit

/-- VUN's operation (R141). -/
def vunOp (op : Nat) (a : FVal) : Calc :=
  match op with
  | 0 => .exact a
  | 1 => .exact a.neg
  | 2 => .exact a.abs
  | 3 => calcExp a
  | 4 => calcLog a
  | 5 => calcRcp a
  | 6 => calcRsqrt a
  | 7 => calcSqrt a
  | 8 => .exact (FVal.max a .zero)
  | 9 => calcGelu a
  | 10 => calcSilu a
  | 11 => calcSigmoid a
  | _ => calcTanh a

/-- VUN's issue check. -/
def vunOk (s : State) (x : Ctx) : Bool :=
  let v := vopOf x.w
  vopOk s x v && decide (v.sub ≤ 12) && rowFmtOk v.fo v.rowlen && s.outOk x.site.core x.w.qo

/-- VUN's result. -/
def vunOut (v : Vop) (rtz : Bool) (k : Nat) (as : List (List MV)) : List MB × Eff :=
  let wide := wideClass (v.sub ≤ 2 ∨ v.sub = 8) [v.fa, v.fo]
  outRows v.fo rtz wide k (as.map fun r => r.map fun p => (vunOp v.sub (enterWide wide rtz v.fa p).v, p.p))

/-- A unit of VUN (R141). -/
def vunUnit : VopUnit := fun v _ x s =>
  (takeA s x v).body fun a s =>
    finish s x x.w.qo (vunOut v x.w.rtz s.fresh a.1) (a.2.add (rowsEff a.1)) (v.rows * v.rowlen)

/-- Needs of a VOP that takes rows of QA and pushes rows of FO. -/
def rowNeeds (v : Vop) (x : Ctx) (s : State) : Needs := { ins := [(x.w.qa, v.aNeed x s)], outs := [(x.w.qo, v.oNeed)] }

def cmdVun : Cmd := cmdVop Vop.rowStep vunOk rowNeeds vunUnit

/-! ### VRED and VCVT (R142) -/

/-- The format of a reduction's pair (R91): FP64 where a format is FP64 or the command is wide. -/
def pairFmt (wide : Bool) (fs : List Fmt) : FpFmt := if wide || fs.any (· == .fp64) then .fp64 else .fp32

/-- Products of a reduction, each rounded into the pair's format before it is added, and how many of them that clamps (R35 to R37;
log entry 67). -/
def roundedProds (f : FpFmt) (rtz : Bool) (a b : List FVal) : List FVal × Nat :=
  let es := List.zipWith (fun x y => f.encode rtz (x.mul y)) a b
  (es.map fun e => f.decode e.code, (es.filter (·.sat)).length)

/-- VRED's reduction of one row, `b` for DOT, with the products that were clamped (R91; log entry 67). -/
def vredRow (op : Nat) (allInt rtz : Bool) (f : FpFmt) (a b : List FVal) : Calc × Nat :=
  match op with
  | 0 => (if allInt then .exact (a.foldl FVal.add .zero) else rowSum f a, 0)
  | 1 => let ps := roundedProds f rtz a a; (rowSum f ps.1, ps.2)
  | 2 => (.exact ((a.drop 1).foldl FVal.max (a.headD .zero)), 0)
  | 3 => (.exact ((a.drop 1).foldl FVal.min (a.headD .zero)), 0)
  | _ => let ps := roundedProds f rtz a b; (rowSum f ps.1, ps.2)

/-- VRED's issue check; DOT takes rows of QB. -/
def vredOk (s : State) (x : Ctx) : Bool :=
  let v := vopOf x.w
  vopOk s x v && decide (v.sub ≤ 4) && rowFmtOk v.fo 1 &&
    (decide (v.sub ≠ 4) || (s.queueOk x.site.core x.w.qb && rowFmtOk v.fb v.rowlen)) && s.outOk x.site.core x.w.qo

/-- VRED's result: one element a row. -/
def vredOut (v : Vop) (rtz : Bool) (k : Nat) (as bs : List (List MV)) : List MB × Eff :=
  let fs := v.fa :: v.fo :: if v.sub = 4 then [v.fb] else []
  let wide := wideClass (v.sub = 0 ∨ v.sub = 2 ∨ v.sub = 3) fs
  let allInt := fs.all Fmt.isInt && !wide
  let rs := ((List.range as.length).zip as).map fun r =>
    let a := r.2.map (enterWide wide rtz v.fa)
    let b := (nth [] bs r.1).map (enterWide wide rtz v.fb)
    (vredRow v.sub allInt rtz (pairFmt wide fs) (a.map (·.v)) (b.map (·.v)), a.any (·.p) || b.any (·.p))
  let out := outRows v.fo rtz wide k (rs.map fun r => [(r.1.1, r.2)])
  (out.1, out.2.add { sat := ((rs.filter fun r => !r.2).map (·.1.2)).sum })

/-- Rows of QB that a unit of VRED takes: those of DOT. -/
def Vop.dotRows (v : Vop) : Nat := if v.sub = 4 then v.rows else 0

/-- A unit of VRED: each row to one element of FO. -/
def vredUnit : VopUnit := fun v _ x s =>
  (takeA s x v).body fun a s =>
    (takeRows s x x.w.qb v.fb v.dotRows v.rowlen).body fun bs s =>
      finish s x x.w.qo (vredOut v x.w.rtz s.fresh a.1 bs) ((a.2.add (rowsEff a.1)).add (rowsEff bs)) v.rows

def cmdVred : Cmd := cmdVop Vop.rowStep vredOk
  (fun v x s => { ins := [(x.w.qa, v.aNeed x s), (x.w.qb, v.dotRows * v.fb.rowBytes v.rowlen)],
                  outs := [(x.w.qo, v.rows * v.fo.rowBytes 1)] }) vredUnit

/-- VCVT's issue check: the layouts ROW, STREAM and FIXED. -/
def vcvtOk (s : State) (x : Ctx) : Bool :=
  let v := vopOf x.w
  vopOk s x v && decide (v.s 7 2 = 0 ∧ v.s 1 0 ≠ 3) && s.outOk x.site.core x.w.qo &&
    (match v.s 1 0 with
     | 1 => v.fo.isMillrace && decide (v.rows % 16 = 0) && (!v.fo.isBs || decide (v.rowlen % 32 = 0))
     | 2 => decide (v.fo = .bx16 ∧ v.imm.toNat < 255 ∧ v.rowlen % 32 = 0)
     | _ => rowFmtOk v.fo v.rowlen)

/-- VCVT's result. -/
def vcvtOut (v : Vop) (rtz : Bool) (as : List (List MV)) : List MB × Eff :=
  let outs := if v.s 1 0 = 1 then (chunk 16 as).map (v.fo.encodeStream rtz v.rowlen)
    else as.map (v.fo.encodeRow rtz (if v.s 1 0 = 2 then some v.imm.toNat else none))
  (outs.flatMap (·.1), effSum (outs.map (·.2)))

/-- A unit of VCVT: row for row, into an operand stream, or into BX16 from a fixed exponent. -/
def vcvtUnit : VopUnit := fun v _ x s =>
  (takeA s x v).body fun a s => finish s x x.w.qo (vcvtOut v x.w.rtz a.1) (a.2.add (rowsEff a.1)) 0

/-- STREAM takes the 16 rows of a group together. -/
def Vop.cvtStep (v : Vop) : Nat := if v.s 1 0 = 1 then 16 else v.rowStep

def cmdVcvt : Cmd := cmdVop Vop.cvtStep vcvtOk
  (fun v x s => { ins := [(x.w.qa, v.aNeed x s)], outs := [(x.w.qo, if v.s 1 0 = 1 then v.fo.streamBytes v.rowlen else v.oNeed)] }) vcvtUnit

/-! ### Records of statistics (R143) -/

/-- FP32 words of a record; each poisoned where its row is. -/
def recordOf (rtz : Bool) (p : Bool) (k0 : Nat) (cs : List Calc) : List MB × Eff :=
  outRow .fp32 rtz false none k0 (cs.map fun c => (c, p))

/-- Fields of a record: FP32 words. -/
def recordVals (bs : List MB) : List MV := (chunk 4 bs).map fun c => { v := FpFmt.fp32.decode (leNat c), p := anyPoison c }

/-- A row of a two-pass command: its record and rows as bytes and values. -/
structure PassRow where
  st : List MV := []
  x : List MV := []
  g : List MV := []
  bytes : List MB := []
  deriving DecidableEq, Repr

/-- Takes `n` rows of a pass. The record comes from QS or, INLINE in APPLY, ahead of the row in QA; a second row comes from QB,
or INLINE in APPLY behind the first in QA (R143). `recLen` is the record's bytes, 0 for none; `second` tells whether there
is a second row. -/
def takePass (x : Ctx) (v : Vop) (inl second : Bool) (recLen : Nat) : Nat → List PassRow → State → Taken (List PassRow)
  | 0, acc, s => .got acc s
  | n + 1, acc, s =>
    let qr := if inl then x.w.qa else v.qs
    let qg := if inl then x.w.qa else x.w.qb
    let lenA := v.fa.rowBytes v.rowlen
    let lenB := if second then v.fb.rowBytes v.rowlen else 0
    (take s x qr recLen).more fun r s =>
      (take s x x.w.qa lenA).more fun a s =>
        (take s x qg lenB).more fun g s =>
          let gs := if second then v.fb.decodeRow v.rowlen g else []
          let row : PassRow := ⟨recordVals r, v.fa.decodeRow v.rowlen a, gs, a ++ g⟩
          takePass x v inl second recLen n (acc ++ [row]) s

/-- As `takePass`, with QA's rows from tile records where FA is TREC, which cannot travel inline. -/
def takePassA (s : State) (x : Ctx) (v : Vop) (inl second : Bool) (recLen : Nat) : Taken (List PassRow × Eff) :=
  if v.fa = .trec then
    (takeA s x v).more fun a s =>
      (take s x v.qs (v.rows * recLen)).more fun r s =>
        (takeRows s x x.w.qb v.fb (if second then v.rows else 0) v.rowlen).more fun gs s =>
          let rs := (chunk recLen r).map recordVals
          .got (((List.range a.1.length).zip a.1).map fun e =>
            { st := nth [] rs e.1, x := e.2, g := nth [] gs e.1 }, a.2) s
  else (takePass x v inl second recLen v.rows [] s).more fun rs s => .got (rs, {}) s

/-- Every input element and record word of a pass that is poisoned. -/
def passEff (rs : List PassRow) : Eff :=
  { ps := rs.any fun r => r.st.any (·.p) || r.x.any (·.p) || r.g.any (·.p) }

/-- Some element of the row is poisoned. -/
def PassRow.bad (r : PassRow) : Bool := r.st.any (·.p) || r.x.any (·.p) || r.g.any (·.p)

/-- Field `i` of a row's record. -/
def PassRow.f (r : PassRow) (i : Nat) : FVal := (nth {} r.st i).v
def PassRow.recBad (r : PassRow) : Bool := r.st.any (·.p)
/-- A record that holds a NaN gives canonical NaN outputs (R169). -/
def PassRow.orNan (r : PassRow) (c : Calc) : Calc := if r.st.any (·.v.isNan) then .exact .nan else c

/-- The checks of the two-pass commands: the reserved SUB bits, the queues they use, and no inline tile records. -/
def passOk (s : State) (x : Ctx) (v : Vop) (useB useQs useQo : Bool) : Bool :=
  vopOk s x v && decide (v.s 7 3 = 0) && (!useB || (s.queueOk x.site.core x.w.qb && rowFmtOk v.fb v.rowlen)) &&
    (!useQs || s.queueOk x.site.core v.qs) && (!useQo || s.outOk x.site.core x.w.qo) &&
    !(v.sb 2 && decide (v.fa = .trec))

/-- What a unit of a pass asks of its input queues. -/
def passNeeds (v : Vop) (x : Ctx) (s : State) (inl second : Bool) (recLen : Nat) : List (BitVec 4 × Nat) :=
  let b := if second then v.rows * v.fb.rowBytes v.rowlen else 0
  if inl then [(x.w.qa, v.rows * recLen + v.aNeed x s + b)] else [(v.qs, v.rows * recLen), (x.w.qa, v.aNeed x s), (x.w.qb, b)]

/-- The bytes of a unit's rows, one or two of each, where they travel inline. -/
def Vop.inlineBytes (v : Vop) (second : Bool) : Nat :=
  if v.sb 2 then v.rows * v.fa.rowBytes v.rowlen + (if second then v.rows * v.fb.rowBytes v.rowlen else 0) else 0

/-- What a unit of a forward REDUCE pushes: records to QS, and with INLINE records and rows to QO. -/
def Vop.reduceOuts (v : Vop) (x : Ctx) : List (BitVec 4 × Nat) :=
  (v.qs, 8 * v.rows) :: if v.sb 2 then [(x.w.qo, 8 * v.rows + v.inlineBytes false)] else []

/-! ### VNORM and VNORMB (R144, R145) -/

/-- FP64 rounding of an intermediate value. -/
def r64 (v : FVal) : FVal := FpFmt.fp64.round false v
def nVal (v : Vop) : FVal := FVal.ofNat v.rowlen

/-- The statistics of a row (R144): mean and 1/√(var + ε), in FP64 from the compensated sums; and how many squares and sums were clamped. -/
def normStats (v : Vop) (rtz : Bool) (a : List FVal) : FVal × FVal × Nat :=
  let f := pairFmt false [v.fa]
  let s1 := rowSumVal f a
  let ps := roundedProds f rtz a a
  let s2 := rowSumVal f ps.1
  let mean := if v.sb 1 then .zero else FpFmt.fp64.div s1.1 (nVal v)
  let q := FpFmt.fp64.div s2.1 (nVal v)
  let var := if v.sb 1 then q else FVal.max .zero (r64 (q.sub (r64 (mean.mul mean))))
  (mean, FpFmt.fp64.div (.ofNat 1) (FpFmt.fp64.sqrt (r64 (var.add v.immVal))), ps.2 + s2.2 + if v.sb 1 then 0 else s1.2)

/-- A record with the clamped elements of its computation; a poisoned row counts none. -/
def recordSat (r : List MB × Eff) (p : Bool) (n : Nat) : List MB × Eff := (r.1, r.2.add { sat := if p then 0 else n })

/-- VNORM's issue check. -/
def vnormOk (s : State) (x : Ctx) : Bool :=
  let v := vopOf x.w
  if v.sb 0 then passOk s x v true (!v.sb 2) true && rowFmtOk v.fo v.rowlen
  else passOk s x v false true (v.sb 2) && decide (v.qs ≠ 14)

/-- The records of REDUCE. -/
def vnormRecs (v : Vop) (rtz : Bool) (rs : List PassRow) : List (List MB × Eff) :=
  rs.map fun r =>
    let st := normStats v rtz (r.x.map (·.v))
    recordSat (recordOf rtz r.bad 0 [.exact st.1, .exact st.2.1]) r.bad st.2.2

/-- Records with the rows they belong to behind them, where these travel inline. -/
def inlineRows (inl : Bool) (recs : List (List MB × Eff)) (rs : List PassRow) : List MB :=
  if inl then (List.zipWith (fun (r : List MB × Eff) (p : PassRow) => r.1 ++ p.bytes) recs rs).flatten else []

/-- The rows of APPLY; QB holds γ, and β where there is a mean. -/
def vnormOut (v : Vop) (rtz : Bool) (k : Nat) (gb : List (List MV)) (rs : List PassRow) : List MB × Eff :=
  let gam := nth [] gb 0
  let bet := if v.sb 1 then List.replicate v.rowlen {} else nth [] gb 1
  outRows v.fo rtz false k (rs.map fun r =>
    List.zipWith (fun (p : MV) (h : MV × MV) =>
      let xh := (p.v.sub (r.f 0)).mul (r.f 1)
      let y := xh.mul h.1.v
      (r.orNan (Calc.exact (if v.sb 1 then y else y.add h.2.v)), p.p || h.1.p || h.2.p || r.recBad)) r.x (gam.zip bet))

/-- How many rows of QB the APPLY of VNORM takes. -/
def vnormQb (v : Vop) : Nat := if v.rows = 0 then 0 else if v.sb 1 then 1 else 2

/-- A unit of VNORM. -/
def vnormUnit : VopUnit := fun v _ x s =>
  if v.sb 0 then
    (takeOnce s x x.w.qb (vnormQb v * v.fb.rowBytes v.rowlen)).body fun gb s =>
      let gs := (chunk (v.fb.rowBytes v.rowlen) gb).map (v.fb.decodeRow v.rowlen)
      (takePassA s x v (v.sb 2) false 8).body fun a s =>
        keepOnce x gb (finish s x x.w.qo (vnormOut v x.w.rtz s.fresh gs a.1) ((a.2.add (passEff a.1)).add (rowsEff gs)) 0)
  else
    (takePassA s x v false false 0).body fun a s =>
      let recs := vnormRecs v x.w.rtz a.1
      let e := (a.2.add (passEff a.1)).add (effSum (recs.map (·.2)))
      pushThen s x v.qs (recs.flatMap (·.1)) fun s => finish s x x.w.qo (inlineRows (v.sb 2) recs a.1, {}) e 0

def cmdVnorm : Cmd := cmdVop Vop.rowStep vnormOk
  (fun v x s =>
    if v.sb 0 then { ins := (x.w.qb, vnormQb v * v.fb.rowBytes v.rowlen) :: passNeeds v x s (v.sb 2) false 8, outs := [(x.w.qo, v.oNeed)] }
    else { ins := passNeeds v x s false false 0, outs := v.reduceOuts x }) vnormUnit

/-- VNORMB's issue check. -/
def vnormbOk (s : State) (x : Ctx) : Bool :=
  let v := vopOf x.w
  if v.sb 0 then passOk s x v (!v.sb 2) (!v.sb 2) true && rowFmtOk v.fb v.rowlen && rowFmtOk v.fo v.rowlen
  else passOk s x v true true true

/-- The records of REDUCE: the statistics with a1 and a2. -/
def vnormbRecs (v : Vop) (rtz : Bool) (rs : List PassRow) : List (List MB × Eff) :=
  rs.map fun r =>
    let f := pairFmt false [v.fa, v.fb]
    let g := r.g.map (·.v)
    let s1 := if v.sb 1 then (FVal.zero, 0) else rowSumVal f g
    let gx := roundedProds f rtz g (r.x.map fun p => (p.v.sub (r.f 0)).mul (r.f 1))
    let s2 := rowSumVal f gx.1
    let mean (s : FVal) : Calc := .exact (FpFmt.fp64.div s (nVal v))
    recordSat (recordOf rtz r.bad 0 [.exact (r.f 0), .exact (r.f 1), if v.sb 1 then .exact .zero else mean s1.1, mean s2.1]) r.bad
      (gx.2 + s1.2 + s2.2)

/-- Each record of a backward REDUCE, with its rows behind it where they travel inline. -/
def recRows (inl : Bool) (recs : List (List MB × Eff)) (rs : List PassRow) : List MB :=
  (List.zipWith (fun (r : List MB × Eff) (p : PassRow) => r.1 ++ if inl then p.bytes else []) recs rs).flatten

/-- The rows of APPLY. -/
def vnormbOut (v : Vop) (rtz : Bool) (k : Nat) (rs : List PassRow) : List MB × Eff :=
  outRows v.fo rtz false k (rs.map fun r =>
    List.zipWith (fun (p q : MV) =>
      let xh := (p.v.sub (r.f 0)).mul (r.f 1)
      (r.orNan (Calc.exact ((r.f 1).mul ((q.v.sub (r.f 2)).sub (xh.mul (r.f 3))))), p.p || q.p || r.recBad)) r.x r.g)

/-- A unit of VNORMB: REDUCE forms a1 and a2, APPLY pushes rstd × (g - a1 - x̂ × a2). -/
def vnormbUnit : VopUnit := fun v _ x s =>
  if v.sb 0 then
    (takePassA s x v (v.sb 2) true 16).body fun a s =>
      finish s x x.w.qo (vnormbOut v x.w.rtz s.fresh a.1) (a.2.add (passEff a.1)) 0
  else
    (takePassA s x v false true 8).body fun a s =>
      let recs := vnormbRecs v x.w.rtz a.1
      finish s x x.w.qo (recRows (v.sb 2) recs a.1, effSum (recs.map (·.2))) (a.2.add (passEff a.1)) 0

/-- What a backward command needs. -/
def backNeeds (v : Vop) (x : Ctx) (s : State) : Needs :=
  if v.sb 0 then { ins := passNeeds v x s (v.sb 2) true 16, outs := [(x.w.qo, v.oNeed)] }
  else { ins := passNeeds v x s false true 8, outs := [(x.w.qo, 16 * v.rows + v.inlineBytes true)] }

def cmdVnormb : Cmd := cmdVop Vop.rowStep vnormbOk backNeeds vnormbUnit

/-! ### VSMAX, VSMAXB and VSTATM (R146 to R148) -/

def r32 (rtz : Bool) (v : FVal) : FVal := FpFmt.fp32.round rtz v
/-- x′ = x × IMM, in FP32 (R35, R146). -/
def scaled (v : Vop) (rtz : Bool) (x : FVal) : FVal := r32 rtz (x.mul v.immVal)
/-- How many of the scaled values of a row were clamped (R37). -/
def scaledSat (v : Vop) (rtz : Bool) (xs : List MV) : Nat :=
  (xs.filter fun x => !x.p && (FpFmt.fp32.encode rtz (x.v.mul v.immVal)).sat).length

/-- The running maximum m and the pair (hi, lo) of Σ e^(x′ - m), which a rise of the maximum rescales (R146; log entry 68). -/
structure SmaxRun where
  m : FVal := .inf true
  hi : FVal := .zero
  lo : FVal := .zero

/-- One element; `k` and `k + 1` number its free values. -/
def SmaxRun.step (r : SmaxRun) (k : Nat) (x : FVal) : SmaxRun :=
  if x = .inf true then r
  else
    let up := r.m.lt x
    let f := if r.m = .inf true then .zero else (calcExp (r.m.sub x)).value k
    let m := if up then x else r.m
    let hi := if up then FpFmt.fp32.roundIeee (r.hi.mul f) else r.hi
    let lo := if up then FpFmt.fp32.roundIeee (r.lo.mul f) else r.lo
    let p := FpFmt.fp32.twoSum hi lo ((calcExp (x.sub m)).value (k + 1))
    { m := m, hi := p.1, lo := p.2 }

/-- The elements of a row in order. -/
def SmaxRun.row (k : Nat) : List FVal → SmaxRun → SmaxRun
  | [], r => r
  | x :: t, r => SmaxRun.row (k + 2) t (r.step k x)

/-- m and t of a row of scaled values (R146). -/
def smaxStats (part rtz : Bool) (k : Nat) (xs : List FVal) : FVal × FVal :=
  if xs.any FVal.isNan then (.nan, .nan)
  else
    let r := SmaxRun.row (k + 1) xs {}
    if r.m = .inf true then (r.m, if part then .zero else r.m)
    else
      let t := r.hi.add r.lo
      (r.m, if part then t else r.m.add ((calcLog (r32 rtz t)).value k))

/-- VSMAX's issue check. -/
def vsmaxOk (s : State) (x : Ctx) : Bool :=
  let v := vopOf x.w
  if v.sb 0 then passOk s x v false (!v.sb 2) true && rowFmtOk v.fo v.rowlen
  else passOk s x v false true (v.sb 2) && decide (v.qs ≠ 14)

/-- The free values that a row of a softmax command takes. -/
def Vop.smaxFree (v : Vop) : Nat := 2 * v.rowlen + 2
/-- The free values that a softmax command takes. -/
def smaxUsed (v : Vop) : Nat := v.rows * v.smaxFree

/-- The records of REDUCE. -/
def vsmaxRecs (v : Vop) (rtz : Bool) (k : Nat) (rs : List PassRow) : List (List MB × Eff) :=
  ((List.range rs.length).zip rs).map fun r =>
    let st := smaxStats (v.sb 1) rtz (k + r.1 * v.smaxFree) (r.2.x.map fun p => scaled v rtz p.v)
    recordSat (recordOf rtz r.2.bad 0 [.exact st.1, .exact st.2]) r.2.bad (scaledSat v rtz r.2.x)

/-- The rows of APPLY. -/
def vsmaxOut (v : Vop) (rtz : Bool) (k : Nat) (rs : List PassRow) : List MB × Eff :=
  let out := outRows v.fo rtz false k (rs.map fun r => r.x.map fun p =>
    (r.orNan (calcExp ((scaled v rtz p.v).sub (if v.sb 1 then r.f 0 else r.f 1))), p.p || r.recBad))
  (out.1, out.2.add { sat := (rs.map fun r => if r.recBad then 0 else scaledSat v rtz r.x).sum })

/-- A unit of VSMAX. -/
def vsmaxUnit : VopUnit := fun v _ x s =>
  if v.sb 0 then
    (takePassA s x v (v.sb 2) false 8).body fun a s =>
      finish s x x.w.qo (vsmaxOut v x.w.rtz s.fresh a.1) (a.2.add (passEff a.1)) (smaxUsed v)
  else
    (takePassA s x v false false 0).body fun a s =>
      let recs := vsmaxRecs v x.w.rtz s.fresh a.1
      let e := (a.2.add (passEff a.1)).add (effSum (recs.map (·.2)))
      pushThen s x v.qs (recs.flatMap (·.1)) fun s => finish s x x.w.qo (inlineRows (v.sb 2) recs a.1, {}) e (smaxUsed v)

def cmdVsmax : Cmd := cmdVop Vop.rowStep vsmaxOk
  (fun v x s =>
    if v.sb 0 then { ins := passNeeds v x s (v.sb 2) false 8, outs := [(x.w.qo, v.oNeed)] }
    else { ins := passNeeds v x s false false 0, outs := v.reduceOuts x }) vsmaxUnit

/-- VSMAXB's issue check; SUB [1] is reserved. -/
def vsmaxbOk (s : State) (x : Ctx) : Bool :=
  let v := vopOf x.w
  !v.sb 1 &&
    (if v.sb 0 then passOk s x v (!v.sb 2) (!v.sb 2) true && rowFmtOk v.fb v.rowlen && rowFmtOk v.fo v.rowlen
     else passOk s x v true true true)

/-- The probabilities of a row, formed again from its record, each with whether it was clamped. -/
def smaxProbs (v : Vop) (rtz : Bool) (k : Nat) (r : PassRow) : List (FVal × Bool) :=
  ((List.range r.x.length).zip r.x).map fun e => (calcExp ((scaled v rtz e.2.v).sub (r.f 1))).narrow false false (k + 1 + e.1)
def smaxRow (v : Vop) (rtz : Bool) (k : Nat) (r : PassRow) : List FVal := (smaxProbs v rtz k r).map (·.1)
/-- How many scaled values and probabilities of a row were clamped. -/
def smaxSat (v : Vop) (rtz : Bool) (k : Nat) (r : PassRow) : Nat :=
  scaledSat v rtz r.x + ((r.x.zip (smaxProbs v rtz k r)).filter fun e => !e.1.p && e.2.2).length

/-- The records of REDUCE: the statistics with D. -/
def vsmaxbRecs (v : Vop) (rtz : Bool) (k0 : Nat) (rs : List PassRow) : List (List MB × Eff) :=
  ((List.range rs.length).zip rs).map fun r =>
    let k := k0 + r.1 * v.smaxFree
    let f := pairFmt false [v.fa, v.fb]
    let ps := roundedProds f rtz (r.2.g.map (·.v)) (smaxRow v rtz k r.2)
    let d := rowSumVal f ps.1
    recordSat (recordOf rtz r.2.bad 0 [.exact (r.2.f 0), .exact (r.2.f 1), .exact d.1, .exact .zero]) r.2.bad
      (ps.2 + d.2 + smaxSat v rtz k r.2)

/-- The rows of APPLY. -/
def vsmaxbOut (v : Vop) (rtz : Bool) (k0 : Nat) (rs : List PassRow) : List MB × Eff :=
  let out := outRows v.fo rtz false k0 (((List.range rs.length).zip rs).map fun r =>
    List.zipWith (fun y (pq : MV × MV) =>
      (r.2.orNan (Calc.exact ((v.immVal.mul y).mul (pq.2.v.sub (r.2.f 2)))), pq.1.p || pq.2.p || r.2.recBad))
      (smaxRow v rtz (k0 + r.1 * v.smaxFree) r.2) (r.2.x.zip r.2.g))
  (out.1, out.2.add { sat := (((List.range rs.length).zip rs).map fun r =>
    if r.2.recBad then 0 else smaxSat v rtz (k0 + r.1 * v.smaxFree) r.2).sum })

/-- A unit of VSMAXB: REDUCE forms D = Σ dy × y, APPLY pushes IMM × y × (dy - D). -/
def vsmaxbUnit : VopUnit := fun v _ x s =>
  if v.sb 0 then
    (takePassA s x v (v.sb 2) true 16).body fun a s =>
      finish s x x.w.qo (vsmaxbOut v x.w.rtz s.fresh a.1) (a.2.add (passEff a.1)) (smaxUsed v)
  else
    (takePassA s x v false true 8).body fun a s =>
      let recs := vsmaxbRecs v x.w.rtz s.fresh a.1
      finish s x x.w.qo (recRows (v.sb 2) recs a.1, effSum (recs.map (·.2))) (a.2.add (passEff a.1)) (smaxUsed v)

def cmdVsmaxb : Cmd := cmdVop Vop.rowStep vsmaxbOk backNeeds vsmaxbUnit

/-- Merging two partial records (R148): M, T and the factors, and the results that were clamped (R37). The products enter the sum as they
are, and T is rounded once, as RTZ says (R35; log entry 67). -/
def mergeStats (rtz : Bool) (k : Nat) (ma ta mb tb : FVal) : FVal × FVal × FVal × FVal × Nat :=
  let m := FVal.max ma mb
  if m = .inf true ∧ ta.isZero ∧ tb.isZero then (m, .zero, .zero, .zero, 0)
  else
    let term (j : Nat) (mi ti : FVal) : FVal :=
      if mi = .inf true ∧ ti.isZero then .zero else ti.mul ((calcExp (mi.sub m)).value (k + j))
    let a := term 0 ma ta
    let b := term 1 mb tb
    let t := r32 rtz (a.add b)
    (m, t, a.quot t, b.quot t, if (FpFmt.fp32.encode rtz (a.add b)).sat then 1 else 0)

/-- VSTATM's issue check. -/
def vstatmOk (s : State) (x : Ctx) : Bool :=
  let v := vopOf x.w
  lastOk x && decide (v.s 7 2 = 0) && s.queueOk x.site.core x.w.qa && s.queueOk x.site.core x.w.qb &&
    s.outOk x.site.core x.w.qo && (!v.sb 1 || s.outOk x.site.core v.qs)

/-- The merged records with their factor records. -/
def vstatmRecs (v : Vop) (rtz : Bool) (k0 : Nat) (a b : List MB) : List ((List MB × Eff) × (List MB × Eff)) :=
  ((((chunk 8 a).map recordVals).zip ((chunk 8 b).map recordVals)).zip (List.range v.rows)).map fun e =>
    let k := k0 + 3 * e.2
    let f (i : Nat) := (nth {} e.1.1 i).v
    let g (i : Nat) := (nth {} e.1.2 i).v
    let p := e.1.1.any (·.p) || e.1.2.any (·.p)
    let m := mergeStats rtz k (f 0) (f 1) (g 0) (g 1)
    let t := if v.sb 0 then m.1.add ((calcLog m.2.1).value (k + 2)) else m.2.1
    (recordSat (recordOf rtz p 0 [.exact m.1, .exact t]) p m.2.2.2.2, recordOf rtz p 0 [.exact m.2.2.1, .exact m.2.2.2.1])

/-- A unit of VSTATM. -/
def vstatmUnit : VopUnit := fun v _ x s =>
  popThen s x x.w.qa (8 * v.rows) fun a s =>
    popThen s x x.w.qb (8 * v.rows) fun b s =>
      let outs := vstatmRecs v x.w.rtz s.fresh a b
      let e : Eff := { ps := anyPoison a || anyPoison b }
      pushThen s x x.w.qo (outs.flatMap (·.1.1)) fun s =>
        let fac := if v.sb 1 then outs.flatMap (·.2.1) else []
        finish s x v.qs (fac, if v.sb 1 then effSum (outs.map (·.2.2)) else {})
          (e.add (effSum (outs.map (·.1.2)))) (3 * v.rows)

def cmdVstatm : Cmd := cmdVop (fun _ => 1) vstatmOk
  (fun v x _ => { ins := [(x.w.qa, 8 * v.rows), (x.w.qb, 8 * v.rows)],
                  outs := (x.w.qo, 8 * v.rows) :: if v.sb 1 then [(v.qs, 8 * v.rows)] else [] }) vstatmUnit

/-! ### VROPE and VDROP (R149, R150) -/

/-- Cosine and sine of pos × IMM^(-2i ÷ ROWLEN) (R149): the angle in FP64, reduced modulo 2π, the results within 2 units in the last
place. An IMM that is not a positive number gives no value that the rule states. -/
def ropeTrig (k : Nat) (imm : FVal) (rowlen i pos : Nat) : FVal × FVal :=
  match imm with
  | .fin false m e =>
    if m = 0 then (freeVal k, freeVal (k + 1))
    else
      let theta := expFix (-(2 * (i : Int) * lnFix m e) / (rowlen : Int))
      let ang := FpFmt.fp64.round false ((FVal.ofNat pos).mul theta)
      (nearVal k 2 (ofFix (cosFix ang.reduced)), nearVal (k + 1) 2 (ofFix (sinFix ang.reduced)))
  | _ => (freeVal k, freeVal (k + 1))

/-- Rotates the pairs of a row. -/
def ropeRow (inv : Bool) (k : Nat) (imm : FVal) (rowlen pos : Nat) (r : List MV) : List (Calc × Bool) :=
  ((List.range (rowlen / 2)).flatMap fun i =>
    let a := nth {} r (2 * i)
    let b := nth {} r (2 * i + 1)
    let t := ropeTrig (k + 2 * i) imm rowlen i pos
    let sn := if inv then t.2.neg else t.2
    [(Calc.exact ((a.v.mul t.1).sub (b.v.mul sn)), a.p || b.p),
     (Calc.exact ((a.v.mul sn).add (b.v.mul t.1)), a.p || b.p)])

/-- The position of a row: SHARE rows have one. -/
def ropePos (x : Ctx) (i : Nat) : Nat :=
  (x.cnt ((vopOf x.w).s 3 1)).toNat + i / 2 ^ (vopOf x.w).s 7 4

/-- VROPE's issue check. -/
def vropeOk (s : State) (x : Ctx) : Bool :=
  let v := vopOf x.w
  vopOk s x v && decide (v.rowlen % 2 = 0) && rowFmtOk v.fo v.rowlen && s.outOk x.site.core x.w.qo &&
    (decide (v.rows = 0) || decide (ropePos x (v.rows - 1) ≤ 16777215))

/-- VROPE's result; row `i` stands at position `pos i`. -/
def vropeOut (v : Vop) (rtz : Bool) (k : Nat) (pos : Nat → Nat) (as : List (List MV)) : List MB × Eff :=
  outRows v.fo rtz false k (((List.range as.length).zip as).map fun r =>
    ropeRow (v.sb 0) (k + r.1 * v.rowlen) v.immVal v.rowlen (pos r.1) r.2)

/-- A unit of VROPE. -/
def vropeUnit : VopUnit := fun v r x s =>
  (takeA s x v).body fun a s =>
    finish s x x.w.qo (vropeOut v x.w.rtz s.fresh (fun i => ropePos x (r + i)) a.1) (a.2.add (rowsEff a.1)) (v.rows * v.rowlen)

def cmdVrope : Cmd := cmdVop Vop.rowStep vropeOk rowNeeds vropeUnit

/-- The hash of R150. -/
def dropHash (seed row col : W32) : W32 :=
  let x := seed ^^^ (row * 0x9E3779B1) ^^^ (col * 0x85EBCA77)
  let x := x ^^^ (x >>> 16)
  let x := x * 0x7FEB352D
  let x := x ^^^ (x >>> 15)
  let x := x * 0x846CA68B
  x ^^^ (x >>> 16)

/-- ⌊q × 2^32⌋. -/
def keepLimit (q : FVal) : Nat :=
  match q with
  | .fin false m e => shl m (e + 32)
  | _ => 0

/-- VDROP's issue check. -/
def vdropOk (s : State) (x : Ctx) : Bool :=
  let v := vopOf x.w
  vopOk s x v && !v.sb 0 && !v.sb 7 && rowFmtOk v.fo v.rowlen && s.outOk x.site.core x.w.qo &&
    FVal.zero.lt v.immVal && !((FVal.ofNat 1).lt v.immVal)

/-- VDROP's result from its seed and first row number. -/
def vdropOut (v : Vop) (rtz : Bool) (k : Nat) (seed row0 : W32) (as : List (List MV)) : List MB × Eff :=
  outRows v.fo rtz false k (((List.range as.length).zip as).map fun r => ((List.range r.2.length).zip r.2).map fun c =>
    if (dropHash seed (row0 + w32 r.1) (w32 c.1)).toNat < keepLimit v.immVal then (Calc.exact (c.2.v.quot v.immVal), c.2.p)
    else (Calc.exact .zero, false))

/-- A unit of VDROP. -/
def vdropUnit : VopUnit := fun v r x s =>
  (takeA s x v).body fun a s =>
    finish s x x.w.qo (vdropOut v x.w.rtz s.fresh (x.cnt (v.s 3 1)) (x.cnt (v.s 6 4) + w32 r) a.1) (a.2.add (rowsEff a.1)) 0

def cmdVdrop : Cmd := cmdVop Vop.rowStep vdropOk rowNeeds vdropUnit

/-! ### VSPLIT, VSLREC and VBXADD (R79, R81, R151, R152) -/

/-- The smallest e with a < 2^e, for a = m × 2^k > 0. -/
def lineExp (m : Nat) (k : Int) : Int := (m.log2 : Int) + 1 + k

/-- The slices of one value y = x × 2^-e (R79): the first `s` digits of |y| in base 128, signed. -/
def slices (s : Nat) (e : Int) (x : FVal) : List Int :=
  match x with
  | .fin n m k =>
    let whole := shl m (k - e + 7 * (s : Int))
    (List.range s).map fun i => (if n then -1 else 1) * ((whole / 128 ^ (s - 1 - i) % 128 : Nat) : Int)
  | _ => List.replicate s 0

/-- A line's exponent, slices and effects (R79): `none` for a poisoned line. -/
structure Split where
  exp : Nat
  sl : List (List Nat)
  p : Bool
  eff : Eff
  deriving DecidableEq, Repr

def splitLine (s : Nat) (r : List MV) : Split :=
  let zeros := List.replicate s (r.map fun _ => 0)
  if r.any (·.p) then
    { exp := 0x8000, sl := List.replicate s (r.map fun _ => 0x80), p := true,
      eff := { ps := true, nf := r.any fun x => !x.p && !x.v.isFin } }
  else if r.any fun x => !x.v.isFin then { exp := 0x7FFF, sl := zeros, p := false, eff := { nf := true } }
  else
    match amaxOf (r.map (·.v)) with
    | .fin _ m k =>
      if m = 0 then { exp := 0, sl := zeros, p := false, eff := {} }
      else
        let e := lineExp m k
        let ds := r.map fun x => slices s e x.v
        { exp := ofSInt 16 e, sl := (List.range s).map fun i => ds.map fun d => ofSInt 8 (nth 0 d i), p := false, eff := {} }
    | _ => { exp := 0, sl := zeros, p := false, eff := {} }

/-- VSPLIT's issue check; the groups of 16 lines that STEPS names are whole (log entry 88). -/
def vsplitOk (s : State) (x : Ctx) : Bool :=
  let v := vopOf x.w
  vopOk s x v && decide (v.fa = .fp32 ∨ v.fa = .fp64) && decide (2 ≤ v.s 3 0 ∧ v.s 3 0 ≤ 9 ∧ v.s 7 5 = 0) &&
    (!v.sb 4 || decide (v.rows % 16 = 0)) && s.outOk x.site.core x.w.qo && s.outOk x.site.core v.qs

/-- The slices of the lines: row after row, or as an operand stream of 16 lines a group. -/
def vsplitOut (v : Vop) (ls : List Split) : List MB :=
  if v.sb 4 then
    (chunk 16 ls).flatMap fun g => (List.range (v.s 3 0)).flatMap fun i =>
      (columns ({} : MB) v.rowlen (g.map fun l => (nth [] l.sl i).map fun d => ⟨BitVec.ofNat 8 d, l.p⟩)).flatten
  else ls.flatMap fun l => l.sl.flatMap fun r => padTo 8 (r.map fun d => ⟨BitVec.ofNat 8 d, l.p⟩)

/-- The exponents of the lines, the last granule filled with zero bytes (log entry 88). -/
def vsplitExps (ls : List Split) : List MB := padTo 8 (ls.flatMap fun l => leBytes 2 l.exp l.p)

/-- A unit of VSPLIT. -/
def vsplitUnit : VopUnit := fun v _ x s =>
  (takeA s x v).body fun a s =>
    let ls := a.1.map (splitLine (v.s 3 0))
    pushThen s x v.qs (vsplitExps ls) fun s =>
      finish s x x.w.qo (vsplitOut v ls, {}) (a.2.add (effSum (ls.map (·.eff)))) 0

/-- The lines of a group go together, and so do those whose exponents share a granule. -/
def Vop.splitStep (v : Vop) : Nat := if v.sb 4 then 16 else 4

/-- Bytes of a unit's slices. -/
def Vop.splitBytes (v : Vop) : Nat := v.rows * v.s 3 0 * (if v.sb 4 then v.rowlen else roundUp 8 v.rowlen)

def cmdVsplit : Cmd := cmdVop Vop.splitStep vsplitOk
  (fun v x s => { ins := [(x.w.qa, v.aNeed x s)], outs := [(v.qs, roundUp 8 (2 * v.rows)), (x.w.qo, v.splitBytes)] }) vsplitUnit

/-- R81: the weighted sum of an element's groups, largest g first; every addition rounds to FP64. The second component tells that one
was clamped (R36, R37). -/
def recombine (rtz : Bool) (base : Int) : Nat → List FVal → FVal → Bool → FVal × Bool
  | _, [], acc, sat => (acc, sat)
  | g, t :: rest, acc, sat =>
    let e := FpFmt.fp64.encode rtz (acc.add ((FpFmt.fp64.round rtz t).scale (base - 7 * (g : Int))))
    recombine rtz base (g - 1) rest (FpFmt.fp64.decode e.code) (sat || e.sat)

/-- One output tile of VSLREC from its records and exponents. -/
def slrecTile (rtz : Bool) (n : Nat) (recs : List (List MV)) (ex : List MB) : List (Calc × Bool) :=
  let es := (chunk 2 ex).map fun c => (sInt 16 (leNat c), anyPoison c)
  (List.range 256).map fun i =>
    let ea := nth (0, false) es (i / 16)
    let eb := nth (0, false) es (16 + i % 16)
    let ts := recs.map fun r => nth {} r i
    let p := ea.2 || eb.2 || ts.any (·.p)
    if ea.1 = 32767 ∨ eb.1 = 32767 then (.exact .nan, p)
    else
      let r := recombine rtz (ea.1 + eb.1) (n + 1) (ts.map (·.v)) .zero false
      (if r.2 then .clamped r.1 else .exact r.1, p)

/-- Takes and recombines `t` tiles. -/
def takeTiles (x : Ctx) (n : Nat) : Nat → List (List (Calc × Bool)) → Eff → State → Taken (List (List (Calc × Bool)) × Eff)
  | 0, acc, e, s => .got (acc, e) s
  | t + 1, acc, e, s =>
    (takeRecs x x.w.qa (fun c => decide (c = 5 ∨ c = 6)) .fp64 n [] {} s).more fun r s =>
      (take s x x.w.qb 64).more fun ex s =>
        takeTiles x n t (acc ++ [slrecTile x.w.rtz n r.1 ex]) ((e.add r.2).add { ps := anyPoison ex }) s

/-- VSLREC's issue check. -/
def vslrecOk (s : State) (x : Ctx) : Bool :=
  let v := vopOf x.w
  lastOk x && decide (v.fa = .trec ∧ v.rowlen = 16 ∧ (v.fo = .fp64 ∨ v.fo = .fp32) ∧ 2 ≤ v.s 3 0 ∧ v.s 3 0 ≤ 9 ∧ v.s 7 4 = 0) &&
    s.queueOk x.site.core x.w.qa && s.queueOk x.site.core x.w.qb && s.outOk x.site.core x.w.qo

/-- A unit of VSLREC: a tile. -/
def vslrecUnit : VopUnit := fun v _ x s =>
  (takeTiles x (v.s 3 0) v.rows [] {} s).body fun t s =>
    finish s x x.w.qo (outRows v.fo x.w.rtz false s.fresh t.1)
      (t.2.add { ps := t.1.any fun t => t.any (·.2) }) 0

def cmdVslrec : Cmd := cmdVop (fun _ => 1) vslrecOk
  (fun v x s => { ins := [(x.w.qa, v.aNeed x s), (x.w.qb, 64)], outs := [(x.w.qo, v.rows * v.fo.rowBytes 256)] }) vslrecUnit

/-- VBXADD's issue check. -/
def vbxaddOk (s : State) (x : Ctx) : Bool :=
  let v := vopOf x.w
  vopOk s x v && decide (v.fa = .bx16 ∧ v.fb = .bx16 ∧ v.fo = .bx16 ∧ v.sub ≤ 1) &&
    s.queueOk x.site.core x.w.qb && s.outOk x.site.core x.w.qo

/-- Block sums, or differences. -/
def vbxaddOut (minus rtz : Bool) (a b : List MB) : List MB × Eff :=
  let rs := List.zipWith (fun p q =>
    let a := Bx.decode p
    let b := Bx.decode q
    let r := a.sum rtz (if minus then { b with mant := b.mant.map fun m => -m } else b)
    (r, { r.eff with nf := a.eff.nf || b.eff.nf || r.eff.nf })) (chunk 72 a) (chunk 72 b)
  (rs.flatMap fun r => Bx.encode r.1, effSum (rs.map (·.2)))

/-- Bytes of a unit's blocks. -/
def Vop.bxBytes (v : Vop) : Nat := v.rows * (v.rowlen / 32 * 72)

/-- A unit of VBXADD: block sums, or differences with SUB 1. -/
def vbxaddUnit : VopUnit := fun v _ x s =>
  popThen s x x.w.qa v.bxBytes fun a s =>
    popThen s x x.w.qb v.bxBytes fun b s => finish s x x.w.qo (vbxaddOut (decide (v.sub = 1)) x.w.rtz a b) {} 0

def cmdVbxadd : Cmd := cmdVop (fun _ => 1) vbxaddOk
  (fun v x _ => { ins := [(x.w.qa, v.bxBytes), (x.w.qb, v.bxBytes)], outs := [(x.w.qo, v.bxBytes)] }) vbxaddUnit

end Sys2Proof.Machine
end

