-- ==== Sys2Proof/Machine/Route.lean ====
section
/-! DEFINITION. Fabric packets of this Triat (R281 to R286): payloads and marks, routes and ports, responses, and the requests
that the Triat's engines want sent. -/

namespace Sys2Proof.Machine

open Sys2Proof

/-! ### Operations and payloads (R282) -/

def opRead : Byte := 0x01
def opWrite : Byte := 0x02
def opGather : Byte := 0x03
def opRacc : Byte := 0x10
def opRetract : Byte := 0x14
def opClose : Byte := 0x20
def opMirror : Byte := 0x30
def opParity : Byte := 0x31
def opPing : Byte := 0x40

/-- Payload bytes with the marks of POISON (R281). -/
def marked (poison : W64) (d : List Byte) : List MB :=
  ((List.range d.length).zip d).map fun e => ⟨e.2, poison.getLsbD (e.1 / 64)⟩

/-- The POISON field of payload bytes. -/
def poisonOf (bs : List MB) : W64 :=
  BitVec.ofNat 64 (((List.range 64).map fun k => if ((bs.drop (64 * k)).take 64).any (·.p) then 2 ^ k else 0).sum)

/-- A packet with this payload; LEN and POISON follow from it. -/
def Pkt.withData (p : Pkt) (bs : List MB) : Pkt :=
  { p with data := bs.map (·.b), h := { p.h with len := BitVec.ofNat 13 bs.length, poison := poisonOf bs } }

/-- The payload with its marks. -/
def Pkt.payload (p : Pkt) : List MB := marked p.h.poison p.data

/-- An answer to a request: status and payload. -/
structure Answer where
  status : Status
  data : List MB := []
  deriving DecidableEq, Repr

/-! ### Routes (R284, R285) -/

namespace State

/-- Adds to a count of the shared fabric block (R292). -/
def countFab (s : State) (off n : Nat) : State := { s with fab := { s.fab with counts := bump s.fab.counts off n } }

/-- The ACTIVE ports of a destination's entry, ascending; none where the entry is not VALID. -/
def routePorts (s : State) (dst : DevId) : List Nat :=
  let e := SMap.get 0 s.fab.routes dst.toNat
  if bit e 16 then (bitList 16 (bits e 15 0)).filter fun p => (s.port p).live else []

/-- The port with the most free credits in a pool; a tie goes to the lowest (R285). -/
def freest (s : State) (pool : Nat) : List Nat → Option Nat
  | [] => none
  | p :: t =>
    match s.freest pool t with
    | none => some p
    | some q => if SMap.get 0 (s.port p).credit pool < SMap.get 0 (s.port q).credit pool then some q else some p

/-- The port a packet takes (R285). -/
def choosePort (s : State) (src dst : DevId) (cls : BitVec 3) (resp : Bool) : Option Nat :=
  let ps := s.routePorts dst
  if cls.toNat < 6 then s.freest (2 * cls.toNat + (if resp then 1 else 0)) ps
  else if ps.isEmpty then none
  else ps[(src ^^^ dst).toNat % ps.length]?

/-- The device is on the down list (R344). -/
def isDown (s : State) (d : DevId) : Bool := s.sec.down.contains d

end State

/-- The credit pool of a packet (R268). -/
def poolOf (cls : BitVec 3) (resp : Bool) : BitVec 4 := BitVec.ofNat 4 (2 * cls.toNat + (if resp then 1 else 0))

def Pkt.pool (p : Pkt) : BitVec 4 := poolOf p.h.cls p.resp

/-- A response to a request of `h` (R282). -/
def responseTo (s : State) (op : Byte) (h : FabHdr) (a : Answer) : Pkt :=
  let p : Pkt := { op := op, resp := true, h :=
    { dstDev := h.srcDev, srcDev := s.fab.devId, addr := h.addr, cls := h.cls, hops := s.fab.ctrl.extractLsb' 0 4,
      job := 0, tag := h.tag, status := a.status } }
  p.withData a.data

/-- Sends a response to a request that came in on port `n` (R285): by its route, else by that port, else it is discarded. -/
def State.respond (s : State) (n : Nat) (op : Byte) (h : FabHdr) (a : Answer) : State :=
  let p := responseTo s op h a
  let item : QItem := { pool := p.pool, body := .fab p, home := some n }
  match s.choosePort s.fab.devId h.srcDev h.cls true with
  | some q => s.enqueue q item
  | none =>
    if (s.port n).live then s.enqueue n item else s.countFab 0x020 1

/-- A request that an engine of this Triat wants sent: header fields that sending does not set. -/
def mkReq (op : Byte) (dst : DevId) (cls : BitVec 3) (addr : Nat) : Pkt :=
  { op := op, resp := false, h := { dstDev := dst, addr := BitVec.ofNat 48 addr, cls := cls } }

/-- Puts a request where `State.flush` takes it up. -/
def State.want (s : State) (p : Pkt) (who : Issuer) : State :=
  { s with fab := { s.fab with waiting := s.fab.waiting ++ [{ pkt := p, who := who }] } }

/-- Cuts a length into packet sizes of at most `m` bytes: offset and bytes of each. -/
def pieces (m n : Nat) : List (Nat × Nat) :=
  (List.range ((n + m - 1) / m)).map fun i => (i * m, (n - i * m) ⊓ m)

/-! ### Tokens from a collective engine (R178, R310, R320) -/

/-- Adds tokens of the CE of half `h` to a core's counter under R160; an absent core gets none, nor one that they do not reach (R194, R196,
R204). -/
def State.ceTokens (s : State) (h : Nat) (core : CoreId) (tc : BitVec 3) (n : BitVec 16) : Status × State :=
  if !s.hasCore core then (stNotPresent, s)
  else
    match s.turnedTo (.ce h) core with
    | some t => (stFenced, s.countTurn t)
    | none => (stOk, s.updCore core.toNat fun c => c.takeTokens [{ src := none, target := core, tc := tc, n := n }])

end Sys2Proof.Machine
end

