-- ==== Sys2Proof/Machine/Msa.lean ====
section
/-! DEFINITION. The memory-side adders (R297 to R304): jobs, counts, the checks of a packet and the addition of its blocks. -/

namespace Sys2Proof.Machine

open Sys2Proof

/-! ### Jobs (R297, R298, R328) -/

def jobFree : BitVec 3 := 0
def jobArming : BitVec 3 := 1
def jobOpen : BitVec 3 := 2
def jobClosed : BitVec 3 := 3
def jobCommitting : BitVec 3 := 4

namespace Job

def expectClose (j : Job) : Nat := bits j.cfg 31 16
def id (j : Job) : Nat := bits j.cfg 15 8
def shard (j : Job) : Bool := bit j.cfg 7
def zero (j : Job) : Bool := bit j.cfg 6
def policy (j : Job) : Nat := bits j.cfg 3 2
def form (j : Job) : Nat := bits j.cfg 1 0
def buf (j : Job) : Nat := addr48 j.bufLo j.bufHi
def cnt (j : Job) : Nat := addr48 j.cntLo j.cntHi
def expv (j : Job) : Nat := addr48 j.expvLo j.expvHi

end Job

/-- Bytes of a block of a form (R297). -/
def formBytes (form : Nat) : Nat :=
  match form with
  | 0 => 128
  | 2 => 72
  | _ => 256

/-- The entry that a JOB field names: the one that is not FREE with that ID (R298). -/
def State.jobFor (s : State) (id : Nat) : Option Nat :=
  (List.range 64).find? fun j => decide ((s.job j).st ≠ jobFree ∧ (s.job j).id = id)

/-- The count that is VOID (R297). -/
def voidCount : W32 := 0x80000000

/-- A count word as read: poisoned counts as VOID (R297). -/
def countWord (bs : List MB) : W32 := if anyPoison bs then voidCount else bitsOf 32 bs

/-- R49 and R300: the sum of a count and an addend, and whether it saturated. -/
def addCount (c x : W32) : W32 × Bool :=
  let t := c.toInt + x.toInt
  if 2 ^ 31 - 1 < t then (0x7FFFFFFF, true)
  else if t ≤ -(2 ^ 31) then (0x80000001, true)
  else (BitVec.ofInt 32 t, false)

/-! ### Elements (R301, R302) -/

/-- A value written to four bytes; a poisoned one is the canonical NaN (R52). -/
def f32Bytes (v : FVal) (p : Bool) : List MB := leBytes 4 (FpFmt.fp32.encode false (if p then .nan else v)).code p

def f32Of (bs : List MB) : FVal := FpFmt.fp32.decode (leNat bs)

/-- F32: the sum rounded to nearest even; beyond the range the largest finite, counted. -/
def addF32 (b c : List MB) : List MB × Nat :=
  let p := anyPoison b || anyPoison c
  let e := FpFmt.fp32.encode false ((f32Of b).add (f32Of c))
  if p then (f32Bytes .nan true, 0) else (leBytes 4 e.code, if e.sat then 1 else 0)

/-- F32C: the two-sum of hi, then lo. -/
def addF32C (b c : List MB) : List MB × Nat :=
  let p := anyPoison b || anyPoison c
  let hi := f32Of (b.take 4)
  let lo := f32Of (b.drop 4)
  let h2 := f32Of (c.take 4)
  let l2 := f32Of (c.drop 4)
  let fin := hi.isFin && lo.isFin && h2.isFin && l2.isFin
  let r := FpFmt.fp32.twoSum hi .zero h2
  let l := FpFmt.fp32.roundIeee ((FpFmt.fp32.roundIeee (lo.add l2)).add r.2)
  if p then (f32Bytes .nan true ++ f32Bytes .nan true, 0)
  else if fin && (!r.1.isFin || !l.isFin) then
    let neg := (((hi.add lo).add h2).add l2).isNeg
    (f32Bytes (FpFmt.fp32.decode (FpFmt.fp32.signBit neg + FpFmt.fp32.maxCode)) false ++ f32Bytes .zero false, 1)
  else (f32Bytes r.1 false ++ f32Bytes l false, 0)

/-- I64: exact, saturating. -/
def addI64 (b c : List MB) : List MB × Nat :=
  let p := anyPoison b || anyPoison c
  let t := (bitsOf 64 b).toInt + (bitsOf 64 c).toInt
  if p then (leBytes 8 (2 ^ 63) true, 0)
  else if 2 ^ 63 - 1 < t then (leBytes 8 (2 ^ 63 - 1), 1)
  else if t < -(2 ^ 63) then (leBytes 8 (2 ^ 63), 1)
  else (leBytes 8 (BitVec.ofInt 64 t).toNat, 0)

/-- Adds blocks element by element. -/
def addElems (n : Nat) (f : List MB → List MB → List MB × Nat) (b c : List MB) : List MB × Nat :=
  let rs := List.zipWith f (chunk n b) (chunk n c)
  (rs.flatMap (·.1), (rs.map (·.2)).sum)

/-- The sum of a buffer block and a contributed block: bytes, elements saturated, and BX16 raises (R302). -/
def addBlock (form : Nat) (b c : List MB) : List MB × Nat × Nat :=
  match form with
  | 0 => let r := addElems 4 addF32 b c; (r.1, r.2, 0)
  | 1 => let r := addElems 8 addF32C b c; (r.1, r.2, 0)
  | 2 =>
    let x := Bx.decode b
    let y := Bx.decode c
    let z := x.sum false y
    let raised := !z.poison && !z.nonfin && decide (Nat.max x.exp y.exp < z.exp)
    (z.encode, 0, if raised then 1 else 0)
  | _ => let r := addElems 8 addI64 b c; (r.1, r.2, 0)

/-- A block holds a non-finite or poisoned element (R303, R305, R315). -/
def badBlock (form : Nat) (b : List MB) : Bool :=
  match form with
  | 2 => let x := Bx.decode b; x.nonfin || x.poison
  | 3 => anyPoison b
  | _ => anyPoison b || (chunk 4 b).any fun w => !(f32Of w).isFin

/-- The zero block of a form (R299). -/
def zeroBlock (form exp : Nat) (marked : Bool := false) : List MB :=
  if form = 2 then Bx.encode { exp := exp, poison := marked } else zeroBytes (formBytes form)

/-- An FP32 word negated: a NaN becomes the canonical one (R34), another value changes its sign (R138). -/
def negateF32 (n : Nat) : Nat := if (FpFmt.fp32.decode n).isNan then FpFmt.fp32.nanCode else (n + 2 ^ 31) % 2 ^ 32

/-- A block negated for a retraction, and what that did: the elements whose negation is not exact are counted (R138, R304), a poisoned
element holds the value bits of R52 and is not counted, and the sources of R113 are told of both (log entry 73). -/
def negateBlock (form : Nat) (b : List MB) : List MB × Eff :=
  match form with
  | 2 => let x := Bx.decode b; let r := x.negate; (Bx.encode r.1, { x.eff with sat := r.2 })
  | 3 =>
    let rs := (chunk 8 b).map fun w =>
      let i := (bitsOf 64 w).toInt
      if anyPoison w then (leBytes 8 (2 ^ 63) true, 0)
      else if i = -(2 ^ 63) then (leBytes 8 (2 ^ 63 - 1), 1) else (leBytes 8 (BitVec.ofInt 64 (-i)).toNat, 0)
    (rs.flatMap (·.1), { sat := (rs.map (·.2)).sum, ps := anyPoison b })
  | _ =>
    let es := chunk (if form = 1 then 8 else 4) b
    let ends (w : List MB) : Bool := !(FpFmt.fp32.decode (leNat w)).isFin
    (es.flatMap fun e => (chunk 4 e).flatMap fun w =>
        if anyPoison e then leBytes 4 FpFmt.fp32.nanCode true else leBytes 4 (negateF32 (leNat w)),
      { ps := anyPoison b, nf := es.any fun e => !anyPoison e && (chunk 4 e).any ends })

/-! ### The addition (R300, R303) -/

/-- The sectors of a range that a locked image holds (R381). -/
def State.lockedIn (s : State) (v : Via) (acc : Access) (es : List (Nat × Nat × Nat)) : Nat :=
  es.countP fun e => match (s.resolve v e.1 acc).1 with
    | .ok p _ => s.locked (p / 64 * 64) 64
    | .bad _ => false

/-- The first reason why a range cannot be written as a whole: translation, a shut controller, a locked image, of which every sector
refused is counted (R300, R381). -/
def State.openParts (s : State) (v : Via) (acc : Access) : List (Nat × Nat × Nat) → Status × State
  | [] => (stOk, s)
  | e :: rest =>
    match s.resolve v e.1 acc with
    | (.bad c, s) => (causeStatus c, s)
    | (.ok p _, s) =>
      let k := (s.place p).stack
      match s.mcShut k with
      | some st => (st, s.noteShutWrite k p st)
      | none => if s.locked (p / 64 * 64) 64 then (stImageLocked, s.countCtl 0x21C (s.lockedIn v acc (e :: rest))) else s.openParts v acc rest

def State.openRange (s : State) (v : Via) (acc : Access) (a n : Nat) : Status × State := s.openParts v acc (sectorsOf a n)

/-- Writes VOID to a count, which holds no poison mark from then on where the cache holds its sector (R300, log entry 83). -/
def State.writeVoid (s : State) (v : Via) (acc : Access) (a : Nat) : Status × State :=
  match s.writeMem v acc a (leBytes 4 voidCount.toNat) with
  | (st, s) =>
    if st ≠ stOk then (st, s)
    else
      match (s.resolve v (a / 64 * 64) acc).1 with
      | .ok p _ => (st, s.unmarkWord (p / 64 * 64 + a % 64))
      | .bad _ => (st, s)

/-- Adds one block and its count (R300 to R303). -/
def State.addOne (s : State) (v : Via) (acc : Access) (j b : Nat) (x : W32) (c : List MB) : State :=
  let e := s.job j
  let form := e.form
  let addr := e.buf + b * formBytes form
  let cntAddr := e.cnt + 4 * b
  match s.readMem v acc cntAddr 4 with
  | (cb, _, s) =>
    let count := countWord cb
    if count = voidCount then
      if anyPoison cb then (s.writeVoid v acc cntAddr).2 else s
    else
      let bad := badBlock form c
      if bad ∧ e.policy = 1 then s.updJob j fun e => { e with bad := e.bad + 1 }
      else
        let s := if bad ∧ e.policy = 2 then s.updJob j fun e => { e with stepAbort := true } else s
        match s.readMem v acc addr (formBytes form) with
        | (old, _, s) =>
          let r := addBlock form old c
          let n := addCount count x
          let s := (s.writeMem v acc addr r.1).2
          let s := (s.writeMem v acc cntAddr (leBytes 4 n.1.toNat)).2
          (s.updJob j fun e => { e with rescales := e.rescales + w32 r.2.2 }).countCe 0x130 (r.2.1 + (if n.2 then 1 else 0))

def State.addAll (s : State) (v : Via) (acc : Access) (j b : Nat) (x : W32) : List (List MB) → State
  | [] => s
  | c :: rest => (s.addOne v acc j b x c).addAll v acc j (b + 1) x rest

/-- What a job's state answers to an RACC or RETRACT (R299); none: it is added. -/
def State.raccState (s : State) (j : Nat) : Option (Status × State) :=
  let st := (s.job j).st
  if st = jobOpen then none
  else if st = jobArming then some (stBusy, s)
  else if st = jobClosed then some (stDenied, s.countCe 0x114 1)
  else some (stDenied, s)

/-- Serves an RACC or RETRACT packet's data (R298 to R304). -/
def State.serveRacc (s : State) (v : Via) (acc : Access) (form : Nat) (h : FabHdr) (data : List MB) : Status × State :=
  if !s.hasMsa then (stNotPresent, s)
  else
    match s.jobFor h.job.toNat with
    | none => (stDenied, s)
    | some j =>
      match s.raccState j with
      | some r => r
      | none =>
        let e := s.job j
        let fb := formBytes form
        let off := h.addr.toNat - e.buf
        let n := data.length / fb
        let ok := decide (form = e.form ∧ e.buf ≤ h.addr.toNat ∧ off % fb = 0 ∧ data.length % fb = 0 ∧
          off / fb < e.blocks.toNat ∧ off / fb + n ≤ e.blocks.toNat)
        if !ok then (stBadParam, s)
        else
          match s.openRange v acc h.addr.toNat data.length with
          | (st, s) =>
            if st ≠ stOk then (st, s)
            else
              match s.openRange v acc (e.cnt + 4 * (off / fb)) (4 * n) with
              | (st, s) => if st ≠ stOk then (st, s) else (stOk, s.addAll v acc j (off / fb) h.seq (chunk fb data))

end Sys2Proof.Machine
end

