-- ==== Sys2Proof/Machine/Moves.lean ====
section
/-! DEFINITION. Notifies and the move rings of the collective engines (R176 to R179). -/

namespace Sys2Proof.Machine

open Sys2Proof

/-! ### Notifies (R178, R296) -/

/-- What a descriptor says of its notify. -/
structure NotifyF where
  en : Bool
  remote : Bool
  dev : DevId
  core : CoreId
  tc : BitVec 3
  n : BitVec 16
  deriving DecidableEq, Repr

/-- The notify of the CE of half `h` at a completion with status `st`, and the status that results (R178): a failed transfer sends no
remote notify and is reported; a notify to a fenced or absent core turns OK into that status. Whether the target of one that goes to
another Triat is fenced there is a free value (log entry 24). -/
def State.notifyEnd (s : State) (h : Nat) (f : NotifyF) (st : Status) : Status × State :=
  if !f.en then (st, s)
  else if f.remote && decide (st ≠ stOk) then (st, s.report 178 [w32 h, f.dev.setWidth 32, st.setWidth 32])
  else if f.remote && decide (f.dev ≠ s.fab.devId) then
    (if Config.notifyFenced s.fresh then stFenced else stOk, { s.emit (.remoteNotify f.dev f.core f.tc f.n) with fresh := s.fresh + 1 })
  else
    match s.ceTokens h f.core f.tc f.n with
    | (t, s) => (if st = stOk then t else st, s)

/-! ### Move descriptors (R177) -/

structure MvFields where
  op : Nat
  cls : Nat
  dev : DevId
  local_ : Nat
  remote : Nat
  len : Nat
  note : NotifyF
  lot : Nat
  lotEn : Bool
  deriving DecidableEq, Repr

def mvFields (d : BitVec 256) : MvFields :=
  { op := bits d 7 0, cls := bits d 10 8, dev := d.extractLsb' 16 16, local_ := bits d 79 32, remote := bits d 143 96,
    len := bits d 191 160, lot := bits d 235 224, lotEn := bit d 236,
    note := { en := bit d 207, remote := bit d 208 && decide (bits d 7 0 = 1), dev := d.extractLsb' 16 16,
              core := d.extractLsb' 192 12, tc := d.extractLsb' 204 3, n := BitVec.ofNat 16 (bits d 223 209) } }

/-- R177. -/
def MvFields.bad (f : MvFields) : Bool :=
  decide ((f.op ≠ 1 ∧ f.op ≠ 2) ∨ 6 ≤ f.cls ∨ f.local_ % 64 ≠ 0 ∨ f.remote % 64 ≠ 0 ∨ f.len % 64 ≠ 0 ∨ f.len = 0)

namespace State

/-- The CE of half `h` is present, powered and not under reset (R29, R379, R392). -/
def ceRuns (s : State) (h : Nat) : Bool := s.hasCe h && !s.pwr.gated.getLsbD h && !s.ctl.fnReset.getLsbD (31 + h)

def updRing (s : State) (h k : Nat) (f : MvRing → MvRing) : State := s.updCe h (·.updRing k f)
def updRun (s : State) (h k : Nat) (f : MvRun → MvRun) : State := s.updRing h k fun r => { r with run := r.run.map f }

/-- Adds to the packets awaited by the descriptor in execution, and notes a status. -/
def noteMove (s : State) (h k n : Nat) (st : Status) : State :=
  s.updRun h k fun r => { r with left := r.left + n, status := if r.status = stOk then st else r.status }

/-- Completes the descriptor in execution (R178): lot, notify, STATUS, and the ring's progress. -/
def finishMove (s : State) (h k : Nat) : State :=
  match ((s.ce h).ring k).run with
  | none => s
  | some r =>
    let f := mvFields r.desc
    match s.notifyEnd h f.note r.status with
    | (st, s) =>
      let s := if f.lotEn ∧ f.op = 1 then s.updCe h fun c => { c with lots := SMap.set false c.lots f.lot (decide (st = stOk)) } else s
      let s := (s.writeMem (viaCe h) .w (r.addr + 10) (leBytes 2 st.toNat)).2
      s.updRing h k fun g =>
        let g := { g with run := none, done := g.done + 1, lastBad := if st = stOk then g.lastBad else st }
        if r.stale then g
        else { g with owed := g.owed - (if g.owed = 0 then 0 else 1),
                      head := BitVec.ofNat 16 ((g.head.toNat + 1) % g.size.toNat) }

/-- Completes the descriptor in execution once no packet is awaited. -/
def endMove (s : State) (h k : Nat) : State :=
  match ((s.ce h).ring k).run with
  | some r => if r.left = 0 then s.finishMove h k else s
  | none => s

/-- The WRITE packets of a PUT, each read from local memory, marks included; a piece that cannot be read is not sent. -/
def putPieces (s : State) (h k : Nat) (f : MvFields) : List (Nat × Nat) → State
  | [] => s
  | (o, n) :: rest =>
    match s.readMem (viaCe h) .r (f.local_ + o) n with
    | (bs, st, s) =>
      let p := (mkReq opWrite f.dev (BitVec.ofNat 3 f.cls) (f.remote + o)).withData bs
      let p := { p with h := { p.h with last := rest.isEmpty } }
      let s := if st = stOk then
          (s.noteMove h k 1 stOk).want p (.move (BitVec.ofNat 1 h) (BitVec.ofNat 4 k) o)
        else s.noteMove h k 0 st
      s.putPieces h k f rest

/-- The READ packets of a GET. -/
def getPieces (s : State) (h k : Nat) (f : MvFields) : List (Nat × Nat) → State
  | [] => s
  | (o, n) :: rest =>
    let p := mkReq opRead f.dev (BitVec.ofNat 3 f.cls) (f.remote + o)
    let p := { p with h := { p.h with len := BitVec.ofNat 13 n, last := rest.isEmpty } }
    ((s.noteMove h k 1 stOk).want p (.move (BitVec.ofNat 1 h) (BitVec.ofNat 4 k) o)).getPieces h k f rest

/-- A local range of a GET that is left unwritten becomes poisoned (R178). -/
def poisonAt (s : State) (h a n : Nat) : State := (s.writeMem (viaCe h) .w a (poisonBytes n)).2

/-- What a descriptor in execution does at its start. -/
def beginMove (s : State) (h k : Nat) (f : MvFields) : State :=
  let ps := pieces 4096 f.len
  if f.op = 1 then s.putPieces h k f ps
  else if f.lotEn && !SMap.get false (s.ce h).lots f.lot then (s.poisonAt h f.local_ f.len).noteMove h k 0 stPoisoned
  else s.getPieces h k f ps

/-- Starts the ring's next owed descriptor if its OP is `op` (R176 to R178). -/
def startMove (s : State) (h k op : Nat) : State :=
  let r := (s.ce h).ring k
  if !(s.ceRuns h && bit r.ctrl 31 && decide (r.owed ≠ 0 ∧ r.head ≠ r.tail) && r.run.isNone) then s
  else
    let a := addr48 r.baseLo r.baseHi + 32 * r.head.toNat
    match s.readMem (viaCe h) .r a 32 with
    | (bs, st, t) =>
      let st := if st = stOk ∧ anyPoison bs then stPoisoned else st
      let d : BitVec 256 := if st = stOk then bitsOf 256 bs else 0
      let f := mvFields d
      if st = stOk ∧ f.op ≠ op ∧ (f.op = 1 ∨ f.op = 2) then s
      else
        let st := if st = stOk ∧ f.bad then stBadParam else st
        let t := t.updRing h k fun r => { r with run := some { addr := a, desc := d, status := st } }
        (if st = stOk then t.beginMove h k f else t).endMove h k

/-- An answer to a packet of the descriptor in execution (R178). -/
def settleMove (s : State) (h k o : Nat) (req : Pkt) (st : Status) (data : List MB) : State :=
  match ((s.ce h).ring k).run with
  | none => s
  | some r =>
    let f := mvFields r.desc
    let n := req.h.len.toNat
    match (if f.op = 2 then
        (if st = stOk then s.writeMem (viaCe h) .w (f.local_ + o) data else (st, s.poisonAt h (f.local_ + o) n))
      else (st, s)) with
    | (st, s) =>
      ((s.noteMove h k 0 st).updRun h k fun r => { r with left := r.left - 1 }).endMove h k

end State

end Sys2Proof.Machine
end

