-- ==== Sys2Proof/Machine/Reduce.lean ====
section
/-! DEFINITION. Reduction lists and close groups (R293 to R314, R323 to R325): SEND, PASS, CLOSE and GATHER descriptors,
dropping a contributor, and widening. -/

namespace Sys2Proof.Machine

open Sys2Proof

/-! ### Descriptors (R296) -/

structure DFields where
  op : Nat
  cls : Nat
  hold : Bool
  group : Nat
  cgEn : Bool
  dev : DevId
  job : Byte
  ljob : Nat
  form : Nat
  gfmt : Nat
  exact : Bool
  local_ : Nat
  remote : Nat
  ccount : BitVec 16
  len : Nat
  note : NotifyF
  verAddr : Nat
  verN : Nat
  widenCl : Nat
  rows : Nat
  cols : Nat
  deriving DecidableEq, Repr

def dFields (d : BitVec 512) : DFields :=
  { op := bits d 7 0, cls := bits d 10 8, hold := bit d 11, group := bits d 14 12, cgEn := bit d 15,
    dev := d.extractLsb' 16 16, job := d.extractLsb' 32 8, ljob := bits d 47 40, form := bits d 49 48, gfmt := bits d 51 50,
    exact := bit d 52, local_ := bits d 111 64, remote := bits d 175 128, ccount := d.extractLsb' 176 16,
    len := bits d 223 192,
    note := { en := bit d 239, remote := bit d 255 && decide (bits d 7 0 = 2), dev := d.extractLsb' 16 16,
              core := d.extractLsb' 224 12, tc := d.extractLsb' 236 3, n := BitVec.ofNat 16 (bits d 254 240) },
    verAddr := bits d 303 256, verN := bits d 311 304, widenCl := 32 * bits d 317 317 + bits d 316 312,
    rows := 16 * bits d 324 318, cols := 16 * bits d 331 325 }

namespace DFields

/-- The format of a GATHER's narrow data. -/
def fmt (f : DFields) : Fmt := if f.gfmt = 0 then .bs8 else .bs6
/-- Bytes of a narrow image and of a widened one (R324). -/
def narrow (f : DFields) : Nat := f.cols * f.fmt.rowBytes f.rows
def wide (f : DFields) : Nat := imageBytes .fp8e4 1 f.rows f.cols true

/-- R294: reserved OP or GFMT, class, alignment, length. -/
def bad (f : DFields) : Bool :=
  decide (f.op = 0 ∨ 4 < f.op ∨ 6 ≤ f.cls) ||
    (decide (f.op ≠ 3) && decide (f.local_ % 8 ≠ 0 ∨ f.remote % 8 ≠ 0 ∨ f.len = 0)) ||
    (decide (f.op = 4) && decide (1 < f.gfmt ∨ f.rows = 0 ∨ 1024 < f.rows ∨ f.cols = 0 ∨ 1024 < f.cols ∨
      f.len % (4 * f.narrow) ≠ 0 ∨ (f.exact = true ∧ f.verN = 0)))

end DFields

namespace State

def updList (s : State) (h k : Nat) (f : RList → RList) : State := s.updCe h (·.updList k f)
/-- The descriptor that runs under number `id`. -/
def drun (s : State) (h k id : Nat) : Option DRun := ((s.ce h).list k).runs.find? fun r => decide (r.id = id)
def updDrun (s : State) (h k id : Nat) (f : DRun → DRun) : State :=
  s.updList h k fun l => { l with runs := l.runs.map fun r => if r.id = id then f r else r }

/-- Adds to the packets that a descriptor awaits, and notes a status. -/
def noteDesc (s : State) (h k id n : Nat) (st : Status) : State :=
  s.updDrun h k id fun r => { r with left := r.left + n, status := if r.status = stOk then st else r.status }

/-! ### Close groups (R306, R314) -/

/-- A group that is complete becomes RELEASED; a dropped one without a retraction outstanding reads DROPPED. -/
def checkGroup (s : State) (g : Nat) : State :=
  s.updCg g fun c =>
    if c.used ∧ c.expect ≤ c.done ∧ c.retracts = 0 ∧ c.voids = 0 then { c with st := 3 }
    else if c.st = 2 ∧ c.retracts = 0 then { c with st := 1 }
    else c

/-- The step uses a group. -/
def useGroup (s : State) (g : Nat) : State := (s.updCg g fun c => { c with used := true }).checkGroup g

end State

/-- The CLOSE payload (R313). -/
def closeData (kind : Nat) (b : CloseBody) : List MB :=
  leBytes 4 (kind + (if b.dropped then 256 else 0)) ++ leBytes 4 b.step.toNat ++ leBytes 4 b.arg0.toNat ++
    leBytes 4 b.arg1.toNat ++ leBytes 8 b.mark.toNat ++ leBytes 4 b.cver.toNat ++ leBytes 4 0

/-- A CLOSE packet. -/
def closePkt (kind : Nat) (dev : DevId) (cls : BitVec 3) (job : Byte) (count : Byte) (abort : Bool) (b : CloseBody) : Pkt :=
  let p := (mkReq opClose dev cls 0).withData (closeData kind b)
  { p with h := { p.h with job := job, count := count, stepAbort := abort } }

/-- A count clamped to the header's COUNT (R281). -/
def clampCount (x : W32) : Byte := BitVec.ofInt 8 (max (-128) (min 127 x.toInt))

namespace State

/-! ### Blocks of a local job (R305) -/

/-- A block at index `b` of a local job, converted to `form`: its bytes, the status of the read, and whether it is non-finite or
poisoned, before or by the conversion. -/
def localBlock (s : State) (h j b form : Nat) : List MB × Status × Bool × State :=
  let e := s.job j
  match s.readMem (viaCe h) .r (e.buf + b * formBytes e.form) (formBytes e.form) with
  | (bs, st, s) =>
    if form = 2 ∧ e.form = 0 then
      match s.readMem (viaCe h) .r (e.expv + b) 1 with
      | (eb, st', s) =>
        let x := Bx.ofValues false (some (leNat eb)) ((chunk 4 bs).map fun w => { v := f32Of w, p := anyPoison w })
        let x := { x with poison := x.poison || anyPoison eb }
        (x.encode, if st = stOk then st' else st, x.nonfin || x.poison, s)
    else (bs, st, badBlock e.form bs, s)

/-- A block's count in a local job. -/
def localCount (s : State) (h j b : Nat) : W32 × Status × State :=
  match s.readMem (viaCe h) .r ((s.job j).cnt + 4 * b) 4 with
  | (bs, st, s) => (countWord bs, st, s)

end State

/-! ### Completion (R294, R324) -/

/-- A narrow image widened (R324): its columns' stored rows decoded exactly, each bedstone row given its scale and encoded. -/
def widenImage (f : DFields) (bs : List MB) : List MB :=
  let cols := (chunk (f.fmt.rowBytes f.rows) bs).map fun seg => f.fmt.decodeRow f.rows seg
  let rows := (List.range f.rows).map fun i => Fmt.encodeRowScaled .fp8e4 false (cols.map fun c => nth {} c i)
  let array := columns {} f.cols (rows.map (·.2.1))
  padTo 64 array.flatten ++ padTo 64 (rows.map fun r => ⟨BitVec.ofNat 8 r.1, false⟩)

/-- Four images interleaved in 64-byte units (R129, R165). -/
def interleave (images : List (List MB)) : List MB :=
  let us := images.map (chunk 64)
  ((List.range (nth [] us 0).length).flatMap fun u => us.map fun i => nth [] i u).flatten

namespace State

/-- The destination of a GATHER, written poisoned (R325). -/
def poisonGather (s : State) (h : Nat) (f : DFields) : State := s.poisonAt h f.local_ (f.len / f.narrow * f.wide)

/-- Widens all that a GATHER has accepted and writes it image set by image set. -/
def widenAll (s : State) (h k id : Nat) (f : DFields) (bs : List MB) : State :=
  ((chunk (4 * f.narrow) bs).zip (List.range (bs.length / (4 * f.narrow)))).foldl (fun s e =>
    let set := interleave ((chunk f.narrow e.1).map (widenImage f))
    match s.writeMem (viaCe h) .w (f.local_ + e.2 * (4 * f.wide)) set with
    | (st, s) => (s.noteDesc h k id 0 st).countCe 0x124 (if st = stOk then 4 else 0)) s

end State

/-! ### The frames of widening (R324) -/

/-- CSU_UNITS of a cluster (R253). -/
def State.csuUnits (s : State) (k : Nat) : Nat := bits (s.cluster k).cfg 5 0

/-- The cluster that widens a GATHER in execution, and the frames that its narrow data fill (R324). -/
def DRun.stages (r : DRun) : Nat × Nat :=
  let f := dFields r.desc
  if f.op = 4 then (f.widenCl, (f.len + 255) / 256) else (0, 0)

/-- Frames of cluster `k` that hold narrow images: at most one core block of them (R324). -/
def State.widenFrames (s : State) (k : Nat) : Nat :=
  144 ⊓ ((s.coll.ces.flatMap fun c => c.2.lists.flatMap fun l => l.2.runs.map fun r =>
    if r.stages.1 = k then r.stages.2 else 0).sum)

/-- Frames of cluster `k` that prefetch may hold: those that widening does not (R253, R324). -/
def State.frameRoom (s : State) (k : Nat) : Nat := 256 * s.csuUnits k - s.widenFrames k

/-- The frames that widening needs are its own: prefetch has given up those that it takes ahead of it. A frame in the window of an
active stream is never evicted (R253), and is waited for. -/
def State.framesReady (s : State) (f : DFields) : Bool :=
  decide (f.op ≠ 4 ∨ (s.csu f.widenCl).lines.length ≤ s.frameRoom f.widenCl)

/-! ### Lists (R293, R294) -/

namespace State

/-- Completes a descriptor: widening, group, notify, STATUS, and the list's progress. -/
def finishDesc (s : State) (h k id : Nat) : State :=
  match s.drun h k id with
  | none => s
  | some r =>
    let f := dFields r.desc
    let s := if f.op = 4 ∧ r.status = stOk then s.widenAll h k id f (r.got.flatMap (·.2)) else s
    let st := match s.drun h k id with
      | some r => r.status
      | none => r.status
    let s := if f.op = 4 ∧ st ≠ stOk ∧ st ≠ stBadParam then
        (s.poisonGather h f).countCe 0x120 (if st = stVersionMismatch then 1 else 0) else s
    let s := if f.cgEn ∧ (f.op = 1 ∨ f.op = 2) then
        (s.updCg f.group fun c => { c with done := c.done + 1 }).checkGroup f.group else s
    match s.notifyEnd h f.note st with
    | (st, s) =>
      let s := (s.writeMem (viaCe h) .w (r.addr + 14) (leBytes 2 st.toNat)).2
      s.updList h k fun l =>
        let l := { l with runs := l.runs.filter fun x => decide (x.id ≠ id), lastBad := if st = stOk then l.lastBad else st }
        if l.owed ≠ 0 ∧ l.next = l.len ∧ !(l.runs.any fun x => !x.stale) then
          { l with owed := l.owed - 1, done := l.done + 1, next := 0 }
        else l

/-- Completes a descriptor of which no packet is awaited; a GATHER waits for the frames of its widening. -/
def endDesc (s : State) (h k id : Nat) : State :=
  match s.drun h k id with
  | some r => if r.left = 0 ∧ (r.status ≠ stOk ∨ s.framesReady (dFields r.desc)) then s.finishDesc h k id else s
  | none => s

/-- The GATHERs of a list that waited for frames complete where they have come. -/
def endGathers (s : State) (h k : Nat) : State := ((s.ce h).list k).runs.foldl (fun s r => s.endDesc h k r.id) s

/-! ### Dropping a contributor (R306) -/

/-- The RETRACT of a packet that a group has sent: the same blocks, re-read, negated, with the negated count. -/
def retractOne (s : State) (g : Nat) (p : SentBlocks) : State :=
  match s.jobFor p.ljob.toNat with
  | none => s
  | some j =>
    let form := p.form.toNat
    let b0 := (p.local_.toNat - (s.job j).buf) / formBytes (s.job j).form
    let r := (List.range p.blocks).foldl (fun (a : List MB × Nat × State) i =>
      match a.2.2.localBlock p.half.toNat j (b0 + i) form with
      | (bs, _, _, s) => let n := negateBlock form bs; (a.1 ++ n.1, a.2.1 + n.2.sat, s)) ([], 0, s)
    let x : W32 := -p.count
    let q := (mkReq (opRetract + BitVec.ofNat 8 form) p.dev p.cls p.remote.toNat).withData r.1
    let q := { q with h := { q.h with job := p.job, seq := x, count := clampCount x } }
    (((r.2.2.want q (.retract (BitVec.ofNat 3 g))).updCg g fun c => { c with retracts := c.retracts + 1 }).countCe 0x104 1).countCe
      0x130 r.2.1

/-- An RACC packet of group `g` that has been taken up and could not be sent. -/
def unsent (s : State) (g : Nat) (w : Waiting) : Bool :=
  w.late && decide (0x10 ≤ w.pkt.op.toNat ∧ w.pkt.op.toNat < 0x14) &&
    (match w.who with
     | .desc h k id _ => (s.drun h.toNat k.toNat id).any fun r => decide ((dFields r.desc).group = g)
     | _ => false)

/-- Without the last packet that went out for an issuer: a descriptor's number is taken anew once it has ended. -/
def dropLast (who : Issuer) (l : List SentBlocks) : List SentBlocks := (l.reverse.eraseP fun p => decide (p.who = who)).reverse

/-- The RACC packets of a group that are still to be sent, or to be sent again after a BUSY, are not: neither they nor their retractions
go out, and those never sent are not counted. -/
def withhold (s : State) (g : Nat) : State :=
  let gone := s.fab.waiting.filter (s.unsent g)
  let s := { s with fab := { s.fab with waiting := s.fab.waiting.filter fun w => !s.unsent g w } }
  let s := s.updCg g fun c => { c with sent := gone.foldl (fun l w => dropLast w.who l) c.sent }
  let s := s.countCe 0x100 ((2 ^ 32 - 1) * (gone.filter fun w => !w.went).length)
  gone.foldl (fun s w =>
    match w.who with
    | .desc h k id _ => s.updDrun h.toNat k.toNat id fun r => { r with left := r.left - 1 }
    | _ => s) s

/-- Descriptors of which nothing is awaited any more end. -/
def endAll (s : State) (ws : List Waiting) : State :=
  ws.foldl (fun s w =>
    match w.who with
    | .desc h k id _ => s.endDesc h.toNat k.toNat id
    | _ => s) s

/-- A close group becomes DROPPED: it sends no more, and every packet it has sent is retracted. -/
def dropGroup (s : State) (g : Nat) : State :=
  if (s.cg g).dropped then s
  else
    let gone := s.fab.waiting.filter (s.unsent g)
    let s := s.withhold g
    let sent := (s.cg g).sent
    let s := (s.updCg g fun c => { c with st := if sent.isEmpty then 1 else 2, dropped := true, used := true, sent := [] }).countCe 0x110 1
    ((sent.foldl (fun s p => s.retractOne g p) s).endAll gone).checkGroup g

/-- The VOID for the blocks of a packet answered ABORTED (R308). The first block is the owner's index; where the owner is
another Triat its buffer's address is not known here, and the index is a free value (log entry 5). -/
def sendVoid (s : State) (g : Option (BitVec 3)) (req : Pkt) : State :=
  let form := (req.op.toNat - (if req.op.toNat < 0x14 then 0x10 else 0x14)) % 4
  let fb := formBytes form
  let own := match s.jobFor req.h.job.toNat with
    | some j => if req.h.dstDev = s.fab.devId then some ((req.h.addr.toNat - (s.job j).buf) / fb) else none
    | none => none
  let arg0 : W32 := match own with
    | some b => w32 b
    | none => lo32 (Config.free64 s.fresh)
  let body : CloseBody := { step := s.coll.commit.step, arg0 := arg0, arg1 := w32 (req.h.len.toNat / fb) }
  let s := { s with fresh := s.fresh + (if own.isNone then 1 else 0) }
  let s := match g with
    | some g => s.updCg g.toNat fun c => { c with voids := c.voids + 1 }
    | none => s
  (s.want (closePkt 2 req.h.dstDev req.h.cls req.h.job 0 false body) (.void g)).countCe 0x108 1

/-! ### SEND (R305) -/

/-- The blocks gathered for the next packet: first block, count and bytes. -/
structure Gathered where
  first : Nat
  n : Nat
  count : W32
  bytes : List MB
  deriving DecidableEq, Repr

/-- Sends the gathered blocks as one RACC packet. -/
def sendBlocks (s : State) (h k id j : Nat) (f : DFields) (a : Option Gathered) : State :=
  match a with
  | none => s
  | some a =>
    let fb := formBytes f.form
    let off := a.first * fb
    let q := (mkReq (opRacc + BitVec.ofNat 8 f.form) f.dev (BitVec.ofNat 3 f.cls) (f.remote + off)).withData a.bytes
    let q := { q with h := { q.h with job := f.job, seq := a.count, count := clampCount a.count } }
    let p : SentBlocks :=
      { half := BitVec.ofNat 1 h, dev := f.dev, cls := BitVec.ofNat 3 f.cls, job := f.job, ljob := BitVec.ofNat 8 f.ljob,
        form := BitVec.ofNat 2 f.form, local_ := BitVec.ofNat 48 (f.local_ + a.first * formBytes (s.job j).form),
        remote := BitVec.ofNat 48 (f.remote + off), blocks := a.n, count := a.count,
        who := .desc (BitVec.ofNat 1 h) (BitVec.ofNat 4 k) id off }
    let s := (s.noteDesc h k id 1 stOk).updCg f.group fun c => { c with sent := c.sent ++ [p] }
    (s.want q (.desc (BitVec.ofNat 1 h) (BitVec.ofNat 4 k) id off)).countCe 0x100 1

/-- Scans blocks from `b` on and sends them, a packet ending where the count changes or the payload is full. Once a bad block drops the
group nothing more is sent (R306), also not what had been gathered. -/
def scanBlocks (s : State) (h k id j base : Nat) (f : DFields) : Nat → Nat → Option Gathered → State
  | 0, _, a => s.sendBlocks h k id j f a
  | n + 1, b, a =>
    match s.localCount h j (base + b) with
    | (count, stc, s) =>
      if stc ≠ stOk ∨ count.toInt ≤ 0 then
        ((s.sendBlocks h k id j f a).noteDesc h k id 0 stc).scanBlocks h k id j base f n (b + 1) none
      else
        match s.localBlock h j (base + b) f.form with
        | (bs, st, bad, s) =>
          if st ≠ stOk then ((s.sendBlocks h k id j f a).noteDesc h k id 0 st).scanBlocks h k id j base f n (b + 1) none
          else if bad then
            let t := s.sendBlocks h k id j f a
            match (s.job j).policy with
            | 0 => s.dropGroup f.group
            | 1 => (t.updJob j fun e => { e with bad := e.bad + 1 }).scanBlocks h k id j base f n (b + 1) none
            | _ => (t.updCommit fun c => { c with abortOwn := true }).scanBlocks h k id j base f n (b + 1) none
          else
            match a with
            | some g =>
              if g.count = count ∧ (g.n + 1) * formBytes f.form ≤ 4096 then
                s.scanBlocks h k id j base f n (b + 1) (some { g with n := g.n + 1, bytes := g.bytes ++ bs })
              else
                (s.sendBlocks h k id j f a).scanBlocks h k id j base f n (b + 1)
                  (some { first := b, n := 1, count := count, bytes := bs })
            | none => s.scanBlocks h k id j base f n (b + 1) (some { first := b, n := 1, count := count, bytes := bs })

/-- LAST on the first of the packets that `mine` picks. -/
def markFirst (mine : Waiting → Bool) : List Waiting → List Waiting
  | [] => []
  | w :: t => if mine w then { w with pkt := { w.pkt with h := { w.pkt.h with last := true } } } :: t else w :: markFirst mine t

/-- LAST on the last packet that a descriptor has put to wait (R281). -/
def markLast (s : State) (h k id : Nat) : State :=
  let mine (w : Waiting) : Bool := match w.who with
    | .desc h' k' id' _ => decide (h'.toNat = h ∧ k'.toNat = k ∧ id' = id)
    | _ => false
  { s with fab := { s.fab with waiting := (markFirst mine s.fab.waiting.reverse).reverse } }

/-- The local job of a descriptor and the index of its first block: LOCAL lies at a block of LJOB's buffer, and so do the LEN
blocks from it. -/
def localRange (s : State) (f : DFields) : Option (Nat × Nat) :=
  match s.jobFor f.ljob with
  | none => none
  | some j =>
    let e := s.job j
    let fb := formBytes e.form
    if e.buf ≤ f.local_ ∧ (f.local_ - e.buf) % fb = 0 ∧ (f.local_ - e.buf) / fb + f.len ≤ e.blocks.toNat then
      some (j, (f.local_ - e.buf) / fb)
    else none

def beginSend (s : State) (h k id : Nat) (f : DFields) : State :=
  let s := s.useGroup f.group
  if !s.hasMsa then s.noteDesc h k id 0 stNotPresent
  else if (s.cg f.group).dropped then s
  else
    match s.localRange f with
    | none => s.noteDesc h k id 0 stBadParam
    | some (j, b) =>
      let lf := (s.job j).form
      if (lf = f.form ∧ lf ≠ 2) ∨ (lf = 0 ∧ f.form = 2) then (s.scanBlocks h k id j b f f.len 0 none).markLast h k id
      else s.noteDesc h k id 0 stBadParam

/-! ### PASS (R310) -/

/-- A BX16 block with RESCALED clear, and whether it was set. -/
def clearRescaled (b : List MB) : List MB × Bool :=
  let fl := nth {} b 65
  (b.take 65 ++ [{ fl with b := fl.b &&& 0xFB }] ++ b.drop 66, fl.b.getLsbD 2)

/-- WRITE packets of a descriptor: bytes at offset 0 of REMOTE, LAST on the last. -/
def writePieces (s : State) (h k id : Nat) (f : DFields) (bs : List MB) : List (Nat × Nat) → State
  | [] => s
  | (o, n) :: rest =>
    let p := (mkReq opWrite f.dev (BitVec.ofNat 3 f.cls) (f.remote + o)).withData ((bs.drop o).take n)
    let p := { p with h := { p.h with last := rest.isEmpty } }
    ((s.noteDesc h k id 1 stOk).want p (.desc (BitVec.ofNat 1 h) (BitVec.ofNat 4 k) id o)).writePieces h k id f bs rest

def beginPass (s : State) (h k id : Nat) (f : DFields) : State :=
  let s := s.useGroup f.group
  match s.localRange f with
  | none => s.noteDesc h k id 0 stBadParam
  | some (j, b) =>
    let e := s.job j
    match s.readMem (viaCe h) .r f.local_ (f.len * formBytes e.form) with
    | (bs, st, s) =>
      match s.readMem (viaCe h) .r (e.cnt + 4 * b) (4 * f.len) with
      | (cs, st', s) =>
        if st ≠ stOk ∨ st' ≠ stOk then s.noteDesc h k id 0 (if st = stOk then st' else st)
        else
          let rs := (chunk 72 bs).map clearRescaled
          let out := if e.form = 2 then rs.flatMap (·.1) else bs
          let raised := if e.form = 2 then (rs.filter (·.2)).length else 0
          let s := s.updJob j fun e => { e with rescales := e.rescales + w32 raised }
          s.writePieces h k id f (out ++ cs) (pieces 4096 (out ++ cs).length)

/-! ### CLOSE (R314) -/

def beginClose (s : State) (h k id : Nat) (f : DFields) : State :=
  let c := s.cg f.group
  let dropped := f.hold && c.dropped
  let net : W32 := if dropped then 0 else f.ccount.signExtend 32
  let body : CloseBody := { dropped := dropped, step := s.coll.commit.step, arg0 := net }
  let count : Byte := if -128 ≤ net.toInt ∧ net.toInt ≤ 127 then BitVec.ofInt 8 net.toInt else 0
  let s := if f.hold then s.updCg f.group fun c => { c with closes := c.closes + 1 } else s
  (s.noteDesc h k id 1 stOk).want (closePkt 1 f.dev (BitVec.ofNat 3 f.cls) f.job count false body)
    (.desc (BitVec.ofNat 1 h) (BitVec.ofNat 4 k) id 0)

/-! ### GATHER (R323 to R325) -/

def gatherPieces (s : State) (h k id : Nat) (f : DFields) : List (Nat × Nat) → State
  | [] => s
  | (o, n) :: rest =>
    let p := mkReq opGather f.dev (BitVec.ofNat 3 f.cls) (f.remote + o)
    let p := { p with h := { p.h with job := f.job, len := BitVec.ofNat 13 n, last := rest.isEmpty } }
    ((s.noteDesc h k id 1 stOk).want p (.desc (BitVec.ofNat 1 h) (BitVec.ofNat 4 k) id o)).gatherPieces h k id f rest

def beginGather (s : State) (h k id : Nat) (f : DFields) : State :=
  if s.csuUnits f.widenCl = 0 then s.noteDesc h k id 0 stBadParam
  else s.gatherPieces h k id f (pieces 4088 f.len)

/-- A response's version against the descriptor's mode (R323): accepted, older, or a mismatch. A record of which any part reads poisoned
is a mismatch (R172). -/
def versionCheck (s : State) (h : Nat) (f : DFields) (v : W32) : Option Bool × State :=
  if !f.exact then
    (if v = s.coll.commit.cver then some true else if v < s.coll.commit.cver then none else some false, s)
  else
    let r := (List.range f.verN).foldl (fun (a : Bool × State) i =>
      match a.2.readMem (viaCe h) .r (f.verAddr + 64 * i) 64 with
      | (bs, st, s) => (a.1 && decide (st = stOk) && !anyPoison bs && decide (bitsOf 32 ((bs.drop 12).take 4) = v), s)) (true, s)
    (some r.1, r.2)

/-! ### Starting (R294) -/

/-- What a descriptor does at its start. -/
def beginDesc (s : State) (h k id : Nat) (f : DFields) : State :=
  match f.op with
  | 1 => s.beginSend h k id f
  | 2 => s.beginPass h k id f
  | 3 => s.beginClose h k id f
  | _ => s.beginGather h k id f

/-- Starts the next descriptor of the occurrence in service if its OP is `op` (R294). A CLOSE with HOLD waits for its group. -/
def startDesc (s : State) (h k op : Nat) : State :=
  let l := (s.ce h).list k
  if !(s.ceRuns h && bit l.ctrl 31 && decide (l.owed ≠ 0 ∧ l.next < l.len ∧ l.runs.length < 8)) then s
  else
    let a := addr48 l.baseLo l.baseHi + 64 * l.next.toNat
    match s.readMem (viaCe h) .r a 64 with
    | (bs, st, t) =>
      let st := if st = stOk ∧ anyPoison bs then stPoisoned else st
      let d : BitVec 512 := if st = stOk then bitsOf 512 bs else 0
      let f := dFields d
      let t := if st = stOk ∧ f.op = 3 ∧ f.hold then t.useGroup f.group else t
      let held := decide (st = stOk ∧ f.op = 3 ∧ f.hold = true ∧ (t.cg f.group).st ≠ 3)
      if (st = stOk ∧ f.op ≠ op ∧ 1 ≤ f.op ∧ f.op ≤ 4) ∨ held then s
      else
        let st := if st = stOk ∧ f.bad then stBadParam else st
        let id := (l.runs.map (·.id)).foldl Nat.max 0 + 1
        let run : DRun := { id := id, addr := a, desc := d, status := st }
        let t := t.updList h k fun l => { l with next := l.next + 1, runs := l.runs ++ [run] }
        (if st = stOk then t.beginDesc h k id f else t).endDesc h k id

/-- An answer to a packet of a descriptor (R305 to R311, R323). `true`: the request is to be resent. -/
def settleDesc (s : State) (h k id o : Nat) (req : Pkt) (st : Status) (data : List MB) : Bool × State :=
  match s.drun h k id with
  | none => (false, s)
  | some r =>
    let f := dFields r.desc
    let settled (s : State) (st : Status) : Bool × State :=
      (false, ((s.noteDesc h k id 0 st).updDrun h k id fun r => { r with left := r.left - 1 }).endDesc h k id)
    match f.op with
    | 1 => settled (if st = stAborted then s.sendVoid (some (BitVec.ofNat 3 f.group)) req else s) st
    | 3 => settled (if f.hold then s.updCg f.group fun c => { c with closes := c.closes - 1 } else s) st
    | 4 =>
      if st ≠ stOk then settled s st
      else
        match s.versionCheck h f (bitsOf 32 (data.take 4)) with
        | (none, s) => (true, s.countCe 0x11C 1)
        | (some true, s) => settled (s.updDrun h k id fun r => { r with got := SMap.put r.got o (some (data.drop 8)) }) stOk
        | (some false, s) => settled s stVersionMismatch
    | _ => settled s st

/-- An answer to a retraction of a group (R306, R308). -/
def settleRetract (s : State) (g : Nat) (req : Pkt) (st : Status) : State :=
  let s := if st = stAborted then s.sendVoid (some (BitVec.ofNat 3 g)) req else s
  (s.updCg g fun c => { c with retracts := c.retracts - 1 }).checkGroup g

end State

end Sys2Proof.Machine
end

