-- ==== Sys2Proof/Machine/Secure.lean ====
section
/-! DEFINITION. Securing state (R330 to R348): fate checks, a holder's checks of what it receives, an owner's epochs, rebuilds,
and the miller's estimates. -/

namespace Sys2Proof.Machine

open Sys2Proof

/-! ### Fate domains (R334 to R336) -/

/-- Domain k of 0 FEED, 1 LOOP, 2 TRAY, 3 RACK differs: an unknown one counts as equal. -/
def domainDiffers (a b : BitVec 64) (k : Nat) : Bool :=
  let x := bits a (16 * k + 15) (16 * k)
  let y := bits b (16 * k + 15) (16 * k)
  decide (x ≠ 0xFFFF ∧ y ≠ 0xFFFF ∧ x ≠ y)

namespace State

/-- A device's domains; one that is in no table is unknown. -/
def fateOf (s : State) (d : DevId) : BitVec 64 :=
  if d = s.fab.devId then s.sec.own else (SMap.get none s.sec.fates d.toNat).getD 0xFFFFFFFFFFFFFFFF

/-- R335: the pairing conflicts. -/
def fateConflict (s : State) (mirror : Bool) (partner : DevId) (group : List DevId) : Bool :=
  if mirror then !((List.range 4).all (domainDiffers s.sec.own (s.fateOf partner)))
  else
    (List.range group.length).any fun i => (List.range i).any fun j =>
      let a := s.fateOf (nth 0 group i)
      let b := s.fateOf (nth 0 group j)
      !(domainDiffers a b 0 && domainDiffers a b 2)

end State

/-! ### Entries (R331, R332) -/

/-- The method in force (R332): 1 MIRROR, 2 PARITY_EPOCH, 3 PARITY_CHANGE. -/
def resolveMethod (e : BitVec 512) : Nat :=
  let f := secFields e
  if f.method ≠ 0 then f.method
  else if f.format ∨ f.len < 2 ^ 26 then 1
  else if f.rare then 3 else 2

namespace SecFields

def mirror (f : SecFields) : Bool := decide (f.resolved = 1)
/-- Start of a generation of the HOLDER area, or of the target region of a REBUILD. -/
def area (f : SecFields) (g : Nat) : Nat := if f.role = 1 then f.local_ + g * f.len else f.local_
/-- The generation that the next epoch writes. -/
def workGen (f : SecFields) : Nat := 1 - f.sealedGen

end SecFields

/-- BYTES of a void SEAL (R340). -/
def voidBytes : W64 := 0xFFFFFFFFFFFFFFFF

/-- Data bytes of a source that are accepted in WORK_EPOCH; a packet of a spore copy that comes again, resent, counts once (R340). -/
def SecAux.accept (a : SecAux) (mirror : Bool) (src : DevId) (addr : VA) (n : Nat) : SecAux :=
  { a with accepted := SMap.upd 0 a.accepted (src.toNat * 2 ^ 48 + addr.toNat) fun k => if mirror then n else k + n }
def SecAux.acceptedFrom (a : SecAux) (src : DevId) : Nat :=
  ((a.accepted.filter fun e => decide (e.1 / 2 ^ 48 = src.toNat)).map (·.2)).sum

namespace State

/-- Entry `i`, none at or above SEC_COUNT. -/
def entryAt (s : State) (i : Nat) : BitVec 512 × State := if i < s.sec.count.toNat then s.secEntry i else (0, s)

/-- Rewrites an entry. -/
def modSecEntry (s : State) (i : Nat) (f : BitVec 512 → BitVec 512) : State :=
  match s.secEntry i with
  | (e, s) => s.setSecEntry i (f e)

/-- SEC_EVENT (R364). -/
def secEvent (s : State) (sub entry : Nat) (dev : DevId) : State := s.notify 0x0009 [w32 sub, w32 entry, dev.setWidth 32]

/-- Copies bytes of local memory, marks included. -/
def copyMem (s : State) (src dst n : Nat) : Status × State :=
  match s.readMem (viaCe 0) .r src n with
  | (bs, st, s) =>
    match s.writeMem (viaCe 0) .w dst bs with
    | (st', s) => (if st = stOk then st' else st, s)

/-! ### The holder (R342) -/

/-- A parity holder's working generation takes the sealed one. -/
def restoreParity (s : State) (f : SecFields) (sealed : Nat) : State :=
  if f.role = 1 ∧ !f.mirror then (s.copyMem (f.area sealed) (f.area (1 - sealed)) f.len).2 else s

/-- Answers every SEAL that an entry holds back. -/
def releaseSeals (s : State) (i : Nat) (st : Status) : State :=
  let held := (s.secAux i).held
  let s := s.updSecAux i fun a => { a with held := [] }
  held.foldl (fun s x =>
    match x.port, x.who with
    | some n, _ => s.respond n.toNat x.pkt.op x.pkt.h { status := st }
    | none, some w => { s with fab := { s.fab with answers := s.fab.answers ++ [{ pkt := x.pkt, who := w, status := st }] } }
    | none, none => s) s

/-- A HOLDER or REBUILD entry abandons its open epoch: held SEALs are answered ABORTED, and the sealed generation stays. -/
def abandonHolder (s : State) (i : Nat) (f : SecFields) (dev : DevId) : State :=
  let s := s.releaseSeals i stAborted
  let s := s.updSecAux i fun a => { a with accepted := [], taking := false }
  let s := s.modSecEntry i fun e => setBits (setBits e 432 416 0) 383 368 stAborted.toNat
  (s.restoreParity f f.sealedGen).secEvent 4 i dev

/-- The source may send to the entry: the partner of a spore copy, a member of the group, or, for the mirror form of a REBUILD, which
names no source, any device. -/
def sourceOk (s : State) (i : Nat) (f : SecFields) (src : DevId) : Bool :=
  if f.mirror then decide (f.role = 2) || decide (src = f.partner)
  else (s.secAux i).group.contains src

/-- The sources that a HOLDER or REBUILD entry expects (R344): its group, its partner, or who has sent to it. -/
def sourcesOf (s : State) (i : Nat) (f : SecFields) : List DevId :=
  if !f.mirror then (s.secAux i).group
  else if f.role = 1 then [f.partner]
  else (s.secAux i).accepted.map fun x => BitVec.ofNat 16 (x.1 / 2 ^ 48)

/-- What an entry answers: at once, or with a SEAL that it holds back. -/
inductive PutAnswer where
  | now (st : Status)
  | held
  deriving DecidableEq, Repr

/-- The 64-byte sectors of a range that hold a poisoned byte. -/
def poisonedSectors (a : Nat) (bs : List MB) : Nat :=
  ((List.range bs.length).foldl (fun (l : List Nat) i =>
    if (nth {} bs i).p ∧ !(l.contains ((a + i) / 64)) then ((a + i) / 64) :: l else l) []).length

/-- The sectors of a range that are poisoned in memory. -/
def sectorsMarked (s : State) (v : Via) (acc : Access) (a n : Nat) : Nat :=
  let a0 := a / 64 * 64
  match s.readMem v acc a0 ((a + n + 63) / 64 * 64 - a0) with
  | (bs, st, _) => if st = stOk then poisonedSectors a0 bs else 0

/-- Writes DATA of a MIRROR_PUT, or XORs that of a PARITY_PUT into memory (R341); SEC_POISON_SECTORS counts the sectors left poisoned,
by the data or by a mark that a partial write does not clear (R53, R355). -/
def putData (s : State) (v : Via) (acc : Access) (parity : Bool) (a : Nat) (data : List MB) : Status × State :=
  match s.reach v acc a data.length with
  | (st, s) =>
    if st ≠ stOk then (st, s)
    else
      match (if parity then s.readMem v acc a data.length else (data, stOk, s)) with
      | (old, st, s) =>
        if st ≠ stOk then (st, s)
        else
          let bs := if parity then List.zipWith (fun (x y : MB) => (⟨x.b ^^^ y.b, x.p || y.p⟩ : MB)) old data else data
          match s.writeMem v acc a bs with
          | (st, s) => (st, s.countSec 0x114 (if st = stOk then s.sectorsMarked v acc a data.length else 0))

/-- SEAL of a source with all its bytes accepted. -/
def acceptSeal (s : State) (i : Nat) (f : SecFields) (member : Nat) : PutAnswer × State :=
  let mask := f.sealMask ||| 2 ^ member
  let sealedAt (s : State) (gen : Nat) : State := (s.updSecAux i fun a => { a with taking := false }).modSecEntry i fun e =>
    setBits (setBits (setBits (setBits e 351 320 f.workEpoch.toNat) 352 352 gen) 432 416 mask) 383 368 0
  if f.role = 2 then
    if f.k ≤ popcount 17 mask then (.now stOk, sealedAt s f.sealedGen)
    else (.now stOk, s.modSecEntry i fun e => setBits e 432 416 mask)
  else if f.mirror then (.now stOk, sealedAt s f.workGen)
  else if mask % 2 ^ f.k = 2 ^ f.k - 1 then
    let s := ((sealedAt s f.workGen).restoreParity f f.workGen).releaseSeals i stOk
    (.now stOk, s)
  else (.held, s.modSecEntry i fun e => setBits e 432 416 mask)

/-- What an entry does with a MIRROR_PUT or PARITY_PUT (R341, R342). `total` is BYTES of a SEAL. -/
def putEntry (s : State) (v : Via) (acc : Access) (parity : Bool) (h : FabHdr) (p : PutHead) (total : Option W64)
    (data : List MB) : PutAnswer × State :=
  let i := p.entry.toNat
  let member := p.member.toNat
  match s.entryAt i with
  | (e, s) =>
    let f := secFields e
    let gen := if p.gen then 1 else 0
    let inside := match total with
      | some _ => decide (h.addr.toNat = f.local_)
      | none => decide (f.area gen ≤ h.addr.toNat ∧ h.addr.toNat + data.length ≤ f.area gen + f.len)
    if !(f.valid && decide (f.role = 1 ∨ f.role = 2)) || (f.mirror == parity) || !s.sourceOk i f h.srcDev then
      (.now stDenied, s)
    else if !inside || decide (gen ≠ f.workGen) then (.now stDenied, s)
    else if f.role = 2 ∧ (s.secAux i).begun ∧ p.epoch ≠ f.workEpoch then
      (.now stDenied, s.modSecEntry i fun e => setBits e 383 368 stVersionMismatch.toNat)
    else if f.role = 1 ∧ p.epoch < f.workEpoch then (.now stDenied, s)
    else
      let fresh := if f.role = 1 then decide (f.workEpoch < p.epoch) else !(s.secAux i).begun
      let s := if fresh then
          let s := (s.releaseSeals i stAborted).updSecAux i fun a => { a with accepted := [], taking := true, begun := true }
          let s := s.modSecEntry i fun e => setBits (setBits e 415 384 p.epoch.toNat) 432 416 0
          s.restoreParity f f.sealedGen
        else s
      let f := if fresh then { f with workEpoch := p.epoch, sealMask := 0 } else f
      if fresh && decide (f.role = 1) && parity then (.now stBusy, s)
      else
        match total with
        | none =>
          match s.putData v acc parity h.addr.toNat data with
          | (st, s) =>
            if st = stOk then
              (.now stOk, (s.updSecAux i (·.accept f.mirror h.srcDev h.addr data.length)).updSecAux i fun a => { a with taking := true })
            else (.now st, s)
        | some n =>
          if n = voidBytes then (.now stAborted, s.abandonHolder i f h.srcDev)
          else if n.toNat ≠ (s.secAux i).acceptedFrom h.srcDev then (.now stBadParam, s)
          else (s.updSecAux i fun a => { a with taking := true }).acceptSeal i f member

/-- An answer of an entry: an epoch or rebuild that a device on the down list has a part in is abandoned, whenever it is opened (R344). -/
def putChecked (s : State) (i : Nat) (a : PutAnswer) : PutAnswer × State :=
  match s.entryAt i with
  | (e, s) =>
    let f := secFields e
    match (if (s.secAux i).taking then (s.sourcesOf i f).find? s.isDown else none) with
    | none => (a, s)
    | some d => (if a = .held then .now stAborted else a, s.abandonHolder i f d)

/-- Serves MIRROR_PUT and PARITY_PUT at an entry. -/
def servePut (s : State) (v : Via) (acc : Access) (parity : Bool) (h : FabHdr) (p : PutHead) (total : Option W64)
    (data : List MB) : PutAnswer × State :=
  match s.putEntry v acc parity h p total data with
  | (a, s) => s.putChecked p.entry.toNat a

/-- Holds back the answer to a SEAL. -/
def holdSeal (s : State) (i : Nat) (x : HeldSeal) : State := s.updSecAux i fun a => { a with held := a.held ++ [x] }

end State

/-! ### The owner (R338 to R340) -/

/-- The 8 bytes that stand before the data (R341). -/
def putPrefix (p : PutHead) (isSeal : Bool) : List MB :=
  leBytes 4 (p.entry.toNat + (if isSeal then 2 ^ 10 else 0) + (if p.gen then 2 ^ 12 else 0) + p.member.toNat * 2 ^ 14) ++
    leBytes 4 p.epoch.toNat

/-- A MIRROR_PUT or PARITY_PUT packet. -/
def putPkt (parity : Bool) (dev : DevId) (cls : BitVec 3) (addr : Nat) (p : PutHead) (isSeal : Bool) (body : List MB) : Pkt :=
  (mkReq (if parity then opParity else opMirror) dev cls addr).withData (putPrefix p isSeal ++ body)

/-- EPOCH of a MIRROR_PUT or PARITY_PUT packet. -/
def putEpoch (p : Pkt) : W32 := bitsOf 32 ((p.payload.drop 4).take 4)

namespace State

/-- The owner's prefix in the open epoch. -/
def ownHead (s : State) (f : SecFields) : PutHead :=
  { entry := BitVec.ofNat 10 f.remoteEntry, gen := decide (f.workGen = 1), member := BitVec.ofNat 5 f.member, epoch := s.sec.epoch }

/-- Abandons an OWNER entry that takes part in the open epoch (R340). -/
def abandonEntry (s : State) (i : Nat) : State :=
  if (s.secAux i).joined then
    match s.secEntry i with
    | (e, s) =>
      let s := s.updSecAux i fun a => { a with joined := false, torn := false, left := 0 }
      let s := s.setSecEntry i (setBits e 383 368 stAborted.toNat)
      (s.countSec 0x104 1).secEvent 4 i (secFields e).partner
  else s

/-- Sends the SEAL of an entry, or the void SEAL of one that is torn. -/
def sendSeal (s : State) (i : Nat) (f : SecFields) : State :=
  let a := s.secAux i
  let n : W64 := if a.torn then voidBytes else BitVec.ofNat 64 a.bytes
  s.want (putPkt (!f.mirror) f.partner 6 f.remote (s.ownHead f) true (leBytes 8 n.toNat)) (.secSeal (BitVec.ofNat 10 i))

/-- Sends DATA packets of `bs`, which stand at `addr` in the destination area; LAST on the last (R281). -/
def sendData (s : State) (parity : Bool) (dev : DevId) (cls : BitVec 3) (addr : Nat) (p : PutHead) (who : Issuer) (bs : List MB) :
    State :=
  (pieces 4088 bs.length).foldl (fun s e =>
    let q := putPkt parity dev cls (addr + e.1) p false ((bs.drop e.1).take e.2)
    s.want { q with h := { q.h with last := decide (e.1 + e.2 = bs.length) } } who) s

/-- The packets of a length. -/
def pieceCount (n : Nat) : Nat := (n + 4087) / 4088

/-- An OWNER entry's part in an epoch begins (R340). -/
def beginEntry (s : State) (i : Nat) : State :=
  match s.entryAt i with
  | (e, s) =>
    let f := secFields e
    if !(f.valid && decide (f.role = 0)) then s
    else
      let s := s.updSecAux i fun a => { a with joined := true, left := 0, bytes := 0, torn := false }
      if s.isDown f.partner then s.abandonEntry i
      else if f.resolved = 3 ∧ !f.dirty then s.sendSeal i f
      else
        match s.readMem (viaCe 0) .r f.local_ f.len with
        | (bs, st, s) =>
          match (if f.mirror then (([] : List MB), stOk, s) else s.readMem (viaCe 0) .r f.held f.len) with
          | (hs, st', s) =>
            if st ≠ stOk ∨ st' ≠ stOk then s.abandonEntry i
            else
              let out := if f.mirror then bs
                else List.zipWith (fun (x y : MB) => (⟨x.b ^^^ y.b, x.p || y.p⟩ : MB)) bs hs
              let s := s.updSecAux i fun a => { a with left := pieceCount f.len, bytes := f.len }
              (s.sendData (!f.mirror) f.partner (BitVec.ofNat 3 f.cls) (f.remote + f.workGen * f.len) (s.ownHead f)
                (.secData (BitVec.ofNat 10 i)) out).countSec 0x110 (f.len / 4096)

/-- The entries that still take part in the open epoch (SEC_STATUS.OPEN). -/
def openEntries (s : State) : Nat := (s.sec.aux.filter fun e => e.2.joined).length

/-- Some SHARD job is COMMITTING. -/
def shardCommitting (s : State) : Bool := (List.range 64).any fun j => (s.job j).shard && decide ((s.job j).st = jobCommitting)

/-- An epoch starts (R338). -/
def startEpoch (s : State) : State :=
  match s.sec.due with
  | none => s
  | some m =>
    if s.shardCommitting then s
    else
      let next := m + BitVec.ofNat 64 (s.sec.period.toNat * 2 ^ 20)
      let s := { s with sec := { s.sec with epoch := s.sec.epoch + 1, next := next, due := none, open_ := true,
                                            hold := 0, busy := 0 } }
      (List.range s.sec.count.toNat).foldl (fun s i => s.beginEntry i) s

/-- An answer to a DATA packet of an epoch (R340). `true`: it is to be resent. -/
def settleData (s : State) (i : Nat) (req : Pkt) (st : Status) : Bool × State :=
  if !(s.secAux i).joined ∨ putEpoch req ≠ s.sec.epoch then (false, s)
  else
    match s.entryAt i with
    | (e, s) =>
      let f := secFields e
      let less (s : State) : State := s.updSecAux i fun a => { a with left := a.left - 1 }
      let last (s : State) : State := if (s.secAux i).left = 0 then s.sendSeal i f else s
      if st = stOk then (false, last (less s))
      else if !f.mirror then (false, last ((less s).updSecAux i fun a => { a with torn := true }))
      else if st = stAborted ∧ !s.isDown f.partner then (true, s)
      else (false, s.abandonEntry i)

/-- The answer to an epoch's SEAL (R340). -/
def settleSeal (s : State) (i : Nat) (req : Pkt) (st : Status) : State :=
  if !(s.secAux i).joined ∨ putEpoch req ≠ s.sec.epoch then s
  else if st ≠ stOk then s.abandonEntry i
  else
    match s.entryAt i with
    | (e, s) =>
      let f := secFields e
      let s := if f.mirror then s else (s.copyMem f.local_ f.held f.len).2
      let e := setBits (setBits (setBits (setBits e 351 320 s.sec.epoch.toNat) 352 352 f.workGen) 11 11 0) 383 368 0
      let e := if f.mirror then e else setBits e 353 353 1
      (s.setSecEntry i e).updSecAux i fun a => { a with joined := false }

/-! ### Estimates and the end of an epoch (R339, R343) -/

/-- T in turns: the square root of 2 C M, rounded to nearest and limited. -/
def tProp (cost mtbi : Nat) : Nat :=
  let x := 2 * cost * mtbi
  let n := isqrt (x / 2 ^ 20)
  let n := if (n * n + n) * 2 ^ 20 + 2 ^ 18 ≤ x then n + 1 else n
  Nat.max 256 (Nat.min (2 ^ 31) n)

def updT (s : State) : State := { s with sec := { s.sec with tprop := w32 (tProp s.sec.cost s.sec.mtbi.toNat) } }

/-- A counted interruption at a shaft count (R343). -/
def countInterruption (s : State) (at_ : W64) : State :=
  match s.sec.lastInt with
  | none => { s with sec := { s.sec with lastInt := some at_ } }
  | some l =>
    let d : Int := ((at_ - l).toNat / 2 ^ 20 : Nat)
    let m : Int := s.sec.mtbi.toNat
    ({ s with sec := { s.sec with lastInt := some at_, mtbi := BitVec.ofInt 32 (m + (d - m) / 8) } }).updT

/-- The gate token (R339). -/
def sendGate (s : State) : State :=
  let g := s.sec.gate
  if bit g 31 then (s.ceTokens 0 (g.extractLsb' 0 12) (g.extractLsb' 12 3) 1).2 else s

/-- The optimiser's token of a job (R320). -/
def sendOptToken (s : State) (j : Nat) : State :=
  let o := (s.job j).opt
  (s.ceTokens 0 (o.extractLsb' 0 12) (o.extractLsb' 12 3) 1).2

/-- An open epoch without entries left completes. -/
def endEpoch (s : State) : State :=
  if s.sec.open_ ∧ s.openEntries = 0 then
    let ce : Int := (s.sec.hold + s.sec.weight.toNat * s.sec.busy / 256 : Nat)
    let c : Int := s.sec.cost
    let jobs := s.coll.heldJobs
    let s := { s with sec := { s.sec with open_ := false, cost := (c + (ce - c) / 4).toNat }, coll := { s.coll with heldJobs := [] } }
    let s := (s.updT).countSec 0x100 1
    let s := jobs.foldl (fun s j => s.sendOptToken j) s
    if s.sec.gateHeld then ({ s with sec := { s.sec with gateHeld := false } }).sendGate else s
  else s

/-! ### Rebuilds (R345) -/

/-- What SEC_REBUILD of an entry sends: the source's address and whether as PARITY_PUT; none: BAD_PARAM. -/
def rebuildSource (f : SecFields) : Option (Nat × Bool) :=
  if !f.valid then none
  else if f.role = 1 then some (f.area f.sealedGen, !f.mirror)
  else if f.role = 0 ∧ !f.mirror then some (f.held, true)
  else none

/-- The address of the target region: known for an entry of this Triat, else a free value (log entry 5). -/
def rebuildTarget (s : State) (dev : DevId) (entry : Nat) : Nat × State :=
  if dev = s.fab.devId then
    match s.entryAt entry with
    | (e, s) => ((secFields e).local_, s)
  else ((Config.free64 s.fresh).toNat % 2 ^ 48, { s with fresh := s.fresh + 1 })

/-- The prefix of an entry's rebuild packets: a region that is rebuilt takes generation 0, as a fresh pairing does (R331, R342). -/
def rebHead (r : RebRun) (f : SecFields) : PutHead :=
  { entry := r.entry, gen := false, member := r.member, epoch := f.sealedEpoch }

/-- Sends the DATA packets of the rebuild that an entry serves; where the source cannot be read the rebuild ends with the status. -/
def sendRebuild (s : State) (i : Nat) (r : RebRun) : Status × State :=
  match s.entryAt i with
  | (e, s) =>
    let f := secFields e
    match rebuildSource f with
    | none => (stBadParam, s)
    | some (src, parity) =>
      match s.readMem (viaCe 0) .r src f.len with
      | (bs, st, s) =>
        if st ≠ stOk then (st, s.updSecAux i fun a => { a with rebuild := none })
        else
          let s := s.updSecAux i fun a => { a with rebuild := some { r with waits := false } }
          (stOk, s.sendData parity r.dev r.cls r.base (rebHead r f) (.rebData (BitVec.ofNat 10 i)) bs)

/-- A rebuild begins: at once, but that a parity member waits for HELD_CURRENT. -/
def beginRebuild (s : State) (i : Nat) (dev : DevId) (entry : BitVec 10) (member : BitVec 5) (cls : BitVec 3) : Status × State :=
  match s.entryAt i with
  | (e, s) =>
    let f := secFields e
    if rebuildSource f = none then (stBadParam, s)
    else
      match s.rebuildTarget dev entry.toNat with
      | (base, s) =>
        let r : RebRun := { dev := dev, entry := entry, member := member, cls := cls, left := pieceCount f.len, bytes := f.len,
                            base := base }
        if f.role = 0 ∧ !f.heldCurrent then (stOk, s.updSecAux i fun a => { a with rebuild := some { r with waits := true } })
        else s.sendRebuild i r

/-- An answer to a DATA packet of a rebuild. -/
def settleRebData (s : State) (i : Nat) (st : Status) : State :=
  match (s.secAux i).rebuild with
  | none => s
  | some r =>
    match s.entryAt i with
    | (e, s) =>
      let f := secFields e
      let r := { r with left := r.left - 1, status := if r.status = stOk then st else r.status }
      let s := s.updSecAux i fun a => { a with rebuild := some r }
      if r.left ≠ 0 ∨ r.status ≠ stOk then s
      else
        s.want (putPkt (!f.mirror) r.dev 6 r.base (rebHead r f) true (leBytes 8 r.bytes)) (.rebSeal (BitVec.ofNat 10 i))

end State

end Sys2Proof.Machine
end

