-- ==== Sys2Proof/Machine/Commit.lean ====
section
/-! DEFINITION. Jobs and the step commit (R299, R309, R313 to R322): arming, CLOSE packets, the close scan, the commit tree and the
outcome; and the serving of GATHER. -/

namespace Sys2Proof.Machine

open Sys2Proof

namespace State

/-! ### Arming (R299) -/

/-- A job enters ARMING. -/
def armJob (s : State) (j : Nat) (zero : Bool) : State :=
  s.updJob j fun e => { e with st := jobArming, closes := 0, waived := 0, armFailed := false, scanned := false, stepAbort := false,
                               closeSum := 0, optRaised := false, armZero := zero }

/-- The zero blocks of a buffer, with their agreed exponents (R299). -/
def zeroBlocks (s : State) (e : Job) : List MB × State :=
  if e.form = 2 then
    match s.readMem (viaCe 0) .r e.expv e.blocks.toNat with
    | (xs, _, s) => (xs.flatMap fun x => zeroBlock 2 x.b.toNat x.p, s)
  else (zeroBytes (e.blocks.toNat * formBytes e.form), s)

/-- OPEN to CLOSED where enough CLOSEs are counted or waived. -/
def checkClosed (s : State) (j : Nat) : State :=
  s.updJob j fun e =>
    if e.st = jobOpen ∧ 1 ≤ e.expectClose ∧ e.expectClose ≤ e.closes.toNat + e.waived then { e with st := jobClosed } else e

/-- Arming ends (R299): OPEN, or FREE with ARM_FAILED where a range fails translation. A memory that turns the writes away for
another reason leaves the entry in ARMING. -/
def endArming (s : State) (j : Nat) : State :=
  let e := s.job j
  if e.st ≠ jobArming then s
  else
    let n := e.blocks.toNat
    match s.reach (viaCe 0) .w e.cnt (4 * n) with
    | (st, s) =>
      match (if e.armZero then s.reach (viaCe 0) .w e.buf (n * formBytes e.form) else (stOk, s)) with
      | (st', s) =>
        if st ≠ stOk ∨ st' ≠ stOk then s.updJob j fun e => { e with st := jobFree, armFailed := true }
        else
          match s.writeMem (viaCe 0) .w e.cnt (zeroBytes (4 * n)) with
          | (st, t) =>
            match (if e.armZero then
                (match t.zeroBlocks e with
                 | (z, t) => t.writeMem (viaCe 0) .w e.buf z)
              else (stOk, t)) with
            | (st', t) => if st ≠ stOk ∨ st' ≠ stOk then t else (t.updJob j fun e => { e with st := jobOpen }).checkClosed j

/-! ### CONTRIB and VOID (R299, R309, R313, R315) -/

/-- What a job's state answers to a CLOSE; none: it is counted. -/
def closeState (s : State) (j : Nat) : Option (Status × State) :=
  let st := (s.job j).st
  if st = jobOpen then none
  else if st = jobArming then some (stBusy, s)
  else if st = jobClosed then some (stDenied, s.countCe 0x114 1)
  else some (stDenied, s)

/-- The job that a CLOSE reaches, or its answer. -/
def closeJob (s : State) (h : FabHdr) (b : CloseBody) : Except (Status × State) Nat :=
  match s.jobFor h.job.toNat with
  | none => .error (stDenied, s)
  | some j =>
    match s.closeState j with
    | some r => .error r
    | none => if b.step = (s.job j).step then .ok j else .error (stDenied, s)

def serveContrib (s : State) (h : FabHdr) (b : CloseBody) : Status × State :=
  match s.closeJob h b with
  | .error r => r
  | .ok j => (stOk, (s.updJob j fun e => { e with closes := e.closes + 1, closeSum := e.closeSum + b.arg0 }).checkClosed j)

def serveVoid (s : State) (h : FabHdr) (b : CloseBody) : Status × State :=
  match s.closeJob h b with
  | .error r => r
  | .ok j =>
    let e := s.job j
    let n := b.arg1.toNat
    if n = 0 ∨ e.blocks.toNat < b.arg0.toNat + n then (stBadParam, s)
    else
      match s.writeWhole (viaCe 0) .w (e.cnt + 4 * b.arg0.toNat) ((List.range n).flatMap fun _ => leBytes 4 voidCount.toNat) with
      | (st, s) => if st = stOk then (stOk, s.countCe 0x10C 1) else (st, s)

/-! ### GATHER (R299, R322) -/

def serveGather (s : State) (v : Via) (acc : Access) (h : FabHdr) : Answer × State :=
  let n := h.len.toNat
  match s.jobFor h.job.toNat with
  | none => ({ status := stDenied }, s)
  | some j =>
    let e := s.job j
    if 4088 < n then ({ status := stBadParam }, s)
    else if !e.shard then ({ status := stDenied }, s)
    else if e.st = jobCommitting then ({ status := stBusy }, s)
    else
      match s.reach v acc h.addr.toNat n with
      | (st, s) =>
        if st ≠ stOk then ({ status := st }, s)
        else
          match s.readMem v acc h.addr.toNat n with
          | (bs, st, s) =>
            if st ≠ stOk then ({ status := st }, s)
            else ({ status := stOk, data := leBytes 4 e.version.toNat ++ leBytes 1 e.st.toNat ++ zeroBytes 3 ++ bs }, s)

/-! ### The close scan (R315) -/

/-- Sets a block's count to VOID, and counts it as dropped where `bad`; where the count cannot be written the step is aborted. -/
def voidBlock (s : State) (h j b : Nat) (bad : Bool) : State :=
  match s.writeVoid (viaCe h) .w ((s.job j).cnt + 4 * b) with
  | (st, s) =>
    if st ≠ stOk then s.updCommit fun c => { c with abortOwn := true }
    else if bad then s.updJob j fun e => { e with bad := e.bad + 1 } else s

/-- The next agreed exponent of a block of a BX16 sum; none: the present byte stays. -/
def nextExp (bs : List MB) : Option Nat :=
  let x := Bx.decode bs
  let vs := x.mant.map fun m => (x.value m).v
  if x.nonfin || x.poison || vs.all (·.isZero) then none else bxExp false vs 256 0

def scanBlock (s : State) (h j b : Nat) : State :=
  let e := s.job j
  match s.readMem (viaCe h) .r (e.cnt + 4 * b) 4 with
  | (cb, stc, s) =>
    if stc ≠ stOk then s.updCommit fun c => { c with abortOwn := true }
    else
      match s.readMem (viaCe h) .r (e.buf + b * formBytes e.form) (formBytes e.form) with
      | (bs, st, s) =>
        match (if e.form = 2 then s.reach (viaCe h) .w (e.expv + b) 1 else (stOk, s)) with
        | (st', s) =>
          let void := decide (countWord cb = voidCount)
          if st ≠ stOk ∨ st' ≠ stOk then s.voidBlock h j b true
          else if badBlock e.form bs then
            let s := if e.policy = 2 then s.updJob j fun e => { e with stepAbort := true } else s.voidBlock h j b true
            if anyPoison cb && decide (e.policy = 2) then s.voidBlock h j b false else s
          else
            let s := if anyPoison cb then s.voidBlock h j b false else s
            match (if e.form = 2 ∧ !void then nextExp bs else none) with
            | none => s
            | some k => (s.writeMem (viaCe h) .w (e.expv + b) (leBytes 1 k)).2

/-- The half that holds a job's BUF, whose CE scans it (R315); H0 where BUF does not translate. -/
def bufHalf (s : State) (j : Nat) : Nat :=
  match (s.resolve (viaCe 0) (s.job j).buf .r).1 with
  | .ok p _ => (s.place p).stack / 6
  | .bad _ => 0

def closeScan (s : State) (j : Nat) : State :=
  let e := s.job j
  let h := s.bufHalf j
  if e.st = jobClosed ∧ !e.scanned then
    ((List.range e.blocks.toNat).foldl (fun s b => s.scanBlock h j b) s).updJob j fun e => { e with scanned := true }
  else s

/-! ### The commit tree (R318, R319, R321) -/

/-- Entries with SHARD = 1, and those of them that are not FREE. -/
def shardEntries (s : State) : List Nat := (List.range 64).filter fun j => (s.job j).shard
def shards (s : State) : List Nat := (List.range 64).filter fun j => (s.job j).shard && decide ((s.job j).st ≠ jobFree)

/-- A CLOSE of group `g` with HOLD stands among the descriptors that an enabled list has still to start of the occurrence in service. -/
def closesLeft (s : State) (g : Nat) : Bool :=
  s.coll.ces.any fun c => c.2.lists.any fun e =>
    let l := e.2
    bit l.ctrl 31 && decide (l.owed ≠ 0) && ((List.range l.len.toNat).drop l.next.toNat).any fun i =>
      let f := dFields (bitsOf 512 (s.readMem (viaCe c.1) .r (addr48 l.baseLo l.baseHi + 64 * i) 64).1)
      decide (f.op = 3) && f.hold && decide (f.group = g)

/-- The conditions of R318. -/
def treeReady (s : State) : Bool :=
  let c := s.coll.commit
  (decide (c.st = 0) || decide (c.st = 4)) &&
    s.shardEntries.all (fun j => decide ((s.job j).st = jobClosed) && (s.job j).scanned) &&
    (List.range 8).all (fun g => let x := s.cg g; (!x.used || (decide (x.st = 3) && decide (x.closes = 0))) && !s.closesLeft g) &&
    decide (bits c.cfg 14 8 ≤ c.ups.toNat + c.waived)

/-- STEP_ABORT of this Triat's subtree. -/
def treeAbort (s : State) : Bool :=
  let c := s.coll.commit
  c.abortOwn || c.subAbort || s.shardEntries.any fun j => (s.job j).stepAbort

/-- Dropped contributors of this Triat's subtree. -/
def treeDrops (s : State) : W32 :=
  s.coll.commit.subDrops + w32 ((List.range 8).filter fun g => (s.cg g).dropped).length

def treeClass (s : State) : BitVec 3 := s.coll.commit.cfg.extractLsb' 4 3
def treeParent (s : State) : DevId := s.coll.commit.cfg.extractLsb' 16 16

/-- Sends an UP with the given STEP_ABORT, devices and drops. -/
def sendUp (s : State) (u : Bool × W32 × W32) : State :=
  let body : CloseBody := { step := s.coll.commit.step, arg0 := u.2.1, arg1 := u.2.2 }
  (s.updCommit fun c => { c with upWait := true }).want (closePkt 3 s.treeParent s.treeClass 0 0 u.1 body) .up

/-- UP goes to the parent when the conditions hold. -/
def upReady (s : State) : State :=
  if s.treeReady ∧ s.treeParent ≠ 0xFFFF then
    let u := (s.treeAbort, s.coll.commit.subDevs + 1, s.treeDrops)
    (s.updCommit fun c => { c with st := 1, drops := u.2.2, upOut := some u }).sendUp u
  else s

/-- DOWN to every recorded child (R319). -/
def sendDowns (s : State) : State :=
  let c := s.coll.commit
  let body : CloseBody := { step := c.step, mark := c.mark, cver := c.outCver }
  c.children.foldl (fun s d => s.want (closePkt 4 d s.treeClass 0 0 c.outAbort body) .down) s

/-- The first turn boundary at least `lead` turns after a shaft count. -/
def markAfter (count : W64) (lead : Nat) : W64 := BitVec.ofNat 64 ((count.toNat + lead * 2 ^ 20 + (2 ^ 20 - 1)) / 2 ^ 20 * 2 ^ 20)

/-- The root chooses the mark. -/
def rootMark (s : State) : State :=
  if s.treeReady ∧ s.treeParent = 0xFFFF then
    let abort := s.treeAbort
    let drops := s.treeDrops
    let m := markAfter s.sh.count (bits s.coll.commit.cfg 3 0)
    (s.updCommit fun c => { c with st := 2, mark := m, outAbort := abort, drops := drops,
                                   outCver := if abort then c.cver else c.cver + 1 }).sendDowns
  else s

/-! ### The outcome (R320, R338, R339) -/

/-- When every SHARD job has left COMMITTING the step is DONE and COMMIT_EVENT is raised. -/
def finishCommit (s : State) : State :=
  if s.coll.commit.st = 3 ∧ !s.shardCommitting then
    let s := s.updCommit fun c => { c with st := 4 }
    let ev := s.coll.commit.event
    if bit ev 12 then (s.raiseAt 0 (bits ev 11 0) 1).raiseAt 1 (bits ev 11 0) 1 else s
  else s

/-- An epoch falls due at an outcome without STEP_ABORT (R338). -/
def epochDue (s : State) (mark : W64) : State :=
  let c := s.sec
  if c.start ∨ c.deferred ∨ (c.enable ∧ c.period ≠ 0 ∧ c.next ≤ mark) then
    if c.open_ then { s with sec := { c with start := false, deferred := true } }
    else { s with sec := { c with start := false, deferred := false, due := some mark } }
  else s

/-- The optimiser's token of a job that enters COMMITTING, held back while an epoch is open (R339). -/
def commitJob (s : State) (j : Nat) : State :=
  let s := s.updJob j fun e => { e with st := jobCommitting, optRaised := false }
  if s.sec.open_ then { s with coll := { s.coll with heldJobs := s.coll.heldJobs ++ [j] } } else s.sendOptToken j

/-- The outcome takes effect. -/
def outcome (s : State) (late : Bool) : State :=
  let c := s.coll.commit
  let abort := c.outAbort
  let s := if abort then
      (s.shards.foldl (fun s j => s.armJob j true) s).countCe 0x12C 1
    else
      let s := s.updCommit fun c => { c with cver := c.cver + 1 }
      ((s.shards.filter fun j => decide ((s.job j).st = jobClosed)).foldl (fun s j => s.commitJob j) s).countCe 0x128 1
  let s := (List.range 8).foldl (fun s g => s.updCg g fun x => { expect := x.expect }) s
  let s := s.updCommit fun c =>
    { c with st := 3, step := c.step + 1, late := late, lastAborted := abort, abortOwn := false, ups := 0, children := [],
             waived := 0, subAbort := false, subDevs := 0, subDrops := 0, upOut := none, upWait := false }
  let s := if abort then s else ({ s with sec := { s.sec with commits := s.sec.commits + 1 } }).epochDue c.mark
  let s := if s.sec.due.isSome then { s with sec := { s.sec with gateHeld := s.sec.gateHeld || bit s.sec.gate 31 } } else s.sendGate
  s.finishCommit

/-- The mark is reached (R319). -/
def markReached (s : State) : State :=
  if s.coll.commit.st = 2 ∧ s.coll.commit.mark ≤ s.sh.count then s.outcome false else s

/-- The optimiser has raised OPT_EVENT (R320). -/
def optimised (s : State) (j : Nat) : State :=
  let e := s.job j
  if e.st = jobCommitting ∧ e.optRaised ∧ !(s.coll.heldJobs.contains j) then
    let s := s.updJob j fun e => { e with version := s.coll.commit.cver, step := e.step + 1 }
    (s.armJob j true).finishCommit
  else s

/-! ### UP and DOWN (R318, R319, R321) -/

def serveUp (s : State) (h : FabHdr) (b : CloseBody) : Status × State :=
  let c := s.coll.commit
  if b.step ≠ c.step then (stDenied, s)
  else if c.children.contains h.srcDev ∨ 64 ≤ c.children.length then (stOk, s)
  else
    (stOk, s.updCommit fun c =>
      { c with ups := c.ups + 1, children := c.children ++ [h.srcDev], subAbort := c.subAbort || h.stepAbort,
               subDevs := c.subDevs + b.arg0, subDrops := c.subDrops + b.arg1 })

def serveDown (s : State) (h : FabHdr) (b : CloseBody) : Status × State :=
  let c := s.coll.commit
  if b.step ≠ c.step then (stDenied, s)
  else if c.st = 2 then (stOk, s)
  else
    let s := (s.updCommit fun c => { c with st := 2, mark := b.mark, outAbort := h.stepAbort, outCver := b.cver }).sendDowns
    (stOk, if b.mark ≤ s.sh.count then s.outcome (decide (b.mark < s.sh.count)) else s)

end State

end Sys2Proof.Machine
end

