-- ==== Sys2Proof/Machine/Settle.lean ====
section
/-! DEFINITION. Replies of the miller (R357), and what an answered request of this Triat does at its issuer (R138, R178, R294,
R306, R308, R318, R340, R345). -/

namespace Sys2Proof.Machine

open Sys2Proof

/-! ### Split requests (R368) -/

/-- The words of a bitmap of `n` bits. -/
def bitmapWords (n : Nat) (p : Nat → Bool) : List W32 :=
  (List.range ((n + 31) / 32)).map fun i => w32 (((List.range 32).map fun b => flag (decide (32 * i + b < n) && p (32 * i + b)) b).sum)

/-- 16-bit values in words, padded. -/
def pack16 : List Status → List W32
  | a :: b :: t => w32 (a.toNat + b.toNat * 2 ^ 16) :: pack16 t
  | [a] => [w32 a.toNat]
  | [] => []

/-- The status and payload of a split request whose parts ended so: bit p of the bitmap stands for part number p, of `n`. -/
def splitReply (kind n : Nat) (parts : List (Nat × Status)) : Status × List W32 :=
  let bad := parts.filter fun e => decide (e.2 ≠ stOk)
  match bad with
  | [] => (stOk, [])
  | b :: _ =>
    if bad.length = parts.length ∧ bad.all (fun e => decide (e.2 = b.2)) then (b.2, [])
    else
      (stPartial, w32 (kind + n * 2 ^ 16) ::
        (bitmapWords n (fun i => parts.any fun e => decide (e.1 = i ∧ e.2 = stOk)) ++ pack16 ((bad.map (·.2)).take 512)))

namespace State

/-! ### Replies (R357) -/

/-- Sends a reply on control port `port`, and notes that its tag has been replied to (R366); where the port holds no partner
the reply is lost with the link (log entry 22). -/
def reply (s : State) (port : BitVec 1) (opcode tag : BitVec 16) (st : Status) (words : List W32) : State :=
  let s := { s with ctl := { s.ctl with replied := SMap.set false s.ctl.replied tag.toNat true } }
  if s.holdsPartner (16 + port.toNat) then
    s.enqueue (16 + port.toNat) { pool := cpReplyPool, body := .reply opcode tag st (lo32 s.sh.count) words }
  else s

/-- A request in flight that was started before `r` touches what `r` touches (R359). -/
def behindOther (s : State) (r : Inflight) : Bool :=
  (s.ctl.inflight.takeWhile fun x => decide (x ≠ r)).any fun x => x.units.any r.units.contains

/-- Takes a request out of flight, and replies to it. -/
def replyTo (s : State) (r : Inflight) (st : Status) (words : List W32) : State :=
  ({ s with ctl := { s.ctl with inflight := s.ctl.inflight.erase r } } : State).reply r.port r.opcode r.tag st words

/-- The replies that waited for a request before theirs go out, in order; `fuel` bounds them. -/
def freeReplies : Nat → State → State
  | 0, s => s
  | fuel + 1, s =>
    match s.ctl.inflight.find? fun r => (match r.wait with
      | .behind _ _ => true
      | _ => false) && !s.behindOther r with
    | none => s
    | some r =>
      match r.wait with
      | .behind st ws => freeReplies fuel (s.replyTo r st ws)
      | _ => s

/-- A request in flight is done: its reply goes out, and those that waited for it; or it waits for one before it (R359). -/
def endRequest (s : State) (r : Inflight) (st : Status) (words : List W32) : State :=
  if s.behindOther r then
    let put (x : Inflight) : Inflight := if x = r then { x with wait := .behind st words } else x
    { s with ctl := { s.ctl with inflight := s.ctl.inflight.map put } }
  else freeReplies 64 (s.replyTo r st words)

/-- The end of an entry's rebuild (R345): the SEC_REBUILD that waits for it is replied to. -/
def endRebuild (s : State) (i : Nat) (st : Status) : State :=
  let s := s.updSecAux i fun a => { a with rebuild := none }
  match s.ctl.inflight.find? fun r => decide (r.wait = .rebuild (BitVec.ofNat 10 i)) with
  | some r => s.endRequest r st []
  | none => s

/-- A rebuild that waits for the held copy of its entry starts once HELD_CURRENT is set. -/
def wakeRebuild (s : State) (i : Nat) : State :=
  match (s.secAux i).rebuild with
  | none => s
  | some r =>
    match s.entryAt i with
    | (e, s) =>
      if r.waits ∧ (secFields e).heldCurrent then
        match s.sendRebuild i r with
        | (st, s) => if st = stOk then s else s.endRebuild i st
      else s

/-! ### RACC of a core (R138) -/

/-- Where a range fails translation, its first failing address and the cause. -/
def firstCause (s : State) (v : Via) (acc : Access) : List (Nat × Nat × Nat) → Option (VA × Byte)
  | [] => none
  | (a, o, _) :: rest =>
    match s.resolve v a acc with
    | (.bad c, _) => some (BitVec.ofNat 48 (a + o), c)
    | (.ok _ _, s) => s.firstCause v acc rest

/-- A packet of a slot's RACC is answered; with the last the command completes, or fails with the first status that was not OK. An
answer to a fenced core is discarded at its router (R196). -/
def settleRacc (s : State) (site : Site) (req : Pkt) (st : Status) : State :=
  let k := site.core.toNat
  match (s.core k).runs.find? fun r => decide (r.slot = site.slot ∧ r.op = 0x24) with
  | none => if (s.core k).fenced then s.countTurn (.router (clusterOf site.core)) else s
  | some r =>
    let c := if st ≠ stOk ∧ r.fault.isNone ∧ req.h.dstDev = s.fab.devId then
        s.firstCause (.va (.core site.core)) .w (sectorsOf req.h.addr.toNat req.data.length) else none
    let i : FaultInfo := { status := st, va := (c.map (·.1)).getD 0, cause := (c.map (·.2)).getD 0xFF }
    let x : Ctx := { toRun := { r with acks := r.acks - 1, fault := if st = stOk ∨ r.fault.isSome then r.fault else some i }, site := site }
    let s := s.putRun x
    if x.ended then s.settleRun x else s

/-! ### Every issuer -/

/-- The issuer takes the answer to a request; the result tells whether it is to be resent, and why. -/
def settle (s : State) (who : Issuer) (req : Pkt) (st : Status) (data : List MB) : Option Resend × State :=
  match who with
  | .racc site => (none, s.settleRacc site req st)
  | .move h k o => (none, s.settleMove h.toNat k.toNat o req st data)
  | .desc h k id o =>
    match s.settleDesc h.toNat k.toNat id o req st data with
    | (again, s) => (if again then some .older else none, s)
  | .retract g => (none, s.settleRetract g.toNat req st)
  | .void g =>
    let s := if st = stOk then s else s.secEvent 1 0 req.h.dstDev
    match g with
    | some g => (none, (s.updCg g.toNat fun c => { c with voids := c.voids - 1 }).checkGroup g.toNat)
    | none => (none, s)
  | .up =>
    let s := s.updCommit fun c => { c with upWait := false }
    (none, if st = stAborted then s.secEvent 2 0 req.h.dstDev else s)
  | .down => (none, s)
  | .secData i =>
    match s.settleData i.toNat req st with
    | (again, s) => (if again then some .data else none, s)
  | .secSeal i => (none, (s.settleSeal i.toNat req st).wakeRebuild i.toNat)
  | .rebData i =>
    let s := s.settleRebData i.toNat st
    match (s.secAux i.toNat).rebuild with
    | some r => (none, if r.left = 0 ∧ r.status ≠ stOk then s.endRebuild i.toNat r.status else s)
    | none => (none, s)
  | .rebSeal i => (none, s.endRebuild i.toNat st)

/-- Settles a request that no longer holds a tag: one to be resent waits for `State.flush`. -/
def settleFree (s : State) (who : Issuer) (req : Pkt) (st : Status) (data : List MB) : State :=
  match s.settle who req st data with
  | (none, s) => s
  | (some why, s) => { s with fab := { s.fab with waiting := s.fab.waiting ++ [{ pkt := req, who := who, hold := some why, late := true, went := true }] } }

end State

end Sys2Proof.Machine
end

