-- ==== Sys2Proof/Machine/Serve.lean ====
section
/-! DEFINITION. Serving requests (R282 to R285) and sending those of this Triat: the checks of a packet, what it does, local service,
the choice of port and tag, and the order of classes 6 and 7. -/

namespace Sys2Proof.Machine

open Sys2Proof

/-! ### Checks (R282) -/

/-- A request is well formed: its class is allowed, and its LEN, address and payload are. -/
def Pkt.okRequest (p : Pkt) : Bool :=
  let op := p.op.toNat
  let cls := p.h.cls.toNat
  let len := p.h.len.toNat
  let n := p.data.length
  let aligned := decide (len % 8 = 0 ∧ len ≤ 4096 ∧ p.h.addr.toNat % 8 = 0)
  aligned &&
    (if op = 1 then decide (n = 0)
     else if op = 2 then decide (n = len)
     else if op = 3 then decide (n = 0 ∧ cls ≤ 5)
     else if 0x10 ≤ op ∧ op ≤ 0x17 then decide (n = len ∧ cls ≤ 5 ∧ (op % 4 ≠ 2 ∨ len % 72 = 0))
     else if op = 0x20 then decide (n = len ∧ len = 32 ∧ cls ≤ 5)
     else if op = 0x30 ∨ op = 0x31 then decide (n = len ∧ 8 ≤ len ∧ cls ≤ 6)
     else decide (op = 0x40 ∧ n = len ∧ len = 8 ∧ cls = 7))

/-- The fields of a CLOSE payload: KIND and the rest (R313). -/
def closeOf (bs : List MB) : Nat × CloseBody :=
  let w (i : Nat) : W32 := bitsOf 32 ((bs.drop (4 * i)).take 4)
  ((w 0).toNat % 256,
    { dropped := bit (w 0) 8, step := w 1, arg0 := w 2, arg1 := w 3, mark := join64 (w 4) (w 5), cver := w 6 })

/-- The head of a MIRROR_PUT or PARITY_PUT, and its KIND (R341). -/
def putOf (bs : List MB) : Nat × PutHead :=
  let w : W32 := bitsOf 32 (bs.take 4)
  (bits w 11 10,
    { entry := w.extractLsb' 0 10, gen := bit w 12, member := w.extractLsb' 14 5, epoch := bitsOf 32 ((bs.drop 4).take 4) })

/-- What serving a request comes to: an answer, or a SEAL that entry `i` holds back. -/
inductive Served where
  | answer (a : Answer)
  | held (i : Nat)
  deriving DecidableEq, Repr

namespace State

def serveRead (s : State) (v : Via) (acc : Access) (p : Pkt) : Answer × State :=
  let n := p.h.len.toNat
  match s.reach v acc p.h.addr.toNat n with
  | (st, s) =>
    if st ≠ stOk then ({ status := st }, s)
    else
      match s.readMem v acc p.h.addr.toNat n with
      | (bs, st, s) => if st = stOk then ({ status := stOk, data := bs }, s) else ({ status := st }, s)

def serveWrite (s : State) (v : Via) (acc : Access) (p : Pkt) : Status × State :=
  match s.openRange v acc p.h.addr.toNat p.data.length with
  | (st, s) => if st ≠ stOk then (st, s) else s.writeMem v acc p.h.addr.toNat p.payload

/-- CLOSE packets reach the CE of H0 (log entry 28); under reset it answers ABORTED (R379). -/
def serveClose (s : State) (p : Pkt) : Status × State :=
  let c := closeOf p.payload
  if s.ctl.fnReset.getLsbD 31 then (stAborted, s)
  else
  match c.1 with
  | 1 => s.serveContrib p.h c.2
  | 2 => s.serveVoid p.h c.2
  | 3 => s.serveUp p.h c.2
  | 4 => s.serveDown p.h c.2
  | _ => (stBadParam, s)

def servePutPkt (s : State) (v : Via) (acc : Access) (p : Pkt) : Served × State :=
  let r := putOf p.payload
  let body := p.payload.drop 8
  if 2 ≤ r.1 ∨ (r.1 = 1 ∧ body.length ≠ 8) then (.answer { status := stBadParam }, s)
  else
    let total : Option W64 := if r.1 = 1 then some (bitsOf 64 body) else none
    match s.servePut v acc (p.op = opParity) p.h r.2 total (if r.1 = 1 then [] else body) with
    | (.now st, s) => (.answer { status := st }, s)
    | (.held, s) => (.held r.2.entry.toNat, s)

/-- Serves a request, with the permissions that its reads and writes check (R234, R282). -/
def serve (s : State) (v : Via) (ra wa : Access) (p : Pkt) : Served × State :=
  let plain (x : Status × State) : Served × State := (.answer { status := x.1 }, x.2)
  let full (x : Answer × State) : Served × State := (.answer x.1, x.2)
  if !p.okRequest then (.answer { status := stBadParam }, s)
  else if p.op = opRead then full (s.serveRead v ra p)
  else if p.op = opWrite then plain (s.serveWrite v wa p)
  else if p.op = opGather then full (s.serveGather v ra p.h)
  else if p.op = opClose then plain (s.serveClose p)
  else if p.op = opMirror ∨ p.op = opParity then s.servePutPkt v wa p
  else if p.op = opPing then
    let t := leBytes 8 s.sh.count.toNat
    full ({ status := stOk, data := p.payload ++ t ++ t }, s)
  else plain (s.serveRacc v wa (p.op.toNat % 4) p.h p.payload)

/-! ### Sending (R281, R285) -/

/-- The requester whose translation buffer serves a request that this Triat sends to itself (R234). -/
def viaOf (who : Issuer) : Via :=
  match who with
  | .racc site => .va (.core site.core)
  | .move h _ _ => viaCe h.toNat
  | .desc h _ _ _ => viaCe h.toNat
  | _ => viaCe 0

/-- A request that is resent when answered BUSY (R299, R342). -/
def retried (op : Byte) : Bool := decide (op = opGather ∨ (0x10 ≤ op.toNat ∧ op.toNat ≤ 0x17) ∨ op = opClose ∨ op = opMirror ∨ op = opParity)

/-- Puts a request back to wait. -/
def keep (s : State) (w : Waiting) (hold : Option Resend) : State :=
  { s with fab := { s.fab with waiting := s.fab.waiting ++ [{ w with hold := hold, late := true }] } }

/-- A request to this Triat itself is served without the optics (R138). -/
def serveLocal (s : State) (w : Waiting) : State :=
  let p := { w.pkt with h := { w.pkt.h with srcDev := s.fab.devId } }
  match s.serve (viaOf w.who) .r .w p with
  | (.held i, s) => s.holdSeal i { port := none, pkt := p, who := some w.who }
  | (.answer a, s) => if a.status = stBusy ∧ retried p.op then s.keep { w with went := true } (some .busy) else s.settleFree w.who p a.status a.data

/-- Key of the order of classes 6 and 7: destination or source, and class. -/
def orderKey (d : DevId) (cls : BitVec 3) : Nat := 8 * d.toNat + cls.toNat

/-- Key of the port that the last request of a source, destination and class took (R285). -/
def pathKey (src dst : DevId) (cls : BitVec 3) : Nat := 2 ^ 19 * src.toNat + orderKey dst cls

/-- Port `m` carries the last request of this source, destination and class from now on. -/
def tookPort (s : State) (src dst : DevId) (cls : BitVec 3) (m : Nat) : State :=
  if cls.toNat < 6 then s else { s with fab := { s.fab with lastPort := SMap.set none s.fab.lastPort (pathKey src dst cls) (some m) } }

/-- The order rule of classes 6 and 7 names a port other than the last request's (R285). A response waits for nothing: it is never
answered (log entry 80). -/
def changesPort (s : State) (src dst : DevId) (cls : BitVec 3) (m : Nat) : Bool :=
  decide (6 ≤ cls.toNat) && (match SMap.get none s.fab.lastPort (pathKey src dst cls) with
    | some l => decide (l ≠ m)
    | none => false)

/-- A request of this (destination, class) is in flight. -/
def inFlightTo (s : State) (d : DevId) (cls : BitVec 3) : Bool :=
  s.ports.any fun e => e.2.tags.any fun t =>
    match t.2 with
    | some r => decide (r.pkt.h.dstDev = d ∧ r.pkt.h.cls = cls)
    | none => false

/-- The lowest free tag of a port, of its 4,096. -/
def freeTag (p : Port) : Option Nat := (List.range (p.tags.length + 1)).find? fun t => decide (t < 4096) && (SMap.get none p.tags t).isNone

/-- Sends a request on port `n` under tag `t`. -/
def sendOn (s : State) (n t : Nat) (w : Waiting) : State :=
  let ordered := decide (6 ≤ w.pkt.h.cls.toNat)
  let key := orderKey w.pkt.h.dstDev w.pkt.h.cls
  let q := SMap.get 0 s.fab.seqTx key
  let h := { w.pkt.h with srcDev := s.fab.devId, hops := s.fab.ctrl.extractLsb' 0 4, tag := BitVec.ofNat 16 (4096 * n + t),
                          seq := if ordered then q else w.pkt.h.seq }
  let p := { w.pkt with h := h }
  let s := (if ordered then { s with fab := { s.fab with seqTx := SMap.set 0 s.fab.seqTx key (q + 1) } } else s).tookPort
    s.fab.devId w.pkt.h.dstDev w.pkt.h.cls n
  let req : Req := { pkt := p, who := w.who, via := n }
  let s := s.updPort n fun x => { x with tags := SMap.set none x.tags t (some req) }
  s.enqueue n { pool := p.pool, body := .fab p }

/-- The unit that a request of this Triat comes from (R17): a core, or a collective engine. -/
def sourceOf (who : Issuer) : Endpoint :=
  match who with
  | .racc site => .core site.core
  | .move h _ _ => .ce h.toNat
  | .desc h _ _ _ => .ce h.toNat
  | _ => .ce 0

/-- What turns a core's RACC to the Triat's own memory back on its way to the controller of its first byte (R194, R204); other requests to
it are checked sector by sector as they are served. -/
def raccTurned (s : State) (who : Issuer) (a : Nat) : Option Turned :=
  match who with
  | .racc site =>
    match (s.translate (.core site.core) (BitVec.ofNat 48 a) .w).1 with
    | .ok pa _ => s.turnedAt (.core site.core) pa
    | .bad _ => none
  | _ => none

/-- Takes up one request: it is answered at once, sent, or kept waiting. -/
def takeUp (s : State) (w : Waiting) : State :=
  let d := w.pkt.h.dstDev
  let cls := w.pkt.h.cls
  if w.hold.isSome then s.keep w w.hold
  else if s.isDown d then s.settleFree w.who w.pkt stAborted []
  else if d = s.fab.devId then
    match s.raccTurned w.who w.pkt.h.addr.toNat with
    | some t => (s.countTurn t).settleFree w.who w.pkt stFenced []
    | none => s.serveLocal w
  else
    match s.choosePort s.fab.devId d cls false with
    | none => (s.countFab 0x020 1).settleFree w.who w.pkt stNotPresent []
    | some n =>
      match s.turned (sourceOf w.who) (.port n) with
      | some t => (s.countTurn t).settleFree w.who w.pkt stFenced []
      | none =>
      if s.changesPort s.fab.devId d cls n && s.inFlightTo d cls then s.keep w none
      else
        match freeTag (s.port n) with
        | none => s.keep w none
        | some t => s.sendOn n t w

/-- Settles what has been answered and takes up what waits, once. -/
def flushOnce (s : State) : State :=
  let as_ := s.fab.answers
  let ws := s.fab.waiting
  let s := { s with fab := { s.fab with answers := [], waiting := [] } }
  let s := as_.foldl (fun s a => s.settleFree a.who a.pkt a.status []) s
  ws.foldl (fun s w => s.takeUp w) s

/-- Until nothing changes any more; `fuel` bounds the rounds. -/
def flushFor : Nat → State → State
  | 0, s => s
  | f + 1, s =>
    if s.fab.answers.isEmpty ∧ s.fab.waiting.isEmpty then s
    else
      let t := s.flushOnce
      if t.fab.answers.isEmpty ∧ t.fab.waiting = s.fab.waiting then t else flushFor f t

/-- Every engine's requests go on their way. -/
def flush (s : State) : State := flushFor 64 s

/-- A request is held for reason `why` on its way to `dst`. -/
def heldFor (why : Resend) (dst : DevId) (w : Waiting) : Bool := decide (w.hold = some why ∧ w.pkt.h.dstDev = dst)

/-- What waits, with the `k`-th of those held for reason `why` on their way to `dst` released. -/
def releaseHeld (why : Resend) (dst : DevId) : Nat → List Waiting → List Waiting
  | _, [] => []
  | k, w :: t =>
    if !heldFor why dst w then w :: releaseHeld why dst k t
    else match k with
      | 0 => { w with hold := none } :: t
      | k + 1 => w :: releaseHeld why dst k t

/-- The 10 µs of the `k`-th request held for reason `why` on its way to `dst` are over (R299, R323, R340): it goes as a new request. -/
def resendHeld (s : State) (why : Resend) (dst : DevId) (k : Nat) : State :=
  let n := (s.fab.waiting.filter (heldFor why dst)).length
  ({ s with fab := { s.fab with waiting := releaseHeld why dst k s.fab.waiting } }).countCe 0x118
    (if why = Resend.busy ∧ k < n then 1 else 0)

/-! ### Answers (R281) -/

/-- Frees a tag. -/
def dropTag (s : State) (n t : Nat) : State := s.updPort n fun x => { x with tags := SMap.set none x.tags t none }

/-- The answer to the request that holds tag `t` of port `n`, which it frees: the issuer takes it, or the request waits to be sent anew. -/
def answered (s : State) (n t : Nat) (st : Status) (data : List MB) : State :=
  match SMap.get none (s.port n).tags t with
  | none => s
  | some r =>
    let s := s.dropTag n t
    if st = stBusy ∧ retried r.pkt.op then s.keep { pkt := r.pkt, who := r.who, went := true } (some .busy)
    else s.settleFree r.who r.pkt st data

/-- Requests of a port that `p` picks end ABORTED (R277, R344). -/
def abortTags (s : State) (n : Nat) (p : Req → Bool) : State :=
  (s.port n).tags.foldl (fun s e =>
    match e.2 with
    | none => s
    | some r =>
      if !p r then s else (s.dropTag n e.1).settleFree r.who r.pkt stAborted []) s

end State

end Sys2Proof.Machine
end

