-- ==== Sys2Proof/Machine/Group.lean ====
section
/-! DEFINITION. RACC (R137, R138) and fused groups (R156, R157). -/

namespace Sys2Proof.Machine

open Sys2Proof

/-- The outcome of a command that may have left requests to send. -/
def flushed (o : Host.Outcome State Fault Refusal) : Host.Outcome State Fault Refusal :=
  match o with
  | .next s => .next s.flush
  | o => o

/-! ### RACC -/

/-- The data of an RACC, negated for a retraction, and what that did (R138, R304). -/
def raccData (form : Nat) (retract : Bool) (bs : List MB) : List MB × Eff :=
  if retract then
    let rs := (chunk (if form = 2 then 72 else 8) bs).map (negateBlock form)
    (rs.flatMap (·.1), effSum (rs.map (·.2)))
  else (bs, {})

/-- The fields of RACC (R137). -/
structure RaccF where
  form : Nat
  retract : Bool
  job : Byte
  count : Byte
  len : Nat
  addr : Nat
  cls : Nat
  dev : DevId
  deriving DecidableEq, Repr

def raccF (x : Ctx) : RaccF :=
  let w := x.w
  let offs := if w.b 114 then 64 * (x.cnt (w.f 117 115)).toNat else 0
  { form := w.f 33 32, retract := w.b 34, job := BitVec.ofNat 8 (w.f 42 35), count := BitVec.ofNat 8 (w.f 50 43),
    len := w.f 113 102, addr := (w.f 101 54 + offs + x.iter * 64 * x.addrStep) % 2 ^ 48, cls := w.f 120 118,
    dev := (x.cnt (w.f 53 51)).setWidth 16 }

/-- RACC's issue check; a decoupled core sends none (R107). -/
def raccOk (s : State) (x : Ctx) : Bool :=
  let f := raccF x
  lastOk x && !bit (s.core x.c).ctrl 0 && x.w.z 127 121 && s.queueOk x.site.core x.w.qa && decide (f.len ≠ 0 ∧ f.addr % 8 = 0 ∧ f.cls ≤ 5) &&
    (decide (f.form ≠ 2) || decide (f.len % 9 = 0)) && !(f.retract && decide (0 ≤ f.count.toInt))

/-- The packets of a RACC: offset and length. -/
def RaccF.pieces (f : RaccF) : List (Nat × Nat) := Machine.pieces (if f.form = 2 then 4032 else 4096) (8 * f.len)

/-- The packet of one piece, with its data. -/
def RaccF.packet (f : RaccF) (d : List MB) (e : Nat × Nat) : Pkt :=
  let op := (if f.retract then opRetract else opRacc) + BitVec.ofNat 8 f.form
  let p := (mkReq op f.dev (BitVec.ofNat 3 f.cls) (f.addr + e.1)).withData d
  { p with h := { p.h with job := f.job, count := f.count, seq := f.count.signExtend 32, last := decide (e.1 + e.2 = 8 * f.len) } }

/-- One packet: its data are popped, negated for a retraction, and sent. The negation is a computation, which a poisoned word enters
(R113; log entry 73). -/
def raccUnit (x : Ctx) (s : State) : Body :=
  let f := raccF x
  let e := nth (0, 0) f.pieces x.unit
  popThen s x x.w.qa e.2 fun bs s =>
    let d := raccData f.form f.retract bs
    .done ((s.want (f.packet d.1 e) (.racc x.site)).updCore x.c (·.effect d.2))

/-- RACC: it pops and sends packet by packet, and completes when the last has been acknowledged (R138). -/
def bodyRacc (x : Ctx) (s : State) : Body :=
  let n := (raccF x).pieces.length
  let x := if x.unit = 0 then { x with acks := n } else x
  match stream n raccUnit x s with
  | .done s => .held s x
  | b => b

def cmdRacc : Cmd :=
  { unit := 3
    check := fun x s => orBad (raccOk s x)
    needs := fun x _ => { ins := [(x.w.qa, 64 ⊓ (8 * (raccF x).len))] }
    body := bodyRacc }

/-! ### FUSE -/

/-- The commands that may be members of a group: those of the millrace, the read-out path, the VE and the transfer unit (R123, R156). -/
def memberCmd (op : Byte) : Option Cmd :=
  match op.toNat with
  | 0x10 => some cmdOprod
  | 0x11 => some cmdOpslice
  | 0x12 => some cmdOpdiag
  | 0x13 => some cmdBedload
  | 0x14 => some cmdTread
  | 0x20 => some cmdFetch
  | 0x21 => some cmdStore
  | 0x22 => some cmdSend
  | 0x23 => some cmdRecv
  | 0x24 => some cmdRacc
  | 0x40 => some cmdVew
  | 0x41 => some cmdVun
  | 0x42 => some cmdVred
  | 0x43 => some cmdVcvt
  | 0x44 => some cmdVnorm
  | 0x45 => some cmdVnormb
  | 0x46 => some cmdVsmax
  | 0x47 => some cmdVsmaxb
  | 0x48 => some cmdVstatm
  | 0x49 => some cmdVrope
  | 0x4A => some cmdVdrop
  | 0x4B => some cmdVsplit
  | 0x4C => some cmdVslrec
  | 0x4D => some cmdVbxadd
  | _ => none

/-- The unit of R88 that executes an opcode; the scalar unit executes those that no other does. -/
def unitOf (op : Byte) : Nat :=
  match memberCmd op with
  | some c => c.unit
  | none => 4

/-- The member words that follow a FUSE; none while one cannot be had. -/
def State.memberWords (s : State) (core : CoreId) (gen : BitVec 16) (n : Nat) (va : VA) : Option (List (Byte × CmdWord)) :=
  (List.range n).foldr (fun i l =>
    match l, s.streamWord core gen (nextPtr va i) with
    | some l, some x => some (CmdWord.decode x :: l)
    | _, _ => none) (some [])

/-- R156: LAST on the last member and no other, one member a unit, no scalar member, no predicate. -/
def membersOk (ms : List (Byte × CmdWord)) : Bool :=
  let units := ms.map fun m => unitOf m.1
  let n := ms.length
  ms.all (fun m => (memberCmd m.1).isSome) && units.Nodup && ms.all (fun m => decide (m.2.predSrc = 0) && !m.2.predInv) &&
    ((List.range n).zip ms).all fun m => m.2.2.last == decide (m.1 + 1 = n)

/-- MEMBERS, PINGPONG and ADDR_STEP. -/
def fuseMembers (w : CmdWord) : Nat := w.f 34 32
def fusePingpong (w : CmdWord) : Bool := w.b 35
def fuseStep (w : CmdWord) : Nat := w.f 87 64

/-- The members of a FUSE as its slot would fetch them. -/
def State.membersOf (s : State) (x : Ctx) : Option (List (Byte × CmdWord)) :=
  s.memberWords x.site.core ((s.core x.c).slot x.site.slot.toNat).gen (fuseMembers x.w) (nextPtr x.ptr 1)

/-- FUSE's issue check. -/
def fuseOk (s : State) (x : Ctx) : Bool :=
  let n := fuseMembers x.w
  lastOk x && x.w.z 127 101 && decide (2 ≤ n ∧ n ≤ 4) && !bit (s.core x.c).ctrl 0 && membersOk ((s.membersOf x).getD [])

/-- The group of a FUSE as it issues; the count is taken then (R157). -/
def State.groupOf (s : State) (x : Ctx) : GroupRun :=
  { id := x.id, w := x.w, ptr := x.ptr, loops := x.loops, members := (s.membersOf x).getD [],
    total := countOf (s.core x.c) (x.w.b 39) (x.w.f 63 40) (x.w.f 38 36), done := List.replicate (fuseMembers x.w) 0 }

/-- FUSE (R156, R157): the slot takes up the group; a count of 0 passes it, and raises no event (log entry 74). -/
def cmdFuse : Cmd :=
  { unit := 4
    words := fun w => 1 + fuseMembers w
    cond := fun x s => (s.membersOf x).isSome || !decide (2 ≤ fuseMembers x.w ∧ fuseMembers x.w ≤ 4)
    check := fun x s => orBad (fuseOk s x)
    body := fun x s =>
      let g := s.groupOf x
      .done (if g.total = 0 then s else s.updCore x.c fun c => c.updSlot x.site.slot.toNat fun sl => { sl with group := some g }) }

/-- The word of iteration `i` of a member: with PINGPONG, OPE and TREAD members use the other tile in odd iterations (R157). -/
def GroupRun.word (g : GroupRun) (m i : Nat) : Byte × CmdWord :=
  let e := nth (0, {}) g.members m
  let toggles := decide (0x10 ≤ e.1.toNat ∧ e.1.toNat ≤ 0x14) && fusePingpong g.w && decide (i % 2 = 1)
  (e.1, { e.2 with tile := e.2.tile != toggles })

/-- Iterations `i` of member `m` and `i'` of `m'` are a product command and a TREAD on one tile (R68). -/
def GroupRun.clash (g : GroupRun) (m i m' i' : Nat) : Bool :=
  let a := g.word m i
  let b := g.word m' i'
  meet (targetTiles a.1 a.2) (readTiles b.1 b.2) || meet (readTiles a.1 a.2) (targetTiles b.1 b.2)

/-- Every member iteration that stands before iteration `i` of member `m` in the stream, and with which it must not overlap, has issued
(R68, R157; log entry 74). Which tiles an iteration uses repeats after two. -/
def GroupRun.orderly (g : GroupRun) (m i : Nat) : Bool :=
  (List.range g.members.length).all fun m' => [0, 1, 2].all fun d =>
    decide (i < d) || !(decide (0 < d) || decide (m' < m)) || !g.clash m i m' (i - d) || decide (i - d < nth 0 g.done m')

/-- The context of a group's member at its next iteration (R157). -/
def State.memberCtx (s : State) (site : Site) (g : GroupRun) (m : Nat) : Ctx :=
  let i := nth 0 g.done m
  let e := g.word m i
  { s.ctx site e.1 e.2 with member := some m, ptr := g.ptr, loops := g.loops, iter := i, addrStep := fuseStep g.w }

end Sys2Proof.Machine
end

