-- ==== Sys2Proof/Machine/Issue.lean ====
section
/-! DEFINITION. Issue (R88, R89, R101 to R104, R112, R120, R123): when a command is ready, which ready slot the picker takes, and what
presenting a command to a core does. -/

namespace Sys2Proof.Machine

open Sys2Proof

/-- The command of an opcode; a value that R123 does not list is reserved. -/
def cmdOf (op : Byte) : Option Cmd :=
  match op.toNat with
  | 0x00 => some cmdNop
  | 0x01 => some cmdHalt
  | 0x02 => some cmdFence
  | 0x03 => some cmdToken
  | 0x04 => some cmdWaitToken
  | 0x05 => some cmdLoop
  | 0x06 => some cmdFuse
  | 0x08 => some cmdCset
  | 0x09 => some cmdCadd
  | 0x0A => some cmdCaddc
  | 0x0C => some cmdCmpset
  | 0x0D => some cmdClrseen
  | _ => memberCmd op

/-- A unit can accept a command of a slot (R88): the millrace, the read-out path and the VE execute one at a time, the transfer unit one
of each slot, and the scalar unit completes its commands as they issue. -/
def Core.unitFree (c : Core) (slot : BitVec 2) (unit : Nat) : Bool :=
  if unit = 4 then true
  else c.runs.all fun r => decide (unitOf r.op ≠ unit ∨ (unit = 3 ∧ r.slot ≠ slot))

/-- What the picker finds of a slot's next command: it waits, for the queues listed where nothing else keeps it; it is skipped; it fails
its issue check; or it issues. -/
inductive Verdict where
  | wait (ys : List Why)
  | skip
  | bad (st : Status)
  | go (c : Cmd) (x : Ctx)

/-- What a command's first unit needs of the queues that it may use; a queue that it may not is left to its issue check. -/
def State.needsOf (s : State) (x : Ctx) (c : Cmd) : Needs :=
  let n := c.needs x s
  let ok (e : BitVec 4 × Nat) : Bool := s.queueOk x.site.core e.1
  { ins := n.ins.filter ok, outs := n.outs.filter ok }

/-- Conditions 3 and 4 of R103, the order of R68 and the command's own condition; then, as it issues, its issue check (R63, R120). -/
def State.verdictOf (s : State) (x : Ctx) : Verdict :=
  let k := s.core x.c
  match cmdOf x.op with
  | none => .bad stBadParam
  | some c =>
    if !(k.unitFree x.site.slot c.unit && k.tilesClear x.op x.w && c.cond x s) then .wait [.other]
    else
      match s.lacks x.site.core (s.needsOf x c) with
      | [] =>
        match c.check x s with
        | some st => .bad st
        | none => .go c x
      | ys => .wait ys

/-- The verdict on a command that is presented for a slot (R103, R112, R120). -/
def State.verdict (s : State) (site : Site) (op : Byte) (w : CmdWord) : Verdict :=
  match s.gate site op w with
  | .wait => .wait [.other]
  | .skip => .skip
  | .bad => .bad stBadParam
  | .go => s.verdictOf (s.ctx site op w)

/-- The verdict on the next iteration of a group's member (R157): its last iteration has released its unit, and it keeps the order of
R68. -/
def State.memberVerdict (s : State) (site : Site) (g : GroupRun) (m : Nat) : Verdict :=
  let i := nth 0 g.done m
  if g.total ≤ i ∨ !g.orderly m i then .wait [.other] else s.verdictOf (s.memberCtx site g m)

def Verdict.waits : Verdict → Bool
  | .wait _ => true
  | _ => false

/-- The first member of a slot's group that can issue its next iteration; none once a STOP waits (R101). -/
def State.nextMember (s : State) (site : Site) : Option (GroupRun × Nat) :=
  let c := s.core site.core.toNat
  let sl := c.slot site.slot.toNat
  match sl.group with
  | none => none
  | some g =>
    if sl.st ≠ 1 ∨ sl.stop ∨ c.fenced ∨ !s.eligible site then none
    else ((List.range g.members.length).find? fun m => !(s.memberVerdict site g m).waits).map fun m => (g, m)

/-- The word that stands at a slot's pointer in the instruction cache. -/
def Core.nextWord (c : Core) (slot : Nat) : Option (Byte × CmdWord) :=
  ((c.iword (c.slot slot).gen (c.slot slot).ptr).map CmdWord.decode)

/-- The slot is ready (R103). -/
def State.readyAt (s : State) (site : Site) : Bool :=
  let c := s.core site.core.toNat
  if (c.slot site.slot.toNat).group.isSome then (s.nextMember site).isSome
  else
    match c.nextWord site.slot.toNat with
    | none => false
    | some (op, w) => !(s.verdict site op w).waits

/-- The picker takes this slot (R104): it is ready, and of the ready slots it has gone longest without issuing; of those that have gone
equally long it is the lowest-numbered. -/
def State.picked (s : State) (site : Site) : Bool :=
  let c := s.core site.core.toNat
  let n := site.slot.toNat
  s.readyAt site && (List.range 4).all fun j =>
    decide (j = n) || !s.readyAt { site with slot := BitVec.ofNat 2 j } ||
      decide ((c.slot n).last < (c.slot j).last ∨ ((c.slot n).last = (c.slot j).last ∧ n < j))

namespace State

/-- A command fails at issue and is not executed (R102, R120). -/
def refuseCmd (s : State) (x : Ctx) (st : Status) : State :=
  match x.member with
  | none => (s.mark x 0).failSlot x.site x.op { status := st }
  | some _ => (s.mark x 0).failRun x { status := st }

/-- A command issues and goes as far as it can (R88). -/
def start (s : State) (c : Cmd) (x : Ctx) : State :=
  let t := s.mark x (if c.moves ∨ x.member.isSome then 0 else c.words x.w)
  t.after x (c.body x t)

/-- A skipped command (R112): it is passed, with the words that belong to it, and counted. -/
def skipCmd (s : State) (x : Ctx) : State :=
  let n := match cmdOf x.op with
    | some c => c.words x.w
    | none => 1
  ((s.mark x n).updCore x.c (·.count 0x31C 1)).released x.site

/-- A verdict is carried out. -/
def carry (s : State) (x : Ctx) (v : Verdict) : State :=
  match v with
  | .wait _ => s
  | .skip => s.skipCmd x
  | .bad st => s.refuseCmd x st
  | .go c x => s.start c x

/-- A command in execution goes on. -/
def goOn (s : State) (core : CoreId) (id : Nat) : State :=
  match (s.core core.toNat).runs.find? fun r => decide (r.id = id) with
  | none => s
  | some r =>
    let x : Ctx := { toRun := r, site := { core := core, slot := r.slot } }
    if r.ended then s.settleRun x
    else
      match cmdOf r.op with
      | none => s
      | some c => s.after x (c.body x s)

/-- Commands in execution go on as far as they can, the oldest first, once what waits to be pushed has gone out. -/
def goOnAll (s : State) (core : CoreId) : State :=
  let s := s.drainBacklog core
  ((s.core core.toNat).runs.map (·.id)).foldl (fun s id => s.goOn core id) s

/-- A slot whose next word has a reserved opcode faults when the picker takes it (R120, R123): no command of the table stands for it. -/
def rejectReserved (s : State) (core : CoreId) : State :=
  (List.range 4).foldl (fun s n =>
    let site : Site := { core := core, slot := BitVec.ofNat 2 n }
    match (s.core core.toNat).nextWord n with
    | none => s
    | some (op, w) => if (cmdOf op).isNone && s.picked site then s.carry (s.ctx site op w) (s.verdict site op w) else s) s

/-- Before a command is presented to a core: what the core has in execution goes on (log entry 72). -/
def prelude (s : State) (core : CoreId) : State := (s.goOnAll core).rejectReserved core

/-- Requests that a core's RACC has left go on their way. -/
def flushRacc (s : State) (core : CoreId) : State :=
  if (s.core core.toNat).runs.any fun r => decide (r.op = 0x24) then s.flush else s

/-- One command or member iteration of a slot issues, if the picker takes the slot. -/
def present (s : State) (site : Site) (op : Byte) (w : CmdWord) : State :=
  if !s.picked site then s
  else
    let c := s.core site.core.toNat
    match (c.slot site.slot.toNat).group with
    | none => s.carry (s.ctx site op w) (s.verdict site op w)
    | some g =>
      match s.nextMember site with
      | none => s
      | some (_, m) =>
        if op ≠ 0x06 ∨ w ≠ g.w then s
        else
          let x := s.memberCtx site g m
          let v := s.memberVerdict site g m
          let t := s.updCore site.core.toNat fun c => c.updSlot site.slot.toNat fun sl =>
            { sl with group := some { g with done := g.done.set m (x.iter + 1) } }
          t.carry x v

end State

/-- A command word is presented to a slot of a core: the core goes on with what it has in execution, and issues this command if the
slot is ready for it and picked. A FUSE whose group is in execution is presented again for each member iteration (R157). -/
def issue (op : Byte) (site : Site) (w : CmdWord) (s : State) : Host.Outcome State Fault Refusal :=
  let s := s.prelude site.core
  .next ((s.present site op w).flushRacc site.core)

def execNop (site : Site) (w : CmdWord) (s : State) : Host.Outcome State Fault Refusal := issue 0x00 site w s
def execHalt (site : Site) (w : CmdWord) (s : State) : Host.Outcome State Fault Refusal := issue 0x01 site w s
def execFence (site : Site) (w : CmdWord) (s : State) : Host.Outcome State Fault Refusal := issue 0x02 site w s
def execToken (site : Site) (w : CmdWord) (s : State) : Host.Outcome State Fault Refusal := issue 0x03 site w s
def execWaittoken (site : Site) (w : CmdWord) (s : State) : Host.Outcome State Fault Refusal := issue 0x04 site w s
def execLoop (site : Site) (w : CmdWord) (s : State) : Host.Outcome State Fault Refusal := issue 0x05 site w s
def execFuse (site : Site) (w : CmdWord) (s : State) : Host.Outcome State Fault Refusal := issue 0x06 site w s
def execCset (site : Site) (w : CmdWord) (s : State) : Host.Outcome State Fault Refusal := issue 0x08 site w s
def execCadd (site : Site) (w : CmdWord) (s : State) : Host.Outcome State Fault Refusal := issue 0x09 site w s
def execCaddc (site : Site) (w : CmdWord) (s : State) : Host.Outcome State Fault Refusal := issue 0x0A site w s
def execCmpset (site : Site) (w : CmdWord) (s : State) : Host.Outcome State Fault Refusal := issue 0x0C site w s
def execClrseen (site : Site) (w : CmdWord) (s : State) : Host.Outcome State Fault Refusal := issue 0x0D site w s
def execOprod (site : Site) (w : CmdWord) (s : State) : Host.Outcome State Fault Refusal := issue 0x10 site w s
def execOpslice (site : Site) (w : CmdWord) (s : State) : Host.Outcome State Fault Refusal := issue 0x11 site w s
def execOpdiag (site : Site) (w : CmdWord) (s : State) : Host.Outcome State Fault Refusal := issue 0x12 site w s
def execBedload (site : Site) (w : CmdWord) (s : State) : Host.Outcome State Fault Refusal := issue 0x13 site w s
def execTread (site : Site) (w : CmdWord) (s : State) : Host.Outcome State Fault Refusal := issue 0x14 site w s
def execFetch (site : Site) (w : CmdWord) (s : State) : Host.Outcome State Fault Refusal := issue 0x20 site w s
def execStore (site : Site) (w : CmdWord) (s : State) : Host.Outcome State Fault Refusal := issue 0x21 site w s
def execSend (site : Site) (w : CmdWord) (s : State) : Host.Outcome State Fault Refusal := issue 0x22 site w s
def execRecv (site : Site) (w : CmdWord) (s : State) : Host.Outcome State Fault Refusal := issue 0x23 site w s
def execRacc (site : Site) (w : CmdWord) (s : State) : Host.Outcome State Fault Refusal := issue 0x24 site w s
def execVew (site : Site) (w : CmdWord) (s : State) : Host.Outcome State Fault Refusal := issue 0x40 site w s
def execVun (site : Site) (w : CmdWord) (s : State) : Host.Outcome State Fault Refusal := issue 0x41 site w s
def execVred (site : Site) (w : CmdWord) (s : State) : Host.Outcome State Fault Refusal := issue 0x42 site w s
def execVcvt (site : Site) (w : CmdWord) (s : State) : Host.Outcome State Fault Refusal := issue 0x43 site w s
def execVnorm (site : Site) (w : CmdWord) (s : State) : Host.Outcome State Fault Refusal := issue 0x44 site w s
def execVnormb (site : Site) (w : CmdWord) (s : State) : Host.Outcome State Fault Refusal := issue 0x45 site w s
def execVsmax (site : Site) (w : CmdWord) (s : State) : Host.Outcome State Fault Refusal := issue 0x46 site w s
def execVsmaxb (site : Site) (w : CmdWord) (s : State) : Host.Outcome State Fault Refusal := issue 0x47 site w s
def execVstatm (site : Site) (w : CmdWord) (s : State) : Host.Outcome State Fault Refusal := issue 0x48 site w s
def execVrope (site : Site) (w : CmdWord) (s : State) : Host.Outcome State Fault Refusal := issue 0x49 site w s
def execVdrop (site : Site) (w : CmdWord) (s : State) : Host.Outcome State Fault Refusal := issue 0x4A site w s
def execVsplit (site : Site) (w : CmdWord) (s : State) : Host.Outcome State Fault Refusal := issue 0x4B site w s
def execVslrec (site : Site) (w : CmdWord) (s : State) : Host.Outcome State Fault Refusal := issue 0x4C site w s
def execVbxadd (site : Site) (w : CmdWord) (s : State) : Host.Outcome State Fault Refusal := issue 0x4D site w s

end Sys2Proof.Machine
end

