-- ==== Sys2Proof/Machine/CoreEvents.lean ====
section
/-! DEFINITION. Events of the core (R73, R96 to R109, R135, R161, R194 to R196): phase changes, instruction-cache fills, run-ahead,
arrivals on the link queues, bounces, fences and STORE acknowledgements. -/

namespace Sys2Proof.Machine

open Sys2Proof

/-! ### PHASE_CHANGE (R105, R106) -/

/-- Slots RUNNING with phase tag `t`. -/
def Core.inPhase (c : Core) (t : Nat) : List Slot :=
  ((List.range 4).map c.slot).filter fun sl => decide (sl.st = 1 ∧ sl.tag.toNat = t)

/-- The phase changes now: some FORWARD or BACKWARD slot is RUNNING and every mark awaited has been executed. -/
def State.phaseDue (s : State) (core : CoreId) : Bool :=
  let c := s.core core.toNat
  !s.readyFirst core && !bit c.ctrl 0 && !((c.inPhase 1).isEmpty && (c.inPhase 2).isEmpty) &&
    (if c.tailrace then c.inPhase 2 else c.inPhase 1).all (·.marked)

/-- The change: no slot has marked the new phase, and a change to HEADRACE takes up the half's policy. -/
def Core.changePhase (c : Core) : Core :=
  { c with tailrace := !c.tailrace, slots := c.slots.map fun e => (e.1, { e.2 with marked := false }),
           lag := if c.tailrace then none else c.lag }

def execPhaseChange (core : CoreId) (s : State) : Host.Outcome State Fault Refusal :=
  .next (if s.phaseDue core then s.updCore core.toNat Core.changePhase else s)

/-! ### ICACHE_FILL (R99, R100) -/

/-- A line of the instruction stream as memory delivers it: its command words, or how the fetch fails. -/
def State.fetchLine (s : State) (core : CoreId) (va : VA) : Except FaultInfo (List (BitVec 128)) × State :=
  match s.translate (.core core) va .x with
  | (.bad c, s) => (.error { status := causeStatus c, va := va, cause := c }, s)
  | (.ok pa noalloc, s) =>
    match s.turnedAt (.core core) pa with
    | some t => (.error { status := stFenced }, s.countTurn t)
    | none =>
      match s.mcRead pa noalloc with
      | (.bad st, s) => (.error { status := st }, s)
      | (.ok d, s) =>
        if d.any (·.p) then (.error { status := stPoisoned }, s)
        else (.ok ((List.range 4).map fun i =>
          (nth {} d (4 * i + 3)).v ++ (nth {} d (4 * i + 2)).v ++ (nth {} d (4 * i + 1)).v ++ (nth {} d (4 * i)).v), s)

/-- Enters a line as the most recently used of its four-way set. -/
def Core.fillLine (c : Core) (l : ILine) : Core :=
  { c with icache := SMap.upd [] c.icache (l.va.toNat / 64 % 64) fun ls =>
      (l :: ls.filter fun y => decide (y.va ≠ l.va ∨ y.gen ≠ l.gen)).take 4 }

/-- Takes a line out. -/
def Core.dropIline (c : Core) (gen : BitVec 16) (va : VA) : Core :=
  { c with icache := SMap.upd [] c.icache (va.toNat / 64 % 64) fun ls =>
      ls.filter fun y => decide (y.va ≠ va ∨ y.gen ≠ gen) }

/-- The start of the line of an address. -/
def lineStart (va : VA) : VA := BitVec.ofNat 48 (va.toNat / 64 * 64)

/-- A demand fetch of the line of the slot's next command: filled, or the slot faults; a poisoned line leaves the pointer at its
first command. -/
def State.demandLine (s : State) (site : Site) : State :=
  let k := site.core.toNat
  let sl := (s.core k).slot site.slot.toNat
  let va := lineStart sl.ptr
  match s.fetchLine site.core va with
  | (.ok ws, s) => s.updCore k (·.fillLine { va := va, gen := sl.gen, words := ws })
  | (.error i, s) =>
    let poisoned := decide (i.status = stPoisoned ∧ i.cause = 0xFF)
    let s := if poisoned then s.updCore k fun c => c.updSlot site.slot.toNat fun sl => { sl with ptr := va } else s
    s.failSlot site 0x00 i

/-- The speculative fetch of the next sequential line: silent where it fails. -/
def State.specLine (s : State) (core : CoreId) (gen : BitVec 16) (va : VA) : State :=
  if ((s.core core.toNat).iline gen va).isSome then s
  else
    match s.fetchLine core va with
    | (.ok ws, s) => s.updCore core.toNat (·.fillLine { va := va, gen := gen, words := ws })
    | (.error _, s) => s

/-- What the fill does once the core has gone on with what it has in execution. -/
def State.fillFor (s : State) (site : Site) (cause : FillCause) : State :=
  let k := site.core.toNat
  let c := s.core k
  let sl := c.slot site.slot.toNat
  let held := (c.iline sl.gen sl.ptr).isSome
  if c.fenced || decide (sl.st ≠ 1) || c.busy site.slot then s
  else
    match cause with
    | .miss =>
      if held then s
      else ((s.updCore k (·.count 0x310 1)).demandLine site).specLine site.core sl.gen (lineStart sl.ptr + 64)
    | .parity fails =>
      if !held then s
      else
        let s := s.updCore k (·.dropIline sl.gen (lineStart sl.ptr))
        if fails then s.failSlot site 0x00 { status := stPoisoned } else s.demandLine site

/-- A slot's next command misses, or the parity of its line fails. -/
def execIcacheFill (site : Site) (cause : FillCause) (s : State) : Host.Outcome State Fault Refusal :=
  .next ((((s.prelude site.core).fillFor site cause).rejectReserved site.core).flushRacc site.core)

/-! ### RUN_AHEAD_FETCH (R107 to R109) -/

/-- How far the scan of the stream has come. -/
structure Scan where
  ptr : VA
  loops : List LoopLevel
  /-- Entries of commands that execution has not reached. -/
  ahead : List Ahead
  /-- Queues to which a command pushes that is no FETCH already issued. -/
  blocked : List (BitVec 4) := []
  /-- A command on the way writes a counter. -/
  counters : Bool := false
  deriving DecidableEq, Repr

/-- The queues that a command which is no FETCH pushes to (R85, R123, R130, R139, R143, R148, R151). -/
def pushesTo (op : Byte) (w : CmdWord) : List (BitVec 4) :=
  let v := vopOf w
  if op = 0x12 then if opdiagOp w = 5 then [] else [w.qo]
  else if op = 0x14 then [w.qo]
  else if op.toNat < 0x40 ∨ 0x4D < op.toNat ∨ v.rows = 0 then []
  else
    let reduce := decide (op = 0x44 ∨ op = 0x46) && !v.sb 0
    (if reduce && !v.sb 2 then [] else [w.qo]) ++ (if reduce || decide (op = 0x4B) || (decide (op = 0x48) && v.sb 1) then [v.qs] else [])

/-- The FETCH takes its span from counters (R131, R132): it is not issued ahead of a command that writes a counter, nor is a hint issued
ahead (log entry 75). -/
def usesCounters (w : CmdWord) : Bool := w.b 119 || decide (w.f 35 34 ≠ 0)

/-- Goes on behind a command. -/
def Scan.pass (a : Scan) : Scan :=
  let r := loopBack (nextPtr a.ptr 1) a.loops
  { a with ptr := r.1, loops := r.2 }

/-- What the resident translations say of a span (R109). -/
inductive Span where
  | stops | dropped | open_
  deriving DecidableEq, Repr

/-- The span of a FETCH: its rows in device memory, and the scale bytes of its panels. -/
def State.spanOf (s : State) (core : CoreId) (t : Xfer) : Span :=
  let vs := t.devRows.flatMap fun r => (sectorsOf r.1 r.2).map fun e => (BitVec.ofNat 48 e.1 : VA)
  let rs := vs.map fun v => s.resident (.core core) v
  if rs.any (·.isNone) then .stops
  else if rs.any fun r => match r with
      | some t => !permits .r t.pte
      | none => true
    then .dropped
  else .open_

/-- A FETCH of slot 0 as run-ahead issues it. -/
def State.aheadCtx (s : State) (core : CoreId) (va : VA) (w : CmdWord) : Ctx :=
  let c := s.core core.toNat
  { site := { core := core, slot := 0 }, id := c.clock, op := 0x20, w := w, ptr := va, ctr := c.ctr }

/-- Where a scan ends: at the FETCH looked for, which may be issued ahead; at one whose page is not resident, where the engine stops; or
before either. -/
inductive Scanned where
  | found
  | page (va : VA)
  | no
  deriving DecidableEq, Repr

/-- Where a scan begins: commands of the stream that are in execution push too. -/
def State.scanStart (s : State) (core : CoreId) : Scan :=
  let c := s.core core.toNat
  let rs := c.runs.filter fun r => decide (r.slot = 0)
  { ptr := (c.slot 0).ptr, loops := (c.slot 0).loops, ahead := c.ahead,
    blocked := rs.flatMap fun r => if r.op = 0x20 then [r.w.qo] else pushesTo r.op r.w }

/-- Scans up to `n` commands ahead of execution for the FETCH `w` at `va`. -/
def State.scanAhead (s : State) (core : CoreId) (gen : BitVec 16) (va : VA) (w : CmdWord) : Nat → Scan → Scanned
  | 0, _ => .no
  | n + 1, a =>
    if (s.core core.toNat).raStop = some a.ptr then .no
    else
    match (s.core core.toNat).iword gen a.ptr with
    | none => .no
    | some x =>
      let d := CmdWord.decode x
      let y := d.2
      if d.1 = 0x20 then
        if y.predSrc ≠ 0 ∨ y.predInv then .no
        else
          match a.ahead.find? fun e => decide (e.va = a.ptr ∧ e.w = y) with
          | some e =>
            let a := { a with ahead := a.ahead.erase e, blocked := if e.dropped then e.q :: a.blocked else a.blocked }
            s.scanAhead core gen va w n a.pass
          | none =>
            if a.counters && usesCounters y then .no
            else if s.spanOf core (xferOf (s.aheadCtx core a.ptr y)) = .stops then .page a.ptr
            else if a.ptr = va ∧ y = w ∧ !y.b 125 ∧ !(a.blocked.contains y.qo) then .found
            else
              let a := { a with blocked := if y.b 125 then a.blocked else y.qo :: a.blocked }
              s.scanAhead core gen va w n a.pass
      else if d.1 = 0x01 ∨ d.1 = 0x05 ∨ d.1 = 0x06 ∨ d.1 = 0x21 then .no
      else
        let a := { a with blocked := pushesTo d.1 y ++ a.blocked,
                          counters := a.counters || decide (d.1 = 0x08 ∨ d.1 = 0x09 ∨ d.1 = 0x0A) }
        s.scanAhead core gen va w n a.pass

/-- The merge windows in which a FETCH issued ahead waits are sent. -/
def State.sendOwn (s : State) (x : Ctx) : State :=
  (s.runOf x).pieces.foldl (fun s p => match p with
    | .waits pa none => s.sendWindow (clusterOf x.site.core) (lineOfPa pa.toNat) false
    | _ => s) s

/-- The FETCH of a run-ahead as far as it can be served now; none: it cannot. -/
def State.fetchAhead (s : State) (x : Ctx) : Option State :=
  match bodyFetch x s with
  | .done t => some t
  | .more t y _ =>
    let t := (t.putRun y).sendOwn y
    match bodyFetch { toRun := t.runOf y, site := x.site } t with
    | .done t => some t
    | _ => none
  | _ => none

/-- A FETCH is issued ahead of execution (R108, R109). -/
def State.issueAhead (s : State) (core : CoreId) (va : VA) (w : CmdWord) : State :=
  let k := core.toNat
  let c := s.core k
  let x := s.aheadCtx core va w
  let t := xferOf x
  let note (s : State) (n : Nat) (dropped : Bool) : State := s.updCore k fun d =>
    { (d.dropRun x.id).count (if dropped then 0x328 else 0x320) 1 with
      ahead := c.ahead ++ [{ va := va, w := w, q := w.qo, words := n, dropped := dropped }] }
  if s.creditWords core w.qo.toNat * 4 < t.pushed ∨ c.clogged w.qo then s
  else
    match s.spanOf core t with
    | .stops => s
    | .dropped => note s 0 true
    | .open_ =>
      if !fetchOk s x then s
      else
        match (s.updCore k fun c => { c with ahead := [] }).fetchAhead x with
        | some t' => note t' (t.pushed / 4) false
        | none => s

/-- The fetch engine issues the FETCH `w` at `va` where R107 to R109 allow it now, and stops at a FETCH on the way whose span reaches a
page without a resident translation; its body's checks, or a memory that turns it away, leave it to execution. -/
def execRunAheadFetch (core : CoreId) (va : VA) (w : CmdWord) (s : State) : Host.Outcome State Fault Refusal :=
  let c := s.core core.toNat
  let sl := c.slot 0
  let site : Site := { core := core, slot := 0 }
  if !bit c.ctrl 0 || c.fenced || decide (sl.st ≠ 1) || !s.storesDone site || sl.swap.isSome ||
      c.runs.any (fun r => decide (r.op = 0x21)) then .next s
  else
    match s.scanAhead core sl.gen va w (16 * bits c.ctrl 8 4) (s.scanStart core) with
    | .found => .next (s.issueAhead core va w)
    | .page p => .next (s.updCore core.toNat fun c => { c with raStop := some p })
    | .no => .next s

/-! ### LINK_QUEUE_PUSH (R96) -/

/-- The oldest push in flight from a link queue. -/
def State.oldestPush (s : State) (core : CoreId) (q : BitVec 2) : Option Push :=
  s.net.pushes.find? fun p => decide (p.src = core ∧ p.srcQ.toNat = 10 + q.toNat)

/-- Takes a push out of flight. -/
def State.dropPush (s : State) (p : Push) : State := { s with net := { s.net with pushes := s.net.pushes.erase p } }

/-- What turns a push back on its way to its ring: the peer is fenced (R97), a link on its way is (R194), or its half is still (R204). -/
def State.pushTurned (s : State) (p : Push) : Option Turned := s.turnedTo (.core p.src) p.dst

/-- The oldest push of a link queue enters the peer's ring; one that is to be bounced waits for FENCED_BOUNCE. -/
def execLinkQueuePush (core : CoreId) (q : BitVec 2) (s : State) : Host.Outcome State Fault Refusal :=
  match s.oldestPush core q with
  | none => .next s
  | some p => if (s.pushTurned p).isSome then .next s else .next ((s.dropPush p).append p.dst.toNat p.dstQ.toNat p.data)

/-! ### FENCED_BOUNCE (R97, R161, R194, R196, R204) -/

/-- The command that pushed ends: it is in execution no longer, and what it had still to push goes. -/
def Core.endPusher (c : Core) (o : From) : Core :=
  let ids := (c.runs.filter fun r => decide (r.slot = o.slot ∧ r.op = o.opcode ∧ r.ptr = o.ptr)).map (·.id)
  let c := ids.foldl (fun c id => c.dropRun id) c
  { c with backlog := c.backlog.filter fun b => decide (b.src ≠ o) }

/-- The other pushes of the command that a push belongs to. -/
def Net.tell (n : Net) (p : Push) : Net :=
  { n with pushes := n.pushes.map fun y => if y.src = p.src ∧ y.origin = p.origin then { y with told := true } else y }

/-- A push that comes back: its command completes with FENCED, and the slot's pointer stands at it (R97), at the FUSE where it is the
member of a group. A command of which several pushes come back fails once (R102). -/
def State.bouncePush (s : State) (p : Push) : State :=
  let k := p.src.toNat
  let o := p.origin
  let s := (s.dropPush p).noteTurn (s.pushTurned p)
  if p.told then s
  else
    let s := ({ s with net := s.net.tell p } : State).updCore k fun c =>
      (c.endPusher o).updSlot o.slot.toNat fun sl => if sl.st = 3 then sl else { sl with ptr := o.ptr, loops := o.loops }
    s.failSlot { core := p.src, slot := o.slot } o.opcode { status := stFenced }

def execFencedBounce (what : Bounced) (s : State) : Host.Outcome State Fault Refusal :=
  match what with
  | .push core q =>
    match s.oldestPush core q with
    | none => .next s
    | some p => .next (if (s.pushTurned p).isSome then s.bouncePush p else s)
  | .token src target =>
    match s.net.tokens.find? fun t => decide (t.src = some src ∧ t.target = target) with
    | none => .next s
    | some t =>
      match s.turnedTo (.core src.core) target with
      | some w =>
        .next { s.countTurn w with net := { s.net with tokens := s.net.tokens.erase t, returning := s.net.returning ++ [t] } }
      | none => .next s
  | .response core =>
    if !s.fencedCore core.toNat then .next s
    else
      match s.net.acks.find? fun a => decide (a.site.core = core) with
      | none => .next s
      | some a => .next { s.countTurn (.router (clusterOf core)) with net := { s.net with acks := s.net.acks.erase a } }

/-! ### Fences of a core (R64, R73, R102, R195) -/

/-- The mode that a product command calls for (R67). -/
def productInt (op : Byte) (w : CmdWord) : Bool :=
  if op = 0x10 then decide (Fmt.ofCode (BitVec.ofNat 4 (w.f 37 34)) = .int8)
  else if op = 0x12 then (opdiagSlice w).int
  else true

/-- What a command that a fence or reset stops leaves: the target tiles of a product POISONED (R73), in its own mode with ACC = 0 (R67),
with the flags of the steps it has executed (R72); the bedstones of a BEDLOAD not loaded (R64). -/
def Core.stopRun (c : Core) (r : Run) : Core :=
  let c := (targetTiles r.op r.w).foldl (fun (c : Core) k =>
    let t := c.tile k
    let t : Tile := if r.w.acc ∨ 0 < r.unit then t else { int := productInt r.op r.w }
    { c.setTile k t.poisonAll with pseen := true }) c
  if r.op = 0x13 then { c with beds := (bitList 4 r.w.emask.toNat).foldl (fun m e => SMap.set {} m e {}) c.beds } else c

/-- Every command in execution stops. -/
def Core.stopRuns (c : Core) : Core :=
  let d := c.runs.foldl Core.stopRun c
  { d with runs := [], backlog := [], rings := (d.rings.map fun e => (e.1, { e.2 with staged := [] })).filter fun e => decide (e.2 ≠ {}) }

/-- A fence: every slot that is not FAULTED becomes FAULTED with FENCED and opcode 0, its pointer at the first command not issued. -/
def Core.fence (c : Core) : Core :=
  let c := c.stopRuns.cancelAhead
  let faulted (c : Core) (n : Nat) : Core := c.updSlot n fun sl =>
    if sl.st = 3 then sl
    else { sl with st := 3, fault := w32 stFenced.toNat, stop := false, swap := none, group := none }
  { (List.range 4).foldl faulted c with fenced := true }

/-- A core is fenced, and the fence reported: cause 0 FENCE_CMD, 1 control-state parity, 2 audit. Tokens held back at it go home (R192), and
the read data that its FETCHes wait for are turned back at its router (R196, log entry 15). -/
def State.fenceCore (s : State) (core : CoreId) (cause : Nat) : State :=
  if !s.hasCore core || (s.core core.toNat).fenced then s
  else
    let lost := ((s.core core.toNat).runs.map fun r => (r.pieces.filter Piece.waiting).length).sum
    (((s.returnHeld core.toNat).updCluster (clusterOf core) (·.count 0x3C lost)).updCore core.toNat Core.fence).notify 0x0004 [w32 core.toNat, w32 cause]

def execControlStateParity (core : CoreId) (s : State) : Host.Outcome State Fault Refusal := .next (s.fenceCore core 1)

/-! ### STORE_ACK (R135, R221) -/

/-- The oldest answer to a STORE of the slot whose invalidations, and those of its line that were on their way before it, have all been
acknowledged reaches the core; one that is not OK
faults the slot. -/
def execStoreAck (site : Site) (s : State) : Host.Outcome State Fault Refusal :=
  let ready (a : StoreAck) : Bool := decide (a.site = site) &&
    !(s.net.invals.any fun i => decide ((i.wid = a.wid ∧ a.wid ≠ 0) ∨ (i.line = a.line ∧ i.seq < a.seq)))
  if (s.core site.core.toNat).fenced then .next s
  else
    match s.net.acks.find? ready with
    | none => .next s
    | some a =>
      let s := { s with net := { s.net with acks := s.net.acks.erase a } }
      .next (if a.status = stOk then s else s.failSlot site 0x21 { status := a.status, va := a.va })

end Sys2Proof.Machine
end

