-- ==== Sys2Proof/Machine/Stream.lean ====
section
/-! DEFINITION. Events of the cluster shared memory (R185) and of the cluster stream units (R246 to R256). -/

namespace Sys2Proof.Machine

open Sys2Proof

/-! ### Windows -/

/-- CSM_WINDOW_CLOSE (R185): a read window of a sector closes; its readers have their data. -/
def execCsmWindowClose (cluster : BitVec 6) (sector : BitVec 15) (s : State) : Host.Outcome State Fault Refusal :=
  .next (s.updCluster cluster.toNat fun c =>
    match c.wins.find? fun w => decide (w.sector = sector) with
    | some w => { c with wins := c.wins.erase w }
    | none => c)

/-- MERGE_WINDOW_SEND (R248): a window goes to its controller as one request; it takes no more joiners. -/
def execMergeWindowSend (cluster : BitVec 6) (line : BitVec 32) (write : Bool) (s : State) : Host.Outcome State Fault Refusal :=
  .next (s.sendWindow cluster.toNat line write)

/-! ### PREFETCH_ISSUE (R251 to R253) -/

/-- The sectors of a frame that no demand has hit. -/
def CFrame.unhit (f : CFrame) : List Nat := bitList 4 (f.valid &&& ~~~ f.hit).toNat

namespace Csu

/-- The effective window in bytes, for a CSU area of `units` (R251). -/
def window (c : Csu) (units : Nat) : Nat := (bits c.cfg 9 0 * 4096) ⊓ (units * 65536)

/-- Bytes that stream `k` holds (R251). -/
def held (c : Csu) (k : Nat) : Nat :=
  64 * ((c.frames.map fun f => (f.unhit.filter fun i => decide (f.owner i = some (BitVec.ofNat 4 k))).length).sum +
    (c.inflight.map fun r => if r.live ∧ r.stream.toNat = k then popcount 4 r.sectors.toNat else 0).sum)

/-- A line has a request in flight whose data will be kept. -/
def coming (c : Csu) (line : BitVec 32) : Bool := c.inflight.any fun r => decide (r.line = line) && r.sound

/-- A sector is resident or in flight. -/
def has (c : Csu) (line : BitVec 32) (sec : Nat) : Bool :=
  c.frames.any (fun f => lineHas f line sec) || (c.flying (line.toNat * 256 + 64 * sec)).isSome

/-- A frame stays: it holds an unhit sector within the window of an active stream. -/
def keeps (c : Csu) (units : Nat) (f : CFrame) : Bool :=
  f.unhit.any fun i => match f.owner i with
    | some k => decide (c.held k.toNat ≤ c.window units)
    | none => false

/-- Takes a frame (R253); none: no frame qualifies. Frames stand most recently used first; one whose line has a request in flight holds
the frame of that request, and is not taken. -/
def evict (c : Csu) (units : Nat) : Option Csu :=
  let old := c.frames.reverse.filter fun f => !c.coming f.line
  match old.find? fun f => f.unhit.isEmpty with
  | some f => some { c with frames := c.frames.erase f }
  | none =>
    match old.find? fun f => !c.keeps units f with
    | some f => some { c.count 0x1C f.unhit.length with frames := c.frames.erase f }
    | none => none

/-- Takes frames until prefetch holds at most `room` of them, as far as frames qualify; `fuel` bounds the frames. -/
def shrink (units room : Nat) : Nat → Csu → Csu
  | 0, c => c
  | fuel + 1, c =>
    if c.lines.length ≤ room then c
    else match c.evict units with
      | some d => shrink units room fuel d
      | none => c

/-- Frees a frame for a line where prefetch may hold `room` frames (R253); none: the request waits. -/
def makeRoom (c : Csu) (units room : Nat) (line : BitVec 32) : Option Csu :=
  if c.lines.contains line then some c
  else if room = 0 then none
  else
    let c := shrink units (room - 1) c.frames.length c
    if c.lines.length < room then some c else none

/-- A stream has been issued to its end (R250). -/
def endStream (c : Csu) (k : Nat) : Csu :=
  { c with streams := SMap.set none c.streams k none,
           frames := c.frames.map (·.disown k),
           inflight := c.inflight.map fun r => if r.stream.toNat = k then { r with live := false } else r }

end Csu

/-- Prefetch gives up the frames that widening has taken ahead of it (R324). -/
def State.yieldFrames (s : State) : State :=
  s.csus.foldl (fun s e => s.updCsu e.1 fun c => Csu.shrink (s.csuUnits e.1) (s.frameRoom e.1) c.frames.length c) s

/-- What remains of a span behind the part of its first row that lies in the present line. -/
def passLine : List (VA × Nat) → List (VA × Nat)
  | [] => []
  | (a, n) :: rest =>
    let k := 256 - a.toNat % 256
    if n ≤ k then rest else (a + BitVec.ofNat 48 k, n - k) :: rest

/-- The sectors of its line that the first row of a span covers. -/
def lineSectors (a : VA) (n : Nat) : List Nat :=
  let o := a.toNat % 256
  (List.range 4).filter fun i => decide (o < 64 * (i + 1) ∧ 64 * i < o + n)

/-- Reads the sectors `secs` of a line for a prefetch, and those that the demand window `win`, which the prefetch joins, asks for, each
once: the line's 64 words, and the first status that is not OK. The window's sectors reach their demands. -/
def State.pfRead (s : State) (k : Nat) (line : BitVec 32) (noalloc : Bool) (secs win : BitVec 4) : List QW × Status × State :=
  (List.range 4).foldl (fun (a : List QW × Status × State) i =>
    let pa := line.toNat * 256 + 64 * i
    if (secs ||| win).getLsbD i then
      match a.2.2.mcRead pa noalloc with
      | (v, s) =>
        let s := if win.getLsbD i then s.answer k pa none v.piece else s
        if secs.getLsbD i then
          match v with
          | .ok d => (a.1 ++ d, a.2.1, s)
          | .bad st => (a.1 ++ List.replicate 16 ⟨0, true⟩, if a.2.1 = stOk then st else a.2.1, s)
        else (a.1 ++ List.replicate 16 ({} : QW), a.2.1, s)
    else (a.1 ++ List.replicate 16 ({} : QW), a.2.1, a.2.2)) ([], stOk, s)

/-- Sends the request for sectors of a line: it is served by its controller now, and returns with PREFETCH_RETURN. An open read window
of the line is sent with it (R251). -/
def State.pfSend (s : State) (k st pa : Nat) (noalloc : Bool) (secs : BitVec 4) : State :=
  let line := lineOfPa pa
  let p := s.place (pa / 256 * 256)
  let n := popcount 4 secs.toNat
  let win : BitVec 4 := match (s.csu k).win line false with
    | some w => w.sectors
    | none => 0
  let s := s.updCsu k fun c =>
    ((c.dropWin line false).count 0x10 n).count 0x38 (if win = 0 then 0 else n)
  match (match s.turned (.csu k) (.stack p.stack) with
    | some t => (List.replicate 64 ({} : QW), stFenced, (s.countTurn t).serveLine k line win noalloc)
    | none =>
      match s.pfRead k line noalloc secs win with
      | (d, e, s) => (d, e, if e = stOk then s.dirRecord p.stack (p.off / 256) line k else s)) with
  | (d, e, s) =>
    let r : PfReq := { stream := BitVec.ofNat 4 st, line := line, sectors := secs, data := d, status := e, seq := s.net.seq }
    let s := { s with net := { s.net with seq := s.net.seq + 1 } }
    s.updCsu k fun c => { c with inflight := c.inflight ++ [r] }.useStream (some (BitVec.ofNat 4 st))

/-- Moves a stream on behind the present line; at its end its entry is free. -/
def State.pfPass (s : State) (k st : Nat) : State :=
  s.updCsu k fun c =>
    match SMap.get none c.streams st with
    | none => c
    | some t =>
      let rows := passLine t.rows
      if rows.isEmpty then c.endStream st else { c with streams := SMap.set none c.streams st (some { t with rows := rows }) }

/-- The next request of a stream; lines with nothing to fetch are passed over. `fuel` bounds their number. -/
def State.pfIssue (s : State) (k st : Nat) : Nat → State
  | 0 => s
  | fuel + 1 =>
    let c := s.csu k
    let units := s.csuUnits k
    match SMap.get none c.streams st with
    | none => s
    | some t =>
      match t.rows with
      | [] => s.updCsu k (·.endStream st)
      | (a, n) :: _ =>
        if n = 0 then (s.pfPass k st).pfIssue k st fuel
        else
          match (if t.barred.contains (a.toNat / 2 ^ 21) then (.bad causeNotValid, s) else s.translate (.csu (BitVec.ofNat 6 k)) a .r : Xl × State) with
          | (.bad _, s) => s.updCsu k fun c =>
              { c.count 0x28 1 with streams := SMap.set none c.streams st (some { t with stopped := true }) }
          | (.ok pa noalloc, s') =>
            let line := lineOfPa pa
            let secs := (lineSectors a n).filter fun i => !c.has line i
            if secs.isEmpty then (s'.pfPass k st).pfIssue k st fuel
            else if c.held st + 64 * secs.length > c.window units ∨ c.trackers + secs.length > bits c.cfg 27 16 ∨
                3072 < s.trackersIn k + s.demandNeed k + secs.length then s
            else if s.storePending k line then s'.sendWindow k line true
            else
              match c.makeRoom units (s.frameRoom k) line with
              | none => s
              | some c => ((s'.updCsu k fun _ => c).pfSend k st pa noalloc (maskOf secs)).pfPass k st

/-- A turn of a stream: where it is active and has not stopped it issues its next request, or waits. -/
def State.pfTurn (s : State) (k st : Nat) : State :=
  match SMap.get none (s.csu k).streams st with
  | none => s
  | some t =>
    if t.stopped ∨ bits (s.csu k).cfg 27 16 = 0 then s else s.pfIssue k st ((t.rows.map fun r => r.2 / 256 + 2).sum + 1)

/-- The stream can issue a request now. -/
def State.pfCan (s : State) (k st : Nat) : Bool := decide (((s.pfTurn k st).csu k).inflight.length ≠ (s.csu k).inflight.length)

/-- The stream whose turn it is: of those that can issue, the first behind the one that issued last (R251). -/
def State.pfNext (s : State) (k : Nat) : Option Nat :=
  ((List.range 16).map fun d => ((s.csu k).turn.toNat + 1 + d) % 16).find? (s.pfCan k)

/-- PREFETCH_ISSUE: a stream issues its next request when it is its turn, or goes on to where it waits or ends. -/
def execPrefetchIssue (cluster : BitVec 6) (stream : BitVec 4) (s : State) : Host.Outcome State Fault Refusal :=
  let k := cluster.toNat
  if !s.pfCan k stream.toNat then .next (s.pfTurn k stream.toNat)
  else if s.pfNext k ≠ some stream.toNat then .next s
  else .next ((s.pfTurn k stream.toNat).updCsu k fun c => { c with turn := stream })

/-! ### PREFETCH_RETURN (R254, R256) -/

/-- Data arrive and are held with their marks; a sector for which a demand waited counts as late and useful. -/
def Csu.fill (c : Csu) (r : PfReq) : Csu :=
  let sec (i : Nat) : List QW := (r.data.drop (16 * i)).take 16
  let secs := bitList 4 r.sectors.toNat
  let bad := (secs.filter fun i => (sec i).any (·.p)).length
  let late := popcount 4 (r.sectors &&& r.demanded).toNat
  let c := ((c.count 0x2C bad).count 0x14 late).count 0x18 late
  let slot := ((List.range (c.frames.length + 1)).find? fun i => c.frames.all fun f => decide (f.slot ≠ i)).getD 0
  let f : CFrame := (c.frames.find? fun f => decide (f.line = r.line)).getD
    { line := r.line, valid := 0, hit := 0, data := List.replicate 64 {}, slot := slot }
  let data := (List.range 4).flatMap fun i => if r.sectors.getLsbD i then sec i else (f.data.drop (16 * i)).take 16
  let own := secs.foldl (fun m i => SMap.set none m i (if r.live then some r.stream else none)) f.own
  let g : CFrame := { f with valid := f.valid ||| r.sectors, hit := (f.hit &&& ~~~ r.sectors) ||| (r.sectors &&& r.demanded),
                             data := data, own := own, wrong := f.wrong &&& ~~~ wordMask r.sectors }
  { c with frames := g :: c.frames.filter fun f => decide (f.line ≠ r.line) }

/-- A write of the cluster has passed the line: nothing is kept. What no demand waited for is stale (R255). -/
def Csu.pass (c : Csu) (r : PfReq) : Csu :=
  let sec (i : Nat) : List QW := (r.data.drop (16 * i)).take 16
  let bad := ((bitList 4 r.sectors.toNat).filter fun i => (sec i).any (·.p)).length
  let late := popcount 4 (r.sectors &&& r.demanded).toNat
  (((c.count 0x2C bad).count 0x14 late).count 0x18 late).count 0x20 (popcount 4 (r.sectors &&& ~~~ r.demanded).toNat)

/-- A prefetch that is not filled: its sectors count as cancelled. -/
def Csu.noFill (c : Csu) (r : PfReq) : Csu := c.count 0x24 (popcount 4 r.sectors.toNat)

/-- The stream of a prefetch stops. -/
def Csu.stop (c : Csu) (r : PfReq) : Csu :=
  match (if r.live then SMap.get none c.streams r.stream.toNat else none) with
  | some t => { c with streams := SMap.set none c.streams r.stream.toNat (some { t with stopped := true }) }
  | none => c

/-- The demands that wait on a prefetch come to `f` of their sector's words. -/
def State.handOut (s : State) (k : Nat) (r : PfReq) (f : List QW → Piece) : State :=
  (bitList 4 (r.sectors &&& r.demanded).toNat).foldl (fun s i =>
    s.answer k (r.line.toNat * 256 + 64 * i) (some r.seq) (f ((r.data.drop (16 * i)).take 16))) s

/-- The answer that a request meets: what its controller turned it away with, else what this return says. -/
def PfReq.answer (r : PfReq) (a : PfAnswer) : PfAnswer :=
  if r.status = stOk then a
  else if r.status = stAborted then .aborted
  else if r.status = stFenced then .fenced
  else .busy

/-- PREFETCH_RETURN: the oldest prefetch in flight returns, behind an invalidation of its line that its controller sent before it. A
demand that waited on it has its data, has its sector poisoned where the prefetch was aborted, or asks anew. -/
def execPrefetchReturn (cluster : BitVec 6) (answer : PfAnswer) (s : State) : Host.Outcome State Fault Refusal :=
  let k := cluster.toNat
  match (s.csu k).inflight with
  | [] => .next s
  | r :: rest =>
    if s.net.invals.any fun i => decide (i.csu = cluster ∧ i.line = r.line ∧ i.seq < r.seq) then .next s
    else
      let again (s : State) : State := s.handOut k r fun _ => .todo
      let s := s.updCsu k fun c => { c with inflight := rest }
      .next (if r.cancelled then again (s.updCsu k (·.noFill r))
        else
          match r.answer answer with
          | .data => (s.updCsu k fun c => if r.stale then c.pass r else c.fill r).handOut k r fun d => .got d stOk
          | .aborted => (s.updCsu k (·.noFill r)).handOut k r fun _ => (SecAnswer.bad stAborted).piece
          | .busy => again (s.updCsu k fun c => (c.noFill r).stop r)
          | .fenced => again (s.updCsu k fun c => (c.noFill r).stop r))

/-! ### CSU_INVALIDATION (R231, R255) -/

/-- The oldest invalidation of a line arrives, behind the data of every read of that line that its controller served to this CSU
before it. -/
def execCsuInvalidation (cluster : BitVec 6) (line : BitVec 32) (s : State) : Host.Outcome State Fault Refusal :=
  match s.net.invals.find? fun i => decide (i.csu = cluster ∧ i.line = line) with
  | none => .next s
  | some i =>
    if (s.csu cluster.toNat).inflight.any fun r => decide (r.line = line ∧ r.seq < i.seq ∧ r.status = stOk) then .next s
    else
      let s := { s with net := { s.net with invals := s.net.invals.erase i } }
      .next (s.updCsu cluster.toNat (·.dropLine line (if i.evict then 0x1C else 0x20)))

/-! ### PAGE_WALK (R234, R235) -/

/-- The unit is there. -/
def State.hasRequester (s : State) (who : Requester) : Bool :=
  match who with
  | .core id => s.hasCore id
  | .csu k => s.hasCluster k.toNat
  | .ce h => s.hasCe h.toNat
  | .port n => s.hasPort n.toNat

/-- An address of the span of an active stream: the only ones for which its unit walks (R252). -/
def Csu.spans (c : Csu) (va : VA) : Bool :=
  c.streams.any fun e => match e.2 with
    | some t => !t.stopped && t.rows.any fun r => decide (r.1.toNat ≤ va.toNat ∧ va.toNat < r.1.toNat + r.2)
    | none => false

/-- A unit that misses its translation buffer may walk an address. -/
def State.mayWalk (s : State) (who : Requester) (va : VA) : Bool :=
  match who with
  | .csu k => (s.csu k.toNat).spans va
  | _ => true

/-- A walk of a page has failed for prefetch (R252): the streams whose spans reach it stop before it, one that is there now at once. -/
def Csu.bar (c : Csu) (va : VA) : Csu :=
  c.streams.foldl (fun c e => match e.2 with
    | none => c
    | some t =>
      let page := va.toNat / 2 ^ 21
      if t.stopped ∨ !(t.rows.any fun r => decide (r.1.toNat ≤ va.toNat ∧ va.toNat < r.1.toNat + r.2)) then c
      else if t.rows.head?.any fun r => decide (r.1.toNat / 2 ^ 21 = page) then
        { c.count 0x28 1 with streams := SMap.set none c.streams e.1 (some { t with stopped := true }) }
      else { c with streams := SMap.set none c.streams e.1 (some { t with barred := page :: t.barred }) }) c

/-- A miss of a translation buffer is walked: the buffer takes the leaf, or the cause is counted. -/
def execPageWalk (who : Requester) (va : VA) (acc : Access) (s : State) : Host.Outcome State Fault Refusal :=
  if s.hasRequester who && s.mayWalk who va && (s.resident who va).isNone then
    match s.translate who va acc, who with
    | (.bad _, s), .csu k => .next (s.updCsu k.toNat (·.bar va))
    | (_, s), _ => .next s
  else .next s

end Sys2Proof.Machine
end

