-- ==== Sys2Proof/Machine/Memory.lean ====
section
/-! DEFINITION. Events of the memory controllers (R209 to R221, R229), of the seam (R199 to R201) and of the auditor (R193, R194). -/

namespace Sys2Proof.Machine

open Sys2Proof

/-! ### Spare lanes (R210 to R213) -/

namespace Channel

/-- Marks of a spare: free, or failed without carrying a lane. -/
def spareFree : BitVec 6 := 63
def spareBad : BitVec 6 := 62

/-- What spare d carries. -/
def spare (c : Channel) (d : Nat) : BitVec 6 := SMap.get spareFree c.spares d
def setSpare (c : Channel) (d : Nat) (lane : BitVec 6) : Channel := { c with spares := SMap.set spareFree c.spares d lane }

/-- The spare that carries a functional lane. -/
def carrier (c : Channel) (lane : BitVec 6) : Option Nat := (List.range 4).find? fun d => decide (c.spare d = lane)

/-- A spare takes over a lane; one that carried the lane before has failed (R213). -/
def takeOver (c : Channel) (d : Nat) (lane : BitVec 6) : Channel :=
  let c := (List.range 4).foldl (fun c e => if c.spare e = lane ∧ lane.toNat < 36 then c.setSpare e spareBad else c) c
  c.setSpare d lane

/-- Spare d is in use: it carries a lane. -/
def inUse (c : Channel) (d : Nat) : Bool := decide ((c.spare d).toNat < 36 ∧ c.carrier (c.spare d) = some d)

/-- Gives each lane the lowest-numbered free spare; none: there are too few (R212). -/
def assign (c : Channel) : List (BitVec 6) → Option Channel
  | [] => some c
  | l :: rest =>
    match (List.range 4).find? fun d => decide (c.spare d = spareFree) with
    | none => none
    | some d => (c.setSpare d l).assign rest

/-- The functional lanes that need a spare, of lanes that fail a test, in their order: one not yet replaced, and one whose spare
fails (R213). -/
def needing (c : Channel) (failing : List (BitVec 6)) : List (BitVec 6) :=
  failing.filterMap fun l =>
    if l.toNat < 36 then (if (c.carrier l).isNone then some l else none)
    else if l.toNat < 40 ∧ c.inUse (l.toNat - 36) then some (c.spare (l.toNat - 36))
    else none

/-- Spares that fail are not given out again. -/
def retireSpares (c : Channel) (failing : List (BitVec 6)) : Channel :=
  (List.range 4).foldl (fun c d => if failing.any fun l => decide (l.toNat = 36 + d) then c.setSpare d spareBad else c) c

/-- R213 applied to the lanes that a test finds failing. -/
def repair (c : Channel) (failing : List (BitVec 6)) : Option Channel :=
  let need := c.needing failing.eraseDups
  (c.retireSpares failing).assign need

end Channel

/-! ### A failed channel (R215) -/

/-- Takes a channel's lines out of the memory-side cache. -/
def Mc.dropChannel (m : Mc) (ch : Nat) : Mc :=
  let keep (x : MSet) : MSet := { x with ways := x.ways.filter fun w => decide (channelOf (w.2.line * 256) ≠ ch) }
  { m with msc := (m.msc.map fun e => (e.1, keep e.2)).filter fun e => decide (e.2 ≠ {}) }

/-- Takes a sector out of its line. -/
def Mc.dropSector (m : Mc) (line sec : Nat) : Mc :=
  let x := m.set line
  m.putSet line { x with ways := x.ways.map fun w =>
    if w.2.line = line then (w.1, { w.2 with valid := w.2.valid &&& ~~~ (BitVec.ofNat 4 (2 ^ sec)) }) else w }

namespace State

/-- A sector gets contents that the manual does not give: free bytes and a free mark (log entry 5). -/
def freeSector (s : State) (pa : Nat) : State :=
  let v (i : Nat) : W64 := Config.free64 (s.fresh + i)
  let p := (v 8).getLsbD 0
  let ws : List QW := (List.range 8).flatMap fun i => [⟨lo32 (v i), p⟩, ⟨hi32 (v i), p⟩]
  { s with mem := s.mem.writeSector pa 0xFFFF ws, fresh := s.fresh + 9 }

/-- The dirty sectors that a cache holds of a channel: stack offsets, ascending by set and way. -/
def dirtyOf (s : State) (stack ch : Nat) : List Nat :=
  (s.mc stack).msc.flatMap fun e => e.2.ways.flatMap fun w =>
    if channelOf (w.2.line * 256) = ch then (bitList 4 w.2.dirty.toNat).map fun i => w.2.line * 256 + 64 * i else []

/-- A channel becomes FAILED: its cached lines go, dirty data included, so that what the stack then holds of those sectors is
free; recorded once, and reported. No write has been dropped yet; the first is reported as it is (`dropWrite`; log entry 77). -/
def failChannel (s : State) (stack ch : Nat) : State :=
  let lost := (s.dirtyOf stack ch).map fun o => s.paOf { stack := stack, off := o }
  let s := lost.foldl (fun s a => s.freeSector a) s
  let s := s.updMc stack fun m => (m.dropChannel ch).updChan ch fun c => { c with st := 4, run := 0, runPas := [], told := false }
  let s := s.lmAddNew lmChannelFailed (BitVec.ofNat 48 (stack + 16 * ch))
  s.notify 0x0007 ([w32 stack, w32 ch, 3] ++ paWords 0)

/-- Records the spares that a channel has been given since (R212, R214). -/
def recordSpares (s : State) (stack ch : Nat) (old new : Channel) : State :=
  (List.range 4).foldl (fun s d =>
    if new.spare d ≠ old.spare d ∧ (new.spare d).toNat < 36 then
      s.lmAdd lmLaneSpare (BitVec.ofNat 48 (stack + ch * 2 ^ 4 + d * 2 ^ 8 + (new.spare d).toNat * 2 ^ 10))
    else s) s

/-! ### Training (R212, R240) -/

/-- The spares that the lichen map records for a channel, in the order of their records. -/
def recordedSpares (s : State) (stack ch : Nat) (c : Channel) : Channel :=
  (s.lmList.filter fun r => decide (lmType r = lmLaneSpare ∧ bits (lmLoc r) 3 0 = stack ∧ bits (lmLoc r) 7 4 = ch)).foldl
    (fun c r => c.takeOver (bits (lmLoc r) 9 8) (BitVec.ofNat 6 (bits (lmLoc r) 15 10))) c

/-- Trains one channel. -/
def trainChannel (s : State) (stack ch : Nat) (failing : List (BitVec 6)) : State :=
  let old := s.recordedSpares stack ch ((s.mc stack).chan ch)
  match old.repair failing with
  | none =>
    let s := s.updMc stack fun m => m.updChan ch fun c => { c with spares := old.spares }
    if ((s.mc stack).chan ch).st = 4 then s else s.failChannel stack ch
  | some new =>
    let s := s.updMc stack fun m => m.updChan ch fun c => { c with spares := new.spares, st := 2, run := 0, runPas := [] }
    s.recordSpares stack ch old new

/-- Trains the 16 channels of a stack, on what the training rows show of each. -/
def trainStack (s : State) (stack : Nat) (tests : List LaneTest) : State :=
  (List.range 16).foldl (fun s ch =>
    let failing := match tests.find? fun t => decide (t.stack.toNat = stack ∧ t.ch.toNat = ch) with
      | some t => t.dead ++ t.weak
      | none => []
    s.trainChannel stack ch failing) s

/-! ### MC_SECTOR_READ (R216, R217, R229) -/

/-- The group in which the bytes fail. -/
def failingGroup (c : ParityCheck) : Option (BitVec 2) :=
  match c with
  | .wrong g => g
  | _ => none

/-- A read of a sector from its stack, on what its parities show (R216). A sector that is marked shows its mark where nothing is wrong with
its cells; wrong parities of it are wrong in every replay. -/
def stackRead (s : State) (pa : PA) (noalloc : Bool) (first replay : ParityCheck) : State :=
  let p := s.place pa.toNat
  let ch := channelOf p.off
  let marked := s.mem.poisoned pa.toNat
  let s := s.updMc p.stack fun m => (m.count 0x100 1).count 0x10C 1
  if first = .allInverted ∨ (marked ∧ first = .correct) then
    (({ s with mem := s.mem.setPoison pa.toNat true }).updMc p.stack fun m => m.updChan ch (·.count 0x14 1)).fillSector p noalloc 0
  else if first = .correct then ({ s with mem := s.mem.setWrong pa.toNat 0 }).fillSector p noalloc 0
  else
    let s := s.updMc p.stack fun m => (m.count 0x100 1).updChan ch (·.noteLane (failingGroup first))
    if replay = .correct ∧ !marked then
      (({ s with mem := s.mem.setWrong pa.toNat 0 }).updMc p.stack fun m => m.updChan ch (·.count 0x0C 1)).fillSector p noalloc 0
    else (s.mismatch pa (if failingGroup first = failingGroup replay then failingGroup first else none)).fillSector p noalloc 0xFFFF

end State

/-- Words of a sector that the cache holds have failed parity (R229): they are poisoned where the sector is dirty. -/
def Mc.spoil (m : Mc) (line sec : Nat) (words : BitVec 16) : Mc := m.enter line sec true (((m.held line sec).getD 0) ||| words)

/-- MC_SECTOR_READ: a sector that the cache does not hold is read from its stack; of one that it holds, the parity of the words `read.words`
has failed (R229): a clean sector is read again, and the words of a dirty one are poisoned. -/
def execMcSectorRead (read : SectorRead) (first replay : ParityCheck) (s : State) : Host.Outcome State Fault Refusal :=
  let pa := read.pa
  let words := read.words
  if s.capacity ≤ pa.toNat then .next s
  else
    let p := s.place pa.toNat
    let m := s.mc p.stack
    let ch := channelOf p.off
    let line := p.off / 256
    let sec := p.off / 64 % 4
    if (s.mcShut p.stack).isSome ∨ m.st ≠ 1 then .next s
    else if (m.chan ch).st = 4 then .next (s.updMc p.stack fun m => m.updChan ch (·.count 0x18 1))
    else if (m.chan ch).st ≠ 2 then .next s
    else if (m.held line sec).isNone then .next (s.stackRead pa read.noalloc first replay)
    else if words = 0 then .next s
    else
      let s := s.updMc p.stack (·.count 0x114 (popcount 16 words.toNat))
      let dirty := match m.lineOf line with
        | some l => l.dirty.getLsbD sec
        | none => false
      .next (if dirty then s.updMc p.stack (·.spoil line sec words)
        else (s.updMc p.stack (·.dropSector line sec)).stackRead pa read.noalloc first replay)

/-- The earliest request that writes the line of `t` from its cluster (R220). -/
def State.firstWrite (s : State) (t : StoreSec) : Option Nat :=
  (s.net.stores.filter fun u =>
    decide (clusterOf u.site.core = clusterOf t.site.core ∧ lineOfPa u.pa.toNat = lineOfPa t.pa.toNat ∧ u.req ≠ none)).foldl
    (fun m u => match m, u.req with
      | some a, some b => some (a ⊓ b)
      | none, r => r
      | m, none => m) none

/-- The STOREs of a request in one sector as one write (R248): the granules of all, the last served on top (R220). -/
def joinStores (us : List StoreSec) : BitVec 16 × List QW :=
  us.foldl (fun a u => (a.1 ||| u.mask,
    (List.range 16).map fun i => if u.mask.getLsbD i then nth {} u.data i else nth {} a.2 i)) (0, List.replicate 16 {})

/-- MC_SECTOR_WRITE (R219 to R221, R248): the request of the slot's oldest STORE sector that has been sent is served whole, behind those of
its line that were sent before it; its writers are answered together when the invalidations that it caused have been acknowledged. -/
def execMcSectorWrite (site : Site) (s : State) : Host.Outcome State Fault Refusal :=
  match s.net.stores.find? fun t => decide (t.site = site) && t.req.isSome with
  | none => .next s
  | some t =>
    match s.firstWrite t with
    | none => .next s
    | some r =>
      let wid := s.net.seq + 1
      let mine := s.net.stores.filter fun u => decide (u.req = some r)
      let s := { s with net := { s.net with stores := s.net.stores.filter fun u => decide (u.req ≠ some r), seq := s.net.seq + 1 } }
      .next ((mine.map (·.pa)).eraseDups.foldl (fun s pa =>
        let us := mine.filter fun u => decide (u.pa = pa)
        let d := joinStores us
        match s.mcWrite pa.toNat t.noalloc d.1 d.2 wid with
        | (st, s) => us.foldl (fun s u => s.addAck
            { site := u.site, va := u.va, status := st, wid := wid, line := lineOfPa pa.toNat, seq := s.net.seq }) s) s)

/-! ### LANE_REPAIR (R214) -/

/-- The functional lanes of a group (R210). -/
def inGroup (k : BitVec 2) (l : BitVec 6) : Bool := decide (l.toNat / 8 = k.toNat ∧ l.toNat < 32) || decide (l.toNat = 32 + k.toNat)

/-- The sectors that the lane fault poisoned: their records go, their log entries say LINK, and their data are intact in the
cells; the cache keeps what it holds of them (R54). -/
def State.clearLink (s : State) (stack : Nat) (pas : List PA) : State :=
  let locs := pas.map fun a => sectorLoc (locOf (s.place a.toNat))
  let s := s.lmClear fun r => decide (lmType r = lmPoison) && locs.contains (lmLoc r)
  let s := s.updMc stack fun m => { m with log := m.log.map fun e => if pas.contains e.2.1 then (e.1, (e.2.1, true)) else e }
  { s with mem := pas.foldl (fun m a => m.setWrong a.toNat 0) s.mem }

/-- After eight persistent mismatches in one group the channel is retrained; `failing` are the lanes of the group that fail, or
spares that carry one. -/
def execLaneRepair (stack ch : BitVec 4) (failing : List (BitVec 6)) (s : State) : Host.Outcome State Fault Refusal :=
  let k := stack.toNat
  let n := ch.toNat
  let c := (s.mc k).chan n
  if !s.hasStack k || decide (c.st ≠ 2 ∨ c.run < 8) then .next s
  else
    let mine := failing.filter fun l =>
      inGroup c.runGroup l || (decide (36 ≤ l.toNat ∧ l.toNat < 40) && inGroup c.runGroup (c.spare (l.toNat - 36)))
    let clear (s : State) : State := s.updMc k fun m => m.updChan n fun c => { c with run := 0, runPas := [] }
    if (c.needing mine).isEmpty then .next (clear s)
    else
      match c.repair mine with
      | none => .next (s.failChannel k n)
      | some new =>
        let s := (s.updMc k fun m => (m.updChan n fun _ => new).count 0x124 1).recordSpares k n c new
        let s := (clear s).clearLink k c.runPas
        .next (s.notify 0x0007 ([w32 k, w32 n, 2] ++ paWords 0))

/-! ### SEAM_TRANSFER (R200) -/

namespace State

def updSeamCh (s : State) (h ch : Nat) (f : SeamCh → SeamCh) : State := s.updHalf h fun x => { x with seamCh := SMap.upd {} x.seamCh ch f }

/-- The active channels of a row, ascending (R199). -/
def rowChannels (s : State) (r : Nat) : List Nat :=
  let x := s.half 0
  (List.range 34).filter fun c => x.seamActive.getLsbD c && decide ((SMap.get 0 x.seamRow c).toNat = r)

/-- The channel on which a packet of one pair crosses in a row (R199). -/
def seamChannel (s : State) (r src dst : Nat) : Option Nat :=
  match s.rowChannels r with
  | [] => none
  | cs => some (nth 0 cs ((src ^^^ dst) % cs.length))

/-- The transfers that the sender of a failed channel keeps go, in order and ahead of what is kept there, to the channels that serve their
pairs now; those whose row has no channel stay (R200). -/
def reseat (s : State) (h ch : Nat) : State :=
  let ps := (SMap.get {} (s.half h).seamCh ch : SeamCh).kept
  let dest (p : SeamPath) : Option Nat := s.seamChannel p.row.toNat p.src.toNat p.dst.toNat
  ps.foldr (fun p s => match dest p with
    | some c => s.updSeamCh h c fun y => { y with kept := p :: y.kept }
    | none => s) (s.updSeamCh h ch fun _ => { kept := ps.filter fun p => (dest p).isNone })

/-- A seam channel is fenced on both sides, and the active channels are recorded and reported (R200, R350; log entry 79). -/
def failSeam (s : State) (h ch : Nat) : State :=
  let one (s : State) (h : Nat) : State := s.updHalf h fun x =>
    { x with seamActive := setBits x.seamActive ch ch 0, seamFenced := setBits x.seamFenced ch ch 1 }
  let s := ((one (one s 0) 1).reseat 0 ch).reseat 1 ch
  (s.lmAdd lmSeam ((s.half 0).seamActive.setWidth 48)).report 200 [w32 h, linkId 4 0 ch 0]

end State

/-- A transfer of a pair reaches half `half` in a row: it is taken, or discarded, kept by its sender and replayed; the eighth replay in
succession to fail fails the channel. While a transfer is to be replayed, no other passes on its channel (R200). -/
def execSeamTransfer (half : BitVec 1) (path : SeamPath) (parityOk : Bool) (s : State) : Host.Outcome State Fault Refusal :=
  let h := half.toNat
  let x := s.half h
  match s.seamChannel path.row.toNat path.src.toNat path.dst.toNat with
  | none => .next s
  | some n =>
    let c : SeamCh := SMap.get {} x.seamCh n
    if !s.hasSeam || !x.seamUp || x.seamStilled || decide (c.kept ≠ [] ∧ c.kept.head? ≠ some path) then .next s
    else if parityOk then .next (s.updSeamCh h n fun c => { seq := c.seq + 1, kept := c.kept.tail })
    else
      let s := s.updSeamCh h n fun c => { c with kept := if c.kept.isEmpty then [path] else c.kept }
      let s := (s.updHalf h (·.count 0x401C 1)).updHalf (1 - h) (·.count 0x4018 1)
      if 8 ≤ c.fails then .next (s.failSeam h n) else .next (s.updSeamCh h n fun c => { c with fails := c.fails + 1 })

/-! ### AUDIT_CHECK (R193, R194) -/

/-- Fields of a link identifier. -/
def auKind (l : W32) : Nat := bits l 31 28
def auCluster (l : W32) : Nat := bits l 27 23
def auNode (l : W32) : Nat := bits l 22 17
def auDir (l : W32) : Nat := bits l 16 14

namespace State

/-- The core that a link identifier of half `h` names. -/
def auCore (h : Nat) (l : W32) : CoreId := BitVec.ofNat 12 (2048 * h + 64 * auCluster l + auNode l)

/-- A pool that is skipped in this turn: of a fenced link, of a function under reset, or of a seam side in HALF-STILL; and a queue that is
bound to none has no pool. -/
def auditSkips (s : State) (h : Nat) (l : W32) : Bool :=
  s.ctl.fnReset.getLsbD (1 + h) || s.linkFenced (h, l &&& 0xFFFFC000) ||
    (decide (auKind l = 3) && s.ctl.fnReset.getLsbD (Config.portUnit h (l &&& 0xFFFFC000))) ||
    (decide (auKind l = 4) && ((s.half h).seamStilled || (s.half h).seamFenced.getLsbD (auNode l))) ||
    (decide (auKind l = 5) && !s.boundOk (auCore h l) (10 + auDir l))

/-- The auditor fences a binding at both its ends (R194). -/
def fenceBinding (s : State) (core : CoreId) (q : Nat) : State :=
  let p := peerOf core ((s.core core.toNat).bind q)
  let one (s : State) (c q : Nat) : State := s.updCore c fun c => { c with bindFenced := SMap.set false c.bindFenced q true }
  one (one s core.toNat q) p.1.toNat p.2

/-- The link of a pool is fenced. -/
def fenceLink (s : State) (h : Nat) (l : W32) : State :=
  match auKind l with
  | 0 =>
    let s := (s.updHalf h fun x => { x with meshFenced := x.meshFenced ++ [l] }).updCluster (32 * h + auCluster l)
      fun c => { c with linksFenced := c.linksFenced + 1 }
    if auDir l = 4 then s.fenceCore (auCore h l) 2 else s
  | 4 => s.failSeam h (auNode l)
  | 5 => s.fenceBinding (auCore h l) (10 + auDir l)
  | _ => s.updHalf h fun x => { x with meshFenced := x.meshFenced ++ [l] }

/-- P of a pool: of a binding, the granules of the ring that receives (R193); of a seam channel, the 32 entries of its FIFO (R202). -/
def poolSize (s : State) (h : Nat) (o : AuditObs) : Nat :=
  if auKind o.link = 5 then
    let p := peerOf (auCore h o.link) ((s.core (auCore h o.link).toNat).bind (10 + auDir o.link))
    ((s.core p.1.toNat).ring p.2).size.toNat * 8
  else if auKind o.link = 4 then 32
  else o.p.toNat

/-- H + O + R of a check: of a binding, CREDIT and OCC, what is on its way counting as arrived, as it stands ahead of the marker; of any
other pool, what was observed (R193, log entry 87). -/
def auditSum (s : State) (h : Nat) (o : AuditObs) : Nat :=
  if auKind o.link = 5 then
    let c := auCore h o.link
    let q := 10 + auDir o.link
    let p := peerOf c ((s.core c.toNat).bind q)
    s.creditWords c q / 2 + (((s.core p.1.toNat).ring p.2).data.length + s.inFlight p.1 p.2) / 2 + o.r.toNat
  else o.h.toNat + o.o.toNat + o.r.toNat

/-- A check whose sum differs from P. -/
def auditFail (s : State) (h : Nat) (o : AuditObs) : State :=
  let diff : W32 := BitVec.ofInt 32 ((s.poolSize h o : Int) - s.auditSum h o)
  let s := s.updHalf h fun x =>
    { x with auditLink := o.link, auditDiff := diff, auditCount := if x.auditCount = 65535 then x.auditCount else x.auditCount + 1 }
  (s.fenceLink h o.link).notify 0x0005 [w32 h, o.link, diff]

end State

/-- A check of the audit that runs in half `half` completes; with the last of its turn AUDIT_TURN takes the turn's number. -/
def execAuditCheck (half : BitVec 1) (o : AuditObs) (s : State) : Host.Outcome State Fault Refusal :=
  let h := half.toNat
  match (s.half h).auditing with
  | none => .next s
  | some turn =>
    let good := decide (s.auditSum h o = s.poolSize h o)
    let s := if good || s.auditSkips h o.link then s else s.auditFail h o
    .next (if o.last then s.updHalf h fun x => { x with auditTurn := turn, auditing := none } else s)

end Sys2Proof.Machine
end

