-- ==== Sys2Proof/Machine/Ports.lean ====
section
/-! DEFINITION. The optical ports (R261 to R280, R288): link states, identity, replay, lanes, heartbeats and lasers. A fabric port
is numbered 0 to 15, CP0 16 and CP1 17. -/

namespace Sys2Proof.Machine

open Sys2Proof

/-! ### Port events (R280) -/

/-- PORT as in IDENT (R274). -/
def portCode (n : Nat) : Nat := if n < 16 then n else 0x80 + (n - 16)

/-- The 12 words of a key hash, lowest bytes first. -/
def hashWords (h : Hash) : List W32 := (List.range 12).map fun i => w32 (bits h (32 * i + 31) (32 * i))

def evPartnerUp : Nat := 1
def evPartnerDown : Nat := 2
def evResumed : Nat := 3
def evLaneChange : Nat := 4
def evIdentFailed : Nat := 5
def evLaserSwitch : Nat := 6

/-- The slots of packets received go back to the pools (R270); the packets stand until they are passed on. -/
def Port.emptied (p : Port) : Port := { p with rxHeld := p.rxHeld.map fun e => { e with slots := 0 } }

/-- A packet on its way through frees no slot of a port whose pools stand full again (R270). -/
def QItem.slotless (n : Nat) (q : QItem) : QItem := { q with ret := q.ret.map fun r => if r.1 = n then (n, r.2.1, 0) else r }

namespace State

/-- The pools of a port are full: packets that came in on it and wait at another port hold none of its slots any more (R270). -/
def forgetSlots (s : State) (n : Nat) : State :=
  { s with ports := s.ports.map fun e => (e.1, { e.2 with queue := e.2.queue.map (QItem.slotless n) }) }

/-- A PORT_EVENT notification. -/
def portEvent (s : State) (n ev reason : Nat) : State :=
  let p := s.port n
  s.notify 0x0006 ([w32 (ev + portCode n * 2 ^ 8 + reason * 2 ^ 16 + p.txLanes.toNat * 2 ^ 24 + p.rxLanes.toNat * 2 ^ 28),
    p.epoch.setWidth 32, lo32 p.serial, hi32 p.serial, w32 (p.dev.toNat + p.pport.toNat * 2 ^ 16),
    lo32 s.sh.count, hi32 s.sh.count] ++ hashWords p.keyHash)

/-- A laser-switch event of a group. -/
def laserEvent (s : State) (g : Nat) : State :=
  s.notify 0x0006 ([w32 (evLaserSwitch + g * 2 ^ 8), 0, 0, 0, 0, lo32 s.sh.count, hi32 s.sh.count] ++ List.replicate 12 0)

/-- The port draws light: its laser group is lit; a control port has lasers of its own (R288). -/
def portLit (s : State) (n : Nat) : Bool := decide (16 ≤ n) || (SMap.get {} s.fab.lasers (n / 4) : Laser).lit

/-! ### A partner that is down (R277) -/

/-- Every request handed to a port whose answer has not come ends ABORTED, but those named. -/
def abortVia (s : State) (n : Nat) (keep : List (BitVec 16)) : State :=
  (List.range 16).foldl (fun s k => s.abortTags k fun r => decide (r.via = n ∧ r.pkt.h.tag ∉ keep)) s

/-- The issuing port of a tag, and its number there (R281). -/
def tagPort (t : BitVec 16) : Nat := t.toNat / 4096
def tagNum (t : BitVec 16) : Nat := t.toNat % 4096

/-- A packet on its way through goes back to the port it came in on, to wait there (R277). -/
def backToRx (s : State) (q : QItem) : State :=
  match q.ret with
  | some (a, pool, k) => s.updPort a fun p => { p with rxHeld := { pool := pool, slots := k, again := true } :: p.rxHeld }
  | none => s

/-- A packet that waited at a port whose partner is down: it goes on another ACTIVE port of its route, or is answered ABORTED to its
source. A request of class 6 or 7 changes port so under the order rule (R285): of this Triat's own no earlier one is open, as those
sent by this port are ABORTED and those that waited before it went before it to the same port; one on its way through goes back to
where it came in and waits as another would (log entry 80). A response without a route leaves by the port its request came in on,
else it is discarded (R285). Notifications go back to the miller; replies and bulk data are lost with the link. -/
def rehome (s : State) (q : QItem) : State :=
  match q.body with
  | .note x => { s with ctl := { s.ctl with notes := s.ctl.notes ++ [x] } }
  | .fab p =>
    match s.choosePort p.h.srcDev p.h.dstDev p.h.cls p.resp with
    | some m =>
      let own := decide (p.h.srcDev = s.fab.devId)
      if !p.resp && !own && s.changesPort p.h.srcDev p.h.dstDev p.h.cls m then s.backToRx q
      else
      let s := if p.resp then s else s.tookPort p.h.srcDev p.h.dstDev p.h.cls m
      let s := if p.resp || !own then s
        else s.updPort (tagPort p.h.tag) fun x => { x with tags := match SMap.get none x.tags (tagNum p.h.tag) with
          | some r => SMap.set none x.tags (tagNum p.h.tag) (some { r with via := m })
          | none => x.tags }
      s.enqueue m q
    | none =>
      let s := s.giveBack q.ret
      if p.resp then
        match q.home with
        | some a => if (s.port a).live then s.enqueue a q else s.countFab 0x020 1
        | none => s.countFab 0x020 1
      else if p.h.srcDev = s.fab.devId then s.answered (tagPort p.h.tag) (tagNum p.h.tag) stAborted []
      else s.respond ((q.ret.map (·.1)).getD 0) p.op p.h { status := stAborted }
  | _ => s

/-- Tags of this Triat's own requests among what waits at a port. -/
def queuedTags (s : State) (items : List QItem) : List (BitVec 16) :=
  items.filterMap fun q => match q.body with
    | .fab p => if !p.resp ∧ p.h.srcDev = s.fab.devId then some p.h.tag else none
    | _ => none

/-- The partner is declared down for a reason of R280: replay state and credits go, what it leaves open ends. Packets that were received
stand (R277). -/
def partnerDown (s : State) (n reason : Nat) : State :=
  let s := s.forgetSlots n
  let items := (s.port n).queue
  let s := s.updPort n fun p =>
    { p.emptied with down := true, queue := [], sent := [], credit := [], owed := [], replays := 0, nacked := false }
  let s := s.portEvent n evPartnerDown reason
  let s := s.abortVia n (s.queuedTags items)
  (items.foldl (fun s q => s.rehome q) s).pumpNotes

/-! ### State changes (R273 to R279) -/

/-- A port trains from DARK: in RESUME the state stays. -/
def trainFrom (s : State) (n : Nat) (ph : BitVec 3) : State :=
  s.updPort n fun p =>
    let p := { p with nonce := none, partnerNonce := none, helloIn := false, identIn := false, moving := none, training := none }
    if p.st = psResume then { p with phase := ph } else { p with st := ph.setWidth 4 }

/-- The link is lost (R277): RESUME. A port that is still training returns to DARK. -/
def linkLost (s : State) (n : Nat) : State :=
  let p := s.port n
  if p.st = psHeld ∨ p.st = psActive then
    (s.updPort n fun p => { p.count 0x118 1 with before := p.st, st := psResume, txLanes := 0, rxLanes := 0 }).trainFrom n 1
  else if p.st = psAcquire ∨ p.st = psDeskew ∨ p.st = psIdent ∨ p.st = psResume then
    (s.updPort n fun p => { p with txLanes := 0, rxLanes := 0 }).trainFrom n 1
  else s

/-- OFF (R279): a partner that the port held is down. -/
def portOff (s : State) (n reason : Nat) : State :=
  let s := if s.holdsPartner n then s.partnerDown n reason else s
  s.updPort n fun p =>
    let p := p.emptied
    { p with st := psOff, phase := 1, before := 0, down := false, txLanes := 0, rxLanes := 0, lanes := [], moving := none,
             training := none, nonce := none, partnerNonce := none, helloIn := false, identIn := false, missed := 0,
             owed := [], credit := [] }

/-- The port is under reset, or its half is power-gated. -/
def portShut (s : State) (n : Nat) : Bool :=
  if n < 16 then s.ctl.fnReset.getLsbD (15 + n) || s.pwr.gated.getLsbD (n / 8) else decide (n = 16) && s.ctl.fnReset.getLsbD 0

/-- An enabled and lit port leaves OFF for DARK. -/
def portOn (s : State) (n : Nat) : State :=
  let p := s.port n
  if p.st = psOff ∧ p.enable ∧ s.portLit n ∧ s.hasPort n ∧ !s.portShut n then s.updPort n fun p => { p with st := psDark } else s

/-- A port that is ACTIVE holds the owner's key: OWN_STATUS.LAPSED counts from now (R362). -/
def ownerBack (s : State) (n : Nat) : State :=
  if s.ctl.owner = some (s.port n).keyHash ∧ 16 ≤ n then { s with ctl := { s.ctl with lapsed := 0 } } else s

/-- Step 3 of start-up ends when a control port has trained (R386, log entry 91). -/
def stepActive (s : State) (n : Nat) : State :=
  if s.ctl.step = 3 ∧ 16 ≤ n then { s with ctl := { s.ctl with step := 4 } } else s

/-- ACTIVE (R270, R273): sequence numbers begin anew, and the whole of each pool is granted. -/
def enterActive (s : State) (n : Nat) : State :=
  let s := s.updPort n fun p =>
    let pools := (List.range 16).filterMap fun k => if p.poolSize n k = 0 then none else some (k, p.poolSize n k)
    { p with st := psActive, down := false, txSeq := 0, rxSeq := 0, nacked := false, sent := [], replays := 0, credit := [],
             owed := pools }
  ((s.ownerBack n).stepActive n).pumpNotes

/-- HELD (R275). -/
def enterHeld (s : State) (n : Nat) : State :=
  (s.updPort n fun p => { p with st := psHeld, down := false, missed := 0, epoch := p.epoch + 1 }).portEvent n evPartnerUp 0

/-- After a verified identity a fabric port is HELD, a control port ACTIVE (R275, R288). -/
def enterPartner (s : State) (n : Nat) (f : IdentFrame) : State :=
  let s := s.updPort n fun p => { p with dev := f.devId, pport := f.port, serial := f.serial, keyHash := f.keyHash }
  if n < 16 then s.enterHeld n else (s.updPort n fun p => { p with missed := 0 }).enterActive n

end State

/-! ### Training (R271, R273) -/

/-- The training step a port has come to: its state, or in RESUME its phase. -/
def Port.stage (p : Port) : Nat := if p.st = psResume then p.phase.toNat else p.st.toNat

/-- Lanes that a direction needs at least (R263, R288). -/
def minLanes (n : Nat) : Nat := if n < 16 then 4 else 1

/-- Wavelengths of a port: a control port has λ0, λ1 and λ8 (R288). -/
def wavelengths (n : Nat) : List Nat := if n < 16 then List.range 9 else [0, 1, 8]

/-- PORT_ACQUIRE: signal on enough wavelengths. -/
def execPortAcquire (port : BitVec 5) (signals : BitVec 9) (s : State) : Host.Outcome State Fault Refusal :=
  let n := port.toNat
  let p := s.port n
  let lit := ((wavelengths n).filter fun l => signals.getLsbD l).length
  .next (if s.hasPort n && decide (p.stage = 1 ∧ minLanes n ≤ lit) then s.trainFrom n 2 else s)

/-- PORT_LOCK. -/
def execPortLock (port : BitVec 5) (s : State) : Host.Outcome State Fault Refusal :=
  let n := port.toNat
  .next (if s.hasPort n && decide ((s.port n).stage = 2) then s.trainFrom n 3 else s)

/-- The wavelengths in use of a direction, lane 0 first, and whether λ8 is left as the spare (R271). -/
def chooseLanes (n : Nat) (pass : BitVec 9) : List Nat × Bool :=
  let full := (wavelengths n).length - 1
  let ls := (wavelengths n).filter fun l => decide (l ≠ 8) && pass.getLsbD l
  if ls.length < full ∧ pass.getLsbD 8 then (ls ++ [8], false) else (ls, pass.getLsbD 8)

/-- States of a wavelength (R290). -/
def lnActive : BitVec 2 := 1
def lnSpare : BitVec 2 := 2
def lnRetired : BitVec 2 := 3

namespace Port

def lane (p : Port) (l : Nat) : Lane := SMap.get {} p.lanes l
def updLane (p : Port) (l : Nat) (f : Lane → Lane) : Port := { p with lanes := SMap.upd {} p.lanes l f }

/-- The wavelength that carries a lane: received, or sent. -/
def rxOf (p : Port) (lane : BitVec 3) : Option Nat := (List.range 9).find? fun l => decide ((p.lane l).rxLogical.toNat = lane.toNat)
def txOf (p : Port) (lane : BitVec 3) : Option Nat := (List.range 9).find? fun l => decide ((p.lane l).txLogical.toNat = lane.toNat)

/-- Puts a lane on a wavelength. -/
def setRx (p : Port) (l : Nat) (lane : Nat) : Port := p.updLane l fun x => { x with rxLogical := BitVec.ofNat 4 lane, rxState := lnActive }
def setTx (p : Port) (l : Nat) (lane : Nat) : Port := p.updLane l fun x => { x with txLogical := BitVec.ofNat 4 lane, txState := lnActive }

/-- Takes a wavelength out of use. -/
def retireRx (p : Port) (l : Nat) : Port := p.updLane l fun x => { x with rxLogical := 15, rxState := lnRetired, uncor := false }
def retireTx (p : Port) (l : Nat) : Port := p.updLane l fun x => { x with txLogical := 15, txState := lnRetired }

/-- Lanes in use, counted from the wavelengths. -/
def countLanes (p : Port) : Port :=
  { p with rxLanes := BitVec.ofNat 4 ((List.range 9).filter fun l => decide ((p.lane l).rxLogical ≠ 15)).length,
           txLanes := BitVec.ofNat 4 ((List.range 9).filter fun l => decide ((p.lane l).txLogical ≠ 15)).length }

/-- The wavelengths in use of a direction, as a mask. -/
def mask (p : Port) (rx : Bool) : Nat :=
  ((List.range 9).map fun l => if (if rx then (p.lane l).rxLogical else (p.lane l).txLogical) ≠ 15 then 2 ^ l else 0).sum

end Port

namespace State

/-- The lane choice of a direction is recorded (R271, R350). -/
def recordLanes (s : State) (n : Nat) (rx : Bool) : State :=
  s.lmAdd lmWavelength (BitVec.ofNat 48 (n + (if rx then 2 ^ 5 else 0) + (s.port n).mask rx * 2 ^ 6))

/-- A change of lanes: counted, recorded and reported (R272). -/
def laneChange (s : State) (n : Nat) (rx : Bool) : State :=
  ((s.updPort n fun p => p.count 0x120 1).recordLanes n rx).portEvent n evLaneChange 0

end State

/-- A wavelength passes with at most 10^-5 of 2^28 bits in error (R271). -/
def lanePasses (errors : List (BitVec 29)) : BitVec 9 :=
  BitVec.ofNat 9 (((List.range 9).map fun l => flag (decide ((nth 0 errors l).toNat * 100000 ≤ 2 ^ 28)) l).sum)

/-- LANE_CHOICE: the receiver chooses its lanes by the errors that it has counted on each wavelength and tells its partner in a LANE_MAP
frame; those of the other direction are the partner's choice, from the wavelengths `txPass`. The port then begins its identity
exchange with HELLO (R263, R271, R274). -/
def execLaneChoice (port : BitVec 5) (errors : List (BitVec 29)) (txPass : BitVec 9) (s : State) : Host.Outcome State Fault Refusal :=
  let n := port.toNat
  let r := chooseLanes n (lanePasses errors)
  let t := chooseLanes n txPass
  if !(s.hasPort n && decide ((s.port n).stage = 3 ∧ minLanes n ≤ r.1.length ∧ minLanes n ≤ t.1.length)) then .next s
  else
    let nonce := Config.nonce s.fresh
    let s := s.updPort n fun p =>
      let p := { p with lanes := [] }
      let p := ((List.range r.1.length).zip r.1).foldl (fun p e => p.setRx e.2 e.1) p
      let p := ((List.range t.1.length).zip t.1).foldl (fun p e => p.setTx e.2 e.1) p
      let p := if r.2 then p.updLane 8 fun x => { x with rxState := lnSpare } else p
      let p := if t.2 then p.updLane 8 fun x => { x with txState := lnSpare } else p
      p.countLanes
    let s := ((s.recordLanes n true).recordLanes n false).trainFrom n 4
    let s := { s.updPort n fun p => { p with nonce := some nonce } with fresh := s.fresh + 1 }
    .next ((s.link n (.laneMap (r.1.map (BitVec.ofNat 4)))).link n (.hello nonce))

/-- PORT_STATE_TIMEOUT: a time limit of R273 expires. -/
def execPortStateTimeout (port : BitVec 5) (s : State) : Host.Outcome State Fault Refusal :=
  let n := port.toNat
  let k := (s.port n).stage
  .next (if s.hasPort n && decide (2 ≤ k ∧ k ≤ 5 ∧ (k = 5 → (s.port n).st = psResume)) then
      (s.updPort n fun p => { p with txLanes := 0, rxLanes := 0 }).trainFrom n 1 else s)

/-- FAILED_EXPIRY. -/
def execFailedExpiry (port : BitVec 5) (s : State) : Host.Outcome State Fault Refusal :=
  let n := port.toNat
  .next (if (s.port n).st = psFailed then (s.updPort n fun p => { p with txLanes := 0, rxLanes := 0 }).trainFrom n 1 else s)

/-! ### Identity (R274 to R277) -/

namespace State

/-- The port is in its identity exchange. -/
def inIdent (s : State) (n : Nat) : Bool := s.hasPort n && decide ((s.port n).stage = 4)

/-- Sends IDENT: this Triat's serial, device ID and port, both nonces, the shaft count, its key and a signature; both zero once the
identity key is erased (R404). -/
def sendIdent (s : State) (n : Nat) : State :=
  let p := s.port n
  let erased := decide (s.flash.fused = 3)
  let key : BitVec 776 := if erased then 0 else Config.identityKey
  let sig : BitVec 768 := if erased then 0 else Config.signature s.fresh
  ({ s with fresh := s.fresh + 1 }).link n
    (.ident s.flash.serial s.fab.devId (BitVec.ofNat 8 (portCode n)) (p.nonce.getD 0) (p.partnerNonce.getD 0) s.sh.count key sig)

end State

/-- HELLO: the partner's nonce; IDENT is sent. -/
def execHello (port : BitVec 5) (nonce : BitVec 256) (s : State) : Host.Outcome State Fault Refusal :=
  let n := port.toNat
  .next (if s.inIdent n then
      (s.updPort n fun p => { p with helloIn := true, partnerNonce := some nonce }).sendIdent n
    else s)

/-- HELLO_REPEAT: until the partner's HELLO arrives. -/
def execHelloRepeat (port : BitVec 5) (s : State) : Host.Outcome State Fault Refusal :=
  let n := port.toNat
  let p := s.port n
  .next (if s.inIdent n ∧ !p.helloIn then s.link n (.hello (p.nonce.getD 0)) else s)

/-- IDENT_REPEAT: until the partner's IDENT arrives. -/
def execIdentRepeat (port : BitVec 5) (s : State) : Host.Outcome State Fault Refusal :=
  let n := port.toNat
  let p := s.port n
  .next (if s.inIdent n ∧ p.helloIn ∧ !p.identIn then s.sendIdent n else s)

/-- The outcome of a verified identity (R276): the same partner, not declared down, resumes. -/
def State.identOk (s : State) (n : Nat) (f : IdentFrame) : State :=
  let p := s.port n
  let s := s.updPort n fun p => { p with identIn := true }
  if p.st = psResume then
    if !p.down ∧ p.serial = f.serial ∧ p.keyHash = f.keyHash then
      (s.updPort n fun p => { p with phase := 5 }).link n (.resume p.rxSeq)
    else (if p.down then s else s.partnerDown n 3).enterPartner n f
  else s.enterPartner n f

/-- IDENT: the signature and the echo of this side's nonce are checked. -/
def execIdent (port : BitVec 5) (f : IdentFrame) (s : State) : Host.Outcome State Fault Refusal :=
  let n := port.toNat
  let p := s.port n
  if !s.inIdent n then .next s
  else if f.sigOk ∧ p.nonce = some f.nonceEcho then
    let s := if p.helloIn then s
      else (s.updPort n fun p => { p with helloIn := true, partnerNonce := some f.nonceOwn }).sendIdent n
    flushed (.next (s.identOk n f))
  else
    let s := if p.st = psResume ∧ !p.down then s.partnerDown n 2 else s
    let s := s.updPort n fun p => { p.count 0x130 1 with st := psFailed, phase := 1 }
    flushed (.next (s.portEvent n evIdentFailed 0))

/-! ### Frames and replay (R268 to R270) -/

/-- A frame numbered `q` is covered by an ACK that names `a`. -/
def covered (q a : W32) : Bool := decide (0 < (a - q).toInt)

namespace State

/-- Frames that an ACK covers leave the replay buffer; progress ends the run of replays. -/
def acknowledge (s : State) (n : Nat) (a : W32) : State :=
  s.updPort n fun p =>
    let rest := p.sent.filter fun t => !covered t.seq a
    { p with sent := rest, replays := if rest.length < p.sent.length then 0 else p.replays }

/-- Sends again what the replay buffer holds, each frame with its own POOL and CREDITS. -/
def resendFrames (s : State) (n : Nat) : State :=
  let p := s.port n
  let k := (p.sent.filter fun t => t.body.isSome).length
  (p.sent.foldl (fun s t => s.putFrame n p.rxSeq t) s).updPort n fun p => p.count 0x100 k

/-- A replay; after 32 in succession without progress the link is lost (R269). -/
def replay (s : State) (n : Nat) : State :=
  let p := s.port n
  if p.sent.isEmpty then s
  else if 32 ≤ p.replays then s.linkLost n
  else (s.updPort n fun p => { p.count 0x10C 1 with replays := p.replays + 1 }).resendFrames n

/-- A NACK goes out once for each value expected. -/
def sendNack (s : State) (n : Nat) : State :=
  let p := s.port n
  if p.nacked then s else (s.updPort n fun p => { p with nacked := true }).link n (.nack p.rxSeq)

end State

/-- Frames reach the port: it is in IDENT, HELD, ACTIVE or the end of RESUME. -/
def Port.framed (p : Port) : Bool := decide (4 ≤ p.stage ∧ p.stage ≤ 6)

/-- PACKET_FRAME: a frame in sequence is accepted, with its ACK and its credits; a packet holds its slots until it is passed on. A frame
whose CRC fails, of whatever TYPE, is discarded and counted in every state that frames reach (R291); in ACTIVE its NACK goes out. -/
def execPacketFrame (port : BitVec 5) (f : Frame) (s : State) : Host.Outcome State Fault Refusal :=
  let n := port.toNat
  let p := s.port n
  if !s.hasPort n || !p.framed then .next s
  else if !f.crcOk then
    let s := s.updPort n fun p => p.count 0x108 1
    .next (if p.st = psActive then s.sendNack n else s)
  else if p.st ≠ psActive then .next s
  else if f.seq ≠ p.rxSeq then .next (s.sendNack n)
  else
    let s := s.updPort n fun p =>
      let p := { p with rxSeq := p.rxSeq + 1, nacked := false,
                        credit := SMap.upd 0 p.credit f.pool.toNat (· + f.credits.toNat) }
      if f.packet then
        { p.count 0x104 1 with rxHeld := p.rxHeld ++ [{ pool := f.bodyPool, slots := (f.bytes.toNat + 255) / 256 }] }
      else p
    .next ((s.acknowledge n f.ack).drain n)

/-- NACK: the frames before the one it names are acknowledged, and the rest replayed. -/
def execNack (port : BitVec 5) (expected : W32) (s : State) : Host.Outcome State Fault Refusal :=
  let n := port.toNat
  if !s.hasPort n || decide ((s.port n).st ≠ psActive) then .next s
  else .next (((s.acknowledge n expected).replay n).drain n)

/-- REPLAY_TIMEOUT: 20 µs without progress of ACK. -/
def execReplayTimeout (port : BitVec 5) (s : State) : Host.Outcome State Fault Refusal :=
  let n := port.toNat
  .next (if s.hasPort n && decide ((s.port n).st = psActive) then s.replay n else s)

/-- IDLE_SEND: no traffic for 1 µs. -/
def execIdleSend (port : BitVec 5) (s : State) : Host.Outcome State Fault Refusal :=
  let n := port.toNat
  let p := s.port n
  .next (if s.hasPort n && decide (p.st = psActive ∧ p.retained + frameBytes none ≤ 2 ^ 20) then s.sendFrame n 0 none else s)

/-- RESUME (R277): the partner names the frame it expects; the port replays from there in the state it held before the loss. -/
def execResume (port : BitVec 5) (expected : W32) (s : State) : Host.Outcome State Fault Refusal :=
  let n := port.toNat
  let p := s.port n
  if !s.hasPort n || decide (p.st ≠ psResume ∨ p.phase ≠ 5) then .next s
  else
    let s := (s.acknowledge n expected).updPort n fun p => { p.count 0x11C 1 with st := p.before, phase := 1, replays := 0 }
    let s := ((s.resendFrames n).ownerBack n).portEvent n evResumed 0
    flushed (.next ((s.drain n).pumpNotes))

/-! ### Heartbeats (R278) -/

/-- FAB_CTRL.HB_WINDOW. -/
def State.hbWindow (s : State) : Nat := bits s.fab.ctrl 11 8

/-- HEARTBEAT: the window starts anew. -/
def execHeartbeat (port : BitVec 5) (_ : W64) (s : State) : Host.Outcome State Fault Refusal :=
  let n := port.toNat
  .next (if s.holdsPartner n then s.updPort n fun p => { p with missed := 0 } else s)

/-- HEARTBEAT_WINDOW_EXPIRY: HB_WINDOW turn boundaries have passed without a HEARTBEAT. -/
def execHeartbeatWindowExpiry (port : BitVec 5) (s : State) : Host.Outcome State Fault Refusal :=
  let n := port.toNat
  let p := s.port n
  if s.holdsPartner n && decide (s.hbWindow ≤ p.missed.toNat) then
    let s := s.partnerDown n 1
    flushed (.next (if p.st = psResume then s else s.linkLost n))
  else .next s

/-- PING_LINK_FRAME: a port in HELD or RESUME answers with T1, T2 and T3. -/
def execPingLinkFrame (port : BitVec 5) (t1 : W64) (s : State) : Host.Outcome State Fault Refusal :=
  let n := port.toNat
  let p := s.port n
  .next (if s.hasPort n && decide (p.st = psHeld ∨ p.st = psResume) then s.link n (.pong t1 s.sh.count s.sh.count) else s)

/-! ### Lanes in service (R272) -/

/-- RX_BER: the largest k with 10^(k / 10) errors at most one in the window, 255 without an error (R290). -/
def berCode (errors : Nat) : Nat := if errors = 0 then 255 else ((List.range 74).filter fun k => 10 ^ (k + 1) * errors ^ 10 ≤ 2 ^ 240).length

namespace State

/-- The receiver drops the lane of a wavelength; below the fewest lanes the link is lost. -/
def dropRx (s : State) (n l : Nat) : State :=
  let lane : BitVec 3 := (((s.port n).lane l).rxLogical).setWidth 3
  let s := (s.link n (.laneDrop lane)).updPort n fun p => (p.retireRx l).countLanes
  let s := s.laneChange n true
  if (s.port n).rxLanes.toNat < minLanes n then s.linkLost n else s

/-- λ8 is free to take a lane of the receive direction. -/
def spareFree (s : State) (n : Nat) : Bool :=
  decide (((s.port n).lane 8).rxState = lnSpare) && (s.port n).moving.isNone

/-- The receiver asks for a lane on λ8. -/
def prepare (s : State) (n : Nat) (lane : BitVec 3) : State :=
  (s.updPort n fun p => { p with moving := some lane }).link n (.lanePrepare lane)

/-- The receiver has locked to λ8 and takes the lane from there. -/
def completeMove (s : State) (n : Nat) (lane : BitVec 3) : State :=
  let s := (s.link n (.laneSwitch lane)).updPort n fun p =>
    let p := match p.rxOf lane with
      | some l => p.retireRx l
      | none => p
    ({ p.setRx 8 lane.toNat with moving := none } : Port).countLanes
  s.laneChange n true

/-- Frames flow on the link. -/
def inService (s : State) (n : Nat) : Bool := s.hasPort n && decide ((s.port n).st = psActive ∨ (s.port n).st = psHeld)

end State

/-- BER_WINDOW: a window of 2^24 bits ends, with the codewords that were corrected and those that could not be (R291). A weak
wavelength's lane moves to λ8 or is dropped; a good window of λ8 while a lane is to move there is the lock that the switch waits for
(log entry 27). -/
def execBerWindow (port : BitVec 5) (lam : BitVec 4) (errors : BitVec 25) (codewords : Codewords) (s : State) :
    Host.Outcome State Fault Refusal :=
  let uncorrected := codewords.uncorrected
  let n := port.toNat
  let l := lam.toNat
  if !s.inService n || !((wavelengths n).contains l) then .next s
  else
    let x := (s.port n).lane l
    let weak := decide (24 * 2 ^ 24 < errors.toNat * 100000) || (decide (uncorrected ≠ 0) && x.uncor)
    let s := s.updPort n fun p =>
      ((p.updLane l fun x => { x with rxBer := BitVec.ofNat 8 (berCode errors.toNat), uncor := decide (uncorrected ≠ 0) }).count 0x110
        codewords.corrected.toNat).count 0x114 uncorrected.toNat
    if x.rxLogical ≠ 15 then
      if !weak then .next s
      else if l ≠ 8 ∧ s.spareFree n then .next (s.prepare n (x.rxLogical.setWidth 3))
      else if l ≠ 8 ∧ (s.port n).moving = some (x.rxLogical.setWidth 3) then .next s
      else .next (s.dropRx n l)
    else
      match (s.port n).moving with
      | some lane => .next (if l = 8 ∧ !weak then s.completeMove n lane else s)
      | none => .next s

/-- DEAD_WAVELENGTH: its lane is dropped at once, and λ8 brought in if it is free. -/
def execDeadWavelength (port : BitVec 5) (lam : BitVec 4) (s : State) : Host.Outcome State Fault Refusal :=
  let n := port.toNat
  let l := lam.toNat
  let x := (s.port n).lane l
  if !s.inService n || decide (x.rxLogical = 15) then .next s
  else
    let free := decide (l ≠ 8) && s.spareFree n
    let s := s.dropRx n l
    .next (if free && s.inService n then s.prepare n (x.rxLogical.setWidth 3) else s)

/-- LANE_MAP_PREPARE: the sender starts a training pattern on λ8. -/
def execLaneMapPrepare (port : BitVec 5) (lane : BitVec 3) (s : State) : Host.Outcome State Fault Refusal :=
  let n := port.toNat
  if !s.inService n || decide (((s.port n).lane 8).txLogical ≠ 15) then .next s
  else .next ((s.updPort n fun p => { p with training := some lane }).link n .lanePattern)

/-- LANE_MAP_SWITCH: the sender marks the next codeword boundary and carries the lane on λ8 from there. -/
def execLaneMapSwitch (port : BitVec 5) (lane : BitVec 3) (s : State) : Host.Outcome State Fault Refusal :=
  let n := port.toNat
  if !s.inService n || decide ((s.port n).training ≠ some lane) then .next s
  else
    let s := (s.link n (.laneMark lane)).updPort n fun p =>
      let p := match p.txOf lane with
        | some l => p.retireTx l
        | none => p
      ({ p.setTx 8 lane.toNat with training := none } : Port).countLanes
    .next (s.laneChange n false)

/-- LANE_MAP_DROP: the sender spreads its stream over the remaining lanes. -/
def execLaneMapDrop (port : BitVec 5) (lane : BitVec 3) (s : State) : Host.Outcome State Fault Refusal :=
  let n := port.toNat
  if !s.inService n then .next s
  else
    match (s.port n).txOf lane with
    | none => .next s
    | some l =>
      let s := (s.updPort n fun p => (p.retireTx l).countLanes).laneChange n false
      .next (if (s.port n).txLanes.toNat < minLanes n then s.linkLost n else s)

/-- LOSS_OF_SIGNAL (R277): signal is lost on so many wavelengths that too few lanes remain. -/
def execLossOfSignal (port : BitVec 5) (lost : BitVec 9) (s : State) : Host.Outcome State Fault Refusal :=
  let n := port.toNat
  let p := s.port n
  let left := ((List.range 9).filter fun l => decide ((p.lane l).rxLogical ≠ 15) && !lost.getLsbD l).length
  let few := decide (left < minLanes n) || decide (p.stage < 4)
  .next (if s.hasPort n && few then s.linkLost n else s)

/-! ### Lasers (R264 to R266) -/

namespace State

def laser (s : State) (g : Nat) : Laser := SMap.get {} s.fab.lasers g
def setLaser (s : State) (g : Nat) (l : Laser) : State := { s with fab := { s.fab with lasers := SMap.set {} s.fab.lasers g l } }

/-- Ports of a group that are present (R264). -/
def groupPorts (s : State) (g : Nat) : List Nat := (List.range 4).filterMap fun i => if s.hasPort (4 * g + i) then some (4 * g + i) else none

/-- A group that becomes lit lets its ports train; one that goes DARK takes their links down. -/
def lightGroup (s : State) (g : Nat) : State := (s.groupPorts g).foldl (fun s n => s.portOn n) s
def darkGroup (s : State) (g : Nat) : State := (s.groupPorts g).foldl (fun s n => s.portOff n 6) s

/-- A switch to the other input. -/
def switchLaser (s : State) (g : Nat) : State :=
  let l := s.laser g
  (s.setLaser g { l with useB := !l.useB }).countFab 0x028 1

end State

/-- LASER_LOST: the group of an input whose light fails switches to the other input, or goes DARK. -/
def execLaserLost (input : BitVec 3) (s : State) : Host.Outcome State Fault Refusal :=
  let g := input.toNat / 2
  let b := decide (input.toNat % 2 = 1)
  let l := s.laser g
  let l := if b then { l with bOk := false } else { l with aOk := false }
  let s := if s.dormant then s else s.setLaser g l
  if s.dormant || !l.lit || decide (l.useB ≠ b) then .next s
  else if (if b then l.aOk else l.bOk) then .next ((s.switchLaser g).laserEvent g)
  else flushed (.next ((s.setLaser g { l with lit := false }).darkGroup g))

/-- LASER_OK: an input becomes OK. The first since reset starts the 1 ms of R266; a group that went DARK draws from it at once. -/
def execLaserOk (input : BitVec 3) (s : State) : Host.Outcome State Fault Refusal :=
  let g := input.toNat / 2
  let b := decide (input.toNat % 2 = 1)
  let l := s.laser g
  let l := if b then { l with bOk := true } else { l with aOk := true }
  if s.dormant || (s.groupPorts g).isEmpty then .next s
  else if l.lit then .next (s.setLaser g l)
  else if l.started then .next ((s.setLaser g { l with lit := true, useB := b }).lightGroup g)
  else .next (s.setLaser g { l with starting := true })

/-- LASER_GROUP_START: the group draws from the preferred input where it is OK, else from the other. -/
def execLaserGroupStart (group : BitVec 2) (s : State) : Host.Outcome State Fault Refusal :=
  let g := group.toNat
  let l := s.laser g
  if !l.starting then .next s
  else if !l.aOk && !l.bOk then .next (s.setLaser g { l with starting := false })
  else
    let pref := s.fab.prefer.getLsbD g
    let useB := if pref then l.bOk else !l.aOk
    .next ((s.setLaser g { l with lit := true, useB := useB, starting := false, started := true }).lightGroup g)

end Sys2Proof.Machine
end

