-- ==== Sys2Proof/Machine/Fabric.lean ====
section
/-! DEFINITION. Packets that arrive at a fabric port (R281 to R286, R299 to R304, R309, R315 to R322, R341, R342, R344), and requests
that are sent again. -/

namespace Sys2Proof.Machine

open Sys2Proof

namespace State

/-! ### Arrival -/

/-- The oldest frame of a pool whose packet a port has not yet passed on. -/
def rxOldest (s : State) (n : Nat) (pool : BitVec 4) : Option RxItem :=
  (s.port n).rxHeld.find? fun e => decide (e.pool = pool)

/-- Takes that frame off, its slots still held. -/
def rxTake (s : State) (n : Nat) (pool : BitVec 4) : State :=
  match s.rxOldest n pool with
  | none => s
  | some e => s.updPort n fun p => { p with rxHeld := p.rxHeld.erase e }

/-- The packet is passed on, and its slots go back to the partner (R270). -/
def rxRelease (s : State) (n : Nat) (pool : BitVec 4) : State :=
  match s.rxOldest n pool with
  | none => s
  | some e => (s.rxTake n pool).giveBack (some (n, pool, e.slots))

/-- A port takes a packet of this pool in: a fabric port that is present and ACTIVE, or that has received one and not passed it on
(R277: it stands). -/
def takesIn (s : State) (n : Nat) (pool : BitVec 4) : Bool :=
  decide (n < 16) && s.hasPort n && (decide ((s.port n).st = psActive) || (s.rxOldest n pool).isSome)

/-- QUIESCE_REQ of the port's half holds new work back (R198). -/
def heldBack (s : State) (n : Nat) : Bool := bit (s.half (n / 8)).netCtrl 0

/-- A request of class 6 or 7 that is not the next of its source waits (R283). -/
def inOrder (s : State) (h : FabHdr) : Bool :=
  decide (h.cls.toNat < 6) || decide (SMap.get 0 s.fab.seqRx (orderKey h.srcDev h.cls) = h.seq)

/-- The source's next number. -/
def noteOrder (s : State) (h : FabHdr) : State :=
  if h.cls.toNat < 6 then s
  else { s with fab := { s.fab with seqRx := SMap.set 0 s.fab.seqRx (orderKey h.srcDev h.cls) (h.seq + 1) } }

/-- A request to this Triat: refused to a device that is down, else served; `after` it has been, it may do more, and be answered with
another status for it. -/
def arrive (s : State) (n : Nat) (p : Pkt) (after : Status → State → Status × State) : State :=
  let s := (((s.updPort n fun q => q.count 0x12C 1).rxRelease n p.pool).noteOrder p.h)
  if s.isDown p.h.srcDev then (s.countSec 0x124 1).respond n p.op p.h { status := stDenied }
  else
    match s.serve (.va (.port (BitVec.ofNat 4 n))) .rFab .wFab p with
    | (.answer a, s) =>
      match after a.status s with
      | (st, s) => s.respond n p.op p.h { a with status := st }
    | (.held i, s) => s.holdSeal i { port := some (BitVec.ofNat 4 n), pkt := p, who := none }

end State

/-- A request that reaches fabric port `port` (R282). One that is not for this Triat, or must wait, leaves the state as it is. -/
def inboundThen (port : BitVec 4) (p : Pkt) (after : Status → State → Status × State) (s : State) : Host.Outcome State Fault Refusal :=
  let n := port.toNat
  if !s.takesIn n p.pool || decide (p.h.dstDev ≠ s.fab.devId) || s.heldBack n || !s.inOrder p.h then .next s
  else flushed (.next (s.arrive n p after))

/-- A request that does nothing more. -/
def inbound (port : BitVec 4) (p : Pkt) (s : State) : Host.Outcome State Fault Refusal := inboundThen port p (fun st s => (st, s)) s

/-- A request without payload. -/
def bare (op : Byte) (h : FabHdr) : Pkt := { op := op, resp := false, h := h }
/-- A request with payload bytes. -/
def laden (op : Byte) (h : FabHdr) (data : List Byte) : Pkt := { op := op, resp := false, h := h, data := data }
/-- A CLOSE request (R313). -/
def closing (kind : Nat) (h : FabHdr) (b : CloseBody) : Pkt := laden opClose h ((closeData kind b).map (·.b))

/-- READ. -/
def execRead (port : BitVec 4) (h : FabHdr) (s : State) : Host.Outcome State Fault Refusal := inbound port (bare opRead h) s
/-- The tokens of a remote notify reach their counter from the CE of the port's half, once every byte is in memory; a target they do not
reach turns OK into its status (R178). -/
def State.remoteNoted (s : State) (port : BitVec 4) (st : Status) (note : Option RemoteNote) : Status × State :=
  match note with
  | some x => if st = stOk then s.ceTokens (port.toNat / 8) x.core x.tc x.n else (st, s)
  | none => (st, s)

/-- WRITE. With the last of a peer's PUT may come its remote notify. -/
def execWrite (port : BitVec 4) (h : FabHdr) (body : WriteBody) (s : State) : Host.Outcome State Fault Refusal :=
  inboundThen port (laden opWrite h body.data) (fun st s => s.remoteNoted port st body.note) s
/-- GATHER (R322). -/
def execGather (port : BitVec 4) (h : FabHdr) (s : State) : Host.Outcome State Fault Refusal := inbound port (bare opGather h) s

/-- RACC_F32 (R300). -/
def execRaccF32 (port : BitVec 4) (h : FabHdr) (data : List Byte) (s : State) : Host.Outcome State Fault Refusal :=
  inbound port (laden opRacc h data) s
/-- RACC_F32C (R301). -/
def execRaccF32c (port : BitVec 4) (h : FabHdr) (data : List Byte) (s : State) : Host.Outcome State Fault Refusal :=
  inbound port (laden (opRacc + 1) h data) s
/-- RACC_BX16 (R302). -/
def execRaccBx16 (port : BitVec 4) (h : FabHdr) (data : List Byte) (s : State) : Host.Outcome State Fault Refusal :=
  inbound port (laden (opRacc + 2) h data) s
/-- RACC_I64 (R301). -/
def execRaccI64 (port : BitVec 4) (h : FabHdr) (data : List Byte) (s : State) : Host.Outcome State Fault Refusal :=
  inbound port (laden (opRacc + 3) h data) s
/-- RETRACT_F32 (R304). -/
def execRetractF32 (port : BitVec 4) (h : FabHdr) (data : List Byte) (s : State) : Host.Outcome State Fault Refusal :=
  inbound port (laden opRetract h data) s
/-- RETRACT_F32C (R304). -/
def execRetractF32c (port : BitVec 4) (h : FabHdr) (data : List Byte) (s : State) : Host.Outcome State Fault Refusal :=
  inbound port (laden (opRetract + 1) h data) s
/-- RETRACT_BX16 (R304). -/
def execRetractBx16 (port : BitVec 4) (h : FabHdr) (data : List Byte) (s : State) : Host.Outcome State Fault Refusal :=
  inbound port (laden (opRetract + 2) h data) s
/-- RETRACT_I64 (R304). -/
def execRetractI64 (port : BitVec 4) (h : FabHdr) (data : List Byte) (s : State) : Host.Outcome State Fault Refusal :=
  inbound port (laden (opRetract + 3) h data) s

/-- CONTRIB (R315). -/
def execContrib (port : BitVec 4) (h : FabHdr) (body : CloseBody) (s : State) : Host.Outcome State Fault Refusal :=
  inbound port (closing 1 h body) s
/-- VOID (R309). -/
def execVoid (port : BitVec 4) (h : FabHdr) (body : CloseBody) (s : State) : Host.Outcome State Fault Refusal :=
  inbound port (closing 2 h body) s
/-- UP (R318). -/
def execUp (port : BitVec 4) (h : FabHdr) (body : CloseBody) (s : State) : Host.Outcome State Fault Refusal :=
  inbound port (closing 3 h body) s
/-- DOWN (R319). -/
def execDown (port : BitVec 4) (h : FabHdr) (body : CloseBody) (s : State) : Host.Outcome State Fault Refusal :=
  inbound port (closing 4 h body) s

/-- MIRROR_PUT DATA (R341): the payload begins with the 8 bytes of `head`. -/
def execMirrorPut (port : BitVec 4) (h : FabHdr) (head : PutHead) (data : List Byte) (s : State) :
    Host.Outcome State Fault Refusal := inbound port (laden opMirror h ((putPrefix head false).map (·.b) ++ data)) s
/-- PARITY_PUT DATA (R341). -/
def execParityPut (port : BitVec 4) (h : FabHdr) (head : PutHead) (data : List Byte) (s : State) :
    Host.Outcome State Fault Refusal := inbound port (laden opParity h ((putPrefix head false).map (·.b) ++ data)) s
/-- SEAL of a mirror or a parity entry (R342). -/
def execSeal (port : BitVec 4) (h : FabHdr) (head : PutHead) (parity : Bool) (bytes : W64) (s : State) :
    Host.Outcome State Fault Refusal :=
  inbound port (laden (if parity then opParity else opMirror) h
    ((putPrefix head true).map (·.b) ++ (leBytes 8 bytes.toNat).map (·.b))) s

/-- PING (R282). -/
def execPing (port : BitVec 4) (h : FabHdr) (t1 : W64) (s : State) : Host.Outcome State Fault Refusal :=
  inbound port (laden opPing h ((leBytes 8 t1.toNat).map (·.b))) s

/-! ### Responses and transit -/

/-- FABRIC_RESPONSE: matched by TAG to its request, whatever port it came on; one that matches none is discarded. -/
def execFabricResponse (port : BitVec 4) (_ : Byte) (h : FabHdr) (data : List Byte) (s : State) : Host.Outcome State Fault Refusal :=
  let n := port.toNat
  if !s.takesIn n (poolOf h.cls true) || decide (h.dstDev ≠ s.fab.devId) then .next s
  else
    let s := (s.updPort n fun p => p.count 0x12C 1).rxRelease n (poolOf h.cls true)
    if s.isDown h.srcDev then .next (s.countSec 0x124 1)
    else flushed (.next (s.answered (State.tagPort h.tag) (State.tagNum h.tag) h.status (marked h.poison data)))

/-- TRANSIT: a packet for another device goes on with one hop less, over the meshes and the seam to its egress port; its ingress slots
go back when that port has sent it. A request of class 6 or 7 that the order rule gives another port than the last of its source,
destination and class waits until every earlier one has been answered, as `way.settled` tells (R285, R286, log entry 80). One that a
fenced link turns back is bounced FENCED to its source (R194). -/
def execTransit (port : BitVec 4) (op : Byte) (way : Passage) (h : FabHdr) (data : List Byte) (s : State) :
    Host.Outcome State Fault Refusal :=
  let n := port.toNat
  let resp := way.resp
  let p : Pkt := { op := op, resp := resp, h := { h with hops := h.hops - 1 }, data := data }
  let turns : Bool := match s.choosePort h.srcDev h.dstDev h.cls resp with
    | some m => !resp && s.changesPort h.srcDev h.dstDev h.cls m && !way.settled
    | none => false
  let down := s.isDown h.srcDev
  if !s.takesIn n p.pool || decide (h.dstDev = s.fab.devId) || s.heldBack n || (turns && !down && decide (h.hops ≠ 0)) then .next s
  else
    let once := if ((s.rxOldest n p.pool).map (·.again)).getD false then 0 else 1
    let s := s.updPort n fun p => p.count 0x12C once
    let stop (s : State) (st : Status) : Host.Outcome State Fault Refusal :=
      let s := s.rxRelease n p.pool
      .next (if resp then s else s.respond n op h { status := st })
    if down then stop (s.countSec 0x124 1) stDenied
    else if h.hops = 0 then stop (s.countFab 0x020 1) stNotPresent
    else
      match s.choosePort h.srcDev h.dstDev h.cls resp with
      | none => stop (s.countFab 0x020 1) stNotPresent
      | some m =>
        match s.turned (.port n) (.port m) with
        | some t => stop (s.countTurn t) stFenced
        | none =>
          let slots := ((s.rxOldest n p.pool).map (·.slots)).getD 0
          let s := (s.rxTake n p.pool).countFab 0x024 once
          let s := if resp then s else s.tookPort h.srcDev h.dstDev h.cls m
          .next (s.enqueue m { pool := p.pool, body := .fab p, ret := some (n, p.pool, slots) })

/-! ### Sending again -/

/-- BUSY_RESEND: 10 µs after a BUSY answer (R299), counted. -/
def execBusyResend (dst : DevId) (k : BitVec 16) (s : State) : Host.Outcome State Fault Refusal :=
  flushed (.next (s.resendHeld .busy dst k.toNat))

/-- GATHER_RESEND: 10 µs after an older version (R323). -/
def execGatherResend (dst : DevId) (k : BitVec 16) (s : State) : Host.Outcome State Fault Refusal :=
  flushed (.next (s.resendHeld .older dst k.toNat))

/-- DATA_RESEND: 10 µs after a mirror DATA packet was answered ABORTED (R340). -/
def execDataResend (dst : DevId) (k : BitVec 16) (s : State) : Host.Outcome State Fault Refusal :=
  flushed (.next (s.resendHeld .data dst k.toNat))

end Sys2Proof.Machine
end

