-- ==== Sys2Proof/Machine/Remap.lean ====
section
/-! DEFINITION. The remap (R20, R21, R197, R201, R382): which physical sites back the logical clusters and cores, the half-mesh tables, and
the channels of the seam; at start-up, and as a quiesce point ends. -/

namespace Sys2Proof.Machine

open Sys2Proof

namespace State

/-- CAP_CLUSTERS of a half. -/
def backedOf (s : State) (h : Nat) : W32 := if s.hasHalf h then SMap.get 0 s.backed h else 0

/-- The physical site of a logical cluster (R20): its own, a spare, or none. -/
def clusterSite (s : State) (k : Nat) : Option Nat := (SMap.get none s.ctl.sites k).getD (some (k % 32))

/-- The physical core site of a logical core in its cluster: 64 and 65 are the spares SC0 and SC1 (R207). -/
def coreSite (s : State) (core : Nat) : Nat :=
  let st := (s.cluster (core / 64)).status
  if bit st 0 ∧ bits st 13 8 = core % 64 then 64 else if bit st 1 ∧ bits st 21 16 = core % 64 then 65 else core % 64

/-- The retired core sites of a cluster site, in the order of their records. -/
def retiredSites (s : State) (h site : Nat) : List Nat :=
  ((s.lmList.filter fun r => decide (lmType r = lmCoreRetired ∧ bits (lmLoc r) 0 0 = h ∧ bits (lmLoc r) 6 1 = site)).map
    fun r => bits (lmLoc r) 13 7).eraseDups

/-- The cluster site's router is faulty. -/
def siteRetired (s : State) (h site : Nat) : Bool :=
  s.lmList.any fun r => decide (lmType r = lmClusterRetired ∧ bits (lmLoc r) 0 0 = h ∧ bits (lmLoc r) 6 1 = site)

/-- The spare core sites of a cluster site that are not retired. -/
def freeSpares (s : State) (h site : Nat) : List Nat := [64, 65].filter fun c => c ∉ s.retiredSites h site

/-- The retired cores of a cluster site that need a spare. -/
def needy (s : State) (h site : Nat) : List Nat := (s.retiredSites h site).filter fun c => decide (c < 64)

/-- The site can back a logical cluster: its router works, and its spares suffice. -/
def siteGood (s : State) (h site : Nat) : Bool :=
  !s.siteRetired h site && decide ((s.needy h site).length ≤ (s.freeSpares h site).length)

/-- Spare cluster sites of a half (32 XC0, 33 XC1) that are free and can back a cluster. -/
def freeSites (s : State) (h : Nat) : List Nat :=
  [32, 33].filter fun x => s.siteGood h x && (List.range 32).all fun n => decide (s.clusterSite (32 * h + n) ≠ some x)

/-- CL_STATUS of a cluster on a site. -/
def clStatus (s : State) (h site : Nat) : W32 :=
  let use := (s.freeSpares h site).zip (s.needy h site)
  let one (spare : Nat) : Option Nat := (use.find? fun e => decide (e.1 = spare)).map (·.2)
  w32 (flag (one 64).isSome 0 + flag (one 65).isSome 1 + (one 64).getD 0 * 2 ^ 8 + (one 65).getD 0 * 2 ^ 16 +
    flag (decide (32 ≤ site)) 24 + flag (decide (site = 33)) 25)

/-- A logical core comes to stand on another physical site: it is at its reset values, and no longer fenced. Tokens held back at it go home
to their senders (R192). -/
def freshCore (s : State) (core : Nat) : State := (s.returnHeld core).setCore core {}

/-- A cluster comes to stand on a site, or on none. -/
def placeCluster (s : State) (k : Nat) (site : Option Nat) : State :=
  let h := k / 32
  let n := k % 32
  let moved := decide (s.clusterSite k ≠ site)
  let old (c : Nat) : Nat := s.coreSite (64 * k + c)
  let sites := SMap.set none s.ctl.sites k (if site = some n then none else some site)
  let status := (site.map (s.clStatus h)).getD 0
  let oldSites := (List.range 64).map old
  let s := { s with ctl := { s.ctl with sites := sites }, backed := SMap.upd 0 s.backed h fun m => setBits m n n (flag site.isSome 0) }
  let s := if moved then
      { s with clusters := SMap.set {} s.clusters k { status := status }, csus := SMap.set {} s.csus k {} }
    else s.updCluster k fun c => { c with status := status }
  ((List.range 64).zip oldSites).foldl (fun s e =>
    if moved ∨ s.coreSite (64 * k + e.1) ≠ e.2 then s.freshCore (64 * k + e.1) else s) s

/-- R20 for one logical cluster. -/
def remapCluster (s : State) (k : Nat) : State :=
  let h := k / 32
  match s.clusterSite k with
  | some site => if s.siteGood h site then s.placeCluster k (some site) else s.placeCluster k (s.freeSites h).head?
  | none => s.placeCluster k (s.freeSites h).head?

/-- R20 for a half; its tables avoid the routers that are fenced (R197). -/
def remapHalf (s : State) (h : Nat) : State :=
  if s.hasHalf h then
    let s := s.updHalf h fun x => { x with avoid := (List.range 32).filter fun n => s.siteRetired h n }
    (List.range 32).foldl (fun s n => s.remapCluster (32 * h + n)) s
  else s

/-- CAP_SPARES (R27). -/
def spareWord (s : State) : W32 :=
  let retired := ((s.lmList.filter fun r => decide (lmType r = lmCoreRetired)).map lmLoc).eraseDups.length
  let free (h : Nat) : Nat := if s.hasHalf h then (s.freeSites h).length else 0
  w32 (free 0 + free 1 * 2 ^ 2 + retired % 4096 * 2 ^ 16)

/-- A free spare joins the row that has the fewest channels. -/
def addSpare (s : State) (c : Nat) : State :=
  let n (r : Nat) : Nat := (s.rowChannels r).length
  let row := (List.range 4).foldl (fun b r => if n r < n b then r else b) 0
  (List.range 2).foldl (fun s h => s.updHalf h fun y =>
    { y with seamActive := setBits y.seamActive c c 1, seamRow := SMap.set 0 y.seamRow c (BitVec.ofNat 2 row) }) s

/-- The seam's active channels as the lichen map records them last (R350). -/
def recordedSeam (s : State) : BitVec 34 :=
  match (s.lmList.filter fun r => decide (lmType r = lmSeam)).getLast? with
  | some r => (lmLoc r).setWidth 34
  | none => 0

/-- The channels that have failed: the lichen map records them as active once, and not any more. -/
def failedSeam (s : State) : BitVec 34 :=
  ((s.lmList.filter fun r => decide (lmType r = lmSeam)).foldl (fun m r => m ||| (lmLoc r).setWidth 34) (0 : BitVec 34)) &&&
    ~~~ s.recordedSeam

/-- Channels of the seam that failed in service are replaced by free spares (R201). -/
def healSeam (s : State) : State :=
  let x := s.half 0
  let idle := (List.range 34).filter fun c => !x.seamActive.getLsbD c && !x.seamFenced.getLsbD c && !s.failedSeam.getLsbD c
  let add := idle.take (32 - popcount 34 x.seamActive.toNat)
  if !s.hasSeam || add.isEmpty then s
  else
    let t := add.foldl addSpare s
    let t := (List.range 34).foldl (fun t c => if (t.half 0).seamActive.getLsbD c then t else (t.reseat 0 c).reseat 1 c) t
    t.lmAdd lmSeam ((t.half 0).seamActive.setWidth 48)

/-- The remap of a half that a REMAP has asked for, and CAP_GEN with it, which take effect together as its quiesce point ends (R197, R382). -/
def remapNow (s : State) (h : Nat) : State :=
  if !(s.half h).remap then s
  else
    let t := ((s.updHalf h fun x => { x with remap := false }).healSeam).remapHalf h
    let sp := t.spareWord
    if t.backedOf 0 = s.backedOf 0 ∧ t.backedOf 1 = s.backedOf 1 ∧ sp = s.ctl.capSpares then t
    else
      let t := { t with ctl := { t.ctl with capGen := t.ctl.capGen + 1, capSpares := sp } }
      t.notify 0x0008 [t.ctl.capGen, w32 h, t.backedOf h]

end State

end Sys2Proof.Machine
end

