-- ==== Sys2Proof/Machine/Engine.lean ====
section
/-! DEFINITION. What the collective engines do of their own accord (R178, R299, R305 to R325, R338 to R343): the descriptors of rings
and lists, arming, the close scan, the commit tree, and securing epochs. An event whose conditions do not hold changes nothing. -/

namespace Sys2Proof.Machine

open Sys2Proof

/-- An engine event on the job table, the commit state or the securing table, which the CE of H0 keeps (log entry 28). -/
def engine (f : State → State) (s : State) : Host.Outcome State Fault Refusal :=
  if s.ceRuns 0 then flushed (.next (f s)) else .next s

/-- PUT (R178): the ring's next owed descriptor, where it is a PUT. -/
def execPut (half : BitVec 1) (ring : BitVec 4) (s : State) : Host.Outcome State Fault Refusal :=
  flushed (.next (s.startMove half.toNat ring.toNat 1))
/-- GET (R178). -/
def execGet (half : BitVec 1) (ring : BitVec 4) (s : State) : Host.Outcome State Fault Refusal :=
  flushed (.next (s.startMove half.toNat ring.toNat 2))
/-- REDUCTION_SEND (R305): the list's next descriptor, where it is a SEND. -/
def execReductionSend (half : BitVec 1) (list : BitVec 4) (s : State) : Host.Outcome State Fault Refusal :=
  flushed (.next (s.startDesc half.toNat list.toNat 1))
/-- REDUCTION_PASS (R310). -/
def execReductionPass (half : BitVec 1) (list : BitVec 4) (s : State) : Host.Outcome State Fault Refusal :=
  flushed (.next (s.startDesc half.toNat list.toNat 2))
/-- REDUCTION_CLOSE (R314). -/
def execReductionClose (half : BitVec 1) (list : BitVec 4) (s : State) : Host.Outcome State Fault Refusal :=
  flushed (.next (s.startDesc half.toNat list.toNat 3))
/-- REDUCTION_GATHER (R323): its narrow data take their frames ahead of prefetch, and GATHERs of the list that waited for theirs
complete (R324). -/
def execReductionGather (half : BitVec 1) (list : BitVec 4) (s : State) : Host.Outcome State Fault Refusal :=
  flushed (.next ((s.startDesc half.toNat list.toNat 4).yieldFrames.endGathers half.toNat list.toNat))

/-- ARMING_DONE (R299). -/
def execArmingDone (job : BitVec 6) (s : State) : Host.Outcome State Fault Refusal := engine (·.endArming job.toNat) s
/-- CLOSE_SCAN (R315): by the CE of the half that holds BUF. -/
def execCloseScan (job : BitVec 6) (s : State) : Host.Outcome State Fault Refusal :=
  if s.ceRuns (s.bufHalf job.toNat) then flushed (.next (s.closeScan job.toNat)) else .next s
/-- UP_SEND (R318). -/
def execUpSend (s : State) : Host.Outcome State Fault Refusal := engine State.upReady s
/-- COMMIT_MARK (R319): the root chooses the mark. -/
def execCommitMark (s : State) : Host.Outcome State Fault Refusal := engine State.rootMark s
/-- COMMIT_OUTCOME (R320): the shaft count has reached the mark. -/
def execCommitOutcome (s : State) : Host.Outcome State Fault Refusal := engine State.markReached s
/-- OPT_EVENT (R320). -/
def execOptEvent (job : BitVec 6) (s : State) : Host.Outcome State Fault Refusal := engine (·.optimised job.toNat) s
/-- SEC_EPOCH_START (R338). -/
def execSecEpochStart (s : State) : Host.Outcome State Fault Refusal := engine State.startEpoch s
/-- SEC_EPOCH_DONE (R343). -/
def execSecEpochDone (s : State) : Host.Outcome State Fault Refusal := engine State.endEpoch s

end Sys2Proof.Machine
end

