-- ==== Sys2Proof/Machine/Shaft.lean ====
section
/-! DEFINITION. Shaft time (R373, R375, R193, R278, R362): the tick and the turn boundary; and what is counted by the tick
(R117, R291, R339, R343). -/

namespace Sys2Proof.Machine

open Sys2Proof

/-! ### The count (R373, R375) -/

namespace Shaft

/-- The turn that a count lies in. -/
def turnOf (c : W64) : Nat := c.toNat / 2 ^ 20

/-- One advance, and the phase that is applied with it: one tick in 1,025 advances is gained, one in 1,023 lost. -/
def tick (x : Shaft) : Shaft :=
  let acc := x.slewAcc + 1
  let x := { x with count := x.count + 1 }
  if x.slewRem = 0 then { x with slewAcc := 0 }
  else if 0 < x.slewRem.toInt then
    if 1025 ≤ acc then { x with slewRem := x.slewRem - 1, slewAcc := 0 } else { x with slewAcc := acc }
  else if 1023 ≤ acc then { x with slewRem := x.slewRem + 1, slewAcc := 0 }
  else { x with slewAcc := acc }

end Shaft

/-! ### Counts kept in ticks -/

/-- What keeps a slot's next command from being ready; of a fused group, every member iteration that is next (R157). -/
def State.lacking (s : State) (site : Site) : List Why :=
  let c := s.core site.core.toNat
  let sl := c.slot site.slot.toNat
  let whys (v : Verdict) : List Why := match v with
    | .wait ys => ys
    | _ => [.other]
  match sl.group with
  | some g => (List.range g.members.length).flatMap fun m => if g.total ≤ nth 0 g.done m then [] else whys (s.memberVerdict site g m)
  | none =>
    match c.nextWord site.slot.toNat with
    | none => [.other]
    | some (op, w) => whys (s.verdict site op w)

/-- The queue that alone keeps a RUNNING slot's next command from being ready, and whether as its input (R117). -/
def State.stallOf (s : State) (site : Site) : Option (Nat × Bool) :=
  match s.lacking site with
  | [] => none
  | y :: ys =>
    if ys.any fun z => decide (z ≠ y) then none
    else
      match y with
      | .inQ q => some (q.toNat, true)
      | .outQ q => some (q.toNat, false)
      | .other => none

/-- QSTALL counts of one core: at most one for each queue and direction. -/
def State.countStalls (s : State) (k : Nat) : State :=
  let c := s.core k
  let qs := (c.slots.filter fun e => decide (e.2.st = 1)).filterMap fun e =>
    s.stallOf { core := BitVec.ofNat 12 k, slot := BitVec.ofNat 2 e.1 }
  qs.dedup.foldl (fun s e => s.updCore k fun c => c.count ((if e.2 then 0x240 else 0x280) + 4 * e.1) 1) s

/-- A frame of the port waits for credit (R270). -/
def Port.starved (p : Port) : Bool :=
  p.queue.any fun q => decide (SMap.get 0 p.credit q.pool.toNat < frameSlots (some q.body))

/-- A securing packet of this Triat occupies a port; `only`: those that this picks. -/
def Port.securing (p : Port) (dev : DevId) (only : Pkt → Bool) : Bool :=
  let isPut (b : FBody) : Bool := match b with
    | .fab x => !x.resp && decide (x.h.srcDev = dev) && decide (x.op = opMirror ∨ x.op = opParity) && only x
    | _ => false
  p.queue.any (fun q => isPut q.body) || p.sent.any fun t => match t.body with
    | some b => isPut b
    | none => false

namespace State

/-- The packet is of an entry's rebuild, and not of an epoch (R345). -/
def isRebuild (s : State) (x : Pkt) : Bool :=
  (SMap.get none (s.port (State.tagPort x.h.tag)).tags (State.tagNum x.h.tag)).any fun r => match r.who with
    | .rebData _ => true
    | .rebSeal _ => true
    | _ => false

/-- SEC_HOLD_TICKS and SEC_BUSY_TICKS, and the sums of the open epoch, to which its own packets alone count (R339, R343). -/
def countSecuring (s : State) : State :=
  let h := if s.coll.heldJobs.isEmpty then 0 else 1
  let on (only : Pkt → Bool) : Nat := if s.ports.any fun e => decide (e.1 < 16) && e.2.securing s.fab.devId only then 1 else 0
  let own := on fun x => decide (putEpoch x = s.sec.epoch) && !s.isRebuild x
  let t := { s with sec := { s.sec with hold := s.sec.hold + h, busy := s.sec.busy + own } }
  (t.countSec 0x108 h).countSec 0x10C (on fun _ => true)

/-- Sectors of a stack. -/
def stackSectors : Nat := 72 * 2 ^ 24

/-- Passes of a pattern that write, and that read (R239): MARCH_CM has five of each. -/
def testPasses (pattern : Nat) : Nat :=
  match pattern with
  | 0 | 1 => 2
  | 2 => 5
  | _ => 1

/-- An entry of a region list (R367). -/
def region (addr : W64) (virt : Bool) (kind len : Nat) : List W32 :=
  [lo32 addr, w32 (bits addr 47 32 + flag virt 16 + kind * 2 ^ 17), w32 (len % 2 ^ 32), w32 (len / 2 ^ 32)]

/-- Bytes of a stack (R26). -/
def stackBytes : Nat := 72 * 2 ^ 30

/-- The region list of stacks whose test has been stopped. -/
def stackRegions (ks : List Nat) : List W32 := w32 ks.length :: ks.flatMap fun k => region (BitVec.ofNat 64 k) false 2 stackBytes

/-- A stack whose test ends, or is stopped: every sector is written poisoned (R239), and its controller is in MAINT again. -/
def endTest (s : State) (k : Nat) : State :=
  { s with mem := s.mem.dropMarks fun a => decide ((s.place (64 * a)).stack = k) }.updMc k fun m => { m.count 0x104 stackSectors with st := 2 }

/-- The passes of a test that has run to its end. -/
def testCounts (s : State) (k pattern : Nat) : State :=
  s.updMc k fun m => (m.count 0x100 (testPasses pattern * stackSectors)).count 0x104 (testPasses pattern * stackSectors)

/-- What an engine found on a stack. -/
def foundOn (found : List TestResult) (k : Nat) : TestResult :=
  (found.find? fun f => decide (f.stack.toNat = k)).getD
    { stack := BitVec.ofNat 4 k, failed := 0, firstOffset := 0, firstPlace := 0, failedChannels := 0 }

/-- A test's stacks have all been tested, or their parts stopped: channels that went FAILED are so, and the reply follows. -/
def finishTest (s : State) (r : Inflight) (found : List TestResult) (left aborted busy : BitVec 12) : State :=
  let ks := bitList 12 left.toNat
  let s := ks.foldl (fun s k =>
    (bitList 16 (foundOn found k).failedChannels.toNat).foldl (fun s c => s.failChannel k c) (s.endTest k)) s
  let words (k : Nat) : List W32 :=
    let f := foundOn found k
    [f.failed, f.firstOffset, f.firstPlace, w32 (popcount 16 f.failedChannels.toNat)]
  if aborted = 0 ∧ busy = 0 then s.endRequest r stOk (ks.flatMap words)
  else if left = 0 ∧ busy = 0 then s.endRequest r stAborted (stackRegions (bitList 12 aborted.toNat))
  else
    let parts := (bitList 12 (left ||| aborted ||| busy).toNat).map fun k =>
      (k, if left.getLsbD k then stOk else if aborted.getLsbD k then stAborted else stBusy)
    s.endRequest r (splitReply 1 12 parts).1 (splitReply 1 12 parts).2

/-- One tick for the tests in flight. -/
def tickTests (s : State) : State :=
  s.ctl.inflight.foldl (fun s r =>
    match r.wait with
    | .memTest found left aborted busy (n + 1) =>
      if n = 0 ∨ left = 0 then s.finishTest r found left aborted busy
      else
        let next (x : Inflight) : Inflight := if x = r then { x with wait := .memTest found left aborted busy n } else x
        { s with ctl := { s.ctl with inflight := s.ctl.inflight.map next } }
    | _ => s) s

/-- What one tick adds to the counts. -/
def countTick (s : State) : State :=
  let s := s.cores.foldl (fun s e => s.countStalls e.1) s
  let s := s.ports.foldl (fun s e => if e.2.starved ∧ e.2.st = psActive then s.updPort e.1 (·.count 0x124 1) else s) s
  s.countSecuring

/-! ### The turn boundary -/

/-- Control ports whose partner is the owner and which are ACTIVE (R362). -/
def ownerActive (s : State) (n : Nat) : Bool :=
  s.hasPort n && decide ((s.port n).st = psActive) &&
    (match s.ctl.owner with
     | some h => decide ((s.port n).keyHash = h)
     | none => false)

/-- Adds one, saturating. -/
def satInc {n : Nat} (x : BitVec n) : BitVec n := if x = BitVec.allOnes n then x else x + 1

/-- The heartbeats of a turn boundary (R278). -/
def beat (s : State) (n : Nat) : State :=
  let p := s.port n
  if s.hasPort n ∧ (p.st = psHeld ∨ p.st = psActive ∨ p.st = psResume) then
    (s.updPort n fun p => { p with missed := satInc p.missed }).link n (.heartbeat s.sh.count)
  else s

/-- The audits of a turn boundary (R193). -/
def beginAudit (s : State) (h : Nat) : State :=
  if s.hasHalf h ∧ !s.pwr.gated.getLsbD h ∧ bit (s.half h).netCtrl 1 then
    s.updHalf h fun x => { x with auditing := some (BitVec.ofNat 32 (Shaft.turnOf s.sh.count)) }
  else s

/-- The work of a turn boundary. -/
def turn (s : State) : State :=
  let s := { s with sh := { s.sh with since := satInc s.sh.since, turnSeen := some s.sh.count },
                    ctl := { s.ctl with lapsed := if s.ownerActive 16 || s.ownerActive 17 then 0 else satInc s.ctl.lapsed } }
  let s := (List.range 18).foldl (fun s n => s.beat n) s
  (List.range 2).foldl (fun s h => s.beginAudit h) s

end State

/-- TURN_BOUNDARY: once for each count whose bits [19:0] are 0. -/
def execTurnBoundary (s : State) : Host.Outcome State Fault Refusal :=
  .next (if !s.dormant ∧ s.sh.count.toNat % 2 ^ 20 = 0 ∧ s.sh.turnSeen ≠ some s.sh.count then s.turn else s)

end Sys2Proof.Machine
end

