-- ==== Sys2Proof/Machine/CoreRegs.lean ====
section
/-! DEFINITION. The registers of the compute block (R94 to R116, R184, R194 to R208): the core window, the cluster registers, the
network registers and the seam; and the registers of a cluster stream unit (R258 to R260). -/

namespace Sys2Proof.Machine

open Sys2Proof

/-! ### Helpers -/

/-- The outcome of a register write: its status, and the state. -/
abbrev Wrote := Status × State

/-- A write that is turned away and changes nothing. -/
def State.refuse (s : State) (st : Status) : Wrote := (st, s)
/-- A write that has taken effect. -/
def State.wrote (s : State) : Wrote := (stOk, s)

/-- A count takes the value written (R117 and its like). -/
def setCount (m : SMap W32) (off : Nat) (v : W32) : SMap W32 := SMap.set 0 m off v

/-- Some slot of a cluster is RUNNING. -/
def State.clusterRuns (s : State) (k : Nat) : Bool := s.cores.any fun e => decide (e.1 / 64 = k) && e.2.anyRunning

/-- Some slot of a half is RUNNING. -/
def State.halfRuns (s : State) (h : Nat) : Bool := s.cores.any fun e => decide (e.1 / 2048 = h) && e.2.anyRunning

/-! ### Quiesce points (R198) -/

namespace State

/-- The halves between which something is on its way on the on-chip networks. -/
def travels (s : State) : List (Nat × Nat) :=
  s.net.pushes.map (fun p => (halfOf p.src, halfOf p.dst)) ++
  (s.net.tokens ++ s.net.returning).map (fun t => ((t.src.map fun x => halfOf x.core).getD (halfOf t.target), halfOf t.target)) ++
  s.net.stores.map (fun t => (halfOf t.site.core, (s.place t.pa.toNat).stack / 6)) ++
  s.net.acks.map (fun a => (halfOf a.site.core, halfOf a.site.core)) ++
  s.net.invals.map (fun i => (i.csu.toNat / 32, i.csu.toNat / 32)) ++
  s.csus.flatMap fun e => e.2.inflight.map fun r => (e.1 / 32, (s.place (256 * r.line.toNat)).stack / 6)

/-- A CE has no descriptor in execution and none to start. -/
def ceIdle (s : State) (h : Nat) : Bool :=
  let c := s.ce h
  (c.rings.all fun e => e.2.run.isNone && !(bit e.2.ctrl 31 && decide (e.2.owed ≠ 0 ∧ e.2.head ≠ e.2.tail))) &&
    c.lists.all fun e => e.2.runs.isEmpty && !(bit e.2.ctrl 31 && decide (e.2.owed ≠ 0))

/-- No transfer of either direction of the seam awaits acknowledgement. -/
def seamQuiet (s : State) : Bool := [0, 1].all fun h => (s.half h).seamCh.all fun e => e.2.kept.isEmpty

/-- SEAM_STATUS.DRAINED (R207): the seam has been trained, so that its credits are home, no transfer awaits acknowledgement, and nothing
is on its way across. -/
def seamDrained (s : State) : Bool :=
  ((s.half 0).seamUp || (s.half 1).seamUp) && s.seamQuiet && s.travels.all fun t => decide (t.1 = t.2)

/-- The conditions of R198. -/
def halfIdle (s : State) (h : Nat) : Bool :=
  !s.halfRuns h && s.ceIdle h && s.seamQuiet &&
    s.travels.all fun t => decide (t.1 ≠ h ∧ t.2 ≠ h)

/-- NET_STATUS.QUIESCED. -/
def quiesced (s : State) (h : Nat) : Bool := s.hasHalf h && bit (s.half h).netCtrl 0 && s.halfIdle h

/-- Every present half is at a quiesce point. -/
def allQuiesced (s : State) : Bool := s.halfList.all s.quiesced

end State

/-! ### The core window (R114 to R117) -/

/-- QSTATE_Qn, in granules of 8 bytes. -/
def State.qstate (s : State) (core : CoreId) (q : Nat) : W32 :=
  let occ := ((s.core core.toNat).ring q).data.length / 2
  w32 (occ + s.creditWords core q / 2 * 2 ^ 16 + flag (s.boundOk core q) 30)

/-- A read in the window of a core. DESIGN CHOICE (log entry 88): RESULT of CMP_Kn_CFG shows the comparison (R111) from reset on, where its
Reset column says 0. -/
def State.coreRead (s : State) (core : CoreId) (off : Nat) : W32 :=
  let c := s.core core.toNat
  let slots (f : Slot → Nat) : Nat := ((List.range 4).map fun n => f (c.slot n) * 4 ^ n).sum
  if off = 0x100 then c.ctrl
  else if off = 0x104 then
    w32 (slots (fun sl => sl.st.toNat) + flag c.tailrace 8 + flag c.fenced 9 + flag (bit c.ctrl 0) 10)
  else if off = 0x108 then w32 (flag c.pseen 0 + flag c.nfseen 1)
  else if off = 0x110 then w32 (slots fun sl => sl.tag.toNat)
  else if off = 0x114 then c.lastGen.setWidth 32
  else if 0x120 ≤ off ∧ off < 0x140 then
    let p := (c.slot ((off - 0x120) / 8)).ptr
    if off % 8 = 0 then p.setWidth 32 else (p >>> 32).setWidth 32
  else if 0x140 ≤ off ∧ off < 0x150 then (c.slot ((off - 0x140) / 4)).fault
  else if 0x150 ≤ off ∧ off < 0x170 then c.cnt ((off - 0x150) / 4)
  else if 0x170 ≤ off ∧ off < 0x190 then
    let n := (off - 0x170) / 8
    let k := SMap.get {} c.cmps n
    if off % 8 = 0 then k.cfg ||| w32 (flag (c.cmpResult n) 31) else k.imm
  else if 0x190 ≤ off ∧ off < 0x1CC then
    let r := c.ring ((off - 0x190) / 4)
    w32 (r.base.toNat + r.size.toNat * 2 ^ 11)
  else if 0x1D0 ≤ off ∧ off < 0x1E0 then c.bind (10 + (off - 0x1D0) / 4)
  else if 0x200 ≤ off ∧ off < 0x23C then s.qstate core ((off - 0x200) / 4)
  else if (0x240 ≤ off ∧ off < 0x27C) ∨ (0x280 ≤ off ∧ off < 0x2BC) ∨ (0x300 ≤ off ∧ off < 0x32C) then SMap.get 0 c.counts off
  else 0

/-- START of a slot (R101): it runs under the generation that is current (R380). Slots started by one write have gone equally long without
issuing (R104). -/
def Core.start (gen : BitVec 16) (c : Core) (n : Nat) : Core :=
  let sl := c.slot n
  if sl.st = 1 then c
  else
    let c := if c.anyRunning then c else { c with lag := none }
    { c.setSlot n { sl with st := 1, fault := 0, marked := false, gen := gen, swap := none, stop := false, last := c.clock,
                            group := if sl.st = 3 then none else sl.group } with lastGen := gen }

/-- STOP of a slot (R101): one whose last issued command has not completed becomes STOPPED with its completion. What is left of a fused
group is dropped (log entry 74). -/
def Core.stopSlot (c : Core) (n : Nat) : Core :=
  let sl := c.slot n
  if sl.st ≠ 1 then c
  else if c.runs.any fun r => decide (r.slot.toNat = n) then c.setSlot n { sl with stop := true }
  else (c.setSlot n { sl with st := 0, swap := none, group := none }).cancelAhead

/-- SLOT_CMD (R101, R107, R198, R391). -/
def State.slotCmd (s : State) (core : CoreId) (start stop : Nat) : Wrote :=
  let k := core.toNat
  let c := s.core k
  if start &&& stop ≠ 0 then s.refuse stBadParam
  else if start ≠ 0 ∧ (bit (s.half (halfOf core)).netCtrl 0 ∨ s.pwr.st = 1) then s.refuse stBusy
  else if bit c.ctrl 0 ∧ start / 2 ≠ 0 then s.refuse stBadParam
  else
    let c := (bitList 4 stop).foldl Core.stopSlot c
    (s.setCore k ((bitList 4 start).foldl (Core.start (s.half (halfOf core)).gen) c)).wrote

/-- A SLOT_PTR write (R101, R155). -/
def State.slotPtr (s : State) (core : CoreId) (n : Nat) (hi : Bool) (v : W32) : Wrote :=
  let c := s.core core.toNat
  let sl := c.slot n
  if sl.st ≠ 0 then s.refuse stBusy
  else
    let p : VA := if hi then setBits sl.ptr 47 32 (bits v 15 0) else setBits sl.ptr 31 0 (v.toNat / 16 * 16)
    (s.setCore core.toNat (c.setSlot n { sl with ptr := p, loops := [], group := none })).wrote

/-- A SLOT_PHASE write (R106). -/
def State.slotPhase (s : State) (core : CoreId) (v : W32) : Wrote :=
  let c := s.core core.toNat
  let tag (n : Nat) : BitVec 2 := BitVec.ofNat 2 (bits v (2 * n + 1) (2 * n))
  let ns := List.range 4
  if ns.any fun n => decide (tag n = 3) then s.refuse stBadParam
  else if ns.any fun n => decide ((c.slot n).st ≠ 0 ∧ (c.slot n).tag ≠ tag n) then s.refuse stBusy
  else (s.setCore core.toNat (ns.foldl (fun c n => c.updSlot n fun sl => { sl with tag := tag n }) c)).wrote

/-- Ring `n` of `size` units at `base` overlaps another enabled ring (R94). -/
def Core.overlaps (c : Core) (n size base : Nat) : Bool :=
  c.rings.any fun e => decide (e.1 ≠ n ∧ 0 < e.2.size.toNat ∧ 0 < size ∧ base < e.2.base.toNat + e.2.size.toNat ∧
    e.2.base.toNat < base + size)

/-- A QCFG write (R94, R98): the ring's contents are discarded. What a stalled command has popped stays (R60). -/
def State.setQcfg (s : State) (core : CoreId) (n : Nat) (v : W32) : Wrote :=
  let c := s.core core.toNat
  let size := bits v 21 11
  let base := bits v 10 0
  if c.anyRunning then s.refuse stBusy
  else if 1536 < base + size ∨ c.overlaps n size base ∨ (n = 14 ∧ 1 ≤ size ∧ size ≤ 32) then s.refuse stBadParam
  else
    let r : Ring := { size := BitVec.ofNat 11 size, base := BitVec.ofNat 11 base, staged := (c.ring n).staged }
    (s.setCore core.toNat { c with rings := SMap.set {} c.rings n r }).wrote

/-- A QBIND write of Q(10 + n) (R29, R96, R98). DESIGN CHOICE (log entry 76): BUSY, where a slot is RUNNING, is answered before NOT_PRESENT.
A fence of the auditor lifts at this end (R194). -/
def State.setQbind (s : State) (core : CoreId) (n : Nat) (v : W32) : Wrote :=
  let c := s.core core.toNat
  let v := v &&& 0x800037FF
  let p := peerOf core v
  if c.anyRunning then s.refuse stBusy
  else if !s.hasCore p.1 then s.refuse stNotPresent
  else if bit v 31 ∧ p = (core, 10 + n) then s.refuse stBadParam
  else
    (s.setCore core.toNat { c with binds := SMap.set 0 c.binds (10 + n) v,
                                   bindFenced := SMap.set false c.bindFenced (10 + n) false }).wrote

/-- Writing 1 to CORE_SEEN clears a source (R113). -/
def State.clearSeen (s : State) (core : CoreId) (v : W32) : Wrote :=
  (s.updCore core.toNat fun c => { c with pseen := c.pseen && !bit v 0, nfseen := c.nfseen && !bit v 1 }).wrote

/-- The write is a SLOT_CMD STOP: it stops some slot and starts none. -/
def isStop (off : Nat) (v : W32) : Bool := decide (off = 0x10C ∧ bits v 3 0 = 0 ∧ bits v 7 4 ≠ 0)

/-- A write in the window of a core that is present; a fenced one takes only a STOP (R114). -/
def State.coreWrite (s : State) (core : CoreId) (off : Nat) (v : W32) : Wrote :=
  let k := core.toNat
  let c := s.core k
  if s.fencedCore k ∧ !isStop off v then s.refuse stFenced
  else if off = 0x100 then
    if c.anyRunning then s.refuse stBusy
    else if bits v 8 4 = 0 ∨ 16 < bits v 8 4 then s.refuse stBadParam
    else (s.setCore k { c with ctrl := v &&& 0x1F1 }).wrote
  else if off = 0x108 then s.clearSeen core v
  else if off = 0x10C then s.slotCmd core (bits v 3 0) (bits v 7 4)
  else if off = 0x110 then s.slotPhase core v
  else if 0x120 ≤ off ∧ off < 0x140 then s.slotPtr core ((off - 0x120) / 8) (off % 8 = 4) v
  else if 0x150 ≤ off ∧ off < 0x170 then
    if c.anyRunning then s.refuse stBusy else (s.setCore k (c.setCnt ((off - 0x150) / 4) v)).wrote
  else if 0x170 ≤ off ∧ off < 0x190 then
    let n := (off - 0x170) / 8
    if c.anyRunning then s.refuse stBusy
    else if off % 8 = 0 ∧ 6 ≤ bits v 2 0 then s.refuse stBadParam
    else (s.setCore k { c with cmps := SMap.upd {} c.cmps n fun x =>
      if off % 8 = 0 then { x with cfg := v &&& 0x7FF } else { x with imm := v } }).wrote
  else if 0x190 ≤ off ∧ off < 0x1CC then s.setQcfg core ((off - 0x190) / 4) v
  else if 0x1D0 ≤ off ∧ off < 0x1E0 then s.setQbind core ((off - 0x1D0) / 4) v
  else if (0x240 ≤ off ∧ off < 0x27C) ∨ (0x280 ≤ off ∧ off < 0x2BC) ∨ (0x300 ≤ off ∧ off < 0x32C) then
    (s.setCore k { c with counts := setCount c.counts off v }).wrote
  else s.wrote

/-- A PIPE_POLICY write (R106): cores with a RUNNING slot keep the policy in force for now. -/
def State.setPolicy (s : State) (h : Nat) (v : W32) : State :=
  let new := bit v 0
  let cores := s.cores.map fun e =>
    if e.1 / 2048 = h then
      let old := e.2.lag.getD (s.half h).policy
      (e.1, { e.2 with lag := if e.2.anyRunning ∧ old ≠ new then some old else none })
    else e
  let cores := cores.filter fun e => decide (e.2 ≠ {})
  ({ s with cores := cores }).updHalf h fun x => { x with policy := new }

/-! ### Clusters (R184, R195, R206 to R208) -/

/-- The CSU area is emptied: frames are discarded and streams cancelled (R253). -/
def Csu.discard (c : Csu) : Csu :=
  { c.count 0x1C ((c.frames.map fun f => f.unhit.length).sum) with
    frames := [], streams := []
    inflight := c.inflight.map fun r => { r with cancelled := true, live := false } }

/-- A CSM_CFG write. -/
def State.setCsmCfg (s : State) (k : Nat) (v : W32) : Wrote :=
  let n := bits v 5 0
  if s.clusterRuns k then s.refuse stBusy
  else if 32 < n then s.refuse stBadParam
  else ((s.updCluster k fun c => { c with cfg := w32 n }).updCsu k Csu.discard).wrote

/-- FENCED_LO or FENCED_HI of a cluster. -/
def State.fencedMask (s : State) (k lo : Nat) : W32 :=
  w32 (((List.range 32).map fun n => flag (s.core (64 * k + lo + n)).fenced n).sum)

def State.clusterRead (s : State) (k off : Nat) : W32 :=
  let c := s.cluster k
  if off = 0x00 then c.cfg
  else if off = 0x04 then c.status
  else if off = 0x10 then s.fencedMask k 0
  else if off = 0x14 then s.fencedMask k 32
  else if off = 0x18 then c.linksFenced.setWidth 32
  else if 0x20 ≤ off ∧ off < 0x40 then SMap.get 0 c.counts off
  else 0

def State.clusterWrite (s : State) (k off : Nat) (v : W32) : Wrote :=
  if off = 0x00 then s.setCsmCfg k v
  else if off = 0x08 then (if bit v 8 then s.fenceCore (BitVec.ofNat 12 (64 * k + bits v 5 0)) 0 else s).wrote
  else if 0x20 ≤ off ∧ off < 0x40 then (s.updCluster k fun c => { c with counts := setCount c.counts off v }).wrote
  else s.wrote

/-! ### Network and seam (R198 to R208) -/

/-- The seam clock in MHz: twice the slower half's cclk (R202). -/
def State.seamRate (s : State) : Nat :=
  let step (h : Nat) : Nat := (SMap.get {} s.pwr.clocks h : HalfClock).step.toNat
  match Nat.max (step 0) (step 1) with
  | 0 => 1880
  | 1 => 1410
  | 2 => 940
  | _ => 470

/-- A NET_CTRL write (R198, R207). Clearing QUIESCE_REQ ends the quiesce point, with the remap that waits for it. -/
def State.setNetCtrl (s : State) (h : Nat) (v : W32) : Wrote :=
  let s := s.updHalf h fun x => { x with netCtrl := v &&& 3, auditing := if bit v 1 then x.auditing else none }
  (if bit v 0 then s else s.remapNow h).wrote

/-- NET_STATUS.MESH_FENCED: the core-mesh and half-mesh links of a half that are fenced, on either virtual channel. -/
def Half.meshCount (x : Half) : Nat :=
  (((x.meshFenced.filter fun l => decide (bits l 31 28 ≤ 1)).map fun l => l &&& 0xFFFFC000).eraseDups).length

def State.netRead (s : State) (h off : Nat) : W32 :=
  let x := s.half h
  if off = 0x400 then x.netCtrl
  else if off = 0x404 then
    w32 (flag (s.quiesced h) 0 + flag (x.seamUp && !x.seamStilled) 1 +
      flag (decide (s.pwr.st = 2) && s.pwr.gated.getLsbD (1 - h)) 2 + (x.meshCount ⊓ 255) * 2 ^ 8)
  else if off = 0x408 then x.auditTurn
  else if off = 0x40C then x.auditCount.setWidth 32
  else if off = 0x410 then x.auditLink
  else if off = 0x414 then x.auditDiff
  else if 0x800 ≤ off ∧ off < 0x2800 then s.clusterRead (32 * h + (off - 0x800) / 0x100) (off % 0x100)
  else if off = 0x4000 then w32 (flag (x.seamUp && !x.seamStilled) 0 + flag x.seamStilled 1 + flag s.seamDrained 2)
  else if off = 0x4004 then x.seamActive.setWidth 32
  else if off = 0x4008 then (x.seamActive >>> 32).setWidth 32
  else if off = 0x400C then x.seamFenced.setWidth 32
  else if off = 0x4010 then (x.seamFenced >>> 32).setWidth 32
  else if off = 0x4014 then w32 s.seamRate
  else if 0x4018 ≤ off ∧ off < 0x4028 then SMap.get 0 x.counts off
  else 0

def State.netWrite (s : State) (h off : Nat) (v : W32) : Wrote :=
  if off = 0x400 then s.setNetCtrl h v
  else if 0x800 ≤ off ∧ off < 0x2800 then s.clusterWrite (32 * h + (off - 0x800) / 0x100) (off % 0x100) v
  else if 0x4018 ≤ off ∧ off < 0x4028 then (s.updHalf h fun x => { x with counts := setCount x.counts off v }).wrote
  else s.wrote

/-! ### The compute block -/

/-- The core that the window of a half shows to a sender: one copy of CORE_SEL for each control port. Sender 2 stands for the JTAG
port and scheduled actions, which use CP0's copy (R409, log entry 29). -/
def State.selected (s : State) (h who : Nat) : CoreId := BitVec.ofNat 12 (2048 * h + (SMap.get 0 (s.half h).sel (who % 2)).toNat)

def State.computeRead (s : State) (h who off : Nat) : W32 :=
  if off = 0 then (SMap.get 0 (s.half h).sel (who % 2)).setWidth 32
  else if off = 4 then w32 (flag (s.half h).policy 0)
  else if 0x100 ≤ off ∧ off < 0x400 then s.coreRead (s.selected h who) off
  else s.netRead h off

def State.computeWrite (s : State) (h who off : Nat) (v : W32) : Wrote :=
  if off = 0 then (s.updHalf h fun x => { x with sel := SMap.set 0 x.sel (who % 2) (v.setWidth 11) }).wrote
  else if off = 4 then (s.setPolicy h v).wrote
  else if 0x100 ≤ off ∧ off < 0x400 then s.coreWrite (s.selected h who) off v
  else s.netWrite h off v

/-- R12, R29 and R114 for an address of the compute block. -/
def State.computeCheck (s : State) (h who off : Nat) (write : Option W32) : Status :=
  if !s.hasHalf h then stNotPresent
  else if 0x100 ≤ off ∧ off < 0x400 then
    let core := s.selected h who
    if !s.hasCore core then stNotPresent
    else
      match write with
      | some v => if s.fencedCore core.toNat ∧ !isStop off v then stFenced else stOk
      | none => stOk
  else if 0x800 ≤ off ∧ off < 0x2800 then (if s.hasCluster (32 * h + (off - 0x800) / 0x100) then stOk else stNotPresent)
  else if 0x4000 ≤ off ∧ off < 0x4028 ∧ !s.hasSeam then stNotPresent
  else stOk

/-! ### Cluster stream units (R258 to R260) -/

namespace Csu

/-- CSU_STREAMS. -/
def streamMask (c : Csu) : W32 :=
  w32 (((List.range 16).map fun k => match SMap.get none c.streams k with
    | some t => if t.stopped then 2 ^ k + 2 ^ (16 + k) else 2 ^ k
    | none => 0).sum)

/-- CSU_HELD. -/
def heldWord (c : Csu) : W32 := w32 ((c.frames.map fun f => f.unhit.length).sum + c.trackers * 2 ^ 16)

end Csu

def State.csuRead (s : State) (k off : Nat) : W32 :=
  let c := s.csu k
  if off = 0x00 then c.cfg
  else if off = 0x08 then c.streamMask
  else if off = 0x0C then c.heldWord
  else if 0x10 ≤ off ∧ off < 0x44 then SMap.get 0 c.counts off
  else 0

/-- A CSU_CMD write cancels streams (R250). -/
def State.cancelStreams (s : State) (k : Nat) (v : W32) : State :=
  s.updCsu k fun c => (bitList 16 v.toNat).foldl Csu.cancel c

def State.csuWrite (s : State) (k off : Nat) (v : W32) : Wrote :=
  if off = 0x00 then
    if s.clusterRuns k then s.refuse stBusy
    else if 3072 < bits v 27 16 ∨ 32 < bits v 15 10 ∨ bits v 9 0 = 0 ∨ 512 < bits v 9 0 then s.refuse stBadParam
    else (s.updCsu k fun c => { c with cfg := v &&& 0x0FFFFFFF }).wrote
  else if off = 0x04 then (s.cancelStreams k v).wrote
  else if 0x10 ≤ off ∧ off < 0x44 then (s.updCsu k fun c => { c with counts := setCount c.counts off v }).wrote
  else s.wrote

end Sys2Proof.Machine
end

