-- ==== Sys2Proof/Machine/MemRegs.lean ====
section
/-! DEFINITION. The registers of the memory controllers (R241 to R243) and those shared by all stacks (R224, R236, R244, R245). -/

namespace Sys2Proof.Machine

open Sys2Proof

/-! ### A controller's block -/

namespace Channel

/-- CH_STATUS. -/
def statusWord (c : Channel) : W32 := w32 (c.st.toNat + ((List.range 4).filter c.inUse).length * 2 ^ 4)

/-- CH_SPARE. -/
def spareWord (c : Channel) : W32 :=
  w32 (((List.range 4).map fun d => if c.inUse d then (64 + (c.spare d).toNat) * 2 ^ (8 * d) else 0).sum)

/-- CH_LANE_ERR: the group of the highest count, the lowest of equals. -/
def laneErrWord (c : Channel) : W32 :=
  let n (g : Nat) : Nat := (SMap.get 0 c.laneErr g).toNat
  let best := (List.range 4).foldl (fun b g => if n b < n g then g else b) 0
  if n best = 0 then 0 else w32 (32 + best + n best * 2 ^ 16)

end Channel

/-- CH_UP of MC_STATUS. -/
def Mc.chUp (m : Mc) : Nat := ((List.range 16).map fun c => flag (decide ((m.chan c).st = 2)) c).sum

/-- A read in the block of a stack. -/
def State.mcRegRead (s : State) (k off : Nat) : W32 :=
  let m := s.mc k
  if off = 0x000 then w32 (m.st.toNat + m.chUp * 2 ^ 16)
  else if off = 0x004 then w32 (m.temp.toNat + flag m.hot 8)
  else if off = 0x00C then w32 m.dirtyLines
  else if off = 0x010 then w32 (m.logNext.toNat + m.logTotal.toNat * 2 ^ 16)
  else if 0x040 ≤ off ∧ off < 0x080 then
    match m.log.find? fun e => decide (e.1 = (off - 0x040) / 8) with
    | none => 0
    | some e =>
      if off % 8 = 0 then w32 (bits e.2.1 31 6 * 2 ^ 6) else w32 (bits e.2.1 39 32 + 2 ^ 8 + flag e.2.2 9)
  else if 0x100 ≤ off ∧ off < 0x130 then SMap.get 0 m.counts off
  else if 0x400 ≤ off ∧ off < 0x600 then
    let c := m.chan ((off - 0x400) / 0x20)
    let o := (off - 0x400) % 0x20
    if o = 0x00 then c.statusWord
    else if o = 0x04 then c.spareWord
    else if o = 0x08 then c.laneErrWord
    else SMap.get 0 c.counts o
  else 0

/-- A write in the block of a stack. A flush is complete at once (log entry 29). -/
def State.mcRegWrite (s : State) (k off : Nat) (v : W32) : Wrote :=
  if off = 0x008 then (if bit v 0 then s.mscFlush k else s).wrote
  else if 0x100 ≤ off ∧ off < 0x130 then (s.updMc k fun m => { m with counts := setCount m.counts off v }).wrote
  else if 0x400 ≤ off ∧ off < 0x600 ∧ 0x0C ≤ (off - 0x400) % 0x20 ∧ (off - 0x400) % 0x20 < 0x1C then
    (s.updMc k fun m => m.updChan ((off - 0x400) / 0x20) fun c =>
      { c with counts := setCount c.counts ((off - 0x400) % 0x20) v }).wrote
  else s.wrote

/-! ### Chunk modes (R224) -/

/-- A stack loses what its cache holds of a chunk. -/
def Mc.dropChunk (m : Mc) (c : Nat) : Mc :=
  let keep (x : MSet) : MSet := { x with ways := x.ways.filter fun w => decide (w.2.line / 2 ^ 22 ≠ c) }
  { m with msc := (m.msc.map fun e => (e.1, keep e.2)).filter fun e => decide (e.2 ≠ {}) }

/-- A stack's directory entries of a chunk go, as a write to their lines takes them (R231). -/
def State.dirDropChunk (s : State) (k c : Nat) : State :=
  let n := s.stackList.length
  let mine (e : DirEntry) : Bool := decide (e.line.toNat / (n * 2 ^ 22) = c)
  let es := ((s.mc k).dir.flatMap (·.2)).filter mine
  let s := s.updMc k fun m => { m with dir := (m.dir.map fun e => (e.1, e.2.filter fun x => !mine x)).filter fun e => !e.2.isEmpty }
  es.foldl (fun s e => (s.updMc k fun m => m.count 0x118 (popcount 64 e.mask.toNat)).sendInvals e.line e.mask false 0) s

/-- The contents of chunk `c` are lost: every stack writes the sectors of its 1 GiB of it poisoned (R224). -/
def State.loseChunk (s : State) (c : Nat) : State :=
  let n := s.stackList.length * 2 ^ 30
  let s := { s with mem := s.mem.poisonRange (c * n) n }
  s.stackList.foldl (fun s k => (s.updMc k fun m => (m.dropChunk c).count 0x104 (2 ^ 24)).dirDropChunk k c) s

/-- A MEM_MODE write: word `k` of the 72 mode bits; GT2048-H ignores it (R222). -/
def State.setMode (s : State) (k : Nat) (v : W32) : Wrote :=
  if s.part = .gt2048H then s.wrote
  else if !s.allQuiesced then s.refuse stBusy
  else
    let hi := if k = 2 then 71 else 32 * k + 31
    let new := setBits s.xl.mode hi (32 * k) v.toNat
    let changed := (List.range 72).filter fun c => decide (new.getLsbD c ≠ s.xl.mode.getLsbD c)
    let s := changed.foldl (fun s c => s.loseChunk c) s
    ({ s with xl := { s.xl with mode := new } }).wrote

/-! ### Translation registers (R236, R245) -/

/-- Drops the translations that `tb` and the walk-cache indices that `i1`, `i2` pick. -/
def Xlat.drop (x : Xlat) (tb : TbEntry → Bool) (i1 i2 : Nat → Bool) : Xlat :=
  { x with
    tbs := (x.tbs.map fun e => (e.1, e.2.filter fun t => !tb t)).filter fun e => !e.2.isEmpty
    caches := (x.caches.map fun e => (e.1, { l1 := e.2.l1.filter fun p => !i1 p.1, l2 := e.2.l2.filter fun p => !i2 p.1 : WalkCache })).filter
      fun e => decide (e.2 ≠ {}) }

/-- The address of an invalidation. -/
def Xlat.invalVa (x : Xlat) : VA := BitVec.ofNat 48 (bits x.invalHi 15 0 * 2 ^ 32 + bits x.invalLo 31 21 * 2 ^ 21)

/-- An invalidation covers an address that a requester has translated: all (1), those of a 2 MiB page, or of the 1 GiB leaf of the
requester that it drops (2), or those of a 1 GiB range (3). -/
def Xlat.covers (x : Xlat) (key scope : Nat) (va : VA) : Bool :=
  match scope with
  | 1 => true
  | 2 => decide (va.toNat / 2 ^ 21 = x.invalVa.toNat / 2 ^ 21) ||
      (SMap.get [] x.tbs key).any fun t => t.giant && t.covers x.invalVa && t.covers va
  | _ => decide (va.toNat / 2 ^ 30 = x.invalVa.toNat / 2 ^ 30)

/-- An invalidation drops entries: all (1), those of a 2 MiB page (2), or those of a 1 GiB range (3). -/
def Xlat.invalidate (x : Xlat) (scope : Nat) : Xlat :=
  let va := x.invalVa
  let g := va.toNat / 2 ^ 30
  match scope with
  | 1 => x.drop (fun _ => true) (fun _ => true) (fun _ => true)
  | 2 => x.drop (fun t => t.covers va) (fun i => decide (i = g / 512)) (fun i => decide (i = g))
  | _ => x.drop (fun t => decide (t.base.toNat / 2 ^ 30 = g)) (fun i => decide (i = g / 512)) (fun i => decide (i = g))

/-- The lines of demand reads that an invalidation covers and that stand in a read window of their cluster. -/
def State.coveredReads (s : State) (scope : Nat) : List (Nat × BitVec 32) :=
  s.cores.flatMap fun e => (e.2.runs.filter fun r => decide (r.op = 0x20)).flatMap fun r =>
    let x : Ctx := { toRun := r, site := { core := BitVec.ofNat 12 e.1, slot := r.slot } }
    (r.pieces.zip (xferOf x).secs).filterMap fun y =>
      match y.1 with
      | .waits pa none => if s.xl.covers (Requester.core (BitVec.ofNat 12 e.1)).key scope (BitVec.ofNat 48 y.2.1) then some (e.1 / 64, lineOfPa pa.toNat) else none
      | _ => none

/-- Requests that were translated through an entry that is dropped, and that their controllers have still to serve (R236). -/
def State.markInval (s : State) (scope : Nat) : State :=
  let rs := s.coveredReads scope
  { s with
    net := { s.net with stores := s.net.stores.map fun t => if s.xl.covers (Requester.core t.site.core).key scope t.va then { t with inval := true } else t }
    csus := s.csus.map fun e =>
      (e.1, { e.2 with wins := e.2.wins.map fun w => if !w.write ∧ rs.contains (e.1, w.line) then { w with inval := true } else w }) }

/-- XLAT_STATUS.INVAL_BUSY (R236): what a buffer or a walk cache holds goes at once, and no walk is ever in flight (log entry 29), so that
only requests are waited for. -/
def State.invalBusy (s : State) : Bool := s.net.stores.any (·.inval) || s.csus.any fun e => e.2.wins.any (·.inval)

/-- XLAT_INVAL_CMD. -/
def State.xlatInval (s : State) (v : W32) : Wrote :=
  let scope := bits v 1 0
  if s.invalBusy then s.refuse stBusy
  else if scope = 0 then s.refuse stBadParam
  else ({ s.markInval scope with xl := s.xl.invalidate scope }).wrote

/-- XLAT_ROOT_LO or XLAT_ROOT_HI. -/
def State.setRoot (s : State) (hi : Bool) (v : W32) : Wrote :=
  if !s.allQuiesced then s.refuse stBusy
  else ({ s with xl := if hi then { s.xl with rootHi := v &&& 0xFF } else { s.xl with rootLo := v &&& 0xFFFFF001 } }).wrote

def State.memRegRead (s : State) (off : Nat) : W32 :=
  let x := s.xl
  if off = 0x000 then w32 (bits x.mode 31 0)
  else if off = 0x004 then w32 (bits x.mode 63 32)
  else if off = 0x008 then w32 (bits x.mode 71 64)
  else if off = 0x010 then x.rootLo
  else if off = 0x014 then x.rootHi
  else if off = 0x018 then x.invalLo
  else if off = 0x01C then x.invalHi
  else if off = 0x024 then w32 (flag s.invalBusy 0)
  else if 0x100 ≤ off ∧ off < 0x140 ∧ (off - 0x100) % 0x20 < 0x10 then SMap.get 0 x.counts off
  else 0

def State.memRegWrite (s : State) (off : Nat) (v : W32) : Wrote :=
  if off = 0x000 then s.setMode 0 v
  else if off = 0x004 then s.setMode 1 v
  else if off = 0x008 then s.setMode 2 v
  else if off = 0x010 then s.setRoot false v
  else if off = 0x014 then s.setRoot true v
  else if off = 0x018 then ({ s with xl := { s.xl with invalLo := v &&& 0xFFE00000 } }).wrote
  else if off = 0x01C then ({ s with xl := { s.xl with invalHi := v &&& 0xFFFF } }).wrote
  else if off = 0x020 then s.xlatInval v
  else if 0x100 ≤ off ∧ off < 0x140 ∧ (off - 0x100) % 0x20 < 0x10 then
    ({ s with xl := { s.xl with counts := setCount s.xl.counts off v } }).wrote
  else s.wrote

/-- The translation counts of a half that is absent (R29). -/
def State.memRegCheck (s : State) (off : Nat) : Status :=
  if 0x100 ≤ off ∧ off < 0x140 ∧ (off - 0x100) % 0x20 < 0x10 ∧ !s.hasHalf ((off - 0x100) / 0x20) then stNotPresent else stOk

end Sys2Proof.Machine
end

