-- ==== Sys2Proof/Machine/FabRegs.lean ====
section
/-! DEFINITION. The registers of the ports (R275, R277, R279, R289 to R291) and the shared fabric block (R266, R284, R292). -/

namespace Sys2Proof.Machine

open Sys2Proof

/-! ### A port's block -/

/-- LANE_l. -/
def Lane.word (l : Lane) : W32 :=
  w32 (l.rxState.toNat + l.txState.toNat * 2 ^ 2 + l.rxLogical.toNat * 2 ^ 8 + l.txLogical.toNat * 2 ^ 12 + l.rxBer.toNat * 2 ^ 16)

/-- Security state RETURNED, as fused (R399). -/
def State.returned (s : State) : Bool := decide (s.flash.fused = 3)

def State.portRegRead (s : State) (n off : Nat) : W32 :=
  let p := s.port n
  if off = 0x000 then w32 (flag p.enable 0)
  else if off = 0x004 then w32 (p.st.toNat + p.rxLanes.toNat * 2 ^ 8 + p.txLanes.toNat * 2 ^ 12 + p.epoch.toNat * 2 ^ 16)
  else if off = 0x008 then w32 (p.dev.toNat + p.pport.toNat * 2 ^ 16)
  else if off = 0x00C then lo32 p.serial
  else if off = 0x010 then hi32 p.serial
  else if 0x040 ≤ off ∧ off < 0x070 then nth 0 (hashWords p.keyHash) ((off - 0x040) / 4)
  else if 0x080 ≤ off ∧ off < 0x0A4 then
    (p.lane ((off - 0x080) / 4)).word
  else if 0x0C0 ≤ off ∧ off < 0x0E0 then (if n < 16 then p.poolCfg ((off - 0x0C0) / 4) else 0)
  else if 0x100 ≤ off ∧ off < 0x134 then SMap.get 0 p.counts off
  else 0

/-- A new ENABLE (R273, R279). -/
def State.setEnable (s : State) (n : Nat) (e : Bool) : State :=
  let s := s.updPort n fun p => { p with enable := e }
  if e then s.portOn n else if (s.port n).st = psOff then s else s.portOff n 5

/-- What ADMIT is answered (R275): the rows in their order. -/
def State.admitStatus (s : State) (n : Nat) (epoch : BitVec 16) : Status :=
  let p := s.port n
  if p.st ≠ psHeld then stBusy
  else if p.epoch ≠ epoch then stVersionMismatch
  else if s.fab.devId = 0xFFFF then stBadParam
  else stOk

/-- A PORT_CTRL write: where ADMIT is refused nothing changes; else ADMIT, then ENABLE, then RETRAIN (log entry 37). -/
def State.setPortCtrl (s : State) (n : Nat) (v : W32) : Wrote :=
  if s.returned && decide (n < 16) && bit v 0 then s.refuse stDenied
  else
    let adm := bit v 1 && decide (n < 16)
    let st := if adm then s.admitStatus n (v.extractLsb' 16 16) else stOk
    if st ≠ stOk then s.refuse st
    else
      let s := if adm then s.enterActive n else s
      let s := if bit v 0 ≠ (s.port n).enable then s.setEnable n (bit v 0) else s
      (if bit v 2 then s.linkLost n else s).wrote

/-- POOL_CFG_c takes a value. -/
def Port.withPool (p : Port) (c : Nat) (v : W32) : Port := { p with pools := SMap.set (poolReset c) p.pools c v }

/-- Every pool holds a longest packet, 17 slots, and all of them at most 4,096 (R270, R290). -/
def Port.poolsFit (p : Port) (n : Nat) : Bool :=
  let sizes : List Nat := (List.range 16).map (p.poolSize n)
  sizes.all (fun k => decide (17 ≤ k)) && decide (sizes.sum ≤ 4096)

/-- A POOL_CFG write. -/
def State.setPool (s : State) (n c : Nat) (v : W32) : Wrote :=
  let p := s.port n
  let p' : Port := p.withPool c (v &&& w32 0x0FFF0FFF)
  if p.st = psHeld ∨ p.st = psActive ∨ p.st = psResume then s.refuse stBusy
  else if p'.poolsFit n then (s.setPort n p').wrote
  else s.refuse stBadParam

def State.portRegWrite (s : State) (n off : Nat) (v : W32) : Wrote :=
  if off = 0x000 then s.setPortCtrl n v
  else if 0x0C0 ≤ off ∧ off < 0x0E0 ∧ n < 16 then s.setPool n ((off - 0x0C0) / 4) v
  else if 0x100 ≤ off ∧ off < 0x134 then (s.updPort n fun p => { p with counts := setCount p.counts off v }).wrote
  else s.wrote

/-! ### The shared block -/

/-- LASER_STATUS: bit 3 of a group tells that it is DARK, from start-up on; before, the register reads its reset value (log entry 81). -/
def State.laserStatus (s : State) : W32 :=
  w32 (((List.range 4).map fun g =>
    let l := s.laser g
    (flag l.useB 0 + flag l.aOk 1 + flag l.bOk 2 + flag (!l.lit && decide (s.ctl.step ≠ 0)) 3) * 2 ^ (4 * g)).sum)

/-- A route-table word that R284 lets stand. -/
def State.routeOk (s : State) (w : QW) : Bool :=
  !w.p && decide (bits w.v 31 17 = 0) && !(bit w.v 16 && decide (bits w.v 15 0 = 0)) &&
    decide (bits w.v 15 0 &&& (0xFFFF - s.part.ports) = 0)

/-- The entries of a table, and the first index that fails. -/
def State.routeScan (s : State) : Nat → List QW → List (Nat × W32) → Except Nat (SMap W32)
  | _, [], acc => .ok acc.reverse
  | i, w :: rest, acc =>
    if s.routeOk w then s.routeScan (i + 1) rest (if w.v = 0 then acc else (i, w.v) :: acc) else .error i

/-- The words of the route table in memory; a sector that cannot be read reads poisoned. -/
def State.routeWords (s : State) (base : Nat) : List QW × State :=
  (List.range 4096).foldl (fun (r : List QW × State) i =>
    match r.2.mcRead (base + 64 * i) false with
    | (.ok d, s) => (d.reverse ++ r.1, s)
    | (.bad _, s) => (List.replicate 16 ⟨0, true⟩ ++ r.1, s)) ([], s)

/-- ROUTE_CMD.LOAD (R284); it reads external memory, which STILL does not give (R393). -/
def State.routeLoad (s : State) : Wrote :=
  let base := bits s.fab.routeHi 7 0 * 2 ^ 32 + s.fab.routeLo.toNat
  let bad (s : State) (i : Nat) : Wrote :=
    ({ s with fab := { s.fab with routeRefused := true, routeBad := BitVec.ofNat 16 i } }).refuse stBadParam
  if s.pwr.st = 3 then s.refuse stBusy
  else if s.capacity < base + 2 ^ 18 then bad s 0
  else
    match s.routeWords base with
    | (ws, s) =>
      match s.routeScan 0 ws.reverse [] with
      | .error i => bad s i
      | .ok t => ({ s with fab := { s.fab with routes := t, routeRefused := false, routeGen := s.fab.routeGen + 1 } }).wrote

/-- Some fabric port is HELD, ACTIVE or RESUME. -/
def State.partnered (s : State) : Bool :=
  (List.range 16).any fun n => decide ((s.port n).st = psHeld ∨ (s.port n).st = psActive ∨ (s.port n).st = psResume)

/-- A LASER_CTRL write: groups whose other input is OK switch (R266). -/
def State.setLaserCtrl (s : State) (v : W32) : State :=
  let s := { s with fab := { s.fab with prefer := v.setWidth 4 } }
  (List.range 4).foldl (fun s g =>
    let l := s.laser g
    if bit v (4 + g) && l.lit && (if l.useB then l.aOk else l.bOk) then s.switchLaser g else s) s

def State.fabRegRead (s : State) (off : Nat) : W32 :=
  let f := s.fab
  if off = 0x000 then f.devId.setWidth 32
  else if off = 0x004 then f.ctrl
  else if off = 0x008 then s.laserStatus
  else if off = 0x00C then f.prefer.setWidth 32
  else if off = 0x010 then f.routeLo
  else if off = 0x014 then f.routeHi
  else if off = 0x01C then w32 (f.routeBad.toNat + f.routeGen.toNat * 2 ^ 16 + flag f.routeRefused 31)
  else if 0x020 ≤ off ∧ off < 0x02C then SMap.get 0 f.counts off
  else 0

def State.fabRegWrite (s : State) (off : Nat) (v : W32) : Wrote :=
  if off = 0x000 then
    if s.partnered then s.refuse stBusy else ({ s with fab := { s.fab with devId := v.setWidth 16 } }).wrote
  else if off = 0x004 then
    if bits v 11 8 = 0 then s.refuse stBadParam else ({ s with fab := { s.fab with ctrl := v &&& 0xF0F } }).wrote
  else if off = 0x00C then (s.setLaserCtrl v).wrote
  else if off = 0x010 then ({ s with fab := { s.fab with routeLo := v &&& 0xFFFFF000 } }).wrote
  else if off = 0x014 then ({ s with fab := { s.fab with routeHi := v &&& 0xFF } }).wrote
  else if off = 0x018 then (if bit v 0 then s.routeLoad else s.wrote)
  else if 0x020 ≤ off ∧ off < 0x02C then ({ s with fab := { s.fab with counts := setCount s.fab.counts off v } }).wrote
  else s.wrote

end Sys2Proof.Machine
end

