-- ==== Sys2Proof/Machine/CollRegs.lean ====
section
/-! DEFINITION. The registers of the collective block (R179, R293, R295, R298, R299, R306, R316, R321, R327 to R329) and of the
resilience block (R353 to R355). -/

namespace Sys2Proof.Machine

open Sys2Proof

/-! ### Commit registers -/

namespace State

/-- COMMIT_CFG: a new parent receives an UP already sent (R321); a Triat that becomes the root collects again (log entry 29). -/
def setCommitCfg (s : State) (v : W32) : Wrote :=
  if 64 < bits v 14 8 ∨ 5 < bits v 6 4 ∨ bits v 3 0 = 0 then s.refuse stBadParam
  else
    let moved := decide (v.extractLsb' 16 16 ≠ s.treeParent)
    let s := s.updCommit fun c => { c with cfg := v &&& w32 0xFFFF7F7F }
    let c := s.coll.commit
    match (if moved ∧ (c.st = 1 ∨ c.st = 2) then c.upOut else none) with
    | none => s.wrote
    | some u =>
      if s.treeParent = 0xFFFF then (if c.st = 1 then s.updCommit fun c => { c with st := 0, upWait := false } else s).wrote
      else (s.sendUp u).wrote

/-- RESEND of COMMIT_CMD (R321): the UP of this step goes to PARENT again. -/
def resendUp (s : State) : State :=
  let c := s.coll.commit
  match (if (c.st = 1 ∨ c.st = 2) ∧ s.treeParent ≠ 0xFFFF then c.upOut else none) with
  | none => s
  | some u => s.sendUp u

/-- COMMIT_CMD. -/
def commitCmd (s : State) (abort resend : Bool) (waive : Nat) : State :=
  let s := s.updCommit fun c => { c with abortOwn := c.abortOwn || abort, waived := c.waived + waive }
  if resend then s.resendUp else s

/-- COMMIT_STATUS. -/
def commitStatus (s : State) : W32 :=
  let c := s.coll.commit
  w32 (c.st.toNat + flag c.abortOwn 3 + flag c.lastAborted 4 + flag c.late 5 + c.ups.toNat * 2 ^ 16)

/-- EVENT_RAISE (R295). -/
def supplyRaises (s : State) (v : W32) : Wrote :=
  let n := bits v 12 0
  let h := bits v 28 28
  if bit (s.half h).netCtrl 0 then s.refuse stBusy
  else if n = 0 ∨ 4096 < n then s.refuse stBadParam
  else if !s.hasCe h then s.refuse stNotPresent
  else (s.raiseAt h (bits v 27 16) n).wrote

/-- CG_CTRL of group `g` (R306). -/
def setCg (s : State) (g : Nat) (drop : Bool) (expect : BitVec 16) : Wrote :=
  if drop ∧ (s.cg g).st = 3 then s.refuse stBusy
  else
    let s := s.updCg g fun c => { c with expect := expect }
    let s := if drop then s.dropGroup g else s
    (if (s.cg g).used ∧ (s.cg g).st ≠ 3 then s.checkGroup g else s).wrote

/-! ### Move rings and reduction lists (R179, R293, R328) -/


end State

/-- A ring that is enabled anew, or disabled (R179). -/
def MvRing.withCtrl (r : MvRing) (v : W32) : MvRing :=
  if bit v 31 then
    { r with ctrl := v, head := 0, owed := 0, lastBad := 0, raises := 0, run := r.run.map fun x => { x with stale := true } }
  else { r with ctrl := v, owed := 0, raises := 0 }

/-- A list that is enabled anew, or disabled: what it was serving completes. -/
def RList.withCtrl (l : RList) (v : W32) : RList :=
  if bit v 31 then
    { l with ctrl := v, owed := 0, lastBad := 0, raises := 0, next := 0, runs := l.runs.map fun x => { x with stale := true } }
  else { l with ctrl := v, owed := 0, raises := 0 }

/-- An event is bound to another enabled ring, or list, of the engine (R176, R293). -/
def Ce.ringBound (c : Ce) (k ev : Nat) : Bool := c.rings.any fun e => decide (e.1 ≠ k) && boundTo e.2.ctrl ev
def Ce.listBound (c : Ce) (k ev : Nat) : Bool := c.lists.any fun e => decide (e.1 ≠ k) && boundTo e.2.ctrl ev

namespace State

/-- The status of a write of a CTRL register of a ring or list: the old word, its size, and whether another one is bound to the
new event. -/
def ctrlCheck (s : State) (h : Nat) (old v : W32) (size : BitVec 16) (bound : Bool) : Status :=
  if bit old 31 ∧ bit v 31 then stBusy
  else if bit v 31 ∧ bit (s.half h).netCtrl 0 then stBusy
  else if bit v 31 ∧ (bits v 12 0 = 0 ∨ 4096 < bits v 12 0 ∨ size = 0 ∨ bound) then stBadParam
  else stOk

/-- MV_CTRL. -/
def setMvCtrl (s : State) (h k : Nat) (v : W32) : Wrote :=
  let c := s.ce h
  let r := c.ring k
  let v := v &&& w32 0x8FFF1FFF
  let st := s.ctrlCheck h r.ctrl v r.size (c.ringBound k (bits v 27 16))
  if st ≠ stOk then s.refuse st else (s.updCe h fun c => c.updRing k (·.withCtrl v)).wrote

/-- RL_CTRL. -/
def setRlCtrl (s : State) (h k : Nat) (v : W32) : Wrote :=
  let c := s.ce h
  let l := c.list k
  let v := v &&& w32 0x8FFF1FFF
  let st := s.ctrlCheck h l.ctrl v l.len (c.listBound k (bits v 27 16))
  if st ≠ stOk then s.refuse st else (s.updCe h fun c => c.updList k (·.withCtrl v)).wrote

/-- MV_TAIL. -/
def setMvTail (s : State) (h k : Nat) (v : W32) : State :=
  s.updCe h fun c => c.updRing k fun r => { r with tail := v.setWidth 16 }

def mvRead (s : State) (h k off : Nat) : W32 :=
  let r := (s.ce h).ring k
  match off / 4 with
  | 0 => r.ctrl
  | 1 => r.baseLo
  | 2 => r.baseHi
  | 3 => r.size.setWidth 32
  | 4 => r.tail.setWidth 32
  | 5 => r.head.setWidth 32
  | 6 => w32 (r.lastBad.toNat + r.owed.toNat * 2 ^ 16)
  | _ => r.done

def mvWrite (s : State) (h k off : Nat) (v : W32) : Wrote :=
  let put (f : MvRing → MvRing) : State := s.updCe h fun c => c.updRing k f
  let on := bit ((s.ce h).ring k).ctrl 31
  match off / 4 with
  | 0 => s.setMvCtrl h k v
  | 1 => if on then s.refuse stBusy else (put fun r => { r with baseLo := v &&& w32 0xFFFFFFE0 }).wrote
  | 2 => if on then s.refuse stBusy else (put fun r => { r with baseHi := v &&& w32 0xFFFF }).wrote
  | 3 => if on then s.refuse stBusy else (put fun r => { r with size := v.setWidth 16 }).wrote
  | 4 => (s.setMvTail h k v).wrote
  | 7 => (put fun r => { r with done := v }).wrote
  | _ => s.wrote

def rlRead (s : State) (h k off : Nat) : W32 :=
  let l := (s.ce h).list k
  match off / 4 with
  | 0 => l.ctrl
  | 1 => l.baseLo
  | 2 => l.baseHi
  | 3 => l.len.setWidth 32
  | 4 => w32 (l.lastBad.toNat + l.owed.toNat * 2 ^ 16)
  | 5 => l.done
  | _ => 0

def rlWrite (s : State) (h k off : Nat) (v : W32) : Wrote :=
  let put (f : RList → RList) : State := s.updCe h fun c => c.updList k f
  let on := bit ((s.ce h).list k).ctrl 31
  match off / 4 with
  | 0 => s.setRlCtrl h k v
  | 1 => if on then s.refuse stBusy else (put fun l => { l with baseLo := v &&& w32 0xFFFFFFC0 }).wrote
  | 2 => if on then s.refuse stBusy else (put fun l => { l with baseHi := v &&& w32 0xFFFF }).wrote
  | 3 => if on then s.refuse stBusy else (put fun l => { l with len := v.setWidth 16 }).wrote
  | 5 => (put fun l => { l with done := v }).wrote
  | _ => s.wrote

/-! ### Jobs (R298, R299, R316, R328) -/

/-- Another entry that is not FREE has this JOB_ID. -/
def jobTaken (s : State) (j id : Nat) : Bool :=
  (List.range 64).any fun i => decide (i ≠ j ∧ (s.job i).st ≠ jobFree ∧ (s.job i).id = id)

/-- ARM. -/
def armCmd (s : State) (j : Nat) : Wrote :=
  let e := s.job j
  if e.st ≠ jobFree then s.refuse stBusy
  else if s.jobTaken j e.id then s.refuse stBadParam
  else (s.armJob j (bit e.cfg 6)).wrote

/-- REARM of a local job. -/
def rearmCmd (s : State) (j : Nat) : Wrote :=
  let e := s.job j
  if e.st ≠ jobOpen ∧ e.st ≠ jobClosed then s.refuse stBusy
  else if e.shard then s.refuse stDenied
  else (s.armJob j (bit e.cfg 6)).wrote

/-- RELEASE. -/
def releaseCmd (s : State) (j : Nat) : Wrote :=
  if (s.job j).st = jobCommitting then s.refuse stBusy
  else (s.updJob j fun e => { e with st := jobFree }).wrote

/-- WAIVE (R316): it counts for an entry in ARMING or OPEN. -/
def waiveJob (s : State) (j n : Nat) : State :=
  let e := s.job j
  if e.st = jobArming ∨ e.st = jobOpen then (s.updJob j fun e => { e with waived := e.waived + n }).checkClosed j else s

/-- JOB_CMD: the one command it holds, then the waiver. -/
def jobCmd (s : State) (j : Nat) (arm rearm release : Bool) (waive : Nat) : Wrote :=
  let r : Wrote := match arm, rearm, release with
    | false, false, false => s.wrote
    | true, false, false => s.armCmd j
    | false, true, false => s.rearmCmd j
    | false, false, true => s.releaseCmd j
    | _, _, _ => s.refuse stBadParam
  if r.1 = stOk then (r.2.waiveJob j waive).wrote else r

/-- JOB_STATUS. -/
def jobStatus (e : Job) : W32 :=
  w32 (e.st.toNat + flag e.stepAbort 3 + flag e.scanned 4 + flag e.armFailed 5 + e.closes.toNat * 2 ^ 16)

def jobRead (s : State) (j off : Nat) : W32 :=
  let e := s.job j
  match off / 4 with
  | 0 => e.cfg
  | 2 => jobStatus e
  | 3 => e.bufLo
  | 4 => e.bufHi
  | 5 => e.blocks.setWidth 32
  | 6 => e.cntLo
  | 7 => e.cntHi
  | 8 => e.expvLo
  | 9 => e.expvHi
  | 10 => e.opt
  | 11 => e.version
  | 12 => e.step
  | 13 => e.closeSum
  | 14 => e.rescales
  | 15 => e.bad
  | _ => 0

/-- A write to a configuration register of a job, which must be FREE. -/
def jobCfg (s : State) (j : Nat) (f : Job → Job) : Wrote :=
  if (s.job j).st ≠ jobFree then s.refuse stBusy else (s.updJob j f).wrote

def jobWrite (s : State) (j off : Nat) (v : W32) : Wrote :=
  match off / 4 with
  | 0 =>
    if (s.job j).st = jobFree ∧ (s.jobTaken j (bits v 15 8) ∨ bits v 3 2 = 3) then s.refuse stBadParam
    else s.jobCfg j fun e => { e with cfg := v &&& w32 0xFFFFFFCF }
  | 1 => s.jobCmd j (bit v 0) (bit v 1) (bit v 2) (bits v 31 16)
  | 3 => s.jobCfg j fun e => { e with bufLo := v &&& w32 0xFFFFFF00 }
  | 4 => s.jobCfg j fun e => { e with bufHi := v &&& w32 0xFFFF }
  | 5 => s.jobCfg j fun e => { e with blocks := v.setWidth 28 }
  | 6 => s.jobCfg j fun e => { e with cntLo := v &&& w32 0xFFFFFF00 }
  | 7 => s.jobCfg j fun e => { e with cntHi := v &&& w32 0xFFFF }
  | 8 => s.jobCfg j fun e => { e with expvLo := v &&& w32 0xFFFFFF00 }
  | 9 => s.jobCfg j fun e => { e with expvHi := v &&& w32 0xFFFF }
  | 10 => s.jobCfg j fun e => { e with opt := v &&& w32 0x0FFF7FFF }
  | 11 => s.jobCfg j fun e => { e with version := v }
  | 12 => s.jobCfg j fun e => { e with step := v }
  | 14 => (s.updJob j fun e => { e with rescales := v }).wrote
  | 15 => (s.updJob j fun e => { e with bad := v }).wrote
  | _ => s.wrote

/-! ### The collective block -/

/-- A block of rings or lists: half, index and offset of an address. -/
def unitOf (off base : Nat) : Nat × Nat × Nat := ((off - base) / 0x200, (off - base) % 0x200 / 0x20, (off - base) % 0x20)

def collRead (s : State) (off : Nat) : W32 :=
  let c := s.coll.commit
  if off = 0x00 then c.cfg
  else if off = 0x08 then s.commitStatus
  else if off = 0x0C then c.step
  else if off = 0x10 then c.cver
  else if off = 0x14 then c.event
  else if off = 0x18 then lo32 c.mark
  else if off = 0x1C then hi32 c.mark
  else if off = 0x20 then c.drops
  else if 0x80 ≤ off ∧ off < 0xA0 then
    let g := s.cg ((off - 0x80) / 4)
    w32 (g.expect.toNat + g.st.toNat * 2 ^ 17)
  else if 0xA0 ≤ off ∧ off < 0xC0 then (s.cg ((off - 0xA0) / 4)).done.setWidth 32
  else if 0x100 ≤ off ∧ off < 0x134 then SMap.get 0 s.coll.counts off
  else if 0x400 ≤ off ∧ off < 0x800 then let u := unitOf off 0x400; s.rlRead u.1 u.2.1 u.2.2
  else if 0xC00 ≤ off ∧ off < 0x1000 then let u := unitOf off 0xC00; s.mvRead u.1 u.2.1 u.2.2
  else if 0x1000 ≤ off ∧ off < 0x2000 then s.jobRead ((off - 0x1000) / 0x40) (off % 0x40)
  else 0

def collWrite (s : State) (off : Nat) (v : W32) : Wrote :=
  if off = 0x00 then s.setCommitCfg v
  else if off = 0x04 then (s.commitCmd (bit v 0) (bit v 1) (bits v 31 16)).wrote
  else if off = 0x0C then (s.updCommit fun c => { c with step := v }).wrote
  else if off = 0x10 then
    if s.coll.commit.upOut.isSome then s.refuse stBusy else (s.updCommit fun c => { c with cver := v }).wrote
  else if off = 0x14 then (s.updCommit fun c => { c with event := v &&& w32 0x1FFF }).wrote
  else if off = 0x24 then s.supplyRaises v
  else if 0x80 ≤ off ∧ off < 0xA0 then s.setCg ((off - 0x80) / 4) (bit v 16) (v.setWidth 16)
  else if 0x100 ≤ off ∧ off < 0x134 then ({ s with coll := { s.coll with counts := setCount s.coll.counts off v } }).wrote
  else if 0x400 ≤ off ∧ off < 0x800 then let u := unitOf off 0x400; s.rlWrite u.1 u.2.1 u.2.2 v
  else if 0xC00 ≤ off ∧ off < 0x1000 then let u := unitOf off 0xC00; s.mvWrite u.1 u.2.1 u.2.2 v
  else if 0x1000 ≤ off ∧ off < 0x2000 then s.jobWrite ((off - 0x1000) / 0x40) (off % 0x40) v
  else s.wrote

/-- Rings and lists of an absent engine (R29). -/
def collCheck (s : State) (off : Nat) : Status :=
  if 0x400 ≤ off ∧ off < 0x800 ∧ !s.hasCe (unitOf off 0x400).1 then stNotPresent
  else if 0xC00 ≤ off ∧ off < 0x1000 ∧ !s.hasCe (unitOf off 0xC00).1 then stNotPresent
  else stOk

/-! ### The resilience block -/

/-- SEC_STATUS. -/
def secStatus (s : State) : W32 :=
  let r := s.sec
  w32 ((if r.deferred then 2 else if r.open_ || r.due.isSome then 1 else 0) + s.openEntries * 2 ^ 16)

/-- No epoch is open, deferred, or about to begin. -/
def secIdle (s : State) : Bool := !s.sec.deferred && !s.sec.open_ && s.sec.due.isNone

/-- Some entry of the securing table is VALID. -/
def anyValid (s : State) : Bool × State :=
  (List.range s.sec.count.toNat).foldl (fun (r : Bool × State) i =>
    match r.2.secEntry i with
    | (e, s) => (r.1 || (secFields e).valid, s)) (false, s)

/-- SEC_CTRL. -/
def secCtrl (s : State) (v : W32) : State :=
  let s := { s with sec := { s.sec with weight := v.extractLsb' 8 8, enable := bit v 0, start := s.sec.start || bit v 1 } }
  if bit v 2 then (List.range s.sec.count.toNat).foldl (fun s i => s.abandonEntry i) s else s

/-- A write that the table's VALID entries forbid. -/
def secTable (s : State) (f : Resil → Resil) : Wrote :=
  match s.anyValid with
  | (true, s) => s.refuse stBusy
  | (false, s) => ({ s with sec := f s.sec }).wrote

/-- A write that an epoch forbids. -/
def secTime (s : State) (f : Resil → Resil) : Wrote :=
  if s.secIdle then ({ s with sec := f s.sec }).wrote else s.refuse stBusy

def secRead (s : State) (off : Nat) : W32 :=
  let r := s.sec
  if off = 0x000 then w32 (flag r.enable 0 + r.weight.toNat * 2 ^ 8)
  else if off = 0x004 then s.secStatus
  else if off = 0x008 then r.baseLo
  else if off = 0x00C then r.baseHi
  else if off = 0x010 then r.count.setWidth 32
  else if off = 0x014 then r.epoch
  else if off = 0x018 then r.period
  else if off = 0x01C then lo32 r.next
  else if off = 0x020 then hi32 r.next
  else if off = 0x024 then w32 (r.cost / 256)
  else if off = 0x028 then r.mtbi
  else if off = 0x02C then r.tprop
  else if off = 0x030 then r.own.setWidth 32
  else if off = 0x034 then (r.own >>> 32).setWidth 32
  else if off = 0x038 then w32 r.down.length
  else if off = 0x03C then r.gate
  else if off = 0x040 then w32 (flag s.flash.useB 0 + flag (decide (s.lm.free = 0)) 1 + s.lm.free * 2 ^ 16)
  else if off = 0x044 then s.lm.gen
  else if 0x100 ≤ off ∧ off < 0x130 then SMap.get 0 r.counts off
  else 0

def secWrite (s : State) (off : Nat) (v : W32) : Wrote :=
  if off = 0x000 then (s.secCtrl v).wrote
  else if off = 0x008 then s.secTable fun r => { r with baseLo := v &&& w32 0xFFFFFFC0 }
  else if off = 0x00C then s.secTable fun r => { r with baseHi := v &&& w32 0xFFFF }
  else if off = 0x010 then
    (match s.anyValid with
     | (true, s) => s.refuse stBusy
     | (false, s) =>
       if 1024 < bits v 10 0 then s.refuse stBadParam
       else ({ s with sec := { s.sec with count := v.setWidth 11 } }).wrote)
  else if off = 0x014 then s.secTime fun r => { r with epoch := v }
  else if off = 0x018 then ({ s with sec := { s.sec with period := v } }).wrote
  else if off = 0x01C then s.secTime fun r => { r with next := join64 v (hi32 r.next) }
  else if off = 0x020 then s.secTime fun r => { r with next := join64 (lo32 r.next) v }
  else if off = 0x028 then (({ s with sec := { s.sec with mtbi := v } }).updT).wrote
  else if off = 0x03C then ({ s with sec := { s.sec with gate := v &&& w32 0x80007FFF } }).wrote
  else if 0x100 ≤ off ∧ off < 0x130 then ({ s with sec := { s.sec with counts := setCount s.sec.counts off v } }).wrote
  else s.wrote

end State

end Sys2Proof.Machine
end

