-- ==== Sys2Proof/Machine/CtlRegs.lean ====
section
/-! DEFINITION. The registers of the management domain: capabilities (R27), shaft (R387), control and reset (R388), power (R416) and
security (R417). -/

namespace Sys2Proof.Machine

open Sys2Proof

/-! ### Capabilities (R27) -/

/-- PART_CODE. -/
def Part.code : Part → Nat
  | .gt4096F => 1
  | .gt4096S => 2
  | .gt2048H => 3

namespace State

def capRead (s : State) (off : Nat) : W32 :=
  let small := decide (s.part = .gt2048H)
  if off = 0x00 then w32 (0x474D * 2 ^ 16 + s.part.code * 2 ^ 8 + s.flash.stepMajor.toNat * 2 ^ 4 + s.flash.stepMinor.toNat)
  else if off = 0x04 then s.ctl.capGen
  else if off = 0x08 then w32 s.part.units
  else if off = 0x0C then w32 (72 * 2 ^ 16 + s.part.stacks)
  else if off = 0x10 then w32 s.part.ports
  else if off = 0x14 then
    w32 ((if small then 2244 else 4488) * 2 ^ 16 + 64 * (popcount 32 (s.backedOf 0).toNat + popcount 32 (s.backedOf 1).toNat))
  else if off = 0x18 then w32 ((if small then 0 else 1880) * 2 ^ 12 + 940)
  else if off = 0x1C then w32 (48 + 40 * 2 ^ 8 + 2 ^ 16 + 2 ^ 17)
  else if off = 0x20 then s.backedOf 0
  else if off = 0x24 then s.backedOf 1
  else if off = 0x28 then s.ctl.capSpares
  else if off = 0x40 then lo32 s.flash.serial
  else if off = 0x44 then hi32 s.flash.serial
  else 0

/-! ### The shaft block (R387) -/

/-- SCHED_STATUS.VALID. -/
def schedMask (s : State) : Nat := ((List.range 16).map fun i => flag (SMap.get {} s.sh.sched i : Sched).valid i).sum

/-- A read of SHAFT_LO latches SHAFT_HI for the control port that reads. -/
def latchShaft (s : State) (who : Nat) : State := { s with sh := { s.sh with latch := SMap.set 0 s.sh.latch who (hi32 s.sh.count) } }

def shaftRead (s : State) (who off : Nat) : W32 × State :=
  let x := s.sh
  if off = 0x000 then (lo32 x.count, s.latchShaft who)
  else if off = 0x004 then (SMap.get 0 x.latch who, s)
  else if off = 0x008 then
    (w32 (flag x.locked 0 + flag (decide (x.slewRem ≠ 0)) 1 + flag x.holdover 2 + x.since.toNat * 2 ^ 16), s)
  else if off = 0x00C then (x.slewRem, s)
  else if off = 0x010 then (x.rate, s)
  else if off = 0x014 then (x.limit.setWidth 32, s)
  else if off = 0x018 then (w32 (s.schedMask + x.late.toNat * 2 ^ 16), s)
  else if 0x100 ≤ off ∧ off < 0x200 then
    let e : Sched := SMap.get {} x.sched ((off - 0x100) / 0x10)
    (match off % 0x10 / 4 with
     | 0 => lo32 e.at_
     | 1 => hi32 e.at_
     | 2 => w32 (e.action.toNat + e.status.toNat * 2 ^ 16)
     | _ => e.arg0, s)
  else if off = 0x200 ∨ off = 0x204 then (SMap.get 0 x.counts off, s)
  else (0, s)

def shaftWrite (s : State) (off : Nat) (v : W32) : Wrote :=
  let x := s.sh
  if off = 0x008 then ({ s with sh := { x with holdover := x.holdover && !bit v 2 } }).wrote
  else if off = 0x014 then
    if bits v 15 0 = 0 then s.refuse stBadParam else ({ s with sh := { x with limit := v.setWidth 16 } }).wrote
  else if off = 0x018 then ({ s with sh := { x with late := x.late &&& ~~~ (v.extractLsb' 16 16) } }).wrote
  else if off = 0x200 ∨ off = 0x204 then ({ s with sh := { x with counts := setCount x.counts off v } }).wrote
  else s.wrote

/-! ### Control and reset (R388) -/

/-- The partner of a control port is the owner: the port holds it, and it presented the owner's key (R362). -/
def portOwner (s : State) (n : Nat) : Bool :=
  s.hasPort n && s.holdsPartner n &&
    (match s.ctl.owner with
     | some h => decide ((s.port n).keyHash = h)
     | none => false)

/-- A generation is current in some core, or some slot runs under it or is about to (R380, R381). -/
def genLive (s : State) (g : BitVec 16) : Bool :=
  s.genRunning g || s.halves.any (fun e => decide (e.2.gen = g)) || s.cores.any fun e => e.2.slots.any fun x =>
    match x.2.swap with
    | some w => decide (x.2.st = 1 ∧ w.gen = g)
    | none => false

/-- An entry of the image table; one whose image is neither locked nor current is free (R381). -/
def imageAt (s : State) (i : Nat) : Image :=
  let e : Image := SMap.get {} s.ctl.images i
  if e.valid && s.genLive e.gen then e else {}

/-- The words of an image's entry. -/
def imageRead (s : State) (i k : Nat) : W32 :=
  let e := s.imageAt i
  match k with
  | 0 => w32 (e.gen.toNat + flag e.valid 16 + flag (e.valid && s.genRunning e.gen) 17)
  | 1 => w32 (bits e.base 31 12 * 2 ^ 12)
  | 2 => w32 (bits e.base 47 32)
  | _ => e.len

def ctlRead (s : State) (off : Nat) : W32 :=
  let c := s.ctl
  if off = 0x000 then w32 (c.step.toNat + flag c.ready 4 + flag c.recovery 5)
  else if off = 0x004 then c.fwVersion
  else if off = 0x008 then
    w32 (flag c.owner.isSome 0 + flag (s.portOwner 16) 1 + flag (s.portOwner 17) 2 + c.lapsed.toNat * 2 ^ 16)
  else if off = 0x00C then c.lapse.setWidth 32
  else if 0x040 ≤ off ∧ off < 0x070 then nth 0 (hashWords (c.owner.getD 0)) ((off - 0x040) / 4)
  else if off = 0x080 then c.fnReset.setWidth 32
  else if off = 0x084 then (c.fnReset >>> 32).setWidth 32
  else if off = 0x090 then w32 (flag c.notifyPort 0)
  else if off = 0x094 then c.noteSent
  else if 0x0A0 ≤ off ∧ off < 0x1A0 then s.imageRead ((off - 0x0A0) / 0x10) (off % 0x10 / 4)
  else if 0x200 ≤ off ∧ off < 0x220 then SMap.get 0 c.counts off
  else 0

def ctlWrite (s : State) (off : Nat) (v : W32) : Wrote :=
  let c := s.ctl
  if off = 0x00C then
    if bits v 15 0 = 0 then s.refuse stBadParam else ({ s with ctl := { c with lapse := v.setWidth 16 } }).wrote
  else if off = 0x090 then (({ s with ctl := { c with notifyPort := bit v 0 } }).pumpNotes).wrote
  else if 0x200 ≤ off ∧ off < 0x220 then ({ s with ctl := { c with counts := setCount c.counts off v } }).wrote
  else s.wrote

/-! ### Power (R416) -/

def clockOf (s : State) (h : Nat) : HalfClock := SMap.get {} s.pwr.clocks h

/-- CAP: the lower of the thermal and the current ceiling; a higher number is a slower step. -/
def capStep (c : HalfClock) : Nat := Nat.max c.therm.toNat c.curr.toNat

/-- Input power in units of 0.1 W, from VIN and IIN (log entry 29). -/
def draw (s : State) : Nat := Nat.min 65535 (s.pwr.vin.toNat * s.pwr.iin.toNat / 10000)

def powerRead (s : State) (off : Nat) : W32 :=
  let p := s.pwr
  let clk (h : Nat) : Nat := let c := s.clockOf h; c.step.toNat + capStep c * 4 + c.req.toNat * 16
  if off = 0x000 then w32 (p.st.toNat + p.gated.toNat * 2 ^ 4)
  else if off = 0x004 then w32 (clk 0 + clk 1 * 2 ^ 8)
  else if off = 0x008 then w32 (p.vin.toNat + p.iin.toNat * 2 ^ 16)
  else if off = 0x00C then w32 s.draw
  else if off = 0x010 then w32 ((s.clockOf 0).junction.toNat + (s.clockOf 1).junction.toNat * 2 ^ 8 + p.tjMax.toNat * 2 ^ 16)
  else if off = 0x014 then p.alert.setWidth 32
  else if off = 0x018 then p.mask.setWidth 32
  else if 0x100 ≤ off ∧ off < 0x10C then SMap.get 0 p.counts off
  else 0

/-- Writing 1 to a bit of ALERT_STATUS clears it. -/
def clearAlert (s : State) (v : W32) : State := { s with pwr := { s.pwr with alert := s.pwr.alert &&& ~~~ (v.setWidth 4) } }

def powerWrite (s : State) (off : Nat) (v : W32) : Wrote :=
  if off = 0x014 then (s.clearAlert v).wrote
  else if off = 0x018 then ({ s with pwr := { s.pwr with mask := v.setWidth 4 } }).wrote
  else if 0x100 ≤ off ∧ off < 0x10C then ({ s with pwr := { s.pwr with counts := setCount s.pwr.counts off v } }).wrote
  else s.wrote

/-! ### Security (R399, R417) -/

/-- SECURITY_STATE.STATE: DEBUG-OPEN while a session is open. -/
def secState (s : State) : Nat := if s.lock.scope = 0 then s.flash.fused.toNat else 2

def lockRead (s : State) (off : Nat) : W32 :=
  let k := s.lock
  let f := s.flash
  if off = 0x000 then w32 (s.secState + flag k.memLock 16)
  else if off = 0x004 then w32 (k.scope.toNat + k.scopesOr.toNat * 2 ^ 4 + k.lastCause.toNat * 2 ^ 8 + k.sessions.toNat * 2 ^ 16)
  else if off = 0x008 then lo32 k.notAfter
  else if off = 0x00C then hi32 k.notAfter
  else if off = 0x010 then lo32 k.first
  else if off = 0x014 then hi32 k.first
  else if off = 0x018 then lo32 k.last
  else if off = 0x01C then hi32 k.last
  else if 0x040 ≤ off ∧ off < 0x070 then nth 0 (hashWords f.fwKey) ((off - 0x040) / 4)
  else if 0x080 ≤ off ∧ off < 0x0B0 then nth 0 (hashWords f.provKey) ((off - 0x080) / 4)
  else if 0x0C0 ≤ off ∧ off < 0x0F0 then nth 0 (hashWords f.dbgKey) ((off - 0x0C0) / 4)
  else if 0x100 ≤ off ∧ off < 0x130 then (if s.returned then 0 else nth 0 (hashWords f.idKey) ((off - 0x100) / 4))
  else if 0x140 ≤ off ∧ off < 0x170 then nth 0 (hashWords k.fwMeasure) ((off - 0x140) / 4)
  else if 0x200 ≤ off ∧ off < 0x20C then SMap.get 0 k.counts off
  else 0

def lockWrite (s : State) (off : Nat) (v : W32) : Wrote :=
  if 0x200 ≤ off ∧ off < 0x20C then ({ s with lock := { s.lock with counts := setCount s.lock.counts off v } }).wrote
  else s.wrote

end State

end Sys2Proof.Machine
end

