-- ==== Sys2Proof/Machine/Regs.lean ====
section
/-! DEFINITION. The management register space (R12, R29, R114, R369, R370, R397): which block an address lies in, the checks of a
burst, and the read or write of one word. -/

namespace Sys2Proof.Machine

open Sys2Proof

/-- A block of R370, with the offset in it. -/
inductive RegBlock where
  | caps (off : Nat)
  | shaft (off : Nat)
  | control (off : Nat)
  | power (off : Nat)
  | security (off : Nat)
  | compute (half off : Nat)
  | mc (stack off : Nat)
  | mem (off : Nat)
  | port (n off : Nat)
  | fab (off : Nat)
  | coll (off : Nat)
  | resil (off : Nat)
  | csu (k off : Nat)
  deriving DecidableEq, Repr

/-- The block of an address; none: it lies outside every block (R12). -/
def regBlock (a : Nat) : Option RegBlock :=
  if a < 0x1000 then some (.caps a)
  else if a < 0x2000 then some (.shaft (a - 0x1000))
  else if a < 0x2800 then some (.control (a - 0x2000))
  else if a < 0x3000 then some (.power (a - 0x2800))
  else if a < 0x4000 then some (.security (a - 0x3000))
  else if a < 0x10000 then none
  else if a < 0x20000 then some (.compute ((a - 0x10000) / 0x8000) (a % 0x8000))
  else if a < 0x2C000 then some (.mc ((a - 0x20000) / 0x1000) (a % 0x1000))
  else if a < 0x2D000 then some (.mem (a - 0x2C000))
  else if a < 0x30000 then none
  else if a < 0x39000 then some (.port ((a - 0x30000) / 0x800) (a % 0x800))
  else if a < 0x3A000 then some (.fab (a - 0x39000))
  else if a < 0x40000 then none
  else if a < 0x42000 then some (.coll (a - 0x40000))
  else if a < 0x50000 then none
  else if a < 0x51000 then some (.resil (a - 0x50000))
  else if a < 0x60000 then none
  else if a < 0x62000 then some (.csu ((a - 0x60000) / 0x80) (a % 0x80))
  else none

namespace State

/-- What the burst checks of R369 answer for a word: R12, R29 and R114. `who` is the control port that asks. -/
def regCheck (s : State) (who a : Nat) (write : Option W32) : Status :=
  match regBlock a with
  | none => stBadParam
  | some (.compute h off) => s.computeCheck h who off write
  | some (.mc k _) => if s.hasStack k then stOk else stNotPresent
  | some (.mem off) => s.memRegCheck off
  | some (.port n _) => if s.hasPort n then stOk else stNotPresent
  | some (.coll off) => s.collCheck off
  | some (.csu k _) => if s.hasCluster k then stOk else stNotPresent
  | some _ => stOk

/-- The unit of a block is power-gated, or, in IDLE, clock-gated (R389, R394, R397). -/
def regAsleep (s : State) (b : RegBlock) : Bool :=
  match b with
  | .compute h off => s.pwr.gated.getLsbD h || (decide (s.pwr.st = 1) && decide (0x100 ≤ off ∧ off < 0x400))
  | .mc k _ => s.pwr.gated.getLsbD (k / 6)
  | .port n _ => decide (n < 16) && s.pwr.gated.getLsbD (n / 8)
  | .csu k _ => s.pwr.gated.getLsbD (k / 32)
  | _ => false

/-- Reads the register at an address. -/
def regRead (s : State) (who a : Nat) : Status × W32 × State :=
  let st := s.regCheck who a none
  if st ≠ stOk then (st, 0, s)
  else
    match regBlock a with
    | none => (stBadParam, 0, s)
    | some b =>
      if s.regAsleep b then (stBusy, 0, s)
      else
        match b with
        | .caps off => (stOk, s.capRead off, s)
        | .shaft off => (stOk, s.shaftRead who off)
        | .control off => (stOk, s.ctlRead off, s)
        | .power off => (stOk, s.powerRead off, s)
        | .security off => (stOk, s.lockRead off, s)
        | .compute h off => (stOk, s.computeRead h who off, s)
        | .mc k off => (stOk, s.mcRegRead k off, s)
        | .mem off => (stOk, s.memRegRead off, s)
        | .port n off => (stOk, s.portRegRead n off, s)
        | .fab off => (stOk, s.fabRegRead off, s)
        | .coll off => (stOk, s.collRead off, s)
        | .resil off => (stOk, s.secRead off, s)
        | .csu k off => (stOk, s.csuRead k off, s)

/-- Writes the register at an address. -/
def regWrite (s : State) (who a : Nat) (v : W32) : Wrote :=
  let st := s.regCheck who a (some v)
  if st ≠ stOk then s.refuse st
  else
    match regBlock a with
    | none => s.refuse stBadParam
    | some b =>
      if s.regAsleep b then s.refuse stBusy
      else
        match b with
        | .caps _ => s.wrote
        | .shaft off => s.shaftWrite off v
        | .control off => s.ctlWrite off v
        | .power off => s.powerWrite off v
        | .security off => s.lockWrite off v
        | .compute h off => s.computeWrite h who off v
        | .mc k off => s.mcRegWrite k off v
        | .mem off => s.memRegWrite off v
        | .port n off => s.portRegWrite n off v
        | .fab off => s.fabRegWrite off v
        | .coll off => s.collWrite off v
        | .resil off => s.secWrite off v
        | .csu k off => s.csuWrite k off v

/-- The checks of a burst. DESIGN CHOICE (log entry 88): where words of it fail with different statuses, the first word that fails gives the
status. -/
def burstCheck (s : State) (who : Nat) : List (Nat × Option W32) → Status
  | [] => stOk
  | (a, v) :: rest => let st := s.regCheck who a v; if st ≠ stOk then st else s.burstCheck who rest

/-- Reads words one at a time: the words read, and the first status that is not OK (R369). -/
def readBurst (s : State) (who : Nat) : List Nat → List W32 → List W32 × Status × State
  | [], acc => (acc.reverse, stOk, s)
  | a :: rest, acc =>
    match s.regRead who a with
    | (st, v, s) => if st = stOk then s.readBurst who rest (v :: acc) else (acc.reverse, st, s)

/-- Writes words one at a time: how many were written, and the first status that is not OK (R369). -/
def writeBurst (s : State) (who : Nat) : List (Nat × W32) → Nat → Nat × Status × State
  | [], n => (n, stOk, s)
  | (a, v) :: rest, n =>
    match s.regWrite who a v with
    | (st, s) => if st = stOk then s.writeBurst who rest (n + 1) else (n, st, s)

end State

end Sys2Proof.Machine
end

