-- ==== Sys2Proof/Machine/Control.lean ====
section
/-! DEFINITION. Command packets (R356 to R370): the miller's checks, replies, ownership, abort and deadlines, register access, and the
commands that are the write of one register. -/

namespace Sys2Proof.Machine

open Sys2Proof

/-! ### Opcodes (R361) -/

def cpOwnClaim : BitVec 16 := 0x0001
def cpOwnRelease : BitVec 16 := 0x0002
def cpConfigDone : BitVec 16 := 0x0003
def cpModuleReset : BitVec 16 := 0x0004
def cpRegRead : BitVec 16 := 0x0010
def cpRegWrite : BitVec 16 := 0x0011
def cpBulkWrite : BitVec 16 := 0x0012
def cpBulkRead : BitVec 16 := 0x0013
def cpAbort : BitVec 16 := 0x0014
def cpShaftSet : BitVec 16 := 0x0020
def cpShaftSync : BitVec 16 := 0x0021
def cpShaftSlew : BitVec 16 := 0x0022
def cpSchedSet : BitVec 16 := 0x0023
def cpSchedCancel : BitVec 16 := 0x0024
def cpFnReset : BitVec 16 := 0x0030
def cpRemap : BitVec 16 := 0x0031
def cpProgramSwap : BitVec 16 := 0x0032
def cpMemMaint : BitVec 16 := 0x0040
def cpMemPpr : BitVec 16 := 0x0041
def cpMemTest : BitVec 16 := 0x0042
def cpMemRetrain : BitVec 16 := 0x0043
def cpFateSet : BitVec 16 := 0x0050
def cpSecPair : BitVec 16 := 0x0051
def cpSecRebuild : BitVec 16 := 0x0052
def cpDevDown : BitVec 16 := 0x0053
def cpDevUp : BitVec 16 := 0x0054
def cpLichenRead : BitVec 16 := 0x0058
def cpLichenEdit : BitVec 16 := 0x0059
def cpPowerState : BitVec 16 := 0x0060
def cpClockStep : BitVec 16 := 0x0061
def cpAttest : BitVec 16 := 0x0068
def cpDebugOpen : BitVec 16 := 0x0069
def cpDebugClose : BitVec 16 := 0x006A
def cpProvision : BitVec 16 := 0x006B
def cpRetire : BitVec 16 := 0x006C
def cpFwUpdate : BitVec 16 := 0x0070
def cpFwLoad : BitVec 16 := 0x0071

/-- Requests that may carry a deadline and be aborted. -/
def abortable (op : BitVec 16) : Bool := decide (op = cpBulkWrite ∨ op = cpBulkRead ∨ op = cpMemTest ∨ op = cpSecRebuild)

/-- What a request comes to: a reply, with what the miller does after it, or a wait. -/
inductive CtlRes where
  | done (st : Status) (words : List W32) (s : State) (after : State → State)
  | hold (w : Wait) (s : State)

/-- A reply, and nothing after it. -/
def say (st : Status) (words : List W32) (s : State) : CtlRes := .done st words s id

/-- A reply without a payload. -/
def ok (s : State) : CtlRes := say stOk [] s

/-- A reply that refuses, with nothing changed. -/
def turnAway (st : Status) (s : State) : CtlRes := say st [] s

/-- Word `i` of a payload. -/
def word (p : List W32) (i : Nat) : W32 := nth 0 p i

/-- A 64-bit value in words `i` and `i + 1`. -/
def word64 (p : List W32) (i : Nat) : W64 := join64 (word p i) (word p (i + 1))

namespace State

/-! ### The checks of every request (R358 to R362, R366, R384, R386, R404) -/

/-- The words that REG_READ or REG_WRITE names: addresses in order. -/
def burst (p : List W32) : List Nat := (List.range (bits (word p 1) 8 0)).map fun i => (word p 0).toNat + 4 * i

/-- Requests that any partner may make, owner or not (R362). -/
def openTo (op : BitVec 16) (p : List W32) : Bool :=
  decide (op = cpOwnClaim ∨ op = cpAttest) || (decide (op = cpRegRead) && (burst p).all fun a => decide (a < 0x1000))

/-- Requests served before READY (R386): those of step 5, REG_READ, ATTEST and ABORT. -/
def early (op : BitVec 16) (p : List W32) : Bool :=
  decide (op ∈ [cpOwnClaim, cpShaftSet, cpShaftSync, cpFateSet, cpLichenEdit, cpConfigDone, cpRegRead, cpAttest, cpAbort]) ||
    (decide (op = cpRegWrite) && decide (burst p = [0x39000]))

/-- Requests served in RETURNED (R404). -/
def readOnly (op : BitVec 16) : Bool := decide (op ∈ [cpRegRead, cpLichenRead, cpAttest, cpModuleReset])

/-- Why a request is answered without being started; none: it starts. -/
def admission (s : State) (h : CpHdr) (op : BitVec 16) (p : List W32) : Option (Status × List W32) :=
  let owner := s.portOwner (16 + h.port.toNat)
  if h.dlEn ∧ !abortable op then some (stBadParam, [])
  else if s.ctl.inRecovery ∧ op ≠ cpFwLoad ∧ op ≠ cpAttest then some (stDenied, [])
  else if !s.ctl.inRecovery ∧ s.returned ∧ !readOnly op then some (stDenied, [])
  else if !s.ctl.inRecovery ∧ !s.returned ∧ !owner ∧ !openTo op p then some (stDenied, [])
  else if !s.ctl.inRecovery ∧ !s.ctl.ready ∧ !early op p ∧ !(s.returned ∧ readOnly op) then some (stBusy, [])
  else if h.dlEn ∧ h.deadline ≤ s.sh.count then some (stAborted, [0])
  else none

/-- What the register at an address belongs to (R359, R370, R378): the function of its unit, or a block of its own from 100 on. -/
def blockUnit (a : Nat) : Nat :=
  if a < 0x1000 then 100
  else if a < 0x2000 then 33
  else if a < 0x4000 then 101 + (a - 0x2000) / 0x800
  else if a < 0x20000 then 1 + (a - 0x10000) / 0x8000
  else if a < 0x2C000 then 3 + (a - 0x20000) / 0x1000
  else if a < 0x30000 then 105
  else if a < 0x38000 then 15 + (a - 0x30000) / 0x800
  else if a < 0x38800 then 0
  else if a < 0x39000 then 106
  else if a < 0x40000 then 107
  else if a < 0x50000 then 31
  else if a < 0x60000 then 108
  else 1 + (a - 0x60000) / 0x1000

/-- The functions, register blocks and securing entries (from 1,000 on) that a request touches (R359). Bulk transfers, clock steps and
the requests of R414, which have an order of their own, touch none (log entry 89). -/
def unitsOf (op : BitVec 16) (p : List W32) : List Nat :=
  if op = cpRegRead ∨ op = cpRegWrite then ((burst p).map blockUnit).eraseDups
  else if op = cpMemMaint ∨ op = cpMemTest ∨ op = cpMemRetrain then (bitList 12 (bits (word p 0) 11 0)).map (3 + ·)
  else if op = cpMemPpr then [3 + bits (word p 0) 3 0]
  else if op = cpFnReset then bitList 34 (bits (word64 p 0) 33 0)
  else if op = cpRemap then (bitList 2 (bits (word p 0) 1 0)).map (1 + ·)
  else if op = cpSecPair ∨ op = cpSecRebuild then [1000 + bits (word p 0) 9 0]
  else if op = cpShaftSync ∨ op = cpShaftSlew ∨ op = cpSchedSet ∨ op = cpSchedCancel then [33]
  else if op = cpFateSet ∨ op = cpDevDown ∨ op = cpDevUp ∨ op = cpLichenRead ∨ op = cpLichenEdit then [108]
  else []

/-- A request in flight touches what this one touches. -/
def ahead (s : State) (op : BitVec 16) (p : List W32) : Bool :=
  s.ctl.inflight.any fun r => r.units.any (unitsOf op p).contains

/-- The header of a command packet (R356, R358). -/
def headerOk (h : CpHdr) : Bool := decide (h.version = 1 ∧ h.reserved = 0)

/-- A request is in flight, and waits. -/
def undertaken (s : State) (h : CpHdr) (op : BitVec 16) (p : List W32) (w : Wait) : State :=
  let r : Inflight := { port := h.port, tag := h.tag, opcode := op, deadline := if h.dlEn then some h.deadline else none, wait := w,
                        units := unitsOf op p }
  { s with ctl := { s.ctl with inflight := s.ctl.inflight ++ [r] } }

/-- Carries out what a request comes to; `late`: its reply waits for a request before it (R359). -/
def finish (h : CpHdr) (op : BitVec 16) (p : List W32) (late : Bool) (r : CtlRes) : State :=
  match r with
  | .done st ws s after => after (if late then s.undertaken h op p (.behind st ws) else s.reply h.port op h.tag st ws)
  | .hold w s => s.undertaken h op p w

/-- A request whose tag is free: it is answered at once, or started. -/
def accept (s : State) (h : CpHdr) (op : BitVec 16) (p : List W32) (body : State → CtlRes) : State :=
  let s := s.countCtl 0x200 1
  match s.admission h op p with
  | some r => (if r.1 = stAborted then s.countCtl 0x214 1 else s).reply h.port op h.tag r.1 r.2
  | none => finish h op p (s.ahead op p) (body s)

/-- A request arrives at the miller (R358, R359). -/
def receive (s : State) (h : CpHdr) (op : BitVec 16) (p : List W32) (body : State → CtlRes) : State :=
  if !h.crcOk then s.countCtl 0x204 1
  else if !headerOk h ∨ 1024 < p.length then s.reply h.port op h.tag stBadParam []
  else if s.ctl.inflight.any fun r => decide (r.tag = h.tag) then
    (s.countCtl 0x208 1).notify 0x000C [op.setWidth 32, h.tag.setWidth 32]
  else if 64 ≤ s.ctl.inflight.length then (s.countCtl 0x20C 1).reply h.port op h.tag stBusy []
  else s.accept h op p body

/-- A control port takes packets: present and ACTIVE, or it has received one of this pool before a loss (R277). -/
def hears (s : State) (port : BitVec 1) (pool : BitVec 4) : Bool :=
  s.hasPort (16 + port.toNat) &&
    (decide ((s.port (16 + port.toNat)).st = psActive) || (s.rxOldest (16 + port.toNat) pool).isSome)

/-- A packet of a pool is taken off its port, and counted (R270, R291). -/
def heard (s : State) (n : Nat) (pool : BitVec 4) : State := (s.updPort n fun p => p.count 0x12C 1).rxRelease n pool

end State

/-- A request on a control port. -/
def request (h : CpHdr) (op : BitVec 16) (p : List W32) (body : State → CtlRes) (s : State) : Host.Outcome State Fault Refusal :=
  if s.hears h.port cpRequestPool then flushed (.next ((s.heard (16 + h.port.toNat) cpRequestPool).receive h op p body)) else .next s

/-- A request of `n` payload words; another length is BAD_PARAM. -/
def requestOf (n : Nat) (h : CpHdr) (op : BitVec 16) (p : List W32) (body : State → CtlRes) (s : State) :
    Host.Outcome State Fault Refusal :=
  request h op p (fun s => if p.length = n then body s else turnAway stBadParam s) s

/-! ### Split requests (R368) -/

/-- The reply of a split request. -/
def splitSay (kind n : Nat) (parts : List (Nat × Status)) (s : State) : CtlRes :=
  say (splitReply kind n parts).1 (splitReply kind n parts).2 s

/-! ### Alerts and debug sessions (R407, R428) -/

/-- Sets a bit of ALERT_STATUS. -/
def State.alert (s : State) (n : Nat) : State := { s with pwr := { s.pwr with alert := s.pwr.alert ||| BitVec.ofNat 4 (2 ^ n) } }

/-- An open session closes with a cause: the TAP selects IDCODE, and what its access registers hold can be captured no more. In the tick in
which the session expires the lower of the causes counts (R414). -/
def State.closeSession (s : State) (cause : Nat) : State :=
  if s.lock.scope = 0 then s
  else
    let cause := if s.lock.notAfter ≤ s.sh.count then Nat.min cause 2 else cause
    let s := { s with lock := { s.lock with scope := 0, notAfter := 0, last := s.sh.count, lastCause := BitVec.ofNat 3 cause },
                      tap := { s.tap with ir := 0x02, mgmt := 0, mem := 0, capture := 0 } }
    s.notify 0x0015 [w32 cause, s.lock.sessions.setWidth 32]

/-! ### Ownership (R362) -/

/-- OWN_CLAIM, with TAKEOVER in bit 0 of a first word. -/
def execOwnClaim (h : CpHdr) (p : List W32) (s : State) : Host.Outcome State Fault Refusal :=
  request h cpOwnClaim p (fun s =>
    let lapsed := !s.ownerActive 16 && !s.ownerActive 17 && decide (s.ctl.lapse ≤ s.ctl.lapsed)
    if s.ctl.owner.isSome ∧ !(bit (word p 0) 0 ∧ lapsed) then turnAway stDenied s
    else ok { s with ctl := { s.ctl with owner := some (s.port (16 + h.port.toNat)).keyHash, lapsed := 0 } }) s

/-- OWN_RELEASE. -/
def execOwnRelease (h : CpHdr) (p : List W32) (s : State) : Host.Outcome State Fault Refusal :=
  request h cpOwnRelease p (fun s => ok { s with ctl := { s.ctl with owner := none } }) s

/-! ### Register access (R369) -/

/-- The checks of a burst before any word moves. -/
def burstBad (p : List W32) : Bool :=
  decide ((word p 0).toNat % 4 ≠ 0) || decide (bits (word p 1) 8 0 = 0) || decide (256 < bits (word p 1) 8 0)

/-- REG_READ. -/
def execRegRead (h : CpHdr) (p : List W32) (s : State) : Host.Outcome State Fault Refusal :=
  requestOf 2 h cpRegRead p (fun s =>
    let who := h.port.toNat
    let as_ := State.burst p
    if burstBad p then turnAway stBadParam s
    else
      let st := s.burstCheck who (as_.map fun a => (a, none))
      if st ≠ stOk then turnAway st s
      else
        match s.readBurst who as_ [] with
        | (ws, st, s) => if st = stOk then say stOk ws s else say st [w32 ws.length] s) s

/-- What a REG_WRITE does. -/
def regWriteBody (who : Nat) (p : List W32) (s : State) : CtlRes :=
  let ws := (State.burst p).zip (p.drop 2)
  if burstBad p ∨ p.length ≠ 2 + bits (word p 1) 8 0 then turnAway stBadParam s
  else
    let st := s.burstCheck who (ws.map fun e => (e.1, some e.2))
    if st ≠ stOk then turnAway st s
    else
      match s.writeBurst who ws 0 with
      | (n, st, s) => if st = stOk then ok s else say st [w32 n] s

/-- REG_WRITE. -/
def execRegWrite (h : CpHdr) (p : List W32) (s : State) : Host.Outcome State Fault Refusal :=
  request h cpRegWrite p (regWriteBody h.port.toNat p) s

/-- A REG_WRITE of the one word `v` at address `a`. -/
def writeOne (h : CpHdr) (a : Nat) (v : W32) (s : State) : Host.Outcome State Fault Refusal :=
  request h cpRegWrite [w32 a, 1, v] (regWriteBody h.port.toNat [w32 a, 1, v]) s

/-- SHAFT_LO_READ: a REG_READ of SHAFT_LO (R387). -/
def execShaftLoRead (h : CpHdr) (s : State) : Host.Outcome State Fault Refusal := execRegRead h [0x1000, 1] s

/-! ### Commands that write one register -/

/-- A register of the compute block of a half. -/
def computeAt (half : BitVec 1) (off : Nat) : Nat := 0x10000 + 0x8000 * half.toNat + off

/-- SLOT_START: START bits of SLOT_CMD (R101). -/
def execSlotStart (h : CpHdr) (half : BitVec 1) (mask : BitVec 4) (s : State) : Host.Outcome State Fault Refusal :=
  writeOne h (computeAt half 0x10C) (mask.setWidth 32) s
/-- SLOT_STOP: STOP bits of SLOT_CMD (R101). -/
def execSlotStop (h : CpHdr) (half : BitVec 1) (mask : BitVec 4) (s : State) : Host.Outcome State Fault Refusal :=
  writeOne h (computeAt half 0x10C) (w32 (mask.toNat * 16)) s
/-- SLOT_PTR: a pointer word of slot n (R155). -/
def execSlotPtr (h : CpHdr) (half : BitVec 1) (n : BitVec 2) (hi : Bool) (v : W32) (s : State) : Host.Outcome State Fault Refusal :=
  writeOne h (computeAt half (0x120 + 8 * n.toNat + if hi then 4 else 0)) v s
/-- PIPE_POLICY (R106). -/
def execPipePolicy (h : CpHdr) (half : BitVec 1) (v : W32) (s : State) : Host.Outcome State Fault Refusal :=
  writeOne h (computeAt half 0x4) v s
/-- QCFG_Qn (R94). -/
def execQcfg (h : CpHdr) (half : BitVec 1) (n : BitVec 4) (v : W32) (s : State) : Host.Outcome State Fault Refusal :=
  writeOne h (computeAt half (0x190 + 4 * n.toNat)) v s
/-- QBIND of Q(10 + n) (R96). -/
def execQbind (h : CpHdr) (half : BitVec 1) (n : BitVec 2) (v : W32) (s : State) : Host.Outcome State Fault Refusal :=
  writeOne h (computeAt half (0x1D0 + 4 * n.toNat)) v s
/-- CORE_SEEN (R113). -/
def execCoreSeen (h : CpHdr) (half : BitVec 1) (v : W32) (s : State) : Host.Outcome State Fault Refusal :=
  writeOne h (computeAt half 0x108) v s
/-- FENCE_CMD (R195). -/
def execFenceCmd (h : CpHdr) (half : BitVec 1) (cl : BitVec 5) (v : W32) (s : State) : Host.Outcome State Fault Refusal :=
  writeOne h (computeAt half (0x808 + 0x100 * cl.toNat)) v s
/-- QUIESCE_REQ: NET_CTRL (R198). -/
def execQuiesceReq (h : CpHdr) (half : BitVec 1) (v : W32) (s : State) : Host.Outcome State Fault Refusal :=
  writeOne h (computeAt half 0x400) v s
/-- CSM_CFG (R253). -/
def execCsmCfg (h : CpHdr) (half : BitVec 1) (cl : BitVec 5) (v : W32) (s : State) : Host.Outcome State Fault Refusal :=
  writeOne h (computeAt half (0x800 + 0x100 * cl.toNat)) v s
/-- CSU_CANCEL: CSU_CMD (R250). -/
def execCsuCancel (h : CpHdr) (half : BitVec 1) (cl : BitVec 5) (v : W32) (s : State) : Host.Outcome State Fault Refusal :=
  writeOne h (0x60000 + 0x1000 * half.toNat + 0x80 * cl.toNat + 4) v s
/-- MSC_FLUSH: MSC_CTRL.FLUSH (R230). -/
def execMscFlush (h : CpHdr) (stack : BitVec 4) (s : State) : Host.Outcome State Fault Refusal :=
  if 12 ≤ stack.toNat then .next s else writeOne h (0x20000 + 0x1000 * stack.toNat + 8) 1 s
/-- MEM_MODE_k (R224). -/
def execMemMode (h : CpHdr) (k : BitVec 2) (v : W32) (s : State) : Host.Outcome State Fault Refusal :=
  writeOne h (0x2C000 + 4 * k.toNat) v s
/-- XLAT_INVAL: XLAT_INVAL_CMD (R236). -/
def execXlatInval (h : CpHdr) (v : W32) (s : State) : Host.Outcome State Fault Refusal := writeOne h 0x2C020 v s
/-- ROUTE_LOAD: ROUTE_CMD.LOAD (R284). -/
def execRouteLoad (h : CpHdr) (s : State) : Host.Outcome State Fault Refusal := writeOne h 0x39018 1 s
/-- LASER_SWITCH: LASER_CTRL (R266). -/
def execLaserSwitch (h : CpHdr) (v : W32) (s : State) : Host.Outcome State Fault Refusal := writeOne h 0x3900C v s

/-- PORT_CTRL of a port. -/
def portCtrlAt (port : BitVec 5) : Nat := 0x30000 + 0x800 * port.toNat

/-- PORT_ENABLE (R279). -/
def execPortEnable (h : CpHdr) (port : BitVec 5) (enable : Bool) (s : State) : Host.Outcome State Fault Refusal :=
  if 18 ≤ port.toNat then .next s else writeOne h (portCtrlAt port) (w32 (flag enable 0)) s
/-- ADMIT (R275). -/
def execAdmitPort (h : CpHdr) (port : BitVec 5) (enable : Bool) (epoch : BitVec 16) (s : State) : Host.Outcome State Fault Refusal :=
  if 18 ≤ port.toNat then .next s else writeOne h (portCtrlAt port) (w32 (flag enable 0 + 2 + epoch.toNat * 2 ^ 16)) s
/-- RETRAIN (R277). -/
def execRetrain (h : CpHdr) (port : BitVec 5) (enable : Bool) (s : State) : Host.Outcome State Fault Refusal :=
  if 18 ≤ port.toNat then .next s else writeOne h (portCtrlAt port) (w32 (flag enable 0 + 4)) s

/-- A move ring's register, and a list's. -/
def ringAt (half : BitVec 1) (k : BitVec 4) (off : Nat) : Nat := 0x40C00 + 0x200 * half.toNat + 0x20 * k.toNat + off
def listAt (half : BitVec 1) (k : BitVec 4) (off : Nat) : Nat := 0x40400 + 0x200 * half.toNat + 0x20 * k.toNat + off

/-- MV_ENABLE: MV_CTRL (R179). -/
def execMvEnable (h : CpHdr) (half : BitVec 1) (k : BitVec 4) (v : W32) (s : State) : Host.Outcome State Fault Refusal :=
  writeOne h (ringAt half k 0) v s
/-- MV_TAIL (R176). -/
def execMvTail (h : CpHdr) (half : BitVec 1) (k : BitVec 4) (v : W32) (s : State) : Host.Outcome State Fault Refusal :=
  writeOne h (ringAt half k 0x10) v s
/-- RL_ENABLE: RL_CTRL (R293). -/
def execRlEnable (h : CpHdr) (half : BitVec 1) (k : BitVec 4) (v : W32) (s : State) : Host.Outcome State Fault Refusal :=
  writeOne h (listAt half k 0) v s
/-- EVENT_RAISE (R295). -/
def execEventRaise (h : CpHdr) (v : W32) (s : State) : Host.Outcome State Fault Refusal := writeOne h 0x40024 v s

/-- JOB_CMD of a job. -/
def jobCmdAt (j : BitVec 6) : Nat := 0x41004 + 0x40 * j.toNat

/-- ARM (R299), with a waiver (R316). -/
def execArm (h : CpHdr) (job : BitVec 6) (waive : BitVec 16) (s : State) : Host.Outcome State Fault Refusal :=
  writeOne h (jobCmdAt job) (w32 (1 + waive.toNat * 2 ^ 16)) s
/-- REARM (R299). -/
def execRearm (h : CpHdr) (job : BitVec 6) (waive : BitVec 16) (s : State) : Host.Outcome State Fault Refusal :=
  writeOne h (jobCmdAt job) (w32 (2 + waive.toNat * 2 ^ 16)) s
/-- RELEASE (R299). -/
def execRelease (h : CpHdr) (job : BitVec 6) (waive : BitVec 16) (s : State) : Host.Outcome State Fault Refusal :=
  writeOne h (jobCmdAt job) (w32 (4 + waive.toNat * 2 ^ 16)) s
/-- JOB_WAIVE (R316). -/
def execJobWaive (h : CpHdr) (job : BitVec 6) (waive : BitVec 16) (s : State) : Host.Outcome State Fault Refusal :=
  writeOne h (jobCmdAt job) (w32 (waive.toNat * 2 ^ 16)) s
/-- CG_DROP (R306). -/
def execCgDrop (h : CpHdr) (g : BitVec 3) (expect : BitVec 16) (s : State) : Host.Outcome State Fault Refusal :=
  writeOne h (0x40080 + 4 * g.toNat) (w32 (2 ^ 16 + expect.toNat)) s
/-- COMMIT_ABORT (R328). -/
def execCommitAbort (h : CpHdr) (s : State) : Host.Outcome State Fault Refusal := writeOne h 0x40004 1 s
/-- COMMIT_RESEND (R321). -/
def execCommitResend (h : CpHdr) (s : State) : Host.Outcome State Fault Refusal := writeOne h 0x40004 2 s
/-- COMMIT_WAIVE (R321). -/
def execCommitWaive (h : CpHdr) (n : BitVec 16) (s : State) : Host.Outcome State Fault Refusal :=
  writeOne h 0x40004 (w32 (n.toNat * 2 ^ 16)) s
/-- SEC_START: a SEC_CTRL word with START (R338). -/
def execSecStart (h : CpHdr) (v : W32) (s : State) : Host.Outcome State Fault Refusal := writeOne h 0x50000 (v ||| 2) s
/-- SEC_ABANDON: a SEC_CTRL word with ABANDON (R340). -/
def execSecAbandon (h : CpHdr) (v : W32) (s : State) : Host.Outcome State Fault Refusal := writeOne h 0x50000 (v ||| 4) s
/-- ALERT_STATUS: bits to clear (R428). -/
def execAlertStatus (h : CpHdr) (v : W32) (s : State) : Host.Outcome State Fault Refusal := writeOne h 0x2814 v s

end Sys2Proof.Machine
end

