-- ==== Sys2Proof/Machine/PowerCtl.lean ====
section
/-! DEFINITION. Clock steps and ceilings (R202, R203, R398, R424, R434), the temperatures and THERM_N (R211, R428), power states (R389 to
R397) and the protective turn-off (R421). -/

namespace Sys2Proof.Machine

open Sys2Proof

/-! ### Clock steps (R398) -/

namespace State

def updClock (s : State) (h : Nat) (f : HalfClock → HalfClock) : State :=
  { s with pwr := { s.pwr with clocks := SMap.upd {} s.pwr.clocks h f } }
def countPwr (s : State) (off n : Nat) : State := { s with pwr := { s.pwr with counts := bump s.pwr.counts off n } }

/-- A CLOCK_STEP notification (R415). -/
def noteClock (s : State) (h old new cause : Nat) : State :=
  s.notify 0x0011 [w32 (h + old * 2 ^ 4 + new * 2 ^ 8 + cause * 2 ^ 12)]

/-- A half moves to the slower of the step requested and its ceiling. -/
def settleClock (s : State) (h cause : Nat) (always : Bool) : State :=
  let c := s.clockOf h
  let new := Nat.max c.req.toNat (capStep c)
  let s := if new = c.step.toNat then s
    else (s.updClock h fun c => { c with step := BitVec.ofNat 2 new }).countPwr 0x104 1
  if always ∨ new ≠ c.step.toNat then s.noteClock h c.step.toNat new cause else s

/-- A commanded step takes effect in the halves of a mask. -/
def stepClocks (s : State) (halves : BitVec 2) (step : BitVec 2) : State :=
  (List.range 2).foldl (fun s h =>
    if halves.getLsbD h then (s.updClock h fun c => { c with req := step }).settleClock h 0 false else s) s

/-- Why a commanded step is refused: a half that is absent, or gated. -/
def clockBad (s : State) (halves : BitVec 2) : Status :=
  let named (p : Nat → Bool) : Bool := (List.range 2).any fun h => halves.getLsbD h && p h
  if named fun h => !s.hasHalf h then stNotPresent
  else if named fun h => s.pwr.gated.getLsbD h then stBusy
  else stOk

end State

/-- HALVES and STEP of a CLOCK_STEP word. -/
def clockHalves (w : W32) : BitVec 2 := w.setWidth 2
def clockTo (w : W32) : BitVec 2 := w.extractLsb' 4 2

/-- CLOCK_STEP: at once where AT has come, else at AT. -/
def execClockStep (h : CpHdr) (p : List W32) (s : State) : Host.Outcome State Fault Refusal :=
  requestOf 3 h cpClockStep p (fun s =>
    let halves := clockHalves (word p 0)
    let step := clockTo (word p 0)
    let at_ := word64 p 1
    let st := s.clockBad halves
    if st ≠ stOk then turnAway st s
    else if at_ ≤ s.sh.count ∨ halves = 0 then ok (s.stepClocks halves step)
    else .hold (.clockStep halves step at_) s) s

/-- CLOCK_STEP_AT: the oldest step that waits for this half takes effect there; with its last half the request is replied to. -/
def execClockStepAt (half : BitVec 1) (s : State) : Host.Outcome State Fault Refusal :=
  let h := half.toNat
  let due (r : Inflight) : Bool := match r.wait with
    | .clockStep halves _ at_ => halves.getLsbD h && decide (at_ ≤ s.sh.count)
    | _ => false
  match s.ctl.inflight.find? due with
  | none => .next s
  | some r =>
    match r.wait with
    | .clockStep halves step at_ =>
      if s.pwr.gated.getLsbD h then flushed (.next (s.endRequest r stBusy []))
      else
        let s := s.stepClocks (BitVec.ofNat 2 (2 ^ h)) step
        let left := halves &&& ~~~ (BitVec.ofNat 2 (2 ^ h))
        if left = 0 then flushed (.next (s.endRequest r stOk []))
        else
          let swap (x : Inflight) : Inflight := if x = r then { x with wait := .clockStep left step at_ } else x
          .next { s with ctl := { s.ctl with inflight := s.ctl.inflight.map swap } }
    | _ => .next s

/-! ### Ceilings (R424, R434) -/

/-- CURRENT_CEILING_EVALUATION: the mean input current of the period, in units of 10 mA. -/
def execCurrentCeilingEvaluation (mean : BitVec 16) (s : State) : Host.Outcome State Fault Refusal :=
  let s' := { s with pwr := { s.pwr with iin := mean } }
  let c0 := s.clockOf 0
  let c1 := s.clockOf 1
  let live (h : Nat) : Bool := s.hasHalf h && !s.pwr.gated.getLsbD h
  let low (s : State) (n : BitVec 7) : State := { s with pwr := { s.pwr with low := n } }
  if s.dormant then .next s
  else if 4800 ≤ mean.toNat then
    let h := if live 1 && (!live 0 || decide (c1.step < c0.step)) then 1 else 0
    let c := s.clockOf h
    let s := low s' 0
    if c.curr = 3 ∨ !live h then .next s
    else .next (((((if c.therm ≤ c.curr then s.alert 0 else s).updClock h fun c => { c with curr := c.curr + 1 }).settleClock h 1 true)).countPwr 0x108
      (if Nat.max c.req.toNat (Nat.max c.therm.toNat (c.curr.toNat + 1)) = c.step.toNat then 0 else 1))
  else if mean.toNat ≤ 4400 then
    let n := s.pwr.low + 1
    if n = 64 then
      let h := if c0.curr < c1.curr then 1 else 0
      let c := s.clockOf h
      let s := low s' 0
      if c.curr = 0 then .next s
      else .next (((s.updClock h fun c => { c with curr := c.curr - 1 }).settleClock h 2 true).countPwr 0x108
        (if Nat.max c.req.toNat (Nat.max c.therm.toNat (c.curr.toNat - 1)) = c.step.toNat then 0 else 1))
    else .next (low s' n)
  else .next (low s' 0)

namespace State

/-- A THERMAL notification (R415). -/
def noteThermal (s : State) (h : Nat) : State :=
  let c := s.clockOf h
  s.notify 0x0012 [w32 (h + c.junction.toNat * 2 ^ 8 + capStep c * 2 ^ 16)]

/-- A change of a half's thermal ceiling (R434). -/
def changeThermal (s : State) (h : Nat) (lower : Bool) : State :=
  let s := s.updClock h fun c => { c with therm := if lower then c.therm + 1 else c.therm - 1, cool := 0 }
  let s := if lower then s.alert 0 else s
  ((s.settleClock h (if lower then 1 else 2) true).countPwr 0x108 1).noteThermal h

/-- The stacks of a half, ascending. -/
def stacksOf (s : State) (h : Nat) : List Nat := s.stackList.filter fun k => decide (k / 6 = h)

/-- T of R434: the highest of a half's junction sensors and the MC_TEMP of its stacks. -/
def hottest (s : State) (h : Nat) : Nat := (s.stacksOf h).foldl (fun t k => Nat.max t (s.mc k).temp.toNat) (s.clockOf h).junction.toNat

/-- THERM_N after a new temperature of half `h` (R428), gated or not: `told` that a THERMAL notification has been sent. -/
def driveTherm (s : State) (h : Nat) (told : Bool) : State :=
  if 95 ≤ s.hottest h then
    let s' := { s with pwr := { s.pwr with thermN := true } }
    if s.pwr.thermN || told then s' else s'.noteThermal h
  else if s.hottest 0 ≤ 90 ∧ s.hottest 1 ≤ 90 then { s with pwr := { s.pwr with thermN := false } }
  else s

/-- What the sensors of a half read: its hottest junction, and the hottest die of each of its stacks in order. -/
def readSensors (s : State) (h : Nat) (junction : Byte) (dies : List Byte) : State :=
  let s := s.updClock h fun c => { c with junction := junction }
  let s := { s with pwr := { s.pwr with tjMax := BitVec.ofNat 8 (Nat.max s.pwr.tjMax.toNat junction.toNat) } }
  ((s.stacksOf h).zip dies).foldl (fun s e => s.updMc e.1 fun m => { m with temp := e.2 }) s

/-- A half's thermal ceiling at T degrees (R434), and whether it changed. -/
def evaluateThermal (s : State) (h t : Nat) : State × Bool :=
  let c := s.clockOf h
  let cool (n : BitVec 7) : State × Bool := (s.updClock h fun c => { c with cool := n }, false)
  if 92 ≤ t then (if c.therm = 3 then cool 0 else (s.changeThermal h true, true))
  else if t ≤ 86 then
    (if c.cool + 1 ≠ 64 then cool (c.cool + 1) else if c.therm = 0 then cool 0 else (s.changeThermal h false, true))
  else cool 0

end State

/-- THERMAL_EVALUATION: `junction` is the half's hottest junction, `dies` the hottest die of each of its stacks, ascending; the MC_TEMP of
a stack that `dies` does not reach stands. The ceiling of a gated half is not evaluated (R434); its sensors drive THERM_N (R389). -/
def execThermalEvaluation (half : BitVec 1) (junction : Byte) (dies : List Byte) (s : State) : Host.Outcome State Fault Refusal :=
  let h := half.toNat
  if s.dormant || !s.hasHalf h then .next s
  else
    let s := s.readSensors h junction dies
    let r := if s.pwr.gated.getLsbD h then (s, false) else s.evaluateThermal h (s.hottest h)
    .next (r.1.driveTherm h r.2)

/-! ### REFRESH_HOT (R211) -/

/-- REFRESH_HOT: a stack's hottest die is at `temp` degrees, which doubles its refresh rate above 85, and drives THERM_N (R428). -/
def execRefreshHot (stack : BitVec 4) (temp : Byte) (s : State) : Host.Outcome State Fault Refusal :=
  let k := stack.toNat
  if s.hasStack k && !s.dormant then
    .next ((s.updMc k fun m => { m with temp := temp, hot := decide (85 < temp.toNat) }).driveTherm (k / 6) false)
  else .next s

/-! ### Units that lose power, and that wake (R230, R392 to R394) -/

namespace State

/-- A stack goes into self-refresh: its cache is flushed and invalidated and its prefetch directory cleared. -/
def stillStack (s : State) (k : Nat) : State := (s.mscDrop k).dirClear k

/-- The LOC of a physical core site (R350). -/
def coreLoc (half site core : Nat) : BitVec 48 := BitVec.ofNat 48 (half + site * 2 + core * 2 ^ 7)

/-- A fenced core that waits for the remap of its retirement (R195): a record for its site is held. -/
def awaitsRemap (s : State) (core : Nat) : Bool :=
  (s.core core).fenced && (match s.clusterSite (core / 64) with
    | some site => s.lmHolds lmCoreRetired (coreLoc (core / 2048) site (s.coreSite core))
    | none => false)

/-- The cores of a half with `keep` left of each; those that wait for a remap stay fenced. -/
def resetCores (s : State) (h : Nat) (keep : Core → Core) : SMap Core :=
  (s.cores.map fun e =>
    if e.1 / 2048 = h then (e.1, { keep e.2 with fenced := s.awaitsRemap e.1 }) else e).filter fun e => decide (e.2 ≠ {})

/-- A half's port of number `n` after the half has woken: at its reset values, enabled by the miller unless RETURNED (R404). -/
def wakePort (s : State) (n : Nat) : State :=
  if s.hasPort n then (s.setPort n { enable := !s.returned }).portOn n else s

/-- A memory controller after its half has woken: reset values, with the channels trained on the recorded spares. -/
def wakeMc (m : Mc) : Mc :=
  let wake (c : Channel) : Channel := { st := if c.st = 4 then 4 else 2, spares := c.spares }
  { st := 1, pprUsed := m.pprUsed, chans := (List.range 16).map fun i => (i, wake (m.chan i)) }

/-- The blocks of a half that has woken (R394). -/
def wakeHalf (s : State) (h : Nat) : State :=
  let x := s.half h
  let x' : Half := { seamActive := x.seamActive, seamUp := x.seamUp, seamRow := x.seamRow, avoid := x.avoid }
  let mine (k : Nat) : Bool := decide (k / 32 = h)
  let clusters := (s.clusters.map fun e => if mine e.1 then (e.1, ({ status := e.2.status } : Cluster)) else e).filter
    fun e => decide (e.2 ≠ {})
  let tbs := s.xl.tbs.filter fun e =>
    decide ((if e.1 < 4096 then e.1 / 2048 else if e.1 < 4160 then (e.1 - 4096) / 32 else if e.1 < 4162 then e.1 - 4160
      else (e.1 - 4162) / 8) ≠ h)
  let s := { s with
    cores := s.resetCores h fun _ => {}
    clusters := clusters
    csus := SMap.dropWhere mine s.csus
    halves := SMap.set {} s.halves h x'
    xl := { s.xl with tbs := tbs, caches := SMap.dropWhere (fun k => decide (k = h)) s.xl.caches } }
  let s := (s.stackList.filter fun k => decide (k / 6 = h)).foldl (fun s k => { s with mcs := SMap.set {} s.mcs k (wakeMc (s.mc k)) }) s
  let s := { s with pwr := { s.pwr with gated := s.pwr.gated &&& ~~~ (BitVec.ofNat 2 (2 ^ h)) } }
  (List.range 8).foldl (fun s i => s.wakePort (8 * h + i)) s

/-- Half h loses power: its ports go OFF and its stacks into self-refresh. -/
def gateHalf (s : State) (h : Nat) : State :=
  let s := (List.range 8).foldl (fun s i => if s.hasPort (8 * h + i) ∧ (s.port (8 * h + i)).st ≠ psOff then s.portOff (8 * h + i) 5 else s) s
  let s := (s.stackList.filter fun k => decide (k / 6 = h)).foldl stillStack s
  { s with pwr := { s.pwr with gated := s.pwr.gated ||| BitVec.ofNat 2 (2 ^ h) } }

/-- The seam sides answer crossings, or accept them again (R204). -/
def setStilled (s : State) (b : Bool) : State :=
  if s.hasSeam then (List.range 2).foldl (fun s h => s.updHalf h fun x => { x with seamStilled := b }) s else s

/-! ### Power states (R390 to R397) -/

/-- Halves of the module that are power-gated, or in the state a POWER_STATE names. -/
def gatedHalf (s : State) : Nat := if s.pwr.gated.getLsbD 1 then 1 else 0

/-- A new state: counted and notified. -/
def enterPower (s : State) (new half : Nat) : State :=
  let old := s.pwr.st.toNat
  let s := ({ s with pwr := { s.pwr with st := BitVec.ofNat 3 new } }).countPwr 0x100 1
  s.notify 0x0010 [w32 (old + new * 2 ^ 4 + half * 2 ^ 8)]

/-- The conditions of R392 for a half. -/
def halfReady (s : State) (h : Nat) : Bool :=
  (s.pwr.gated.getLsbD h || s.quiesced h) &&
    (s.stackList.filter fun k => decide (k / 6 = h)).all fun k => decide ((s.mc k).st.toNat < 2)

/-- No epoch runs and no commit state reads MARK_SET. -/
def timeFree (s : State) : Bool := s.secIdle && decide (s.coll.commit.st ≠ 2)

/-- The conditions of R393. -/
def stillReady (s : State) : Bool :=
  s.timeFree && s.halfList.all s.halfReady && s.ctl.inflight.all fun r => !abortable r.opcode

/-- MEMORY_LOCK set, or cleared. -/
def setLock (s : State) (b : Bool) : State :=
  let s := { s with lock := { s.lock with memLock := b } }
  let s := if b then s.alert 3 else s
  s.notify 0x0017 [w32 (flag b 0)]

/-- The entry of R393. -/
def enterStill (s : State) : State :=
  let s := s.closeSession 3
  let s := (s.halfList.filter fun h => !s.pwr.gated.getLsbD h).foldl gateHalf s
  s.setStilled true

/-- What is left of the Triat without power, or in a whole-module reset: what is fused or in flash, the rows that stacks have used
up for repair, the spare lanes that have failed (R213), and the input. -/
def cold (s : State) : State :=
  let bad (c : Channel) : Channel := { spares := c.spares.filter fun e => decide (e.2 = Channel.spareBad) }
  let spares (m : Mc) : SMap Channel := (m.chans.map fun c => (c.1, bad c.2)).filter fun c => decide (c.2 ≠ {})
  let rows := (s.mcs.map fun e => (e.1, ({ pprUsed := e.2.pprUsed, chans := spares e.2 } : Mc))).filter fun e => decide (e.2 ≠ {})
  { pending := s.pending, part := s.part, flash := s.flash, out := s.out, fresh := s.fresh, mcs := rows,
    pwr := { supply := s.pwr.supply, low5 := s.pwr.low5, off := s.pwr.off } }

/-- DORMANT: everything but the wake detector is off. -/
def powerDown (s : State) : State :=
  let c := s.cold
  { c with pwr := { c.pwr with st := 4 } }

/-- A protective turn-off (R421), which has the outcome of removing the input: DORMANT. -/
def turnOff (s : State) : State :=
  let c := if s.dormant then s else s.powerDown
  { c with pwr := { c.pwr with off := true } }

/-- Exit from HALF-STILL or STILL to RUN. -/
def wakeUp (s : State) : State :=
  let still := decide (s.pwr.st = 3)
  let half := if still then 0 else s.gatedHalf
  let gated := s.halfList.filter fun h => s.pwr.gated.getLsbD h
  let s := (gated.foldl wakeHalf s).setStilled false
  let s := if still then s.setLock true else s
  s.enterPower 0 half

/-- WAKE_N is asserted: its level comes from outside and is a free value (log entry 58). -/
def wakeLow (s : State) : Bool := decide ((Config.free64 s.fresh).toNat % 2 = 0)

/-- The level of WAKE_N has been looked at. -/
def wakeSeen (s : State) : State := { s with fresh := s.fresh + 1 }

/-- DORMANT is entered, if nothing forbids it and WAKE_N is deasserted (R396). -/
def toDormant (s : State) (after : State → State) : CtlRes :=
  if !s.stillReady then turnAway stBusy s
  else if s.wakeLow then turnAway stBusy s.wakeSeen
  else .done stOk [] s.wakeSeen fun s => ((after s).enterPower 4 0).powerDown

/-- POWER_STATE. -/
def powerBody (p : List W32) (s : State) : CtlRes :=
  let target := bits (word p 0) 2 0
  let half := bits (word p 0) 4 4
  let cur := s.pwr.st.toNat
  if p.length ≠ 1 ∨ 5 ≤ target then turnAway stBadParam s
  else if target = 2 ∧ !s.hasHalf 1 then turnAway stNotPresent s
  else if target = cur then (if target = 2 ∧ half ≠ s.gatedHalf then turnAway stBadParam s else ok s)
  else
    match cur, target with
    | 0, 1 => if s.cores.any fun e => e.2.anyRunning then turnAway stBusy s else ok (s.enterPower 1 0)
    | 1, 0 => ok (s.enterPower 0 0)
    | 0, 2 =>
      if !s.timeFree || !s.quiesced half || !s.halfReady half then turnAway stBusy s
      else ok (((s.setStilled true).gateHalf half).enterPower 2 half)
    | 2, 0 => ok s.wakeUp
    | 3, 0 => ok s.wakeUp
    | 3, 4 => s.toDormant id
    | _, 3 => if s.stillReady then ok (s.enterStill.enterPower 3 0) else turnAway stBusy s
    | _, 4 => s.toDormant enterStill
    | _, _ => turnAway stBadParam s

end State

end Sys2Proof.Machine
end

