-- ==== Sys2Proof/Machine/Trust.lean ====
section
/-! DEFINITION. Attestation, debug sessions, provisioning and retirement (R399 to R414). The verdict on a signed record, and a new
measurement of the firmware, come with the command. -/

namespace Sys2Proof.Machine

open Sys2Proof

/-! ### One at a time (R414) -/

/-- A request of R414's list is in flight. -/
def State.turnTaken (s : State) : Bool :=
  s.ctl.inflight.any fun r => decide (r.opcode = cpFwUpdate) || (match r.wait with
    | .turn _ _ _ _ => true
    | _ => false)

/-- No certificate or measurement comes with the request. -/
def noCert : Cert := { keyHash := 0, sigOk := false }

/-- Serves a request of R414's list in its turn. -/
def inTurn (h : CpHdr) (p : List W32) (cert : Cert) (measured : Hash) (body : State → CtlRes) (s : State) : CtlRes :=
  if s.turnTaken then .hold (.turn h p cert measured) s else body s

/-- POWER_STATE (R390). -/
def execPowerState (h : CpHdr) (p : List W32) (s : State) : Host.Outcome State Fault Refusal :=
  request h cpPowerState p (inTurn h p noCert 0 (State.powerBody p)) s

/-! ### Payload bytes -/

/-- The bytes of words, lowest first. -/
def bytesOfWords (ws : List W32) : List Byte := ws.flatMap fun w => (leBytes 4 w.toNat).map (·.b)

/-- Bytes as words, lowest first. -/
def wordsOfBytes (bs : List Byte) : List W32 :=
  (List.range (bs.length / 4)).map fun i =>
    let b (k : Nat) : Nat := (nth 0 bs (4 * i + k)).toNat
    w32 (b 0 + b 1 * 2 ^ 8 + b 2 * 2 ^ 16 + b 3 * 2 ^ 24)

/-- The `n` bytes of a number, lowest first. -/
def numBytes (n x : Nat) : List Byte := (leBytes n x).map (·.b)

/-- Bytes a to b - 1 of a payload, as a number. -/
def field (bs : List Byte) (a b : Nat) : Nat := ((bs.drop a).take (b - a)).foldr (fun x n => x.toNat + 256 * n) 0

/-! ### Attestation (R410, R411) -/

namespace State

/-- The report. `unlocked`: this request has cleared MEMORY_LOCK. -/
def attestation (s : State) (nonce : List W32) (unlocked : Bool) : List Byte :=
  let power := s.pwr.st.toNat + (if s.pwr.st = 2 ∧ s.gatedHalf = 1 then 128 else 0)
  let flags := flag (s.ctl.recovery || s.ctl.inRecovery) 0 + flag s.lock.memLock 1 + flag (decide (s.lock.scope ≠ 0)) 2 + flag unlocked 3
  let erased := s.returned
  let body : List Byte :=
    [1, BitVec.ofNat 8 s.secState, BitVec.ofNat 8 power, BitVec.ofNat 8 flags] ++ numBytes 8 s.flash.serial.toNat ++
      numBytes 4 (s.capRead 0).toNat ++ numBytes 4 s.ctl.fwVersion.toNat ++ numBytes 4 s.lm.gen.toNat ++
      numBytes 8 s.sh.count.toNat ++ bytesOfWords nonce ++ numBytes 48 s.lock.fwMeasure.toNat ++
      numBytes 97 (if erased then 0 else Config.identityKey.toNat) ++ numBytes 3 0 ++ numBytes 4 s.lock.sessions.toNat ++
      numBytes 4 s.lock.scopesOr.toNat ++ numBytes 8 s.lock.first.toNat ++ numBytes 8 s.lock.last.toNat ++ numBytes 4 0
  body ++ numBytes 96 (if erased then 0 else (Config.signature s.fresh).toNat)

def countLock (s : State) (off n : Nat) : State := { s with lock := { s.lock with counts := bump s.lock.counts off n } }

/-- Signs a report and sends it. -/
def attestWith (s : State) (st : Status) (nonce : List W32) (unlocked : Bool) : CtlRes :=
  let r := s.attestation nonce unlocked
  say st (wordsOfBytes r) (({ s with fresh := s.fresh + 1 }).countLock 0x204 1)

/-- ATTEST. -/
def attestBody (h : CpHdr) (p : List W32) (measured : Hash) (s : State) : CtlRes :=
  let nonce := p.take 8
  let unlock := bit (word p 8) 0
  if p.length ≠ 9 then turnAway stBadParam s
  else if !unlock then s.attestWith stOk nonce false
  else if !s.portOwner (16 + h.port.toNat) then turnAway stDenied s
  else if s.lock.scope ≠ 0 ∨ measured ≠ s.lock.fwMeasure then s.attestWith stDenied nonce false
  else if s.lock.memLock then ((s.setLock false).countLock 0x208 1).attestWith stOk nonce true
  else s.attestWith stOk nonce false

/-! ### Debug sessions (R405 to R407) -/

/-- DEBUG_OPEN: the checks in their order. -/
def debugOpenBody (p : List W32) (cert : Cert) (s : State) : CtlRes :=
  let bs := bytesOfWords p
  let scope := field bs 1 2
  let notAfter := field bs 16 24
  let zero := decide (field bs 2 8 = 0 ∧ field bs 24 32 = 0 ∧ field bs 129 136 = 0)
  if p.length ≠ 58 then turnAway stBadParam s
  else if s.flash.fused ≠ 1 then turnAway stDenied s
  else if 2 < s.pwr.st.toNat then turnAway stDenied s
  else if !s.sh.locked then turnAway stDenied s
  else if field bs 0 1 ≠ 1 ∨ scope = 0 ∨ 3 < scope ∨ !zero then turnAway stBadParam s
  else if field bs 8 16 ≠ s.flash.serial.toNat ∨ cert.keyHash ≠ s.flash.dbgKey ∨ !cert.sigOk then
    turnAway stDenied (s.countLock 0x200 1)
  else if notAfter ≤ s.sh.count.toNat ∨ s.sh.count.toNat + 2 ^ 42 < notAfter then turnAway stBadParam s
  else
    let s := s.closeSession 5
    let k := s.lock
    let sc : BitVec 2 := BitVec.ofNat 2 scope
    let s := { s with lock := { k with
      scope := sc, scopesOr := k.scopesOr ||| sc, sessions := satInc k.sessions, notAfter := BitVec.ofNat 64 notAfter,
      first := if k.sessions = 0 then s.sh.count else k.first } }
    let na : W64 := BitVec.ofNat 64 notAfter
    ok ((s.alert 2).notify 0x0014 [w32 scope, lo32 na, hi32 na, s.lock.sessions.setWidth 32])

/-- DEBUG_CLOSE. -/
def debugCloseBody (s : State) : CtlRes := ok (s.closeSession 1)

/-! ### Provisioning and retirement (R402, R403) -/

/-- PROVISION: a fuse once blown stays blown. -/
def provisionBody (p : List W32) (cert : Cert) (s : State) : CtlRes :=
  let bs := bytesOfWords p
  let key : Hash := BitVec.ofNat 384 (field bs 8 56)
  if p.length ≠ 66 then turnAway stBadParam s
  else if s.flash.fused ≠ 0 then turnAway stDenied s
  else if field bs 0 8 ≠ s.flash.serial.toNat ∨ cert.keyHash ≠ s.flash.provKey ∨ !cert.sigOk ∨ s.flash.dbgKey &&& ~~~ key ≠ 0 then
    turnAway stDenied s
  else ok (({ s with flash := { s.flash with dbgKey := key, fused := 1 } }).notify 0x0016 [1])

/-- Every sector of memory becomes poisoned. -/
def poisonAll (s : State) : State := { s with mem := s.mem.poisonRange 0 s.capacity }

/-- What RETIRE does before its reply: the session, memory, SRAM and caches, the fuse and the identity key. -/
def retireNow (s : State) : State :=
  let s := (s.closeSession 6).poisonAll
  let ring (r : Nat × Ring) : Nat × Ring := (r.1, { r.2 with data := [], staged := [] })
  let clusters : SMap Cluster := s.clusters.map fun e => (e.1, { e.2 with csm := [], csmWrong := [] })
  let cores : SMap Core := s.cores.map fun e => (e.1, { e.2 with tiles := [], beds := [], rings := e.2.rings.map ring })
  let csus : SMap Csu := s.csus.map fun e => (e.1, { e.2 with frames := [] })
  let mcs : SMap Mc := s.mcs.map fun e => (e.1, { e.2 with msc := [] })
  let s := { s with
    clusters := clusters.filter fun e => decide (e.2 ≠ ({} : Cluster))
    cores := cores.filter fun e => decide (e.2 ≠ ({} : Core))
    csus := csus.filter fun e => decide (e.2 ≠ ({} : Csu))
    mcs := mcs.filter fun e => decide (e.2 ≠ ({} : Mc)) }
  { s with flash := { s.flash with fused := 3, idKey := 0 } }

end State

/-- ATTEST. -/
def execAttest (h : CpHdr) (p : List W32) (measured : Hash) (s : State) : Host.Outcome State Fault Refusal :=
  request h cpAttest p (inTurn h p noCert measured (State.attestBody h p measured)) s

/-- DEBUG_OPEN. -/
def execDebugOpen (h : CpHdr) (p : List W32) (cert : Cert) (s : State) : Host.Outcome State Fault Refusal :=
  request h cpDebugOpen p (inTurn h p cert 0 (State.debugOpenBody p cert)) s

/-- DEBUG_CLOSE. -/
def execDebugClose (h : CpHdr) (p : List W32) (s : State) : Host.Outcome State Fault Refusal :=
  request h cpDebugClose p (inTurn h p noCert 0 State.debugCloseBody) s

/-- DEBUG_EXPIRY: the shaft count reaches NOT_AFTER (R407). -/
def execDebugExpiry (s : State) : Host.Outcome State Fault Refusal :=
  .next (if s.lock.scope ≠ 0 ∧ s.lock.notAfter ≤ s.sh.count then s.closeSession 2 else s)

/-- PROVISION. -/
def execProvision (h : CpHdr) (p : List W32) (cert : Cert) (s : State) : Host.Outcome State Fault Refusal :=
  request h cpProvision p (inTurn h p cert 0 (State.provisionBody p cert)) s

end Sys2Proof.Machine
end

