-- ==== Sys2Proof/Machine/Startup.lean ====
section
/-! DEFINITION. Start-up (R20, R201, R212, R349, R383 to R386, R396, R427), the remap at start-up and at a quiesce point (R20, R21,
R197, R382), whole-module reset (R385) and RETIRE (R403). -/

namespace Sys2Proof.Machine

open Sys2Proof

/-! ### Boot (R386 steps 1 to 4) -/

namespace State

/-- The IDENT notification. -/
def identNote (s : State) : State :=
  s.notify 0x0001 [lo32 s.flash.serial, hi32 s.flash.serial, s.capRead 0, s.ctl.fwVersion,
    w32 (s.secState + flag (s.ctl.recovery || s.ctl.inRecovery) 8), s.lm.gen]

/-- A control port is enabled; its lasers are its own. -/
def enableCp (s : State) (n : Nat) : State := if s.hasPort n then (s.updPort n fun p => { p with enable := true }).portOn n else s

/-- The area of the lichen map in use: a valid header, and the higher GEN of two (R349). -/
def chooseArea (f : Flash) : Flash := { f with useB := f.b.valid && (!f.a.valid || decide (f.a.gen < f.b.gen)) }

/-- The identity key is generated at the first start-up in FACTORY (R400); 0 is the hash of a module that has none. -/
def firstKey (f : Flash) : Flash := if f.fused = 0 ∧ f.idKey = 0 then { f with idKey := Config.identityHash } else f

/-- Step 2: the ROM checks the image in flash. With a good one step 3 begins, in which CP0 and CP1 train; IDENT goes out in step 4, on the
first of them that is ACTIVE (log entry 91). -/
def bootRom (s : State) : State :=
  let s := { s with flash := firstKey (chooseArea s.flash) }
  if s.flash.fwOk then
    let s := { s with ctl := { s.ctl with step := 3, fwVersion := s.flash.fwVersion }, lock := { s.lock with fwMeasure := s.flash.fwMeasure } }
    ((s.enableCp 16).enableCp 17).identNote
  else
    let s := { s with ctl := { s.ctl with step := 2, inRecovery := true } }
    (s.enableCp 16).identNote

/-- Start-up from step 2 after a whole-module reset. -/
def restart (s : State) : State :=
  let c := s.cold
  { c with pwr := { c.pwr with off := false } }.bootRom

end State

namespace State

/-- Nothing but the wake detector works: DORMANT, or before the first start. -/
def asleep (s : State) : Bool := s.dormant || decide (s.ctl.step = 0 ∧ s.pwr.st = 0)

/-- The input, at `v` millivolts, is outside the normal region, and the module runs there (R421). -/
def strained (v : Nat) : Bool := decide ((28000 ≤ v ∧ v < 32000) ∨ (40000 < v ∧ v < 42000))

/-- The input is in a region of a protective turn-off (R421). -/
def cutOff (v : Nat) : Bool := decide (v < 28000 ∨ 42000 ≤ v)

/-- An input outside the normal region is reported. -/
def tellInput (s : State) : State :=
  let v := s.pwr.supply.toNat
  if strained v then (s.alert 1).notify 0x0013 [w32 (v + s.pwr.iin.toNat * 2 ^ 16)] else s

/-- The module starts (R396), unless the input keeps it off: a region of R421 that turns it off, or after a turn-off any but the normal
one. -/
def wake (s : State) : State :=
  let v := s.pwr.supply.toNat
  if cutOff v || (s.pwr.off && strained v) then s else s.restart.tellInput

end State

/-- WAKE: WAKE_N starts the module from DORMANT, or before the first start. -/
def execWake (s : State) : Host.Outcome State Fault Refusal := .next (if s.asleep then s.wake else s)

/-! ### The input and the trips (R421, R424, R427, R435) -/

namespace State

/-- The input is at `mv` millivolts; PWR_INPUT shows it while the module is on. -/
def setInput (s : State) (mv : BitVec 16) : State :=
  let v := mv.toNat
  { s with pwr := { s.pwr with
      supply := mv, vin := if s.asleep then 0 else mv, low5 := decide (v < 5000) || (s.pwr.low5 && decide (v < 32000)) } }

end State

/-- INPUT_VOLTAGE: the input enters a region, at `mv` millivolts. The first time that it reaches 32.0 V after having been below 5.0 V, a
WAKE_N already asserted starts the module, after a turn-off too (R427, log entry 58). -/
def execInputVoltage (mv : BitVec 16) (s : State) : Host.Outcome State Fault Refusal :=
  let v := mv.toNat
  let powerOn := s.pwr.low5 && decide (32000 ≤ v)
  let s := s.setInput mv
  if State.cutOff v then .next (if s.asleep ∧ ¬ s.dormant then s else s.turnOff)
  else if s.asleep then
    .next (if powerOn then (if s.wakeLow then { s.wakeSeen with pwr := { s.pwr with off := false } }.wake else s.wakeSeen) else s)
  else .next s.tellInput

/-- OVER_CURRENT_TRIP. -/
def execOverCurrentTrip (s : State) : Host.Outcome State Fault Refusal := .next s.turnOff

/-- THERMAL_TRIP. -/
def execThermalTrip (s : State) : Host.Outcome State Fault Refusal := .next s.turnOff

/-- CONFIG_DONE: step 5 ends, with the self-test that it selects. -/
def execConfigDone (h : CpHdr) (p : List W32) (s : State) : Host.Outcome State Fault Refusal :=
  requestOf 1 h cpConfigDone p (fun s =>
    if s.ctl.step ≠ 5 then turnAway stBusy s
    else if bits (word p 0) 1 0 = 3 then turnAway stBadParam s
    else ok { s with ctl := { s.ctl with step := 6, test := (word p 0).setWidth 2 } }) s

/-! ### Memory training and the fabric step (steps 6 and 7) -/

namespace State

/-- Makes channels active until 32 are, from those that are neither active nor failed: which ones are the weakest is a free value (log
entry 5). -/
def fillSeam (failed : BitVec 34) : Nat → BitVec 34 → Nat → BitVec 34
  | 0, m, _ => m
  | f + 1, m, k =>
    let idle := (List.range 34).filter fun c => !m.getLsbD c && !failed.getLsbD c
    if 32 ≤ popcount 34 m.toNat ∨ idle.isEmpty then m
    else
      let c := nth 0 idle ((Config.free64 k).toNat % idle.length)
      fillSeam failed f (m ||| BitVec.ofNat 34 (2 ^ c)) (k + 1)

/-- The rows of active channels as training gives them: eight a row, ascending (log entry 79). -/
def seamRows (m : BitVec 34) : SMap (BitVec 2) :=
  let cs := bitList 34 m.toNat
  ((List.range cs.length).zip cs).foldl (fun t e => SMap.set 0 t e.2 (BitVec.ofNat 2 (e.1 / 8))) []

/-- Training of the seam (R201). -/
def trainSeam (s : State) : State :=
  if !s.hasSeam then s
  else
    let m := fillSeam s.failedSeam 34 s.recordedSeam s.fresh
    let s' := (List.range 2).foldl (fun s h => s.updHalf h fun x => { x with seamUp := true, seamActive := m, seamRow := seamRows m }) s
    let s' := { s' with fresh := s.fresh + 34 }
    if m = s.recordedSeam then s' else s'.lmAdd lmSeam (m.setWidth 48)

/-- Every stack trains, and its controller is UP. -/
def trainAll (s : State) (lanes : List LaneTest) : State :=
  s.stackList.foldl (fun s k => (s.trainStack k lanes).updMc k fun m => { m with st := 1 }) s

/-- The miller enables the fabric ports, unless RETURNED holds them OFF (R404). -/
def enableFabric (s : State) : State :=
  if s.returned then s
  else (List.range 16).foldl (fun s n => if s.hasPort n then (s.updPort n fun p => { p with enable := true }).portOn n else s) s

end State

/-- MEMORY_TRAINING: step 6; step 7 begins, with the fabric ports enabled. -/
def execMemoryTraining (lanes : List LaneTest) (s : State) : Host.Outcome State Fault Refusal :=
  if s.ctl.step ≠ 6 then .next s
  else
    let s := ((s.trainAll lanes).trainSeam).enableFabric
    .next { s with ctl := { s.ctl with step := 7 } }

/-! ### Self-test (step 8) -/

/-- What the memory test of start-up found: a failing sector is reported, and not recorded (log entry 79); a channel that went FAILED is so
(R239). -/
def State.tellTest (s : State) (f : TestResult) : State :=
  let k := f.stack.toNat
  if !s.hasStack k then s
  else
    let pa : PA := BitVec.ofNat 40 (s.paOf { stack := k, off := 64 * f.firstOffset.toNat })
    let s := if f.failed = 0 then s
      else s.report 239 ([w32 k, w32 (channelOf (64 * f.firstOffset.toNat))] ++ paWords pa)
    (bitList 16 f.failedChannels.toNat).foldl (fun s c => s.failChannel k c) s

/-- SELF_TEST: the cores that fail are retired; the memory test leaves memory poisoned (R239). -/
def execSelfTest (found : SelfTest) (s : State) : Host.Outcome State Fault Refusal :=
  if s.ctl.step ≠ 8 then .next s
  else
    let bad := if s.ctl.test = 0 then
        (found.cores.map fun c => State.coreLoc c.half.toNat c.cluster.toNat c.site.toNat).eraseDups.filter fun l => !s.lmHolds lmCoreRetired l
      else []
    let s := bad.foldl (fun s l => s.lmAdd lmCoreRetired l) s
    let passes (s : State) (k : Nat) : State := (s.testCounts k 4).updMc k (·.count 0x104 State.stackSectors)
    let s := if s.ctl.test = 2 then s else found.memory.foldl State.tellTest (s.stackList.foldl passes s.poisonAll)
    .next { s with ctl := { s.ctl with step := 9, newRetired := bad.length } }

/-! ### Remap (R20, R197, R382) -/

/-- LICHEN_REMAP: steps 9 and 10. -/
def execLichenRemap (s : State) : Host.Outcome State Fault Refusal :=
  if s.ctl.step ≠ 9 then .next s
  else
    let s := s.countSec 0x12C (s.lm.recs.filter fun e => decide (lmState e.2 = 0xFE) && !lmValid e.2).length
    let s := (s.remapHalf 0).remapHalf 1
    let s := { s with ctl := { s.ctl with capGen := 1, capSpares := s.spareWord, step := 10, ready := true } }
    .next (s.notify 0x0002 [1, w32 s.ctl.newRetired])

/-- A half's part of REMAP: it takes effect as the quiesce point ends (`State.remapNow`). -/
def State.remapPart (s : State) (h : Nat) : Status × State :=
  if !s.quiesced h then (stBusy, s) else (stOk, s.updHalf h fun x => { x with remap := true })

/-- REMAP (R382). -/
def execRemap (h : CpHdr) (p : List W32) (s : State) : Host.Outcome State Fault Refusal :=
  requestOf 1 h cpRemap p (fun s =>
    let hs := bitList 2 (word p 0).toNat
    if hs.any fun k => !s.hasHalf k then turnAway stNotPresent s
    else
      let r := hs.foldl (fun (r : List (Nat × Status) × State) k =>
        match r.2.remapPart k with
        | (st, s) => (r.1 ++ [(k, st)], s)) ([], s)
      splitSay 1 2 r.1 r.2) s

/-! ### Whole-module reset -/

/-- MODULE_RESET: the reply, and then the start-up from step 2 (R385). -/
def execModuleReset (h : CpHdr) (p : List W32) (s : State) : Host.Outcome State Fault Refusal :=
  request h cpModuleReset p (fun s => .done stOk [] s State.restart) s

/-- RETIRE (R403). -/
def State.retireBody (p : List W32) (s : State) : CtlRes :=
  if p.length ≠ 1 ∨ word p 0 ≠ 0x52455449 then turnAway stBadParam s
  else if s.pwr.st ≠ 0 ∨ !s.allQuiesced ∨ s.stackList.any (fun k => decide ((s.mc k).st = 2)) then turnAway stBusy s
  else .done stOk [] s.retireNow fun s => (s.notify 0x0016 [3]).restart

/-- RETIRE. -/
def execRetire (h : CpHdr) (p : List W32) (s : State) : Host.Outcome State Fault Refusal :=
  request h cpRetire p (inTurn h p noCert 0 (State.retireBody p)) s

end Sys2Proof.Machine
end

