-- ==== Sys2Proof/Machine/Timing.lean ====
section
/-! DEFINITION. Commands of the shaft unit (R373 to R377): SHAFT_SET, SHAFT_SYNC, SHAFT_SLEW, holdover, and scheduled actions. -/

namespace Sys2Proof.Machine

open Sys2Proof

namespace State

def updSh (s : State) (f : Shaft → Shaft) : State := { s with sh := f s.sh }
def countSh (s : State) (off n : Nat) : State := s.updSh fun x => { x with counts := bump x.counts off n }

/-- A SHAFT_EVENT notification: subcode, entry and status (R364). -/
def shaftEvent (s : State) (sub entry : Nat) (st : Status) : State := s.notify 0x000A [w32 sub, w32 entry, st.setWidth 32]

/-! ### The count (R373 to R375) -/

/-- SHAFT_SET: accepted with an empty schedule, no mark waiting and no epoch; it closes a debug session. -/
def shaftSetBody (p : List W32) (s : State) : CtlRes :=
  if p.length ≠ 2 then turnAway stBadParam s
  else if s.schedMask ≠ 0 ∨ s.coll.commit.st = 2 ∨ !s.secIdle then turnAway stBusy s
  else ok ((s.closeSession 4).updSh fun x => { x with count := word64 p 0, locked := true, since := 0, turnSeen := none })

/-- A rate trim within its limits of 2^14 either way. -/
def limitRate (x : Int) : W32 := BitVec.ofInt 32 (max (-(2 ^ 14)) (min (2 ^ 14) x))

/-- SHAFT_SLEW: a phase of at most 2^20 ticks either way, which replaces what is left of the last, and a change of rate. -/
def shaftSlewBody (p : List W32) (s : State) : CtlRes :=
  let phase := word p 0
  if 2 ^ 20 < phase.toInt.natAbs then turnAway stBadParam s
  else ok (s.updSh fun x => { x with
    rate := limitRate (x.rate.toInt + (word p 1).toInt), slewRem := phase, slewAcc := 0, locked := true, since := 0 })

/-- Holdover: LOCKED is lost. -/
def loseLock (s : State) : State :=
  ((s.updSh fun x => { x with locked := false, holdover := true }).shaftEvent 1 0 0).closeSession 4

/-! ### Scheduled actions (R377) -/

def sched (s : State) (i : Nat) : Sched := SMap.get {} s.sh.sched i
def setSched (s : State) (i : Nat) (e : Sched) : State := s.updSh fun x => { x with sched := SMap.set {} x.sched i e }

/-- SCHED_SET. -/
def schedSetBody (p : List W32) (s : State) : CtlRes :=
  let i := bits (word p 0) 3 0
  let act := bits (word p 0) 11 8
  let n := (word p 4).toNat
  let dst := word64 p 5
  if (s.sched i).valid then turnAway stBusy s
  else if act = 0 ∨ 3 < act then turnAway stBadParam s
  else if act = 2 ∧ (n = 0 ∨ 256 < n ∨ dst.toNat % 8 ≠ 0) then turnAway stBadParam s
  else if act = 3 ∧ (List.range 2).any (fun h => (clockHalves (word p 3)).getLsbD h && !s.hasHalf h) then turnAway stNotPresent s
  else ok (s.setSched i { s.sched i with
    valid := true, at_ := word64 p 1, action := BitVec.ofNat 4 act, arg0 := word p 3, arg1 := word p 4, arg2 := dst })

/-- SCHED_CANCEL. -/
def schedCancelBody (p : List W32) (s : State) : CtlRes :=
  ok ((bitList 16 (bits (word p 0) 15 0)).foldl (fun s i => s.setSched i { s.sched i with valid := false }) s)

/-- Entry i is due, and is the next of those that are: the earliest first, and at one tick in index order. -/
def schedDue (s : State) (i : Nat) : Bool :=
  let e := s.sched i
  e.valid && decide (e.at_ ≤ s.sh.count) && (List.range 16).all fun j =>
    let x := s.sched j
    !(x.valid && decide (x.at_ < e.at_ ∨ (x.at_ = e.at_ ∧ j < i)))

/-- The sender number of scheduled actions and of the TAP, in place of a control port's. -/
def who2 : Nat := 2

/-- Some of `n` bytes from a physical address on are in a stack of a gated half (R397); MEMORY_LOCK answers before it does (R395). -/
def sleepsAt (s : State) (a n : Nat) : Bool :=
  !s.lock.memLock && (sectorsOf a n).any fun x => s.pwr.gated.getLsbD ((s.place x.1).stack / 6)

/-- What an action does. -/
def schedRun (s : State) (e : Sched) : Status × State :=
  let a := e.arg0.toNat
  if e.action = 1 then if a % 4 ≠ 0 then (stBadParam, s) else s.regWrite who2 a e.arg1
  else if e.action = 2 then
    let as_ := (List.range e.arg1.toNat).map fun i => a + 4 * i
    let st := if a % 4 ≠ 0 then stBadParam else s.burstCheck who2 (as_.map fun x => (x, none))
    if st ≠ stOk then (st, s)
    else if s.sleepsAt e.arg2.toNat (4 * e.arg1.toNat) then (stBusy, s)
    else
      match s.readBurst who2 as_ [] with
      | (ws, st, s) =>
        if st ≠ stOk then (st, s)
        else s.writeMem (.pa none) .w e.arg2.toNat (ws.flatMap fun w => leBytes 4 w.toNat)
  else
    let st := s.clockBad (clockHalves e.arg0)
    if st ≠ stOk then (st, s) else (stOk, s.stepClocks (clockHalves e.arg0) (clockTo e.arg0))

/-- Executes entry i. -/
def schedExecute (s : State) (i : Nat) : State :=
  let e := s.sched i
  let late := decide (e.at_.toNat + 64 < s.sh.count.toNat)
  match s.schedRun e with
  | (st, s) =>
    let s := (s.setSched i { s.sched i with valid := false, status := st }).countSh 0x204 1
    let s := if late then (s.updSh fun x => { x with late := x.late ||| BitVec.ofNat 16 (2 ^ i) }).shaftEvent 2 i st else s
    if st = stOk then s else s.shaftEvent 3 i st

end State

/-- SHAFT_SET. -/
def execShaftSet (h : CpHdr) (p : List W32) (s : State) : Host.Outcome State Fault Refusal :=
  request h cpShaftSet p (inTurn h p noCert 0 (State.shaftSetBody p)) s

/-- SHAFT_SYNC: answered with T1, T2 and T3. A command is one instant, so that T2 and T3 are the same count. -/
def execShaftSync (h : CpHdr) (p : List W32) (s : State) : Host.Outcome State Fault Refusal :=
  requestOf 2 h cpShaftSync p (fun s =>
    let t := s.sh.count
    say stOk [word p 0, word p 1, lo32 t, hi32 t, lo32 t, hi32 t] (s.countSh 0x200 1)) s

/-- SHAFT_SLEW. -/
def execShaftSlew (h : CpHdr) (p : List W32) (s : State) : Host.Outcome State Fault Refusal :=
  requestOf 2 h cpShaftSlew p (State.shaftSlewBody p) s

/-- HOLDOVER: SHAFT_HOLDOVER turns have passed without a SHAFT_SET or SHAFT_SLEW (R375). -/
def execHoldover (s : State) : Host.Outcome State Fault Refusal :=
  .next (if s.sh.locked ∧ s.sh.limit ≤ s.sh.since then s.loseLock else s)

/-- SCHED_SET. -/
def execSchedSet (h : CpHdr) (p : List W32) (s : State) : Host.Outcome State Fault Refusal :=
  requestOf 7 h cpSchedSet p (State.schedSetBody p) s

/-- SCHED_CANCEL. -/
def execSchedCancel (h : CpHdr) (p : List W32) (s : State) : Host.Outcome State Fault Refusal :=
  requestOf 1 h cpSchedCancel p (State.schedCancelBody p) s

/-- SCHEDULED_ACTION: an entry that is due executes. -/
def execScheduledAction (entry : BitVec 4) (s : State) : Host.Outcome State Fault Refusal :=
  if s.schedDue entry.toNat then flushed (.next (s.schedExecute entry.toNat)) else .next s

end Sys2Proof.Machine
end

