-- ==== Sys2Proof/Machine/Bulk.lean ====
section
/-! DEFINITION. Bulk transfers (R371, R372), ABORT and deadlines (R366, R367). -/

namespace Sys2Proof.Machine

open Sys2Proof

/-! ### Descriptors (R371) -/

/-- The descriptors of a payload. -/
def bulkDescs (p : List W32) : List BulkDesc :=
  (List.range (p.length / 4)).map fun i =>
    { virt := bit (word64 p (4 * i)) 48, addr := (word64 p (4 * i)).setWidth 48, len := bits (word64 p (4 * i + 2)) 39 0 }

/-- A list of descriptors that R371 does not allow. -/
def bulkMalformed (p : List W32) : Bool :=
  let n := p.length / 4
  let bad (i : Nat) : Bool :=
    let a := word64 p (4 * i)
    let l := word64 p (4 * i + 2)
    decide (a.toNat % 8 ≠ 0 ∨ bits a 63 49 ≠ 0 ∨ bits l 63 40 ≠ 0 ∨ l.toNat = 0 ∨ l.toNat % 8 ≠ 0)
  decide (p.length % 4 ≠ 0 ∨ n = 0 ∨ 255 < n) || (List.range n).any bad || decide (2 ^ 36 < ((bulkDescs p).map (·.len)).sum)

namespace State

/-- Bulk transfers are turned away: in STILL, from the port of a gated half, and under QUIESCE_REQ in a present half (R198, R397). -/
def bulkShut (s : State) (port : BitVec 1) : Bool :=
  decide (s.pwr.st = 3) || s.pwr.gated.getLsbD port.toNat || s.halfList.any fun h => bit (s.half h).netCtrl 0

/-- How a descriptor's addresses reach memory: physical, or by a walk of the port's half (log entry 30). -/
def bulkVia (s : State) (port : BitVec 1) (d : BulkDesc) : Via :=
  if d.virt then .walked (if s.hasHalf port.toNat then port.toNat else 0) else .pa (some port.toNat)

/-- The first status at which a range fails as R371 says: translation, MEMORY_LOCK (R395), or a FAILED channel (log entry 32). -/
def bulkReach (s : State) (v : Via) (acc : Access) : List (Nat × Nat × Nat) → Status × State
  | [] => (stOk, s)
  | (a, _, _) :: rest =>
    match s.resolve v a acc with
    | (.bad c, s) => (causeStatus c, s)
    | (.ok p _, s) =>
      let x := s.place p
      if s.lock.memLock then (stDenied, s)
      else if ((s.mc x.stack).chan (channelOf x.off)).st = 4 then (stPoisoned, s) else s.bulkReach v acc rest

/-- Writes data at byte `o` of a descriptor's range, unless it has failed. -/
def bulkPut (s : State) (port : BitVec 1) (d : BulkDesc) (o : Nat) (bs : List MB) : BulkDesc × State :=
  if d.status ≠ stOk ∨ bs.isEmpty then (d, s)
  else
    let v := s.bulkVia port d
    match s.bulkReach v .w (sectorsOf (d.addr.toNat + o) bs.length) with
    | (st, s) =>
      if st ≠ stOk then ({ d with status := st }, s)
      else
        let any := (sectorsOf (d.addr.toNat + o) bs.length).any fun e =>
          decide ((s.writeMem v .w (e.1 + e.2.1) (zeroBytes e.2.2)).1 = stOk)
        match s.writeMem v .w (d.addr.toNat + o) bs with
        | (st, s) => ({ d with status := st, wrote := d.wrote || any }, s)

/-- Spreads data that begins at byte `off` of a transfer over the descriptors, the first of which begins at byte `start`. -/
def bulkSpread (s : State) (port : BitVec 1) (off : Nat) (bs : List MB) (start : Nat) : List BulkDesc → List BulkDesc × State
  | [] => ([], s)
  | d :: rest =>
    let lo := Nat.max off start
    let hi := Nat.min (off + bs.length) (start + d.len)
    match s.bulkPut port d (lo - start) ((bs.drop (lo - off)).take (hi - lo)) with
    | (d', s) =>
      match s.bulkSpread port off bs (start + d.len) rest with
      | (ds, s) => (d' :: ds, s)

/-- A range becomes poisoned, as far as it can be written. -/
def bulkPoison (s : State) (port : BitVec 1) (d : BulkDesc) : State :=
  (s.writeMem (s.bulkVia port d) .w d.addr.toNat (poisonBytes d.len)).2

/-- The end of a BULK_WRITE: the ranges of failed parts are poisoned, and the parts are reported (R368). -/
def finishBulk (s : State) (r : Inflight) (descs : List BulkDesc) : State :=
  let s := (descs.filter fun d => decide (d.status ≠ stOk)).foldl (fun s d => s.bulkPoison r.port d) s
  let parts := (List.range descs.length).zip (descs.map (·.status))
  s.endRequest r (splitReply 5 descs.length parts).1 (splitReply 5 descs.length parts).2

/-- Descriptors that are not written whole at byte `next` end BAD_PARAM. -/
def cutShort (next start : Nat) : List BulkDesc → List BulkDesc
  | [] => []
  | d :: rest =>
    (if start + d.len ≤ next ∨ d.status ≠ stOk then d else { d with status := stBadParam }) :: cutShort next (start + d.len) rest

/-- The data of a packet, marked by its mask. -/
def maskedBytes (mask : W64) (data : List Byte) : List MB :=
  (List.range data.length).map fun i => ⟨nth 0 data i, mask.getLsbD (i / 64)⟩

/-- A BULK_DATA packet of a BULK_WRITE: another OFFSET than the next one ends the request (R372), and so do data behind the end of the
transfer (log entry 35). -/
def bulkStep (s : State) (r : Inflight) (next : Nat) (descs : List BulkDesc) (offset mask : W64) (data : List Byte) : State :=
  let total := (descs.map (·.len)).sum
  let past := next + data.length
  if offset.toNat ≠ next ∨ total < past then
    s.finishBulk r (cutShort next 0 descs)
  else
    match s.bulkSpread r.port next (maskedBytes mask data) 0 descs with
    | (ds, s) =>
      if past = total then s.finishBulk r ds
      else
        let put (x : Inflight) : Inflight := if x = r then { x with wait := .bulk past ds } else x
        { s with ctl := { s.ctl with inflight := s.ctl.inflight.map put } }

/-- Reads a descriptor's range; a part that fails delivers poisoned data. -/
def bulkGet (s : State) (port : BitVec 1) (d : BulkDesc) : Status × List MB × State :=
  let v := s.bulkVia port d
  match s.bulkReach v .r (sectorsOf d.addr.toNat d.len) with
  | (st, s) =>
    if st ≠ stOk then (st, poisonBytes d.len, s)
    else
      match s.readMem v .r d.addr.toNat d.len with
      | (bs, st, s) => (st, if st = stOk then bs else poisonBytes d.len, s)

/-- Reads every range. -/
def bulkGetAll (s : State) (port : BitVec 1) : List BulkDesc → List Status × List MB × State
  | [] => ([], [], s)
  | d :: rest =>
    match s.bulkGet port d with
    | (st, bs, s) =>
      match s.bulkGetAll port rest with
      | (sts, more, s) => (st :: sts, bs ++ more, s)

/-- Sends data as BULK_DATA packets, poisoned sectors marked in their masks (R372). -/
def bulkSend (s : State) (port : BitVec 1) (tag : BitVec 16) (bs : List MB) : State :=
  let cs := chunk 4096 bs
  ((List.range cs.length).zip cs).foldl (fun s e =>
    let marks := (List.range 64).filter fun k => ((e.2.drop (64 * k)).take 64).any (·.p)
    let mask : W64 := BitVec.ofNat 64 (marks.map fun k => 2 ^ k).sum
    s.enqueue (16 + port.toNat)
      { pool := cpReplyPool, body := .bulk cpBulkRead tag (BitVec.ofNat 64 (4096 * e.1)) mask (e.2.map (·.b)) }) s

/-! ### Aborts (R366, R367) -/

end State

/-- The completion of a request has won (R366): its reply alone is still to come. -/
def Inflight.isDone (r : Inflight) : Bool :=
  match r.wait with
  | .behind _ _ => true
  | _ => false

namespace State

/-- The regions of a BULK_WRITE that is stopped: those of which a byte had been written are poisoned whole. -/
def stopBulk (s : State) (port : BitVec 1) : List BulkDesc → List W32 × State
  | [] => ([], s)
  | d :: rest =>
    let s := if d.wrote then s.bulkPoison port d else s
    match s.stopBulk port rest with
    | (ws, s) => (region (d.addr.setWidth 64) d.virt (if d.wrote then 1 else 0) d.len ++ ws, s)

/-- A descriptor's range reaches stack `k`. -/
def bulkTouches (s : State) (port : BitVec 1) (d : BulkDesc) (k : Nat) : Bool :=
  (sectorsOf d.addr.toNat d.len).any fun e => match (s.resolve (s.bulkVia port d) e.1 .w).1 with
    | .ok p _ => decide ((s.place p).stack = k)
    | .bad _ => false

/-- A stack's controller is reset: the parts of BULK_WRITEs in it end as an abort that won (R366); descriptors written whole stand. -/
def stopBulkAt (s : State) (k : Nat) : State :=
  let part (port : BitVec 1) (next : Nat) (e : Nat × BulkDesc) : BulkDesc :=
    if e.2.status = stOk ∧ next < e.1 + e.2.len ∧ s.bulkTouches port e.2 k then { e.2 with status := stAborted } else e.2
  let starts (ds : List BulkDesc) : List Nat := (List.range ds.length).map fun i => ((ds.take i).map (·.len)).sum
  let out (r : Inflight) : Inflight :=
    match r.wait with
    | .bulk next ds => { r with wait := .bulk next (((starts ds).zip ds).map (part r.port next)) }
    | _ => r
  { s with ctl := { s.ctl with inflight := s.ctl.inflight.map out } }

/-- An issuer whose answers go to nobody any more, where it served the rebuild of entry `i`. -/
def disown (i : Nat) (who : Issuer) : Issuer :=
  match who with
  | .rebData e => if e.toNat = i then .down else who
  | .rebSeal e => if e.toNat = i then .down else who
  | _ => who

/-- The rebuild of an entry stops: its packets that wait are gone, and answers to the others go to nobody (R345, R367). -/
def stopRebuild (s : State) (i : Nat) : State :=
  let tag (e : Nat × Option Req) : Nat × Option Req := (e.1, e.2.map fun (q : Req) => { q with who := disown i q.who })
  let ports : SMap Port := s.ports.map fun e => (e.1, { e.2 with tags := e.2.tags.map tag })
  let s := s.updSecAux i fun a => { a with rebuild := none }
  { s with
    ports := ports
    fab := { s.fab with
      waiting := s.fab.waiting.filter fun w => decide (disown i w.who = w.who)
      answers := s.fab.answers.map fun a => { a with who := disown i a.who } } }

/-- An abort wins: the request ends ABORTED, with its regions. -/
def abortRequest (s : State) (r : Inflight) : State :=
  match r.wait with
  | .bulk _ descs =>
    match s.stopBulk r.port descs with
    | (ws, s) => s.endRequest r stAborted (w32 descs.length :: ws)
  | .memTest _ left aborted _ _ =>
    let s := (bitList 12 left.toNat).foldl endTest s
    s.endRequest r stAborted (stackRegions (bitList 12 (left ||| aborted).toNat))
  | .rebuild e => (s.stopRebuild e.toNat).endRequest r stAborted [0]
  | _ => s

/-- ABORT. -/
def abortBody (p : List W32) (s : State) : CtlRes :=
  let t : BitVec 16 := (word p 0).setWidth 16
  match s.ctl.inflight.find? fun r => decide (r.tag = t) with
  | some r =>
    if !abortable r.opcode then turnAway stBusy s
    else if r.isDone then say stAlreadyDone [] (s.countCtl 0x218 1)
    else say stAborted [] ((s.abortRequest r).countCtl 0x214 1)
  | none => if SMap.get false s.ctl.replied t.toNat then say stAlreadyDone [] (s.countCtl 0x218 1) else turnAway stBadParam s

/-- BULK_WRITE. -/
def bulkWriteBody (h : CpHdr) (p : List W32) (s : State) : CtlRes :=
  if bulkMalformed p then turnAway stBadParam s
  else if s.bulkShut h.port then turnAway stBusy s
  else .hold (.bulk 0 (bulkDescs p)) s

/-- BULK_READ. -/
def bulkReadBody (h : CpHdr) (p : List W32) (s : State) : CtlRes :=
  if bulkMalformed p then turnAway stBadParam s
  else if s.bulkShut h.port then turnAway stBusy s
  else
    match s.bulkGetAll h.port (bulkDescs p) with
    | (sts, bs, s) => splitSay 5 sts.length ((List.range sts.length).zip sts) (s.bulkSend h.port h.tag bs)

end State

/-- BULK_WRITE. -/
def execBulkWrite (h : CpHdr) (p : List W32) (s : State) : Host.Outcome State Fault Refusal :=
  request h cpBulkWrite p (State.bulkWriteBody h p) s

/-- BULK_READ. -/
def execBulkRead (h : CpHdr) (p : List W32) (s : State) : Host.Outcome State Fault Refusal :=
  request h cpBulkRead p (State.bulkReadBody h p) s

/-- ABORT. -/
def execAbort (h : CpHdr) (p : List W32) (s : State) : Host.Outcome State Fault Refusal :=
  requestOf 1 h cpAbort p (State.abortBody p) s

/-- DEADLINE: a request in flight whose deadline has come; it acts as an abort at that tick (R366). -/
def execDeadline (port : BitVec 1) (tag : BitVec 16) (s : State) : Host.Outcome State Fault Refusal :=
  let late (r : Inflight) : Bool := decide (r.port = port ∧ r.tag = tag) && !r.isDone && (match r.deadline with
    | some d => decide (d ≤ s.sh.count)
    | none => false)
  match s.ctl.inflight.find? late with
  | some r => flushed (.next ((s.abortRequest r).countCtl 0x214 1))
  | none => .next s

end Sys2Proof.Machine
end

