-- ==== Sys2Proof/Machine/Firmware.lean ====
section
/-! DEFINITION. Firmware images (R383, R384), BULK_DATA (R372), and the requests that wait for their turn (R414). The verdict on an
image's signature, its measurement and its version come with the packet that completes it. -/

namespace Sys2Proof.Machine

open Sys2Proof

namespace State

/-- FW_UPDATE: the image follows, of at most 8 MiB. -/
def fwUpdateBody (p : List W32) (s : State) : CtlRes :=
  let n := (word p 0).toNat
  if p.length ≠ 1 ∨ n = 0 ∨ 2 ^ 23 < n then turnAway stBadParam s else .hold (.image n 0) s

/-- FW_LOAD: in recovery alone, one at a time. -/
def fwLoadBody (p : List W32) (s : State) : CtlRes :=
  let n := (word p 0).toNat
  if !s.ctl.inRecovery then turnAway stDenied s
  else if p.length ≠ 1 ∨ n = 0 ∨ 2 ^ 23 < n then turnAway stBadParam s
  else if s.ctl.inflight.any (fun r => decide (r.opcode = cpFwLoad)) then turnAway stBusy s
  else .hold (.image n 0) s

/-! ### Turns (R414) -/

/-- What a request that has had its turn does. -/
def turnBody (op : BitVec 16) (h : CpHdr) (p : List W32) (cert : Cert) (measured : Hash) (s : State) : CtlRes :=
  if op = cpPowerState then s.powerBody p
  else if op = cpDebugOpen then s.debugOpenBody p cert
  else if op = cpDebugClose then s.debugCloseBody
  else if op = cpAttest then s.attestBody h p measured
  else if op = cpProvision then s.provisionBody p cert
  else if op = cpRetire then s.retireBody p
  else if op = cpFwUpdate then s.fwUpdateBody p
  else s.shaftSetBody p

/-- The oldest request that waits for its turn. -/
def nextTurn (s : State) : Option Inflight :=
  s.ctl.inflight.find? fun r => match r.wait with
    | .turn _ _ _ _ => true
    | _ => false

/-- A firmware image is on its way to FW_UPDATE, or into flash. -/
def updating (s : State) : Bool :=
  s.ctl.inflight.any fun r => decide (r.opcode = cpFwUpdate) && (match r.wait with
    | .image _ _ => true
    | .flash _ _ => true
    | _ => false)

/-- Serves those that wait, in order, until one of them is FW_UPDATE. -/
def serveTurns : Nat → State → State
  | 0, s => s
  | f + 1, s =>
    if s.updating then s
    else
      match s.nextTurn with
      | none => s
      | some r =>
        let s := { s with ctl := { s.ctl with inflight := s.ctl.inflight.erase r } }
        match r.wait with
        | .turn h p cert measured => serveTurns f (finish h r.opcode p false (s.turnBody r.opcode h p cert measured))
        | _ => s

/-- A FW_UPDATE ends: the requests behind it have their turns. -/
def endUpdate (s : State) (r : Inflight) (st : Status) : State := serveTurns 64 (s.endRequest r st [])

/-! ### Images -/

/-- A request in flight waits for something else. -/
def waitsNow (s : State) (r : Inflight) (w : Wait) : State :=
  let put (x : Inflight) : Inflight := if x = r then { x with wait := w } else x
  { s with ctl := { s.ctl with inflight := s.ctl.inflight.map put } }

/-- Ticks that writing the image takes (R383): at most 60 s of 4 ns. How many is a free value (log entry 90). -/
def flashTicks (s : State) : Nat := (Config.free64 s.fresh).toNat % (15 * 10 ^ 9) + 1

/-- A whole image has come for FW_UPDATE. With a right signature flash is erased and written: until that has ended it holds no image that
passes the check of the next start-up (R383). -/
def updateFlash (s : State) (r : Inflight) (v : FwVerdict) : State :=
  if v.sigOk then
    ({ s with flash := { s.flash with fwOk := false }, fresh := s.fresh + 1 }).waitsNow r (.flash v s.flashTicks)
  else s.endUpdate r stDenied

/-- The image stands in flash: it runs from the next whole-module reset on. -/
def flashDone (s : State) (r : Inflight) (v : FwVerdict) : State :=
  ({ s with flash := { s.flash with fwOk := true, fwVersion := v.version, fwMeasure := v.measure } }).endUpdate r stOk

/-- One tick for the image that is being written. -/
def tickFlash (s : State) : State :=
  match s.ctl.inflight.find? fun r => (match r.wait with
    | .flash _ _ => true
    | _ => false) with
  | none => s
  | some r =>
    match r.wait with
    | .flash v n => if n ≤ 1 then s.flashDone r v else s.waitsNow r (.flash v (n - 1))
    | _ => s

/-- A whole image has come for FW_LOAD: it runs, and the start-up goes on at step 4. -/
def runLoaded (s : State) (r : Inflight) (v : FwVerdict) : State :=
  if v.sigOk then
    let s := s.endRequest r stOk []
    let s := { s with ctl := { s.ctl with step := 4, recovery := true, inRecovery := false, fwVersion := v.version },
                      lock := { s.lock with fwMeasure := v.measure } }
    ((s.enableCp 16).enableCp 17).identNote
  else s.endRequest r stDenied []

/-- A packet of an image of `len` bytes, of which `next` have come: another OFFSET than the next one, or data behind the end, are BAD_PARAM
(log entry 35). -/
def imageStep (s : State) (r : Inflight) (len next : Nat) (offset : W64) (data : List Byte) (v : FwVerdict) : State :=
  let past := next + data.length
  if offset.toNat ≠ next ∨ len < past then
    if r.opcode = cpFwUpdate then s.endUpdate r stBadParam else s.endRequest r stBadParam []
  else if past = len then (if r.opcode = cpFwUpdate then s.updateFlash r v else s.runLoaded r v)
  else s.waitsNow r (.image len past)

/-- An opcode of R361. -/
def knownOpcode (op : BitVec 16) : Bool :=
  [cpOwnClaim, cpOwnRelease, cpConfigDone, cpModuleReset, cpRegRead, cpRegWrite, cpBulkWrite, cpBulkRead, cpAbort, cpShaftSet, cpShaftSync,
    cpShaftSlew, cpSchedSet, cpSchedCancel, cpFnReset, cpRemap, cpProgramSwap, cpMemMaint, cpMemPpr, cpMemTest, cpMemRetrain, cpFateSet,
    cpSecPair, cpSecRebuild, cpDevDown, cpDevUp, cpLichenRead, cpLichenEdit, cpPowerState, cpClockStep, cpAttest, cpDebugOpen, cpDebugClose,
    cpProvision, cpRetire, cpFwUpdate, cpFwLoad].contains op

/-- The header of a BULK_DATA packet with this many data bytes (R356, R358). -/
def bulkHeaderOk (h : CpHdr) (op : BitVec 16) (bytes : Nat) : Bool :=
  headerOk h && knownOpcode op && decide (bytes ≤ 4096 ∧ bytes % 4 = 0)

/-- A BULK_DATA packet arrives: one with a bad header is answered BAD_PARAM (R358), and one that belongs to no request in flight is of no
effect (log entry 35). -/
def bulkData (s : State) (h : CpHdr) (op : BitVec 16) (offset mask : W64) (data : List Byte) (v : FwVerdict) : State :=
  if !h.crcOk then s.countCtl 0x204 1
  else if !bulkHeaderOk h op data.length then s.reply h.port op h.tag stBadParam []
  else
    match s.ctl.inflight.find? fun r => decide (r.port = h.port ∧ r.tag = h.tag ∧ r.opcode = op) with
    | none => s
    | some r =>
      match r.wait with
      | .bulk next descs => s.bulkStep r next descs offset mask data
      | .image len next => s.imageStep r len next offset data v
      | _ => s

end State

/-- SHAFT_TICK: the count advances by one (R373). Step 7 of start-up has ended (log entry 91). -/
def execShaftTick (s : State) : Host.Outcome State Fault Refusal :=
  if s.dormant then .next s
  else
    let s := s.countTick
    let s := if s.ctl.step = 7 then { s with ctl := { s.ctl with step := 8 } } else s
    flushed (.next (({ s with sh := s.sh.tick } : State).tickTests.tickFlash))

/-- FW_UPDATE. -/
def execFwUpdate (h : CpHdr) (p : List W32) (s : State) : Host.Outcome State Fault Refusal :=
  request h cpFwUpdate p (inTurn h p noCert 0 (State.fwUpdateBody p)) s

/-- FW_LOAD. -/
def execFwLoad (h : CpHdr) (p : List W32) (s : State) : Host.Outcome State Fault Refusal :=
  request h cpFwLoad p (State.fwLoadBody p) s

/-- BULK_DATA. -/
def execBulkData (h : CpHdr) (opcode : BitVec 16) (offset mask : W64) (data : List Byte) (fw : FwVerdict) (s : State) :
    Host.Outcome State Fault Refusal :=
  if s.hears h.port cpReplyPool then
    flushed (.next ((s.heard (16 + h.port.toNat) cpReplyPool).bulkData h opcode offset mask data fw))
  else .next s

end Sys2Proof.Machine
end

