-- ==== Sys2Proof/Machine/Restart.lean ====
section
/-! DEFINITION. Per-function reset (R378, R379) and program images (R380, R381). -/

namespace Sys2Proof.Machine

open Sys2Proof

/-! ### Functions (R378) -/

namespace State

/-- The unit of a function number is present. -/
def fnPresent (s : State) (f : Nat) : Bool :=
  if f = 0 then s.hasPort 16
  else if f < 3 then s.hasHalf (f - 1)
  else if f < 15 then s.hasStack (f - 3)
  else if f < 31 then s.hasPort (f - 15)
  else if f < 33 then s.hasCe (f - 31)
  else decide (f = 33)

/-- The function is under reset (R378). -/
def fnBusy (s : State) (f : Nat) : Bool := s.ctl.fnReset.getLsbD f

/-- The function's unit is power-gated or clock-gated (R397). -/
def fnAsleep (s : State) (f : Nat) : Bool :=
  let gated (h : Nat) : Bool := s.pwr.gated.getLsbD h
  if f = 0 then false
  else if f < 3 then gated (f - 1) || decide (s.pwr.st = 1)
  else if f < 15 then gated ((f - 3) / 6)
  else if f < 31 then gated ((f - 15) / 8)
  else if f < 33 then gated (f - 31)
  else false

/-! ### What a reset ends, and what it leaves (R379) -/

/-- Requests of this Triat that `p` picks lose their issuer: answers to those sent go to nobody, and those that wait are gone. -/
def orphan (s : State) (p : Issuer → Bool) : State :=
  let tag (e : Nat × Option Req) : Nat × Option Req :=
    match e.2 with
    | some q => if p q.who then (e.1, some { q with who := .down }) else e
    | none => e
  let ports : SMap Port := s.ports.map fun e => (e.1, { e.2 with tags := e.2.tags.map tag })
  { s with
    ports := ports.filter fun e => decide (e.2 ≠ ({} : Port))
    fab := { s.fab with
      waiting := s.fab.waiting.filter fun w => !p w.who
      answers := s.fab.answers.filter fun a => !p a.who } }

/-- A bedstone keeps its contents and counts as not loaded (R63). -/
def keptBed (b : Bed) : Bed := { elems := b.elems, scales := b.scales }

/-- What a core keeps across a reset of its half. -/
def keptCore (c : Core) : Core :=
  let beds : SMap Bed := c.beds.map fun e => (e.1, keptBed e.2)
  { beds := beds.filter fun e => decide (e.2 ≠ ({} : Bed)) }

/-- Compute half h at its state after a reset: cores, clusters, stream units, and the registers of the compute block but those of
the seam, which has no function number. A quiesce point of the half ends with it, and a remap that waits for that takes effect. -/
def freshHalf (s : State) (h : Nat) : State :=
  let x := s.half h
  let x' : Half := { seamActive := x.seamActive, seamUp := x.seamUp, seamStilled := x.seamStilled, seamFenced := x.seamFenced,
                     seamRow := x.seamRow, avoid := x.avoid, remap := x.remap,
                     seamCh := x.seamCh, counts := x.counts }
  let mine (k : Nat) : Bool := decide (k / 32 = h)
  let cluster (e : Nat × Cluster) : Nat × Cluster := if mine e.1 then (e.1, { csm := e.2.csm, csmWrong := e.2.csmWrong, status := e.2.status }) else e
  let clusters : SMap Cluster := s.clusters.map cluster
  ({ s with
    cores := s.resetCores h keptCore
    clusters := clusters.filter fun e => decide (e.2 ≠ ({} : Cluster))
    csus := SMap.dropWhere mine s.csus
    halves := SMap.set {} s.halves h x' } : State).remapNow h

/-- Work of half h's cores that is on its way ends with the reset: pushes, tokens home, store sectors and acknowledgements go;
tokens from elsewhere are returned, those held back at its cores among them (R161, R379). -/
def drainHalf (s : State) (h : Nat) : State :=
  let here (c : CoreId) : Bool := decide (halfOf c = h)
  let fromHere (t : Tok) : Bool := (t.src.map fun x => here x.core).getD false
  let bounced := (s.net.tokens ++ s.cores.flatMap fun e => e.2.held).filter fun t => here t.target && t.src.isSome && !fromHere t
  let net := { s.net with
    pushes := s.net.pushes.filter fun p => !here p.src && !here p.dst
    tokens := s.net.tokens.filter fun t => !here t.target
    returning := (s.net.returning.filter fun t => !fromHere t) ++ bounced
    stores := s.net.stores.filter fun t => !here t.site.core
    acks := s.net.acks.filter fun a => !here a.site.core }
  ({ s with net := net }.orphan fun w => match w with
    | .racc site => here site.core
    | _ => false).freshHalf h

/-- A memory controller after its reset: cache and directory empty, contents, training and repair rows kept. DESIGN CHOICE (log entry 76): it
is UP, also where it was in MAINT. -/
def freshMc (m : Mc) : Mc :=
  let chan (e : Nat × Channel) : Nat × Channel := (e.1, { st := e.2.st, spares := e.2.spares })
  { st := 1, pprUsed := m.pprUsed, chans := m.chans.map chan }

/-- The part of a MEM_TEST that runs on stack k ends as an abort that won (R366). -/
def dropTest (s : State) (k : Nat) : State :=
  let b : BitVec 12 := BitVec.ofNat 12 (2 ^ k)
  let out (r : Inflight) : Inflight :=
    match r.wait with
    | .memTest found left aborted busy n => { r with wait := .memTest found (left &&& ~~~ b) (aborted ||| (left &&& b)) busy n }
    | _ => r
  let s := if (s.mc k).st = 3 then s.endTest k else s
  { s with ctl := { s.ctl with inflight := s.ctl.inflight.map out } }

/-- A stack's controller is reset. -/
def resetMc (s : State) (k : Nat) : State := ((((s.dropTest k).stopBulkAt k).mscDrop k).dirClear k).updMc k freshMc

/-- A fabric port is reset: OFF, at its reset values; tags whose answers may still come stay, and packets received stand (R277, R279). -/
def resetPort (s : State) (n : Nat) : State :=
  let s := s.portOff n 4
  s.setPort n { tags := (s.port n).tags, rxHeld := (s.port n).rxHeld }

/-- The destination of an interrupted GET or GATHER is left poisoned. -/
def poisonRuns (s : State) (h : Nat) : State :=
  let c := s.ce h
  let s := c.rings.foldl (fun s e => match e.2.run with
    | some r => let f := mvFields r.desc; if f.op = 2 ∧ r.left ≠ 0 then s.poisonAt h f.local_ f.len else s
    | none => s) s
  c.lists.foldl (fun s e => e.2.runs.foldl (fun s r =>
    let f := dFields r.desc
    if f.op = 4 ∧ r.left ≠ 0 then s.poisonGather h f
    else if f.op = 3 ∧ f.hold then s.updCg f.group fun g => { g with closes := g.closes - r.left }
    else s) s) s

/-- A collective engine is reset: what it had in execution ends without notify, and the step is aborted (R178, R326). With the CE of
H0, which serves the securing table (R330), open entries are abandoned and rebuilds end as aborts that won (R366). -/
def resetCe (s : State) (h : Nat) : State :=
  let rebuild (r : Inflight) : Bool := match r.wait with
    | .rebuild _ => true
    | _ => false
  let s := if h = 0 then
      (s.sec.aux.map (·.1)).foldl abandonEntry ((s.ctl.inflight.filter rebuild).foldl abortRequest s)
    else s
  let s := (s.poisonRuns h).orphan fun w => match w with
    | .move k _ _ => decide (k.toNat = h)
    | .desc k _ _ _ => decide (k.toNat = h)
    | .secData _ => decide (h = 0)
    | .secSeal _ => decide (h = 0)
    | _ => false
  ({ s with coll := { s.coll with ces := SMap.set {} s.coll.ces h {} } }).updCommit fun c => { c with abortOwn := true }

/-- The shaft unit is reset: the count goes on, and the schedule is cancelled. -/
def resetShaft (s : State) : State :=
  let s := (List.range 16).foldl (fun s i => if (s.sched i).valid then s.shaftEvent 4 i 0 else s) s
  (s.closeSession 4).updSh fun x => { count := x.count, turnSeen := x.turnSeen }

/-- The control port CP0 is reset: its bulk transfers and firmware images end as aborts that won, and its link is down (R279, R366). -/
def resetCp0 (s : State) : State :=
  let mine (r : Inflight) : Bool := decide (r.port = 0) && (match r.wait with
    | .bulk _ _ => true
    | _ => false)
  let image (r : Inflight) : Bool := decide (r.port = 0) && (match r.wait with
    | .image _ _ => true
    | _ => false)
  let s := (s.ctl.inflight.filter mine).foldl abortRequest s
  let s := (s.ctl.inflight.filter image).foldl (fun s r => s.endUpdate r stAborted) s
  let s := s.portOff 16 4
  s.setPort 16 {}

/-- The first three phases of a function's reset; `later`: CP0's link stays until the reply has gone over it (R378). -/
def fnBegin (s : State) (later : Bool) (f : Nat) : State :=
  let s := { s with ctl := { s.ctl with fnReset := s.ctl.fnReset ||| BitVec.ofNat 34 (2 ^ f) } }
  if f = 0 then (if later then s else s.resetCp0)
  else if f < 3 then s.drainHalf (f - 1)
  else if f < 15 then s.resetMc (f - 3)
  else if f < 31 then s.resetPort (f - 15)
  else if f < 33 then s.resetCe (f - 31)
  else s.resetShaft

/-- FN_DONE (R364): the credits that went back are a free value (log entry 5). -/
def fnDone (s : State) (f : Nat) : State :=
  ({ s with fresh := s.fresh + 1 }).notify 0x000B [w32 f, w32 (Config.free64 s.fresh).toNat]

/-- The restart of a function: registers at their reset values; its bit clears. -/
def fnEnd (s : State) (f : Nat) : State :=
  let s := if f = 0 then s.resetCp0 else if f < 3 then s.freshHalf (f - 1) else s
  let s := { s with ctl := { s.ctl with fnReset := s.ctl.fnReset &&& ~~~ (BitVec.ofNat 34 (2 ^ f)) } }
  (if f = 0 then s.enableCp 16 else s).fnDone f

/-- The statuses of an FN_RESET's functions, in order. -/
def fnParts (done busy : List Nat) : List (Nat × Status) :=
  (List.range 34).filterMap fun f => if f ∈ busy then some (f, stBusy) else if f ∈ done then some (f, stOk) else none

/-- FN_RESET: one that names a gated unit is BUSY and resets nothing (R397). -/
def fnResetBody (h : CpHdr) (p : List W32) (s : State) : CtlRes :=
  let mask := bits (word64 p 0) 33 0
  let fs := bitList 34 mask
  let busy := fs.filter s.fnBusy
  let go := fs.filter fun f => !s.fnBusy f
  let later := decide (h.port = 0 ∧ 0 ∈ go)
  let begin_ (s : State) : State := go.foldl (fun s f => s.fnBegin later f) s
  if fs.any fun f => !s.fnPresent f then turnAway stNotPresent s
  else if fs.any s.fnAsleep then turnAway stBusy s
  else if go = [] then splitSay 3 34 (fnParts [] busy) s
  else if later then
    let r := splitReply 3 34 (fnParts go busy)
    .done r.1 r.2 s begin_
  else .hold (.fnReset go [] busy) (begin_ s)

/-- A function has restarted: the request that named it is replied to after the last of its FN_DONEs. -/
def fnReply (s : State) (f : Nat) : State :=
  s.ctl.inflight.foldl (fun s r =>
    match r.wait with
    | .fnReset left done busy =>
      if f ∈ left then
        let rest := left.filter fun x => decide (x ≠ f)
        if rest = [] then s.endRequest r (splitReply 3 34 (fnParts (f :: done) busy)).1 (splitReply 3 34 (fnParts (f :: done) busy)).2
        else
          let put (x : Inflight) : Inflight := if x = r then { x with wait := .fnReset rest (f :: done) busy } else x
          { s with ctl := { s.ctl with inflight := s.ctl.inflight.map put } }
      else s
    | _ => s) s

end State

/-- FN_RESET. -/
def execFnReset (h : CpHdr) (p : List W32) (s : State) : Host.Outcome State Fault Refusal :=
  requestOf 2 h cpFnReset p (State.fnResetBody h p) s

/-- FN_RESTART: a function under reset has gone through its phases. -/
def execFnRestart (fn : BitVec 6) (s : State) : Host.Outcome State Fault Refusal :=
  let f := fn.toNat
  if f < 34 ∧ s.ctl.fnReset.getLsbD f then flushed (.next ((s.fnEnd f).fnReply f)) else .next s

/-! ### PROGRAM_SWAP (R380) -/

/-- The pieces of a region by 2 MiB pages: address and bytes. -/
def pagesFrom : Nat → Nat → Nat → List (Nat × Nat)
  | 0, _, _ => []
  | f + 1, a, n =>
    if n = 0 then []
    else
      let k := Nat.min n (2 ^ 21 - a % 2 ^ 21)
      (a, k) :: pagesFrom f (a + k) (n - k)

/-- Joins physical ranges that follow one another. -/
def joinRanges : List (Nat × Nat) → List (Nat × Nat)
  | [] => []
  | r :: rest =>
    match joinRanges rest with
    | [] => [r]
    | x :: more => if r.1 + r.2 = x.1 then (r.1, r.2 + x.2) :: more else r :: x :: more

namespace State

/-- The physical ranges of a region with X permission, page by page. -/
def imageRanges (s : State) (h : Nat) : List (Nat × Nat) → Option (List (Nat × Nat)) × State
  | [] => (some [], s)
  | (a, n) :: rest =>
    match s.resolve (.walked h) a .x with
    | (.bad _, s) => (none, s)
    | (.ok pa _, s) =>
      match s.imageRanges h rest with
      | (none, s) => (none, s)
      | (some l, s) => (some ((pa, n) :: l), s)

/-- A slot takes on a generation change; between two commands it does so at once. -/
def askSwap (s : State) (core n : Nat) (w : Swap) : State :=
  let mid := (s.core core).busy (BitVec.ofNat 2 n)
  let s := s.updCore core fun c => c.updSlot n fun sl => { sl with swap := some w }
  if mid then s else s.boundary { core := BitVec.ofNat 12 core, slot := BitVec.ofNat 2 n }

/-- The slots that run under the old generation change to the new one, in the halves in scope. -/
def swapSlots (s : State) (halves : BitVec 2) (old : BitVec 16) (w : Swap) : State :=
  s.cores.foldl (fun s e =>
    if halves.getLsbD (e.1 / 2048) then
      e.2.slots.foldl (fun s x => if x.2.st = 1 ∧ x.2.gen = old then s.askSwap e.1 x.1 w else s) s
    else s) s

/-- PROGRAM_SWAP. -/
def programSwapBody (p : List W32) (s : State) : CtlRes :=
  let new : BitVec 16 := BitVec.ofNat 16 (bits (word p 0) 15 0)
  let old : BitVec 16 := BitVec.ofNat 16 (bits (word p 0) 31 16)
  let base : VA := (word64 p 1).setWidth 48
  let len := (word p 3).toNat
  let halves : BitVec 2 := (word p 4).setWidth 2
  let live := s.ctl.images.filter fun e => e.2.valid && s.genLive e.2.gen
  let free := (List.range 16).find? fun i => live.all fun e => decide (e.1 ≠ i)
  let held := (live.map fun e => e.2.ranges.length).sum
  let oldBase := ((live.find? fun e => decide (e.2.gen = old)).map (·.2.base)).getD 0
  if new = 0 ∨ (live.any fun e => decide (e.2.gen = new)) ∨ base.toNat % 4096 ≠ 0 ∨ len = 0 ∨ len % 64 ≠ 0 ∨ 2 ^ 26 < len then
    turnAway stBadParam s
  else if (List.range 2).any fun h => halves.getLsbD h && !s.hasHalf h then turnAway stNotPresent s
  else if s.pwr.st = 3 then turnAway stBusy s
  else
    match s.imageRanges 0 (pagesFrom (len / 2 ^ 21 + 2) base.toNat len) with
    | (none, s) => turnAway stDenied s
    | (some l, s) =>
      let rs := joinRanges l
      match free with
      | none => turnAway stBusy s
      | some i =>
        if 16 < rs.length then turnAway stBadParam s
        else if 64 < held + rs.length then turnAway stBusy s
        else
          let e : Image := { valid := true, gen := new, base := base, len := word p 3, halves := halves,
                             ranges := rs.map fun r => (BitVec.ofNat 40 r.1, r.2) }
          let s := { s with ctl := { s.ctl with images := SMap.set {} live i e } }
          let s := (List.range 2).foldl (fun s h =>
            if halves.getLsbD h then s.updHalf h fun x => { x with gen := new } else s) s
          ok (if old = 0 then s else s.swapSlots halves old { gen := new, oldBase := oldBase, newBase := base, len := word p 3 })

end State

/-- PROGRAM_SWAP. -/
def execProgramSwap (h : CpHdr) (p : List W32) (s : State) : Host.Outcome State Fault Refusal :=
  requestOf 5 h cpProgramSwap p (State.programSwapBody p) s

end Sys2Proof.Machine
end

