-- ==== Sys2Proof/Machine/Upkeep.lean ====
section
/-! DEFINITION. Maintenance of memory (R237 to R240), fate domains, pairing and rebuilds (R334 to R337, R344, R345), and the requests
of the lichen map (R352). -/

namespace Sys2Proof.Machine

open Sys2Proof

/-! ### Memory maintenance (R237 to R240) -/

/-- The status of parts by stack. -/
abbrev Parts := List (Nat × Status)

namespace State

/-- STACK_MASK. -/
def stackMask (p : List W32) : List Nat := bitList 12 (bits (word p 0) 11 0)

/-- The stacks of a mask are present. -/
def stacksThere (s : State) (ks : List Nat) : Bool := ks.all s.hasStack

/-- A stack whose controller cannot change state: gated, under reset, or under test (log entry 33). -/
def mcHeld (s : State) (k : Nat) : Bool :=
  s.pwr.gated.getLsbD (k / 6) || s.ctl.fnReset.getLsbD (3 + k) || decide ((s.mc k).st = 3 ∨ (s.mc k).st = 0)

/-- A stack enters MAINT: its cache is flushed and invalidated, its directory cleared. -/
def enterMaint (s : State) (k : Nat) : State := ((s.mscDrop k).dirClear k).updMc k fun m => { m with st := 2 }

/-- MEM_MAINT. -/
def memMaintBody (p : List W32) (s : State) : CtlRes :=
  let ks := stackMask p
  let enter := bit (word p 0) 16
  if !s.stacksThere ks then turnAway stNotPresent s
  else
    let r := ks.foldl (fun (r : Parts × State) k =>
      if r.2.mcHeld k then (r.1 ++ [(k, stBusy)], r.2)
      else
        let s := if enter then (if (r.2.mc k).st = 2 then r.2 else r.2.enterMaint k) else r.2.updMc k fun m => { m with st := 1 }
        (r.1 ++ [(k, stOk)], s)) ([], s)
    splitSay 1 12 r.1 r.2

/-- Repair rows left in an entry of R238. -/
def rowsLeft (m : Mc) (e : Nat) : Nat := 2 - SMap.get 0 m.pprUsed e

/-- The 48 words of a query. -/
def rowWords (m : Mc) : List W32 :=
  (List.range 48).map fun w => w32 (((List.range 16).map fun i => rowsLeft m (16 * w + i) * 4 ^ i).sum)

/-- A row is repaired: its sectors read poisoned, a record of the repair is written, and the records of its poisoned sectors are
cleared. -/
def repairRow (s : State) (l : Loc) (e : Nat) : State :=
  let here (k : Nat) : Bool :=
    let x := s.place (64 * k)
    decide (x.stack = l.stack ∧ rowLoc (locOf x) = rowLoc l)
  let s := { s with mem := s.mem.dropMarks here }
  let s := s.updMc l.stack fun m => { m.count 0x104 32 with pprUsed := SMap.upd 0 m.pprUsed e (· + 1) }
  let s := s.lmClear fun r => decide (lmType r = lmPoison ∧ bits (lmLoc r) 29 0 = (rowLoc l).toNat)
  s.lmAdd lmRowRepair (rowLoc l)

/-- MEM_PPR. -/
def memPprBody (p : List W32) (s : State) : CtlRes :=
  let w := word p 0
  let k := bits w 3 0
  let l : Loc := { stack := k, channel := bits w 7 4, rank := bits w 11 8, bank := 4 * bits w 13 12 + bits w 15 14, row := bits w 29 16,
                   sector := 0 }
  let e := 48 * l.channel + 4 * l.rank + bits w 13 12
  let left := rowsLeft (s.mc k) e
  if 12 ≤ k then turnAway stBadParam s
  else if !s.hasStack k then turnAway stNotPresent s
  else if (s.mc k).st ≠ 2 then turnAway stBusy s
  else if 12 ≤ l.rank ∨ 12288 ≤ l.row then turnAway stBadParam s
  else if bit w 31 then say stOk (rowWords (s.mc k)) s
  else if left = 0 then turnAway stDenied s
  else say stOk [w32 (left - 1)] (s.repairRow l e)

/-- MEM_TEST: the stacks in MAINT go under test for a time that is free (log entry 31). -/
def memTestBody (p : List W32) (found : List TestResult) (s : State) : CtlRes :=
  let ks := stackMask p
  let mask (l : List Nat) : BitVec 12 := BitVec.ofNat 12 (l.map fun k => 2 ^ k).sum
  let go := ks.filter fun k => decide ((s.mc k).st = 2) && !s.mcHeld k
  let busy := ks.filter fun k => !(decide ((s.mc k).st = 2) && !s.mcHeld k)
  if !s.stacksThere ks then turnAway stNotPresent s
  else if 5 ≤ bits (word p 0) 15 12 then turnAway stBadParam s
  else if go = [] then splitSay 1 12 (busy.map fun k => (k, stBusy)) s
  else
    let ticks := (Config.free64 s.fresh).toNat + 1
    let t := go.foldl (fun s k => (s.updMc k fun m => { m with st := 3 }).testCounts k (bits (word p 0) 15 12)) { s with fresh := s.fresh + 1 }
    .hold (.memTest found (mask go) 0 (mask busy) ticks) t

/-- MEM_RETRAIN: training on what the training rows show of each lane. -/
def memRetrainBody (p : List W32) (lanes : List LaneTest) (s : State) : CtlRes :=
  let ks := stackMask p
  if !s.stacksThere ks then turnAway stNotPresent s
  else
    let ready (k : Nat) : Bool := decide ((s.mc k).st = 2) && !s.mcHeld k
    let t := (ks.filter ready).foldl (fun s k => s.trainStack k lanes) s
    let parts : Parts := ks.map fun k => (k, if ready k then stOk else stBusy)
    if ks.all ready then say stOk (ks.flatMap fun k => (List.range 16).map fun c => ((t.mc k).chan c).statusWord) t
    else splitSay 1 12 parts t

/-! ### Fate domains and pairing (R334 to R337) -/

/-- Three words of an entry: device and domains. -/
def fateEntry (p : List W32) (i : Nat) : Nat × BitVec 64 :=
  let a := (word p i).toNat
  let b := (word p (i + 1)).toNat
  let c := (word p (i + 2)).toNat
  (a % 2 ^ 16, BitVec.ofNat 64 (a / 2 ^ 16 + b * 2 ^ 16 + c % 2 ^ 16 * 2 ^ 48))

/-- Entries that a FATE_SET has left in conflict and that were not so before (R336). -/
def markConflicts (old : State) (s : State) : State :=
  (List.range s.sec.count.toNat).foldl (fun s i =>
    match s.entryAt i with
    | (e, s) =>
      let f := secFields e
      let group := (s.secAux i).group
      let mirror := f.mirror
      let bad (x : State) : Bool := (!mirror || decide (f.role ≠ 2)) && x.fateConflict mirror f.partner group
      if f.valid && bad s && !bad old then
        ((s.setSecEntry i (setBits e 10 10 1)).countSec 0x11C 1).secEvent 3 i f.partner
      else s) s

/-- FATE_SET. -/
def fateSetBody (p : List W32) (s : State) : CtlRes :=
  let n := bits (word p 0) 11 0
  let own := bit (word p 0) 16
  let at_ := if own then 3 else 1
  let es := (List.range n).map fun i => fateEntry p (at_ + 3 * i)
  let zero := (List.range n).all fun i => decide ((word p (at_ + 3 * i + 2)).toNat < 2 ^ 16)
  let fates := es.foldl (fun (m : SMap (Option (BitVec 64))) e => SMap.set none m e.1 (some e.2)) s.sec.fates
  if p.length ≠ at_ + 3 * n ∨ !zero then turnAway stBadParam s
  else if 4096 < fates.length then turnAway stBusy s
  else
    let t := { s with sec := { s.sec with own := if own then word64 p 1 else s.sec.own, fates := fates } }
    ok (markConflicts s t)

/-- The fields of a pairing's entry that are not the Triat's own, with VALID, RESOLVED and the generation of a fresh pairing. -/
def pairedEntry (e : BitVec 512) (overridden : Bool) : BitVec 512 :=
  let f := secFields e
  let cls := if f.format then 6 else f.cls
  let put (x : BitVec 512) (hi lo n : Nat) : BitVec 512 := setBits x hi lo n
  let x := put (put (put (put (put 0 1 0 f.method) 3 2 (resolveMethod e)) 5 4 f.role) 6 6 (flag f.format 0)) 7 7 (flag f.rare 0)
  let x := put (put (put (put (put x 8 8 1) 9 9 (flag overridden 0)) 14 12 cls) 20 16 f.k) 25 21 f.member
  let x := put (put (put (put x 47 32 f.partner.toNat) 59 48 f.event) 111 64 f.local_) 175 128 f.held
  put (put (put (put x 239 192 f.remote) 249 240 f.remoteEntry) 295 256 f.len) 352 352 1

/-- An entry is taking part in an open epoch or an unfinished rebuild, as a sender or as a receiver (R337). -/
def entryOpen (s : State) (i : Nat) (e : BitVec 512) : Bool :=
  let a := s.secAux i
  let f := secFields e
  a.joined || a.rebuild.isSome ||
    (f.valid && decide (f.role ≠ 0) && a.taking)

/-- A field of a pairing that R337 does not allow. `parity`: by its method. -/
def pairBad (s : State) (f : SecFields) (parity : Bool) : Bool :=
  let k := decide (f.k = 4 ∨ f.k = 8 ∨ f.k = 16)
  let member := if f.role = 0 then decide (f.member < f.k) else if f.role = 1 then decide (f.member = f.k) else decide (f.member ≤ f.k)
  decide (f.role = 3 ∨ f.len < 4096 ∨ f.len % 4096 ≠ 0 ∨ f.local_ % 4096 ≠ 0 ∨ f.held % 4096 ≠ 0 ∨ f.remote % 4096 ≠ 0 ∨ f.cls = 7) ||
    (parity && !(k && member)) || (!parity && decide (f.role = 2 ∧ (f.k = 0 ∨ 17 < f.k))) ||
    (f.format && decide (2 ≤ f.method)) ||
    (decide (f.partner = s.fab.devId) && (decide (f.role = 0) || (decide (f.role = 1) && !parity)))

/-- The areas that a pairing clears: address and bytes (R337). -/
def pairAreas (f : SecFields) (parity : Bool) : List (Nat × Nat) :=
  if f.role = 1 then [(f.local_, 2 * f.len)] else if f.role = 2 then [(f.local_, f.len)] else if parity then [(f.held, f.len)] else []

/-- Pairs entry `i`. -/
def pairEntry (s : State) (i : Nat) (e : BitVec 512) (group : List DevId) (overridden fromLocal : Bool) : CtlRes :=
  let f := secFields e
  let parity := decide (resolveMethod e ≠ 1)
  let copy := fromLocal && parity && decide (f.role = 0)
  let r :=
    if copy then s.copyMem f.local_ f.held f.len
    else (pairAreas f parity).foldl (fun (r : Status × State) x =>
      match r.2.writeWhole (viaCe 0) .w x.1 (List.replicate x.2 {}) with
      | (st, s) => (if r.1 = stOk then st else r.1, s)) (stOk, s)
  if r.1 ≠ stOk then turnAway r.1 r.2
  else
    let x := pairedEntry e overridden
    let s := r.2.setSecEntry i (if copy then setBits x 353 353 1 else x)
    let s := s.updSecAux i fun _ => { group := if parity then group else [] }
    ok (if overridden then s.countSec 0x120 1 else s)

/-- SEC_PAIR. -/
def secPairBody (p : List W32) (s : State) : CtlRes :=
  let i := bits (word p 0) 9 0
  let e : BitVec 512 := BitVec.ofNat 512 (((List.range 16).map fun k => (word p (1 + k)).toNat * 2 ^ (32 * k)).sum)
  let f := secFields e
  let parity := decide (resolveMethod e ≠ 1)
  let group : List DevId := (List.range (f.k + 1)).map fun m =>
    BitVec.ofNat 16 (bits (word p (17 + m / 2)) (16 * (m % 2) + 15) (16 * (m % 2)))
  let need := if f.valid && parity then 17 + (f.k + 2) / 2 else 17
  if p.length < need ∨ 26 < p.length ∨ s.sec.count.toNat ≤ i then turnAway stBadParam s
  else if s.pwr.st = 3 then turnAway stBusy s
  else
    match s.secEntry i with
    | (old, s) =>
      if s.entryOpen i old then turnAway stBusy s
      else if !f.valid then ok ((s.setSecEntry i (setBits old 8 8 0)).updSecAux i fun _ => {})
      else if s.pairBad f parity then turnAway stBadParam s
      else
        let conflict := (parity || decide (f.role ≠ 2)) && s.fateConflict (!parity) f.partner group
        if conflict ∧ !bit (word p 0) 16 then turnAway stFateConflict (s.countSec 0x11C 1)
        else s.pairEntry i e group conflict (bit (word p 0) 17)

/-- SEC_REBUILD. -/
def secRebuildBody (p : List W32) (s : State) : CtlRes :=
  let i := bits (word p 0) 9 0
  let cls := bits (word p 1) 17 15
  if s.sec.count.toNat ≤ i ∨ cls = 7 then turnAway stBadParam s
  else if s.pwr.st = 3 ∨ !s.ceRuns 0 ∨ s.halfList.any (fun h => bit (s.half h).netCtrl 0) ∨ (s.secAux i).rebuild.isSome then turnAway stBusy s
  else
    match s.beginRebuild i (BitVec.ofNat 16 (bits (word p 0) 31 16)) (BitVec.ofNat 10 (bits (word p 1) 9 0))
        (BitVec.ofNat 5 (bits (word p 1) 14 10)) (BitVec.ofNat 3 cls) with
    | (st, s) => if st = stOk then .hold (.rebuild (BitVec.ofNat 10 i)) s else turnAway st s

/-! ### The down list (R344) -/

/-- Device IDs of a payload from word `i` on. -/
def idsOf (p : List W32) (i n : Nat) : List DevId :=
  (List.range n).map fun k => BitVec.ofNat 16 (bits (word p (i + k / 2)) (16 * (k % 2) + 15) (16 * (k % 2)))

/-- Requests to the devices end ABORTED: those under tags, those that wait, and packets of theirs that a port has still to send. -/
def abandonTo (s : State) (ids : List DevId) : State :=
  let mine (q : QItem) : Bool := match q.body with
    | .fab x => !x.resp && decide (x.h.srcDev = s.fab.devId) && ids.contains x.h.dstDev
    | _ => false
  let wake (w : Waiting) : Waiting := if ids.contains w.pkt.h.dstDev then { w with hold := none } else w
  let s := { s with fab := { s.fab with waiting := s.fab.waiting.map wake } }
  (List.range 16).foldl (fun s n =>
    let s := if (s.port n).queue.any mine then s.updPort n fun x => { x with queue := x.queue.filter fun q => !mine q } else s
    s.abortTags n fun r => ids.contains r.pkt.h.dstDev) s

/-- The entries that the devices take part in are abandoned (R344). -/
def abandonWith (s : State) (ids : List DevId) : State :=
  (List.range s.sec.count.toNat).foldl (fun s i =>
    match s.entryAt i with
    | (e, s) =>
      let f := secFields e
      if !f.valid then s
      else if f.role = 0 then (if ids.contains f.partner then s.abandonEntry i else s)
      else
        match (s.sourcesOf i f).find? fun d => ids.contains d with
        | some d => if s.entryOpen i e then s.abandonHolder i f d else s
        | none => s) s

/-- Nothing is left of the copies of a parity group of which two devices are down (R342): a device of `ids` that makes it so. -/
def copyGone (group old ids : List DevId) : Option DevId :=
  let was := group.filter old.contains
  let new := group.filter fun d => ids.contains d && !old.contains d
  if was.length < 2 ∧ 2 ≤ was.length + new.length then new.head? else none

/-- Reports each VALID parity entry whose copies have gone with `ids`; `old` is the down list before them (log entry 53). -/
def reportGone (s : State) (old ids : List DevId) : State :=
  (List.range s.sec.count.toNat).foldl (fun s i =>
    match s.entryAt i with
    | (e, s) =>
      if !(secFields e).valid ∨ resolveMethod e = 1 then s
      else match copyGone (s.secAux i).group old ids with
        | some d => s.secEvent 5 i d
        | none => s) s

/-- DEV_DOWN. -/
def devDownBody (p : List W32) (s : State) : CtlRes :=
  let n := bits (word p 0) 8 0
  let ids := idsOf p 3 n
  let down := (s.sec.down ++ ids).eraseDups
  if n = 0 ∨ 256 < n ∨ p.length ≠ 3 + (n + 1) / 2 then turnAway stBadParam s
  else if 2048 < down.length then turnAway stBusy s
  else
    let old := s.sec.down
    let s := { s with sec := { s.sec with down := down } }
    let s := ((s.abandonTo ids).abandonWith ids).reportGone old ids
    ok (if bit (word p 0) 16 then s.countInterruption (word64 p 1) else s)

/-- DEV_UP. -/
def devUpBody (p : List W32) (s : State) : CtlRes :=
  let n := bits (word p 0) 8 0
  let ids := idsOf p 1 n
  if p.length ≠ 1 + (n + 1) / 2 then turnAway stBadParam s
  else ok { s with sec := { s.sec with down := s.sec.down.filter fun d => !ids.contains d } }

/-! ### The lichen map (R352) -/

/-- LICHEN_READ: the header, and as many of the records as a reply holds (log entry 34). -/
def lichenReadBody (p : List W32) (s : State) : CtlRes :=
  let first := bits (word p 0) 13 0
  let n := Nat.min (Nat.min (bits (word p 0) 23 16) 252) (lmRecords - first)
  if lmRecords ≤ first then turnAway stBadParam s
  else
    let recs := (List.range n).flatMap fun i => (List.range 4).map fun k => (s.lm.record (first + i)).extractLsb' (32 * k) 32
    say stOk (s.lm.header s.flash.serial ++ recs) s

/-- LICHEN_EDIT. -/
def lichenEditBody (p : List W32) (s : State) : CtlRes :=
  let act := bits (word p 0) 7 0
  let r : BitVec 128 := BitVec.ofNat 128 (((List.range 4).map fun k => (word p (1 + k)).toNat * 2 ^ (32 * k)).sum)
  let site := bits (lmLoc r) 6 1
  let core := bits (lmLoc r) 13 7
  if act = 1 then
    if p.length ≠ 5 ∨ (lmType r ≠ lmCoreRetired ∧ lmType r ≠ lmClusterRetired) ∨ 34 ≤ site ∨ (lmType r = lmCoreRetired ∧ 66 ≤ core) then
      turnAway stBadParam s
    else if !s.hasHalf (bits (lmLoc r) 0 0) then turnAway stNotPresent s
    else ok (s.lmAdd (lmType r) (lmLoc r))
  else if act = 2 then
    let i := (word p 1).toNat
    if p.length ≠ 2 ∨ lmRecords ≤ i then turnAway stBadParam s
    else
      let x := s.lm.record i
      ok (if x = lmErased then s else s.updLm fun a => { a with recs := SMap.set lmErased a.recs i (lmCleared x) })
  else turnAway stBadParam s

end State

/-- MEM_MAINT. -/
def execMemMaint (h : CpHdr) (p : List W32) (s : State) : Host.Outcome State Fault Refusal :=
  requestOf 1 h cpMemMaint p (State.memMaintBody p) s
/-- MEM_PPR. -/
def execMemPpr (h : CpHdr) (p : List W32) (s : State) : Host.Outcome State Fault Refusal :=
  requestOf 1 h cpMemPpr p (State.memPprBody p) s
/-- MEM_TEST. -/
def execMemTest (h : CpHdr) (p : List W32) (found : List TestResult) (s : State) : Host.Outcome State Fault Refusal :=
  requestOf 2 h cpMemTest p (State.memTestBody p found) s
/-- MEM_RETRAIN. -/
def execMemRetrain (h : CpHdr) (p : List W32) (lanes : List LaneTest) (s : State) : Host.Outcome State Fault Refusal :=
  requestOf 1 h cpMemRetrain p (State.memRetrainBody p lanes) s
/-- FATE_SET. -/
def execFateSet (h : CpHdr) (p : List W32) (s : State) : Host.Outcome State Fault Refusal :=
  request h cpFateSet p (State.fateSetBody p) s
/-- SEC_PAIR. -/
def execSecPair (h : CpHdr) (p : List W32) (s : State) : Host.Outcome State Fault Refusal :=
  request h cpSecPair p (State.secPairBody p) s
/-- SEC_REBUILD. -/
def execSecRebuild (h : CpHdr) (p : List W32) (s : State) : Host.Outcome State Fault Refusal :=
  requestOf 2 h cpSecRebuild p (State.secRebuildBody p) s
/-- DEV_DOWN. -/
def execDevDown (h : CpHdr) (p : List W32) (s : State) : Host.Outcome State Fault Refusal :=
  request h cpDevDown p (State.devDownBody p) s
/-- DEV_UP. -/
def execDevUp (h : CpHdr) (p : List W32) (s : State) : Host.Outcome State Fault Refusal :=
  request h cpDevUp p (State.devUpBody p) s
/-- LICHEN_READ. -/
def execLichenRead (h : CpHdr) (p : List W32) (s : State) : Host.Outcome State Fault Refusal :=
  requestOf 1 h cpLichenRead p (State.lichenReadBody p) s
/-- LICHEN_EDIT. -/
def execLichenEdit (h : CpHdr) (p : List W32) (s : State) : Host.Outcome State Fault Refusal :=
  request h cpLichenEdit p (State.lichenEditBody p) s

end Sys2Proof.Machine
end

