-- ==== Sys2Proof/Machine/Jtag.lean ====
section
/-! DEFINITION. The JTAG port and the output pins (R408, R409, R412, R428). A command is one instruction with one scan of the data
register that it selects: the capture first, the update after it. -/

namespace Sys2Proof.Machine

open Sys2Proof

/-! ### Pins (R428) -/

namespace State

/-- The miller asserts ALERT_N. -/
def alertAsserted (s : State) : Bool := decide (s.pwr.alert &&& s.pwr.mask ≠ 0)

/-- What the pins carry while boundary cells do not drive them: cell 1 ALERT_N and cell 2 THERM_N, low when asserted; the level at
WAKE_N, cell 0, comes from outside and is a free value (log entry 5). -/
def pinLevels (s : State) : BitVec 3 :=
  BitVec.ofNat 3 ((Config.free64 s.fresh).toNat % 2 + flag (!s.alertAsserted) 1 + flag (!s.pwr.thermN) 2)

/-- The output pins ALERT_N and THERM_N; none: high impedance. -/
def outputs (s : State) : Option (BitVec 2) :=
  if s.dormant ∨ s.tap.ir = 0x04 then none
  else if s.tap.ir = 0x00 ∨ s.tap.ir = 0x03 then some (s.tap.boundary.extractLsb' 1 2)
  else some (s.pinLevels.extractLsb' 1 2)

/-- TDO (R426): while the TAP is in Shift-DR, bit `k` of what the selected data register has captured; none: high impedance. Between
scans, and in DORMANT, it is that. -/
def tdo (s : State) (shift : Option Nat) : Option Bool := if s.dormant then none else shift.map fun k => s.tap.capture.getLsbD k

/-! ### Instructions (R408) -/

def updTap (s : State) (f : Tap → Tap) : State := { s with tap := f s.tap }

/-- IDCODE. -/
def idWord (s : State) : W32 :=
  w32 (s.flash.stepMajor.toNat * 2 ^ 28 + 0x474D * 2 ^ 12 + Config.manufacturer.toNat * 2 + 1)

/-- An access instruction is available; bit 0 of SCOPE grants MGMT_ACCESS, bit 1 MEM_ACCESS. -/
def accessOpen (s : State) (scopeBit : Nat) : Bool :=
  match s.secState with
  | 0 => true
  | 1 => false
  | 2 => s.lock.scope.getLsbD scopeBit
  | _ => true

/-- An instruction whose data register is the bypass bit, which captures 0. -/
def bypassed (s : State) (ir : Byte) : State := s.updTap fun t => { t with ir := ir, capture := 0 }

/-- An instruction on the boundary register: it captures the pins, and then holds what was shifted in. -/
def scanBoundary (s : State) (ir : Byte) (b : BitVec 3) : State :=
  ({ s with fresh := s.fresh + 1 }).updTap fun t => { t with ir := ir, capture := s.pinLevels.setWidth 106, boundary := b }

/-! ### Access registers (R409) -/

/-- What MGMT_ACCESS holds after an access. -/
def mgmtWord (v : W32) (st : Status) : BitVec 66 := BitVec.ofNat 66 (v.toNat + st.toNat * 2 ^ 32 + 2 ^ 65)

/-- The register access of MGMT_ACCESS. -/
def mgmtRun (s : State) (data addr : W32) (write : Bool) : State :=
  let a := addr.toNat
  let done (s : State) (v : W32) (st : Status) : State := s.updTap fun t => { t with mgmt := mgmtWord v st }
  if a % 4 ≠ 0 then done s 0 stBadParam
  else if write then
    match s.regWrite who2 a data with
    | (st, s) => done s 0 st
  else
    match s.regRead who2 a with
    | (st, v, s) => done s (if st = stOk then v else 0) st

/-- What MEM_ACCESS holds after an access. -/
def memWord (v : W64) (st : Status) (mark : Bool) : BitVec 106 :=
  BitVec.ofNat 106 (v.toNat + st.toNat * 2 ^ 64 + flag mark 104 + 2 ^ 105)

/-- The 8-byte request of MEM_ACCESS. A stack of a gated half answers BUSY (R397, R412). -/
def memRun (s : State) (data : W64) (pa : PA) (write : Bool) : State :=
  let a := pa.toNat
  let done (s : State) (v : W64) (st : Status) (mark : Bool) : State := s.updTap fun t => { t with mem := memWord v st mark }
  if a % 8 ≠ 0 then done s 0 stBadParam false
  else if s.lock.memLock ∨ s.capacity ≤ a then done s 0 stDenied false
  else if s.pwr.gated.getLsbD ((s.place a).stack / 6) then done s 0 stBusy false
  else if write then
    match s.writeMem (.pa none) .w a (leBytes 8 data.toNat) with
    | (st, s) => done s 0 st (s.mem.poisoned a)
  else
    match s.readMem (.pa none) .r a 8 with
    | (bs, st, s) => done s (if st = stOk then bitsOf 64 bs else 0) st (bs.any (·.p))

end State

/-- MGMT_ACCESS: the result of the access before is captured; then, with GO, this one is made. -/
def execMgmtAccess (data addr : W32) (write go : Bool) (s : State) : Host.Outcome State Fault Refusal :=
  if s.dormant then .next s
  else if !s.accessOpen 0 then .next (s.bypassed 0x10)
  else
    let s := s.updTap fun t => { t with ir := 0x10, capture := t.mgmt.setWidth 106 }
    if go then flushed (.next (s.mgmtRun data addr write)) else .next s

/-- MEM_ACCESS. -/
def execMemAccess (data : W64) (pa : PA) (write go : Bool) (s : State) : Host.Outcome State Fault Refusal :=
  if s.dormant then .next s
  else if !s.accessOpen 1 then .next (s.bypassed 0x11)
  else
    let s := s.updTap fun t => { t with ir := 0x11, capture := t.mem }
    if go then flushed (.next (s.memRun data pa write)) else .next s

/-- EXTEST: the boundary cells drive the output pins. -/
def execExtest (boundary : BitVec 3) (s : State) : Host.Outcome State Fault Refusal :=
  .next (if s.dormant then s else s.scanBoundary 0x00 boundary)

/-- SAMPLE/PRELOAD. -/
def execSamplePreload (boundary : BitVec 3) (s : State) : Host.Outcome State Fault Refusal :=
  .next (if s.dormant then s else s.scanBoundary 0x01 boundary)

/-- IDCODE. -/
def execIdcode (s : State) : Host.Outcome State Fault Refusal :=
  .next (if s.dormant then s else s.updTap fun t => { t with ir := 0x02, capture := s.idWord.setWidth 106 })

/-- CLAMP: the boundary cells drive the output pins. -/
def execClamp (s : State) : Host.Outcome State Fault Refusal := .next (if s.dormant then s else s.bypassed 0x03)

/-- HIGHZ. -/
def execHighz (s : State) : Host.Outcome State Fault Refusal := .next (if s.dormant then s else s.bypassed 0x04)

/-- BYPASS. -/
def execBypass (s : State) : Host.Outcome State Fault Refusal := .next (if s.dormant then s else s.bypassed 0xFF)

/-- TAP_RESET: Test-Logic-Reset, which selects IDCODE. The pulse ends with the command (log entry 60). -/
def execTapReset (s : State) : Host.Outcome State Fault Refusal :=
  .next (if s.dormant then s else s.updTap fun t => { t with ir := 0x02 })

end Sys2Proof.Machine
end

