-- ==== Sys2Proof/Machine/Dispatch.lean ====
section
/-! DEFINITION. The meaning of every command: one arm for each row of the opcode table. -/

namespace Sys2Proof.Machine

open Sys2Proof

/-- The command's effect on everything but the queue of commands. -/
def exec (i : Instr) (s : State) : Host.Outcome State Fault Refusal :=
  match i with
  | .nop site w => Sys2Proof.Machine.execNop site w s
  | .halt site w => Sys2Proof.Machine.execHalt site w s
  | .fence site w => Sys2Proof.Machine.execFence site w s
  | .token site w => Sys2Proof.Machine.execToken site w s
  | .waittoken site w => Sys2Proof.Machine.execWaittoken site w s
  | .loop site w => Sys2Proof.Machine.execLoop site w s
  | .fuse site w => Sys2Proof.Machine.execFuse site w s
  | .cset site w => Sys2Proof.Machine.execCset site w s
  | .cadd site w => Sys2Proof.Machine.execCadd site w s
  | .caddc site w => Sys2Proof.Machine.execCaddc site w s
  | .cmpset site w => Sys2Proof.Machine.execCmpset site w s
  | .clrseen site w => Sys2Proof.Machine.execClrseen site w s
  | .oprod site w => Sys2Proof.Machine.execOprod site w s
  | .opslice site w => Sys2Proof.Machine.execOpslice site w s
  | .opdiag site w => Sys2Proof.Machine.execOpdiag site w s
  | .bedload site w => Sys2Proof.Machine.execBedload site w s
  | .tread site w => Sys2Proof.Machine.execTread site w s
  | .fetch site w => Sys2Proof.Machine.execFetch site w s
  | .store site w => Sys2Proof.Machine.execStore site w s
  | .send site w => Sys2Proof.Machine.execSend site w s
  | .recv site w => Sys2Proof.Machine.execRecv site w s
  | .racc site w => Sys2Proof.Machine.execRacc site w s
  | .vew site w => Sys2Proof.Machine.execVew site w s
  | .vun site w => Sys2Proof.Machine.execVun site w s
  | .vred site w => Sys2Proof.Machine.execVred site w s
  | .vcvt site w => Sys2Proof.Machine.execVcvt site w s
  | .vnorm site w => Sys2Proof.Machine.execVnorm site w s
  | .vnormb site w => Sys2Proof.Machine.execVnormb site w s
  | .vsmax site w => Sys2Proof.Machine.execVsmax site w s
  | .vsmaxb site w => Sys2Proof.Machine.execVsmaxb site w s
  | .vstatm site w => Sys2Proof.Machine.execVstatm site w s
  | .vrope site w => Sys2Proof.Machine.execVrope site w s
  | .vdrop site w => Sys2Proof.Machine.execVdrop site w s
  | .vsplit site w => Sys2Proof.Machine.execVsplit site w s
  | .vslrec site w => Sys2Proof.Machine.execVslrec site w s
  | .vbxadd site w => Sys2Proof.Machine.execVbxadd site w s
  | .phaseChange core => Sys2Proof.Machine.execPhaseChange core s
  | .icacheFill site cause => Sys2Proof.Machine.execIcacheFill site cause s
  | .runAheadFetch core va w => Sys2Proof.Machine.execRunAheadFetch core va w s
  | .tokenArrival src target => Sys2Proof.Machine.execTokenArrival src target s
  | .tokenReturn src target => Sys2Proof.Machine.execTokenReturn src target s
  | .linkQueuePush core q => Sys2Proof.Machine.execLinkQueuePush core q s
  | .fencedBounce what => Sys2Proof.Machine.execFencedBounce what s
  | .controlStateParity core => Sys2Proof.Machine.execControlStateParity core s
  | .storeAck site => Sys2Proof.Machine.execStoreAck site s
  | .csmWindowClose cluster sector => Sys2Proof.Machine.execCsmWindowClose cluster sector s
  | .mergeWindowSend cluster line write => Sys2Proof.Machine.execMergeWindowSend cluster line write s
  | .prefetchIssue cluster stream => Sys2Proof.Machine.execPrefetchIssue cluster stream s
  | .prefetchReturn cluster answer => Sys2Proof.Machine.execPrefetchReturn cluster answer s
  | .csuInvalidation cluster line => Sys2Proof.Machine.execCsuInvalidation cluster line s
  | .pageWalk who va acc => Sys2Proof.Machine.execPageWalk who va acc s
  | .mcSectorRead read first replay => Sys2Proof.Machine.execMcSectorRead read first replay s
  | .mcSectorWrite site => Sys2Proof.Machine.execMcSectorWrite site s
  | .laneRepair stack ch failing => Sys2Proof.Machine.execLaneRepair stack ch failing s
  | .seamTransfer half path parityOk => Sys2Proof.Machine.execSeamTransfer half path parityOk s
  | .shaftTick => Sys2Proof.Machine.execShaftTick s
  | .turnBoundary => Sys2Proof.Machine.execTurnBoundary s
  | .auditCheck half obs => Sys2Proof.Machine.execAuditCheck half obs s
  | .heartbeat port shaft => Sys2Proof.Machine.execHeartbeat port shaft s
  | .heartbeatWindowExpiry port => Sys2Proof.Machine.execHeartbeatWindowExpiry port s
  | .packetFrame port frame => Sys2Proof.Machine.execPacketFrame port frame s
  | .nack port expected => Sys2Proof.Machine.execNack port expected s
  | .replayTimeout port => Sys2Proof.Machine.execReplayTimeout port s
  | .idleSend port => Sys2Proof.Machine.execIdleSend port s
  | .resume port expected => Sys2Proof.Machine.execResume port expected s
  | .hello port nonce => Sys2Proof.Machine.execHello port nonce s
  | .helloRepeat port => Sys2Proof.Machine.execHelloRepeat port s
  | .ident port frame => Sys2Proof.Machine.execIdent port frame s
  | .identRepeat port => Sys2Proof.Machine.execIdentRepeat port s
  | .portAcquire port signals => Sys2Proof.Machine.execPortAcquire port signals s
  | .portLock port => Sys2Proof.Machine.execPortLock port s
  | .laneChoice port errors txPass => Sys2Proof.Machine.execLaneChoice port errors txPass s
  | .portStateTimeout port => Sys2Proof.Machine.execPortStateTimeout port s
  | .failedExpiry port => Sys2Proof.Machine.execFailedExpiry port s
  | .berWindow port lam errors codewords => Sys2Proof.Machine.execBerWindow port lam errors codewords s
  | .deadWavelength port lam => Sys2Proof.Machine.execDeadWavelength port lam s
  | .laneMapPrepare port lane => Sys2Proof.Machine.execLaneMapPrepare port lane s
  | .laneMapSwitch port lane => Sys2Proof.Machine.execLaneMapSwitch port lane s
  | .laneMapDrop port lane => Sys2Proof.Machine.execLaneMapDrop port lane s
  | .pingLinkFrame port t1 => Sys2Proof.Machine.execPingLinkFrame port t1 s
  | .laserLost input => Sys2Proof.Machine.execLaserLost input s
  | .laserOk input => Sys2Proof.Machine.execLaserOk input s
  | .laserGroupStart group => Sys2Proof.Machine.execLaserGroupStart group s
  | .read port h => Sys2Proof.Machine.execRead port h s
  | .write port h body => Sys2Proof.Machine.execWrite port h body s
  | .gather port h => Sys2Proof.Machine.execGather port h s
  | .raccF32 port h data => Sys2Proof.Machine.execRaccF32 port h data s
  | .raccF32c port h data => Sys2Proof.Machine.execRaccF32c port h data s
  | .raccBx16 port h data => Sys2Proof.Machine.execRaccBx16 port h data s
  | .raccI64 port h data => Sys2Proof.Machine.execRaccI64 port h data s
  | .retractF32 port h data => Sys2Proof.Machine.execRetractF32 port h data s
  | .retractF32c port h data => Sys2Proof.Machine.execRetractF32c port h data s
  | .retractBx16 port h data => Sys2Proof.Machine.execRetractBx16 port h data s
  | .retractI64 port h data => Sys2Proof.Machine.execRetractI64 port h data s
  | .contrib port h body => Sys2Proof.Machine.execContrib port h body s
  | .void port h body => Sys2Proof.Machine.execVoid port h body s
  | .up port h body => Sys2Proof.Machine.execUp port h body s
  | .down port h body => Sys2Proof.Machine.execDown port h body s
  | .mirrorPut port h head data => Sys2Proof.Machine.execMirrorPut port h head data s
  | .parityPut port h head data => Sys2Proof.Machine.execParityPut port h head data s
  | .seal port h head parity bytes => Sys2Proof.Machine.execSeal port h head parity bytes s
  | .ping port h t1 => Sys2Proof.Machine.execPing port h t1 s
  | .fabricResponse port op h data => Sys2Proof.Machine.execFabricResponse port op h data s
  | .transit port op way h data => Sys2Proof.Machine.execTransit port op way h data s
  | .busyResend dst k => Sys2Proof.Machine.execBusyResend dst k s
  | .put half ring => Sys2Proof.Machine.execPut half ring s
  | .get half ring => Sys2Proof.Machine.execGet half ring s
  | .reductionSend half list => Sys2Proof.Machine.execReductionSend half list s
  | .reductionPass half list => Sys2Proof.Machine.execReductionPass half list s
  | .reductionClose half list => Sys2Proof.Machine.execReductionClose half list s
  | .reductionGather half list => Sys2Proof.Machine.execReductionGather half list s
  | .gatherResend dst k => Sys2Proof.Machine.execGatherResend dst k s
  | .dataResend dst k => Sys2Proof.Machine.execDataResend dst k s
  | .armingDone job => Sys2Proof.Machine.execArmingDone job s
  | .closeScan job => Sys2Proof.Machine.execCloseScan job s
  | .upSend => Sys2Proof.Machine.execUpSend s
  | .commitMark => Sys2Proof.Machine.execCommitMark s
  | .commitOutcome => Sys2Proof.Machine.execCommitOutcome s
  | .optEvent job => Sys2Proof.Machine.execOptEvent job s
  | .secEpochStart => Sys2Proof.Machine.execSecEpochStart s
  | .secEpochDone => Sys2Proof.Machine.execSecEpochDone s
  | .lichenCompaction => Sys2Proof.Machine.execLichenCompaction s
  | .ownClaim h p => Sys2Proof.Machine.execOwnClaim h p s
  | .ownRelease h p => Sys2Proof.Machine.execOwnRelease h p s
  | .configDone h p => Sys2Proof.Machine.execConfigDone h p s
  | .moduleReset h p => Sys2Proof.Machine.execModuleReset h p s
  | .regRead h p => Sys2Proof.Machine.execRegRead h p s
  | .regWrite h p => Sys2Proof.Machine.execRegWrite h p s
  | .bulkWrite h p => Sys2Proof.Machine.execBulkWrite h p s
  | .bulkRead h p => Sys2Proof.Machine.execBulkRead h p s
  | .bulkData h opcode offset mask data fw => Sys2Proof.Machine.execBulkData h opcode offset mask data fw s
  | .abort h p => Sys2Proof.Machine.execAbort h p s
  | .deadline port tag => Sys2Proof.Machine.execDeadline port tag s
  | .shaftSet h p => Sys2Proof.Machine.execShaftSet h p s
  | .shaftSync h p => Sys2Proof.Machine.execShaftSync h p s
  | .shaftSlew h p => Sys2Proof.Machine.execShaftSlew h p s
  | .holdover => Sys2Proof.Machine.execHoldover s
  | .schedSet h p => Sys2Proof.Machine.execSchedSet h p s
  | .schedCancel h p => Sys2Proof.Machine.execSchedCancel h p s
  | .scheduledAction entry => Sys2Proof.Machine.execScheduledAction entry s
  | .fnReset h p => Sys2Proof.Machine.execFnReset h p s
  | .fnRestart fn => Sys2Proof.Machine.execFnRestart fn s
  | .remap h p => Sys2Proof.Machine.execRemap h p s
  | .programSwap h p => Sys2Proof.Machine.execProgramSwap h p s
  | .memMaint h p => Sys2Proof.Machine.execMemMaint h p s
  | .memPpr h p => Sys2Proof.Machine.execMemPpr h p s
  | .memTest h p found => Sys2Proof.Machine.execMemTest h p found s
  | .memRetrain h p lanes => Sys2Proof.Machine.execMemRetrain h p lanes s
  | .fateSet h p => Sys2Proof.Machine.execFateSet h p s
  | .secPair h p => Sys2Proof.Machine.execSecPair h p s
  | .secRebuild h p => Sys2Proof.Machine.execSecRebuild h p s
  | .devDown h p => Sys2Proof.Machine.execDevDown h p s
  | .devUp h p => Sys2Proof.Machine.execDevUp h p s
  | .lichenRead h p => Sys2Proof.Machine.execLichenRead h p s
  | .lichenEdit h p => Sys2Proof.Machine.execLichenEdit h p s
  | .powerState h p => Sys2Proof.Machine.execPowerState h p s
  | .clockStep h p => Sys2Proof.Machine.execClockStep h p s
  | .clockStepAt half => Sys2Proof.Machine.execClockStepAt half s
  | .attest h p measured => Sys2Proof.Machine.execAttest h p measured s
  | .debugOpen h p cert => Sys2Proof.Machine.execDebugOpen h p cert s
  | .debugClose h p => Sys2Proof.Machine.execDebugClose h p s
  | .debugExpiry => Sys2Proof.Machine.execDebugExpiry s
  | .provision h p cert => Sys2Proof.Machine.execProvision h p cert s
  | .retire h p => Sys2Proof.Machine.execRetire h p s
  | .fwUpdate h p => Sys2Proof.Machine.execFwUpdate h p s
  | .fwLoad h p => Sys2Proof.Machine.execFwLoad h p s
  | .slotStart h half mask => Sys2Proof.Machine.execSlotStart h half mask s
  | .slotStop h half mask => Sys2Proof.Machine.execSlotStop h half mask s
  | .slotPtr h half n hi v => Sys2Proof.Machine.execSlotPtr h half n hi v s
  | .pipePolicy h half v => Sys2Proof.Machine.execPipePolicy h half v s
  | .qcfg h half n v => Sys2Proof.Machine.execQcfg h half n v s
  | .qbind h half n v => Sys2Proof.Machine.execQbind h half n v s
  | .coreSeen h half v => Sys2Proof.Machine.execCoreSeen h half v s
  | .fenceCmd h half cl v => Sys2Proof.Machine.execFenceCmd h half cl v s
  | .quiesceReq h half v => Sys2Proof.Machine.execQuiesceReq h half v s
  | .csmCfg h half cl v => Sys2Proof.Machine.execCsmCfg h half cl v s
  | .csuCancel h half cl v => Sys2Proof.Machine.execCsuCancel h half cl v s
  | .mscFlush h stack => Sys2Proof.Machine.execMscFlush h stack s
  | .memMode h k v => Sys2Proof.Machine.execMemMode h k v s
  | .xlatInval h v => Sys2Proof.Machine.execXlatInval h v s
  | .routeLoad h => Sys2Proof.Machine.execRouteLoad h s
  | .laserSwitch h v => Sys2Proof.Machine.execLaserSwitch h v s
  | .portEnable h port enable => Sys2Proof.Machine.execPortEnable h port enable s
  | .admitPort h port enable epoch => Sys2Proof.Machine.execAdmitPort h port enable epoch s
  | .retrain h port enable => Sys2Proof.Machine.execRetrain h port enable s
  | .mvEnable h half k v => Sys2Proof.Machine.execMvEnable h half k v s
  | .mvTail h half k v => Sys2Proof.Machine.execMvTail h half k v s
  | .rlEnable h half k v => Sys2Proof.Machine.execRlEnable h half k v s
  | .eventRaise h v => Sys2Proof.Machine.execEventRaise h v s
  | .arm h job waive => Sys2Proof.Machine.execArm h job waive s
  | .rearm h job waive => Sys2Proof.Machine.execRearm h job waive s
  | .release h job waive => Sys2Proof.Machine.execRelease h job waive s
  | .jobWaive h job waive => Sys2Proof.Machine.execJobWaive h job waive s
  | .cgDrop h g expect => Sys2Proof.Machine.execCgDrop h g expect s
  | .commitAbort h => Sys2Proof.Machine.execCommitAbort h s
  | .commitResend h => Sys2Proof.Machine.execCommitResend h s
  | .commitWaive h n => Sys2Proof.Machine.execCommitWaive h n s
  | .secStart h v => Sys2Proof.Machine.execSecStart h v s
  | .secAbandon h v => Sys2Proof.Machine.execSecAbandon h v s
  | .alertStatus h v => Sys2Proof.Machine.execAlertStatus h v s
  | .shaftLoRead h => Sys2Proof.Machine.execShaftLoRead h s
  | .mgmtAccess data addr write go => Sys2Proof.Machine.execMgmtAccess data addr write go s
  | .memAccess data pa write go => Sys2Proof.Machine.execMemAccess data pa write go s
  | .extest boundary => Sys2Proof.Machine.execExtest boundary s
  | .samplePreload boundary => Sys2Proof.Machine.execSamplePreload boundary s
  | .idcode => Sys2Proof.Machine.execIdcode s
  | .clamp => Sys2Proof.Machine.execClamp s
  | .highz => Sys2Proof.Machine.execHighz s
  | .bypass => Sys2Proof.Machine.execBypass s
  | .wake => Sys2Proof.Machine.execWake s
  | .memoryTraining lanes => Sys2Proof.Machine.execMemoryTraining lanes s
  | .selfTest found => Sys2Proof.Machine.execSelfTest found s
  | .lichenRemap => Sys2Proof.Machine.execLichenRemap s
  | .inputVoltage mv => Sys2Proof.Machine.execInputVoltage mv s
  | .currentCeilingEvaluation mean => Sys2Proof.Machine.execCurrentCeilingEvaluation mean s
  | .overCurrentTrip => Sys2Proof.Machine.execOverCurrentTrip s
  | .thermalEvaluation half junction dies => Sys2Proof.Machine.execThermalEvaluation half junction dies s
  | .thermalTrip => Sys2Proof.Machine.execThermalTrip s
  | .lossOfSignal port lost => Sys2Proof.Machine.execLossOfSignal port lost s
  | .refreshHot stack temp => Sys2Proof.Machine.execRefreshHot stack temp s
  | .tapReset => Sys2Proof.Machine.execTapReset s

end Sys2Proof.Machine
end

