-- ==== Sys2Proof/Machine/Step.lean ====
section
/-! DEFINITION. A step of the Triat: the command at the front of the queue; with none waiting, the Triat idles. -/

namespace Sys2Proof.Machine

open Sys2Proof

/-- Takes the command at the front and runs it with the rest of the queue behind it (log entry 2). -/
def step (s : State) : Host.Outcome State Fault Refusal :=
  match s.pending with
  | [] => .next s
  | c :: rest => exec c { s with pending := rest }

/-- `s` with the command that a word spells at the front of its queue; where the word spells none, `s`. -/
def State.withFetchWord (s : State) (nbits w : Nat) : State :=
  match decodeTableWord nbits w with
  | none => s
  | some c => { s with pending := c :: s.pending }

end Sys2Proof.Machine
end

