-- ==== Sys2Proof/WellFormed.lean ====
section
/-! DEFINITION. Well-formed commands: the operands of a command that name something by number name what there is on a Triat, and
payloads and data fit the packets that carry them (R17, R210, R269, R273, R281, R350, R358, R378). A command that is not well-formed stands
for nothing that reaches the hardware; the machine takes it as it comes. -/

namespace Sys2Proof

/-- Ports 0 to 15, CP0 16 and CP1 17 (R262). -/
def portOk (n : BitVec 5) : Bool := decide (n.toNat < 18)
/-- Wavelengths 0 to 8 (R271). -/
def lamOk (n : BitVec 4) : Bool := decide (n.toNat < 9)
/-- Stacks S0 to S11 (R209). -/
def stackOk (n : BitVec 4) : Bool := decide (n.toNat < 12)
/-- Lanes of a channel, spares among them (R210). -/
def laneOk (n : BitVec 6) : Bool := decide (n.toNat < 40)
/-- What training found on a channel. -/
def laneTestOk (t : LaneTest) : Bool := stackOk t.stack && t.dead.all laneOk && t.weak.all laneOk
/-- Physical core sites (R350). -/
def siteOk (c : CoreSite) : Bool := decide (c.cluster.toNat < 34 ∧ c.site.toNat < 66)
/-- Function numbers F0 to F33 (R378). -/
def fnOk (n : BitVec 6) : Bool := decide (n.toNat < 34)
/-- Data of a fabric packet or of BULK_DATA (R281, R372). -/
def dataOk (d : List Byte) : Bool := decide (d.length ≤ 4096)
/-- Payload words of a command packet (R356). -/
def payloadOk (p : List W32) : Bool := decide (p.length ≤ 1024)

/-- The checks of each command. -/
def Instr.wf (i : Instr) : Bool :=
  match i with
  | .nop _ _ | .halt _ _ | .fence _ _ | .token _ _ | .waittoken _ _ | .loop _ _ | .fuse _ _ | .cset _ _ | .cadd _ _
  | .caddc _ _ | .cmpset _ _ | .clrseen _ _ | .oprod _ _ | .opslice _ _ | .opdiag _ _ | .bedload _ _ | .tread _ _
  | .fetch _ _ | .store _ _ | .send _ _ | .recv _ _ | .racc _ _ | .vew _ _ | .vun _ _ | .vred _ _ | .vcvt _ _
  | .vnorm _ _ | .vnormb _ _ | .vsmax _ _ | .vsmaxb _ _ | .vstatm _ _ | .vrope _ _ | .vdrop _ _ | .vsplit _ _
  | .vslrec _ _ | .vbxadd _ _ | .phaseChange _ | .icacheFill _ _ | .runAheadFetch _ _ _ | .tokenArrival _ _
  | .tokenReturn _ _ | .linkQueuePush _ _ | .fencedBounce _ | .controlStateParity _ | .storeAck _ | .csmWindowClose _ _
  | .mergeWindowSend _ _ _ | .prefetchIssue _ _ | .prefetchReturn _ _ | .csuInvalidation _ _ | .pageWalk _ _ _
  | .mcSectorRead _ _ _ | .seamTransfer _ _ _ | .mcSectorWrite _ | .shaftTick | .turnBoundary | .auditCheck _ _ | .laserLost _ | .laserOk _
  | .laserGroupStart _ | .read _ _ | .gather _ _ | .contrib _ _ _ | .void _ _ _ | .up _ _ _ | .down _ _ _
  | .seal _ _ _ _ _ | .ping _ _ _ | .busyResend _ _ | .put _ _ | .get _ _ | .reductionSend _ _ | .reductionPass _ _
  | .reductionClose _ _ | .reductionGather _ _ | .gatherResend _ _ | .dataResend _ _ | .armingDone _ | .closeScan _
  | .upSend | .commitMark | .commitOutcome | .optEvent _ | .secEpochStart | .secEpochDone | .lichenCompaction
  | .deadline _ _ | .holdover | .scheduledAction _ | .clockStepAt _ | .debugExpiry | .slotStart _ _ _ | .slotStop _ _ _
  | .slotPtr _ _ _ _ _ | .pipePolicy _ _ _ | .qcfg _ _ _ _ | .qbind _ _ _ _ | .coreSeen _ _ _ | .fenceCmd _ _ _ _
  | .quiesceReq _ _ _ | .csmCfg _ _ _ _ | .csuCancel _ _ _ _ | .memMode _ _ _ | .xlatInval _ _ | .routeLoad _
  | .laserSwitch _ _ | .mvEnable _ _ _ _ | .mvTail _ _ _ _ | .rlEnable _ _ _ _ | .eventRaise _ _ | .arm _ _ _
  | .rearm _ _ _ | .release _ _ _ | .jobWaive _ _ _ | .cgDrop _ _ _ | .commitAbort _ | .commitResend _
  | .commitWaive _ _ | .secStart _ _ | .secAbandon _ _ | .alertStatus _ _ | .shaftLoRead _ | .mgmtAccess _ _ _ _
  | .memAccess _ _ _ _ | .extest _ | .samplePreload _ | .idcode | .clamp | .highz | .bypass | .wake | .lichenRemap
  | .inputVoltage _ | .currentCeilingEvaluation _ | .overCurrentTrip | .thermalEvaluation _ _ _ | .thermalTrip
  | .tapReset => true
  | .laneRepair stack _ failing => stackOk stack && failing.all laneOk
  | .heartbeat port _ | .heartbeatWindowExpiry port | .packetFrame port _ | .nack port _ | .replayTimeout port
  | .idleSend port | .resume port _ | .hello port _ | .helloRepeat port | .ident port _ | .identRepeat port
  | .portAcquire port _ | .portLock port | .portStateTimeout port | .failedExpiry port
  | .laneMapPrepare port _ | .laneMapSwitch port _ | .laneMapDrop port _ | .pingLinkFrame port _ | .portEnable _ port _
  | .admitPort _ port _ _ | .retrain _ port _ | .lossOfSignal port _ => portOk port
  | .laneChoice port errors _ => portOk port && decide (errors.length = 9)
  | .berWindow port lam _ _ | .deadWavelength port lam => portOk port && lamOk lam
  | .write _ _ body => dataOk body.data
  | .raccF32 _ _ data | .raccF32c _ _ data | .raccBx16 _ _ data | .raccI64 _ _ data
  | .retractF32 _ _ data | .retractF32c _ _ data | .retractBx16 _ _ data | .retractI64 _ _ data | .mirrorPut _ _ _ data
  | .parityPut _ _ _ data | .fabricResponse _ _ _ data | .transit _ _ _ _ data | .bulkData _ _ _ _ data _ => dataOk data
  | .ownClaim _ p | .ownRelease _ p | .configDone _ p | .moduleReset _ p | .regRead _ p | .regWrite _ p
  | .bulkWrite _ p | .bulkRead _ p | .abort _ p | .shaftSet _ p | .shaftSync _ p | .shaftSlew _ p | .schedSet _ p
  | .schedCancel _ p | .fnReset _ p | .remap _ p | .programSwap _ p | .memMaint _ p | .memPpr _ p | .fateSet _ p
  | .secPair _ p | .secRebuild _ p | .devDown _ p | .devUp _ p | .lichenRead _ p | .lichenEdit _ p | .powerState _ p
  | .clockStep _ p | .attest _ p _ | .debugOpen _ p _ | .debugClose _ p | .provision _ p _ | .retire _ p
  | .fwUpdate _ p | .fwLoad _ p => payloadOk p
  | .fnRestart fn => fnOk fn
  | .memTest _ p found => payloadOk p && (found.all fun f => stackOk f.stack)
  | .memRetrain _ p lanes => payloadOk p && lanes.all laneTestOk
  | .mscFlush _ stack | .refreshHot stack _ => stackOk stack
  | .memoryTraining lanes => lanes.all laneTestOk
  | .selfTest found => found.cores.all siteOk && found.memory.all fun f => stackOk f.stack

end Sys2Proof
end

