-- ==== Sys2Proof/Safety.lean ====
section
/-! DEFINITION. What statements about the Triat speak of: a command that completes, what a command leaves as it was, and the states that
make sense. -/

namespace Sys2Proof.Machine

open Sys2Proof

/-- A command completes: it ends in a next state, which `P` holds of. -/
def Completes (c : Instr) (s : State) (P : State → Prop) : Prop := ∃ t, exec c s = .next t ∧ P t

/-! ### Core commands -/

/-- The slot of a site. -/
def State.slotAt (s : State) (site : Site) : Slot := (s.core site.core.toNat).slot site.slot.toNat

/-- The core is at rest: no command is in execution, nothing waits to be pushed, nothing popped stands unused, and no slot's next word
has a reserved opcode (R88, R95, R120). -/
structure Quiet (s : State) (core : CoreId) : Prop where
  runs : (s.core core.toNat).runs = []
  backlog : (s.core core.toNat).backlog = []
  staged : ∀ e ∈ (s.core core.toNat).rings, e.2.staged = []
  known : ∀ n, n < 4 → ∀ y, (s.core core.toNat).nextWord n = some y → (cmdOf y.1).isSome = true

/-- The slot issues the command `op`, `w` now (R101 to R104, R112): its core is at rest, its predicate lets it issue, the picker takes the
slot, and neither a STOP nor a generation change waits for its next boundary. -/
structure Ready (s : State) (site : Site) (op : Byte) (w : CmdWord) : Prop where
  quiet : Quiet s site.core
  gate : s.gate site op w = .go
  picked : s.picked site = true
  stop : (s.slotAt site).stop = false
  swap : (s.slotAt site).swap = none

/-- What an issue may change of a core besides what the command does: the slot, the order of the cached lines, and what the picker counts. -/
def Core.issued (c : Core) : Core := { c with slots := [], icache := [], clock := 0, raStop := none }

/-- From `s` to `t` a core command has changed nothing but: its slot, which is `new`, and has issued last; what the picker counts; what
`dieBlank` blanks of the die; and what `coreBlank` blanks of its own core. The instruction cache answers as before. -/
structure Moved (s t : State) (site : Site) (new : Slot) (dieBlank : State → State) (coreBlank : Core → Core) : Prop where
  die : dieBlank { t with cores := [] } = dieBlank { s with cores := [] }
  cores : ∀ j, j ≠ site.core.toNat → t.core j = s.core j
  slot : t.slotAt site = { new with last := (s.core site.core.toNat).clock + 1 }
  slots : ∀ k, k ≠ site.slot.toNat → (t.core site.core.toNat).slot k = (s.core site.core.toNat).slot k
  words : ∀ g va, (t.core site.core.toNat).iword g va = (s.core site.core.toNat).iword g va
  clock : (t.core site.core.toNat).clock = (s.core site.core.toNat).clock + 1
  core : coreBlank (t.core site.core.toNat).issued = coreBlank (s.core site.core.toNat).issued

/-- The command passes: the slot goes on behind `n` words. -/
abbrev Passed (s t : State) (site : Site) (n : Nat) (dieBlank : State → State) (coreBlank : Core → Core) : Prop :=
  Moved s t site ((s.slotAt site).behind n) dieBlank coreBlank

/-- Tokens of a counter that a core holds back. -/
def Core.heldFor (c : Core) (n : Nat) : Nat := ((c.held.filter fun t => decide (t.tc.toNat = n)).map (·.n.toNat)).sum

/-- All work of a command that issues in `s` is done in `u`. The command ends there: it completes at once where no output of it is left
to push, and then nothing but its slot, what `dieBlank` blanks of the die and what `coreBlank` blanks of its core has changed from `s`,
and its core and the die are as `u` has them; otherwise it stands until its output has gone out (R95). -/
def Ends (c : Instr) (s : State) (x : Ctx) (u : State) (dieBlank : State → State) (coreBlank : Core → Core) : Prop :=
  exec c s = .next (u.ended x none) ∧
    ((u.core x.c).backlog = [] → Passed s (u.ended x none) x.site 1 dieBlank coreBlank ∧
      (u.ended x none).core x.c = u.core x.c ∧ { u.ended x none with cores := [] } = { u with cores := [] })

/-- The command's `n` units of work go one after the other, from `s` to `u` (R95): unit `i` from the `i`-th of the states to the next,
with the bytes that the command keeps. -/
def InUnits (n : Nat) (x : Ctx) (unit : Ctx → State → State → List MB → Prop) (s u : State) : Prop :=
  ∃ us : Nat → State × List MB, us 0 = (s, x.once) ∧ (us n).1 = u ∧
    ∀ i, i < n → unit { x with unit := i, once := (us i).2 } (us i).1 (us (i + 1)).1 (us (i + 1)).2

/-- The product command has gone through its `n` units from `s` to `u`: each has taken its columns from the queue, and `f` of them has been
done to the core; with no unit an overwrite has done `f` of no columns (R60, R65, R67). -/
def ProductRuns (n : Nat) (fmt : Fmt) (f : Ctx → List (List MV) → Core → Core) (x : Ctx) (s u : State) : Prop :=
  (n = 0 → u = if x.w.acc then s else s.updCore x.c (f x [])) ∧
  (n ≠ 0 → InUnits n x (fun x p q o => ∃ r p1, takeCols x fmt p = .got r p1 ∧ o = r.1 ∧ q = p1.updCore x.c (f x r.2)) s u)

/-- A unit pushes its result on `q`, for which there is room, applies its effects, and has used `used` free values (R37, R95, R113). -/
def Gives (x : Ctx) (q : BitVec 4) (out : List MB × Eff) (e : Eff) (used : Nat) (s t : State) : Prop :=
  s.room x q out.1.length = true ∧
    let p := s.push x q out.1
    t = { p.updCore x.c (·.effect (e.add out.2)) with fresh := p.fresh + used }

/-- What a vector command may change of the die, and of its core. -/
def vopDie (s : State) : State := { s with net := {}, fresh := 0 }
def vopCore (c : Core) : Core := { c with rings := [], pseen := false, nfseen := false, counts := [] }

/-- A vector command of opcode `op` that issues and passes its check goes through its units, each of `n` rows, as `unit` says of a unit's
part of the command and the number of its first row; and ends (R88, R95, R139). -/
def VopEnds (c : Instr) (op : Byte) (n : Vop → Nat) (ok : State → Ctx → Bool)
    (unit : Vop → Nat → Ctx → State → State → List MB → Prop) (s u : State) (site : Site) (w : CmdWord) : Prop :=
  let x := s.ctx site op w
  let v := vopOf w
  Ready s site op w → ok s x = true →
    InUnits (v.units (n v)) x (fun x p q o => unit (v.part (n v) x.unit) (x.unit * n v) x p q o) (s.mark x 1) u →
      Ends c s x u vopDie vopCore

/-! ### Events of the cores and of memory -/

/-- From `s` to `t` nothing has changed but what `dieBlank` blanks of the die, and what `coreBlank` blanks of one core. -/
structure CoreMoved (s t : State) (core : CoreId) (dieBlank : State → State) (coreBlank : Core → Core) : Prop where
  die : dieBlank { t with cores := [] } = dieBlank { s with cores := [] }
  cores : ∀ j, j ≠ core.toNat → t.core j = s.core j
  core : coreBlank (t.core core.toNat) = coreBlank (s.core core.toNat)

/-- A slot of a core that is not fenced has failed (R102): it is FAULTED, with its opcode and status where it was not so before, and
the failure has been reported. -/
structure SlotFailed (s t : State) (site : Site) (opcode : Nat) (status : Status) : Prop where
  st : (t.slotAt site).st = 3
  fault : (s.slotAt site).st ≠ 3 → (t.slotAt site).fault = w32 (opcode * 2 ^ 16 + status.toNat)
  kept : (s.slotAt site).st = 3 → (t.slotAt site).fault = (s.slotAt site).fault
  reported : t.ctl.noteSeq = s.ctl.noteSeq + 1

/-! ### Ports -/

/-- From `s` to `t` nothing has changed but what `dieBlank` blanks of the die, and what `blank` blanks of port `n`. -/
structure PortMoved (s t : State) (n : Nat) (dieBlank : State → State) (blank : Port → Port) : Prop where
  die : dieBlank { t with ports := [] } = dieBlank { s with ports := [] }
  ports : ∀ j, j ≠ n → t.port j = s.port j
  port : blank (t.port n) = blank (s.port n)

/-- What a change of the link state may alter of a port. -/
def Port.untrained (p : Port) : Port :=
  { p with st := 0, phase := 0, before := 0, txLanes := 0, rxLanes := 0, nonce := none, partnerNonce := none, helloIn := false,
           identIn := false, moving := none, training := none, counts := [] }

/-- A count of a port has grown by one, and no other has changed. -/
def Port.Counted (p q : Port) (off : Nat) : Prop :=
  ∀ k, SMap.get 0 q.counts k = SMap.get 0 p.counts k + (if k = off then 1 else 0)

/-! ### Packets -/

/-- A request as its port takes it in: counted, its slots given back, and its place in the order of classes 6 and 7 noted. -/
def State.received (s : State) (n : Nat) (p : Pkt) : State := ((s.updPort n fun q => q.count 0x12C 1).rxRelease n p.pool).noteOrder p.h

/-- A request reaches this Triat on a port (R277, R281 to R285, R198, R344): the port takes it in, the packet is for this Triat, nothing
holds it back, and its source is not down. -/
structure Reaches (s : State) (port : BitVec 4) (p : Pkt) : Prop where
  taken : s.takesIn port.toNat p.pool = true
  own : p.h.dstDev = s.fab.devId
  free : s.heldBack port.toNat = false
  order : s.inOrder p.h = true
  up : s.isDown p.h.srcDev = false

/-- The command ends with this answer on its way, sent from state `u`. -/
def Answers (c : Instr) (s : State) (port : BitVec 4) (p : Pkt) (a : Answer) (u : State) : Prop :=
  exec c s = .next (u.respond port.toNat p.op p.h a).flush

/-- The requests that may arrive on a port, each with the packet that it is. -/
def requests (port : BitVec 4) (h : FabHdr) (data : List Byte) (body : CloseBody) (head : PutHead) (parity : Bool) (n : W64) :
    List (Instr × Pkt) :=
  [(.read port h, bare opRead h), (.write port h { data := data }, laden opWrite h data), (.gather port h, bare opGather h),
   (.raccF32 port h data, laden opRacc h data), (.raccF32c port h data, laden (opRacc + 1) h data),
   (.raccBx16 port h data, laden (opRacc + 2) h data), (.raccI64 port h data, laden (opRacc + 3) h data),
   (.retractF32 port h data, laden opRetract h data), (.retractF32c port h data, laden (opRetract + 1) h data),
   (.retractBx16 port h data, laden (opRetract + 2) h data), (.retractI64 port h data, laden (opRetract + 3) h data),
   (.contrib port h body, closing 1 h body), (.void port h body, closing 2 h body), (.up port h body, closing 3 h body),
   (.down port h body, closing 4 h body),
   (.mirrorPut port h head data, laden opMirror h ((putPrefix head false).map (·.b) ++ data)),
   (.parityPut port h head data, laden opParity h ((putPrefix head false).map (·.b) ++ data)),
   (.seal port h head parity n, laden (if parity then opParity else opMirror) h
     ((putPrefix head true).map (·.b) ++ (leBytes 8 n.toNat).map (·.b))),
   (.ping port h n, laden opPing h ((leBytes 8 n.toNat).map (·.b)))]

/-! ### Command packets -/

/-- A request as the miller takes it in: counted at its port and at the miller, its slots given back. -/
def State.taken (s : State) (h : CpHdr) : State := (s.heard (16 + h.port.toNat) cpRequestPool).countCtl 0x200 1

/-- A command packet passes the checks of every request (R356 to R362, R386, R404): the port hears it, its CRC and header are right, its
tag is free, a place is free, and its sender may make this request now. -/
structure Passes (s : State) (h : CpHdr) (op : BitVec 16) (p : List W32) : Prop where
  hears : s.hears h.port cpRequestPool = true
  crc : h.crcOk = true
  header : State.headerOk h = true
  short : p.length ≤ 1024
  tag : ∀ r ∈ s.ctl.inflight, r.tag ≠ h.tag
  room : s.ctl.inflight.length < 64
  may : (s.taken h).admission h op p = none

/-- It passes them, and no request in flight touches what it touches, so that its reply waits for none (R359). -/
structure Admitted (s : State) (h : CpHdr) (op : BitVec 16) (p : List W32) extends Passes s h op p : Prop where
  clear : (s.taken h).ahead op p = false

/-- The command ends with this reply on its way, sent from state `u`. -/
def Replies (c : Instr) (s : State) (h : CpHdr) (op : BitVec 16) (st : Status) (words : List W32) (u : State) : Prop :=
  exec c s = .next (u.reply h.port op h.tag st words).flush

/-- The request is in flight from state `u` on, and waits for `w`. -/
def Holds (c : Instr) (s : State) (h : CpHdr) (op : BitVec 16) (p : List W32) (w : Wait) (u : State) : Prop :=
  exec c s = .next (u.undertaken h op p w).flush

/-- The command packets whose payload comes with them, each with its opcode (R361). -/
def packets (h : CpHdr) (p : List W32) (cert : Cert) (measured : Hash) (found : List TestResult) (lanes : List LaneTest) :
    List (Instr × BitVec 16) :=
  [(.ownClaim h p, cpOwnClaim), (.ownRelease h p, cpOwnRelease), (.configDone h p, cpConfigDone), (.moduleReset h p, cpModuleReset),
   (.regRead h p, cpRegRead), (.regWrite h p, cpRegWrite), (.bulkWrite h p, cpBulkWrite), (.bulkRead h p, cpBulkRead),
   (.abort h p, cpAbort), (.shaftSet h p, cpShaftSet), (.shaftSync h p, cpShaftSync), (.shaftSlew h p, cpShaftSlew),
   (.schedSet h p, cpSchedSet), (.schedCancel h p, cpSchedCancel), (.fnReset h p, cpFnReset), (.remap h p, cpRemap),
   (.programSwap h p, cpProgramSwap), (.memMaint h p, cpMemMaint), (.memPpr h p, cpMemPpr), (.memTest h p found, cpMemTest),
   (.memRetrain h p lanes, cpMemRetrain), (.fateSet h p, cpFateSet), (.secPair h p, cpSecPair), (.secRebuild h p, cpSecRebuild),
   (.devDown h p, cpDevDown), (.devUp h p, cpDevUp), (.lichenRead h p, cpLichenRead), (.lichenEdit h p, cpLichenEdit),
   (.powerState h p, cpPowerState), (.clockStep h p, cpClockStep), (.attest h p measured, cpAttest), (.debugOpen h p cert, cpDebugOpen),
   (.debugClose h p, cpDebugClose), (.provision h p cert, cpProvision), (.retire h p, cpRetire), (.fwUpdate h p, cpFwUpdate),
   (.fwLoad h p, cpFwLoad)]

/-- A command that is the write of one register: an admitted REG_WRITE of `v` at `a`, where the miller's state meets `ok`, is answered OK
from the state that `f` makes of it. -/
structure RegRow where
  cmd : Instr
  addr : Nat
  value : W32
  ok : State → Prop
  f : State → State

/-- The row holds: the command is answered so. -/
def RegRow.Holds (r : RegRow) (s : State) (h : CpHdr) : Prop :=
  Admitted s h cpRegWrite [w32 r.addr, 1, r.value] → r.ok (s.taken h) → Replies r.cmd s h cpRegWrite stOk [] (r.f (s.taken h))

/-- A register of the window of the core that the sender has selected can be written: half and core are present, the half is neither gated nor
idle, and the core is not fenced (R29, R114, R389, R397). -/
def State.windowOpen (s : State) (h : CpHdr) (half : BitVec 1) : Prop :=
  let c := s.selected half.toNat h.port.toNat
  s.hasHalf half.toNat = true ∧ s.hasCore c = true ∧ s.fencedCore c.toNat = false ∧ s.pwr.gated.getLsbD half.toNat = false ∧ s.pwr.st ≠ 1

/-- A register of a half's compute block outside that window can be written. -/
def State.halfOpen (s : State) (half : BitVec 1) : Prop := s.hasHalf half.toNat = true ∧ s.pwr.gated.getLsbD half.toNat = false

end Sys2Proof.Machine
end

