-- ==== Sys2Proof/Certificates/Slice0/Obligations.lean ====
section
/-! DEFINITION. The statements for the provers: what the commands of each family do, where they complete, what they leave as it was, and
what every step of the Triat keeps. -/

open Sys2Proof Sys2Proof.Machine

/-! ### Core commands -/

/-- R153: each counter and comparator command that issues with its reserved bits 0 completes with the table's effect, and nothing but
the counter, comparator or source it names and its slot has changed; with a reserved bit set it fails its check (R120, R125). -/
def Obligations.CounterCommandsTakeEffect : Prop :=
  ∀ (s : State) (site : Site) (w : CmdWord), let k := site.core.toNat; let c := s.core k
  let d := w.f 34 32
  let counter (t : State) (v : W32) : Prop :=
    Passed s t site 1 id (fun c => { c with ctr := [] }) ∧ ∀ n, (t.core k).cnt n = if n = d then v else c.cnt n
  (w.last = false →
    (Ready s site 0x08 w → w.z 63 35 → w.z 127 96 → Completes (.cset site w) s fun t => counter t (w32 (w.f 95 64))) ∧
    (Ready s site 0x09 w → w.z 63 35 → w.z 127 96 → Completes (.cadd site w) s fun t => counter t (c.cnt d + w32 (w.f 95 64))) ∧
    (Ready s site 0x0A w → w.z 35 35 → w.z 127 39 →
      Completes (.caddc site w) s fun t => counter t (c.cnt d + c.cnt (w.f 38 36))) ∧
    (Ready s site 0x0C w → w.z 63 45 → w.z 127 96 → w.f 44 42 ≤ 5 → Completes (.cmpset site w) s fun t =>
      Passed s t site 1 id (fun c => { c with cmps := [] }) ∧ ∀ n, SMap.get {} (t.core k).cmps n =
        if n = w.f 33 32 then { cfg := cmpCfg (w.f 36 34) (w.f 39 37) (w.b 40) (w.b 41) (w.f 44 42), imm := w32 (w.f 95 64) }
        else SMap.get {} c.cmps n) ∧
    (Ready s site 0x0D w → w.z 127 34 → Completes (.clrseen site w) s fun t =>
      Passed s t site 1 id (fun c => { c with pseen := false, nfseen := false }) ∧
        (t.core k).pseen = (c.pseen && !w.b 32) ∧ (t.core k).nfseen = (c.nfseen && !w.b 33))) ∧
  ∀ x ∈ ([(.cset site w, 0x08, w.z 63 35 && w.z 127 96), (.cadd site w, 0x09, w.z 63 35 && w.z 127 96),
    (.caddc site w, 0x0A, w.z 35 35 && w.z 127 39), (.cmpset site w, 0x0C, w.z 63 45 && w.z 127 96 && decide (w.f 44 42 ≤ 5)),
    (.clrseen site w, 0x0D, w.z 127 34)] : List (Instr × Byte × Bool)),
    Ready s site x.2.1 w → (!w.last && x.2.2) = false → Completes x.1 s fun t =>
      SlotFailed s t site x.2.1.toNat stBadParam ∧ (t.slotAt site).ptr = (s.slotAt site).ptr ∧ ∀ n, (t.core k).cnt n = c.cnt n

/-- R162: NOP does nothing; HALT halts its slot, with its pointer at the command after HALT. R159, R160: FENCE sets the slot's mark
where it matches its phase tag under STRICT; TOKEN puts its tokens on their way and WAITTOKEN subtracts its own; each completes when
its scope or count holds. R105, R106: where every mark that is awaited has been executed, PHASE_CHANGE flips the phase: no slot has
marked the new one, and a change to HEADRACE takes up the half's policy. Otherwise it leaves the Triat as it is. -/
def Obligations.SynchronisationCommandsComplete : Prop :=
  (∀ (s : State) (site : Site) (w : CmdWord), w.last = false → w.z 127 32 →
  (Ready s site 0x00 w → Completes (.nop site w) s fun t => Passed s t site 1 id id) ∧
  (Ready s site 0x01 w → Completes (.halt site w) s fun t => Moved s t site { (s.slotAt site).behind 1 with st := 2 } id id)) ∧
  (∀ (s : State) (site : Site) (w : CmdWord), let k := site.core.toNat; let sl := s.slotAt site
  w.last = false →
  (Ready s site 0x02 w → w.z 127 37 → w.f 34 32 ≤ 3 → w.f 36 35 ≤ 2 → s.scopeHolds site (w.f 34 32) = true →
    Completes (.fence site w) s fun t =>
      Moved s t site (if w.f 36 35 ≠ 0 ∧ sl.tag.toNat = w.f 36 35 ∧ s.readyFirst site.core = false then
        { sl.behind 1 with marked := true } else sl.behind 1) id id) ∧
  (Ready s site 0x03 w → w.z 35 35 → w.z 127 67 → w.f 34 32 ≤ 3 → w.f 66 51 ≠ 0 → s.scopeHolds site (w.f 34 32) = true →
    s.hasCore (BitVec.ofNat 12 (w.f 47 36)) = true → s.stilledCross (halfOf site.core) (halfOf (BitVec.ofNat 12 (w.f 47 36))) = false →
    Completes (.token site w) s fun t => Passed s t site 1 (fun s => { s with net := {} }) id ∧
      t.net = { s.net with tokens := s.net.tokens ++
        [{ src := some site, target := BitVec.ofNat 12 (w.f 47 36), tc := BitVec.ofNat 3 (w.f 50 48), n := BitVec.ofNat 16 (w.f 66 51) }] }) ∧
  (Ready s site 0x04 w → w.z 127 51 → w.f 50 35 ≠ 0 → w.f 50 35 ≤ ((s.core k).tc (w.f 34 32)).toNat →
    Completes (.waittoken site w) s fun t => Passed s t site 1 id (fun c => { c with tcs := [], held := [] }) ∧
      ∀ n, ((t.core k).tc n).toNat + (t.core k).heldFor n + (if n = w.f 34 32 then w.f 50 35 else 0) =
        ((s.core k).tc n).toNat + (s.core k).heldFor n)) ∧
  (∀ (s : State) (core : CoreId), let k := core.toNat; let c := s.core k
  (s.phaseDue core = false → exec (.phaseChange core) s = .next s) ∧
  (s.phaseDue core = true → Completes (.phaseChange core) s fun t =>
    CoreMoved s t core id (fun c => { c with slots := [], tailrace := false, lag := none }) ∧
    (t.core k).tailrace = (!c.tailrace) ∧ (∀ n, (t.core k).slot n = { c.slot n with marked := false }) ∧
    (t.core k).lag = if c.tailrace then none else c.lag))

/-- R154, R155: LOOP takes its count into a new level and goes to the first word of its body; with a count of 0 it passes the body.
R156, R157: FUSE with a count of 0 passes its group; otherwise its slot takes the group up. While the group is in execution each member
whose turn it is issues its next iteration; when every member has done all its iterations, the group releases its slot and raises its
event. -/
def Obligations.LoopsAndFusedGroupsRun : Prop :=
  (∀ (s : State) (site : Site) (w : CmdWord), let sl := s.slotAt site; let n := w.f 71 60
  let count := if w.b 35 then w.f 59 36 else ((s.core site.core.toNat).cnt (w.f 34 32)).toNat
  Ready s site 0x05 w → w.last = false → w.z 127 72 → n ≠ 0 → sl.loops.length < 4 →
  (∀ l, sl.loops.head? = some l → (nextPtr sl.ptr (1 + n) - sl.ptr).toNat ≤ (l.past - sl.ptr).toNat) →
  (count = 0 → Completes (.loop site w) s fun t => Passed s t site (1 + n) id id) ∧
  let level : LoopLevel := { first := nextPtr sl.ptr 1, past := nextPtr sl.ptr (1 + n), count := w32 count }
  (count ≠ 0 → s.bodyOk site.core sl.gen n 0 (nextPtr sl.ptr 1) = true → Completes (.loop site w) s fun t =>
    Moved s t site { sl with ptr := nextPtr sl.ptr 1, loops := level :: sl.loops } id id)) ∧
  (∀ (s : State) (site : Site) (w : CmdWord),
  let k := site.core.toNat; let sl := s.slotAt site; let n := w.f 34 32; let x := s.ctx site 0x06 w
  let group := (s.mark x (1 + n)).groupOf x
  (Ready s site 0x06 w → fuseOk s x = true →
    group.total = countOf (s.core k) (w.b 39) (w.f 63 40) (w.f 38 36) ∧ group.done = List.replicate n 0 ∧ group.w = w ∧
    (group.total = 0 → Completes (.fuse site w) s fun t => Passed s t site (1 + n) id id) ∧
    (group.total ≠ 0 → Completes (.fuse site w) s fun t => Moved s t site { sl.behind (1 + n) with group := some group } id id)) ∧
  (∀ (g : GroupRun) (m : Nat) (c : Cmd) (u : State), let x := s.memberCtx site g m
    let h : GroupRun := { g with done := g.done.set m (nth 0 g.done m + 1) }
    let t := s.updCore k fun c => c.updSlot site.slot.toNat fun sl => { sl with group := some h }
    Quiet s site.core → sl.group = some g → g.w = w → s.picked site = true → s.nextMember site = some (g, m) → sl.stop = false → sl.swap = none →
    cmdOf x.op = some c → c.check x s = none → c.body x (t.mark x 0) = .done u → (u.core k).runs = [] → (u.core k).backlog = [] →
    u.slotAt site = (t.mark x 0).slotAt site →
    let v := u.updCore k (·.dropRun x.id)
    ((∃ i, i < h.done.length ∧ nth 0 h.done i ≠ g.total) → Completes (.fuse site w) s fun t' => t' = v) ∧
    ((∀ i, i < h.done.length → nth 0 h.done i = g.total) →
      let r := v.updCore k fun c => c.updSlot site.slot.toNat fun sl => { sl with group := none }
      (w.b 100 = false → Completes (.fuse site w) s fun t' => t' = r) ∧
      (w.b 100 = true → Completes (.fuse site w) s fun t' =>
        t' = ((r.layerEvent (halfOf site.core) (w.f 99 88)).boundary site).flushRacc site.core))))

/-- R124, R126, R127: a product command that passes its check takes its stream from its queue unit by unit (R60), runs the products of
each into its tiles, and its slot goes on; the LAST of an OPROD raises its event (R125). OPDIAG's other operations push the diagonals
of each step as it is done (R85). -/
def Obligations.ProductCommandsComplete : Prop :=
  ∀ (s u : State) (site : Site) (w : CmdWord), let k := site.core.toNat
  let tiles (c : Core) : Core := { c with rings := [], tiles := [], pseen := false, nfseen := false, counts := [] }
  (let x := s.ctx site 0x10 w; Ready s site 0x10 w → oprodOk s x = true →
    ProductRuns (oprodSlice w).units (oprodSlice w).fa Core.oprod x (s.mark x 1) u →
    (w.last = false → Ends (.oprod site w) s x u id tiles) ∧
    (w.last = true → exec (.oprod site w) s =
      .next (((u.layerEvent (halfOf site.core) (w.f 95 84)).ended x none).flushRacc site.core))) ∧
  (let x := s.ctx site 0x11 w; Ready s site 0x11 w → s.hasSlice = true → opsliceOk s x = true →
    ProductRuns (((sliceGroup w).g - 1) * (sliceGroup w).k) .int8 Core.opslice x (s.mark x 1) u →
    Ends (.opslice site w) s x u id tiles) ∧
  (let x := s.ctx site 0x12 w; Ready s site 0x12 w → opdiagOk s x = true →
    (opdiagOp w = 5 → ProductRuns (opdiagSlice w).units (opdiagSlice w).fa Core.diagMac x (s.mark x 1) u →
      Ends (.opdiag site w) s x u id tiles) ∧
    (opdiagOp w ≠ 5 →
      InUnits (opdiagSlice w).k x (fun x p q o => ∃ r p1, diagColumn x p = .got r p1 ∧ o = r.1 ∧
        let out := diagOut x (x.opes.map (p1.core k).bed) r.2 (nth 0 (opdiagSlice w).lines x.unit)
        p1.room x w.qo out.1.length = true ∧ q = (p1.push x w.qo out.1).updCore k (·.effect out.2)) (s.mark x 1) u →
      Ends (.opdiag site w) s x u vopDie vopCore))

/-- R128, R130: BEDLOAD fills the bedstone of each enabled OPE from its queue; TREAD puts a record of each enabled OPE's tile into Q14.
-/
def Obligations.BedloadAndTreadComplete : Prop :=
  ∀ (s u : State) (site : Site) (w : CmdWord) (bs : List MB), let k := site.core.toNat
  (let x := s.ctx site 0x13 w; Ready s site 0x13 w → bedloadOk s x = true →
    take (s.mark x 1) x w.qa ((bedF w).bytes x.opes.length) = .got bs u →
    Ends (.bedload site w) s x (u.updCore k (·.bedload (bedF w) x.opes bs)) id (fun c => { c with rings := [], beds := [] }) ∧
      ∀ e, e ∉ x.opes → ((u.updCore k (·.bedload (bedF w) x.opes bs)).core k).bed e = (s.core k).bed e) ∧
  (let x := s.ctx site 0x14 w; Ready s site 0x14 w → treadOk s x = true →
    InUnits x.opes.length x (fun x p q o => o = x.once ∧ let r := treadRec x (p.core k) (nth 0 x.opes x.unit)
      p.room x 14 r.1.length = true ∧ q = (p.push x 14 r.1).updCore k (·.effect r.2)) (s.mark x 1) u →
    Ends (.tread site w) s x u vopDie vopCore)

/-- R132 to R135: FETCH reads its rows from cluster shared memory or from device memory and pushes them on its queue, when every sector
that it asks for is served with OK; a hint takes a stream of the cluster stream unit, where there is a CSU area; a FETCH that run-ahead
has already made only passes. -/
def Obligations.FetchCompletes : Prop :=
  ∀ (s : State) (site : Site) (w : CmdWord), let k := site.core.toNat; let x := s.ctx site 0x20 w
  let f := xferOf x; let cl := clusterOf site.core; let m := s.mark x 1
  Ready s site 0x20 w → fetchOk s x = true →
  (f.hint = true → bits (s.cluster cl).cfg 5 0 = 0 → Ends (.fetch site w) s x m id id) ∧
  (f.hint = true → bits (s.cluster cl).cfg 5 0 ≠ 0 →
    Ends (.fetch site w) s x (m.updCsu cl (·.hint (BitVec.ofNat 48 f.addr) (f.rows ++ f.scaleRows))) (fun s => { s with csus := [] }) id) ∧
  (f.hint = false → ((s.core k).aheadOf x.ptr w).any (!·.dropped) = true →
    Ends (.fetch site w) s x (m.updCore k (·.passAhead x.ptr w)) id (fun c => { c with ahead := [] })) ∧
  (f.hint = false → ((s.core k).aheadOf x.ptr w).any (!·.dropped) = false →
    let y : Ctx := { x with pieces := List.replicate f.secs.length .todo }
    let v := ((m.updCore k (·.passAhead x.ptr w)).putRun y).askAll y (lineRuns f.secs.length 0 (f.secs.map (·.1)))
    let ps := (v.runOf y).pieces
    ps.length = f.secs.length → (∀ p ∈ ps, ∃ d, p = .got d stOk) →
    let got := servedBytes (ps.zip f.secs); let scales := (got.take f.scaleCount).flatten
    (f.space = 0 → exec (.fetch site w) s =
      .next (((v.push x w.qo (f.output scales (got.drop f.scaleCount)).flatten).ended x none).flushRacc site.core)) ∧
    (f.space = 1 → ∀ rows c, (v.cluster cl).readRows f.rows [] = (rows, false, c) → exec (.fetch site w) s =
      .next ((((v.updCluster cl fun _ => c).push x w.qo (f.output scales rows).flatten).ended x none).flushRacc site.core)))

/-- R132, R135, R136: STORE writes its words to cluster shared memory or sends them toward their controllers, line by line; SEND and
RECV move granules from one queue to another as far as there are data and credit, changing no bits or marks. -/
def Obligations.StoreSendRecvComplete : Prop :=
  ∀ (s u : State) (site : Site) (w : CmdWord) (bs : List MB), let cl := clusterOf site.core
  (let x := s.ctx site 0x21 w; let f := xferOf x; Ready s site 0x21 w → storeOk s x = true →
    InUnits f.lines.length x (fun x p q o => o = x.once ∧ let e := nth (0, 0) f.lines x.unit; ∃ d p1, take p x w.qa e.2 = .got d p1 ∧
      (f.space = 1 → ∃ c, (p1.cluster cl).writeLine e.1 e.2 (wordsOf d) = (false, c) ∧ q = p1.updCluster cl fun _ => c) ∧
      (f.space = 0 → (sectorsOf e.1 e.2).length ≤ p.trackerRoom x.c ∧
        ∃ pa na p2, p1.translate (.core site.core) (BitVec.ofNat 48 e.1) .w = (.ok pa na, p2) ∧
          q = p2.sendStore x pa na (storeParts e.1 e.2 (wordsOf d)))) (s.mark x 1) u →
    exec (.store site w) s = .next ((u.ended x none).flushRacc site.core)) ∧
  ∀ c ∈ ([(.send site w, 0x22, w.qo), (.recv site w, 0x23, w.qa)] : List (Instr × Byte × BitVec 4)),
    let x := s.ctx site c.2.1 w; let m := s.mark x 1; let n := moveLen w
    let a := m.granulesIn x w.qa n; let g := a ⊓ m.granulesOut x w.qo n
    Ready s site c.2.1 w → isLink c.2.2 = true → moveOk s x = true → g ≠ 0 → take m x w.qa (8 * g) = .got bs u →
    let v := u.push x w.qo bs
    (g = n → Ends c.1 s x v (fun s => { s with net := {} }) (fun c => { c with rings := [] })) ∧
    (g < n → let y : Ctx := { x with unit := g }
      exec c.1 s = .next ((v.putRun y).absorb y (if g = a then .inQ w.qa else .outQ w.qo)))

/-- R137, R138: RACC cuts its data into packets and hands each to the fabric as its data come; it stands in execution until as many
acknowledgements have come as there are packets. -/
def Obligations.RaccSendsItsPackets : Prop :=
  ∀ (s u : State) (site : Site) (w : CmdWord), let k := site.core.toNat; let x := s.ctx site 0x24 w
  let f := raccF x; let n := f.pieces.length; let y : Ctx := { x with acks := n }
  Ready s site 0x24 w → raccOk s x = true →
  InUnits n y (fun x p q o => o = x.once ∧ let e := nth (0, 0) f.pieces x.unit; ∃ bs p1, take p x w.qa e.2 = .got bs p1 ∧
    let d := raccData f.form f.retract bs
    q = (p1.want (f.packet d.1 e) (.racc site)).updCore k (·.effect d.2)) (s.mark x 1) u →
  exec (.racc site w) s = .next (u.putRun { y with ended := true }).flush ∧
    Moved s (u.putRun { y with ended := true }) site ((s.slotAt site).behind 1) (fun s => { s with fab := {} })
      (fun c => { c with rings := [], runs := [], pseen := false, nfseen := false, counts := [] })

/-- R139 to R142: VEW, VUN, VRED and VCVT take their rows, compute and push the result, each on every value of its operands. R143 to
R145: VNORM and VNORMB in REDUCE push a record a row, with the row behind it where it travels inline; in APPLY they push the rows
normalised by their records. -/
def Obligations.ElementwiseAndNormCommandsComplete : Prop :=
  (∀ (s u : State) (site : Site) (w : CmdWord),
  VopEnds (.vew site w) 0x40 Vop.rowStep vewOk (fun v _ x p q o => ∃ a p1 bb p2, takeA p x v = .got a p1 ∧
    (if v.bcast then takeOnce p1 x w.qb v.bNeed else take p1 x w.qb v.bNeed) = .got bb p2 ∧ o = (if v.bcast then bb else []) ∧
    let bs := (chunk (v.fb.rowBytes v.bLen) bb).map (v.fb.decodeRow v.bLen)
    Gives x w.qo (vewOut v w.rtz p2.fresh a.1 bs) ((a.2.add (rowsEff a.1)).add (if v.useB then rowsEff bs else {}))
      (v.rows * v.rowlen) p2 q) s u site w ∧
  VopEnds (.vun site w) 0x41 Vop.rowStep vunOk (fun v _ x p q o => o = x.once ∧ ∃ a p1, takeA p x v = .got a p1 ∧
    Gives x w.qo (vunOut v w.rtz p1.fresh a.1) (a.2.add (rowsEff a.1)) (v.rows * v.rowlen) p1 q) s u site w ∧
  VopEnds (.vred site w) 0x42 Vop.rowStep vredOk (fun v _ x p q o => o = x.once ∧ ∃ a p1 bs p2, takeA p x v = .got a p1 ∧
    takeRows p1 x w.qb v.fb v.dotRows v.rowlen = .got bs p2 ∧
    Gives x w.qo (vredOut v w.rtz p2.fresh a.1 bs) ((a.2.add (rowsEff a.1)).add (rowsEff bs)) v.rows p2 q) s u site w ∧
  VopEnds (.vcvt site w) 0x43 Vop.cvtStep vcvtOk (fun v _ x p q o => o = x.once ∧ ∃ a p1, takeA p x v = .got a p1 ∧
    Gives x w.qo (vcvtOut v w.rtz a.1) (a.2.add (rowsEff a.1)) 0 p1 q) s u site w) ∧
  (∀ (s u : State) (site : Site) (w : CmdWord),
  VopEnds (.vnorm site w) 0x44 Vop.rowStep vnormOk (fun v _ x p q o =>
    (v.sb 0 = true → ∃ gb p1 a p2, takeOnce p x w.qb (vnormQb v * v.fb.rowBytes v.rowlen) = .got gb p1 ∧ o = gb ∧
      takePassA p1 x v (v.sb 2) false 8 = .got a p2 ∧ let gs := (chunk (v.fb.rowBytes v.rowlen) gb).map (v.fb.decodeRow v.rowlen)
      Gives x w.qo (vnormOut v w.rtz p2.fresh gs a.1) ((a.2.add (passEff a.1)).add (rowsEff gs)) 0 p2 q) ∧
    (v.sb 0 = false → o = x.once ∧ ∃ a p1, takePassA p x v false false 0 = .got a p1 ∧ let recs := vnormRecs v w.rtz a.1
      p1.room x v.qs (recs.flatMap (·.1)).length = true ∧ Gives x w.qo (inlineRows (v.sb 2) recs a.1, {})
        ((a.2.add (passEff a.1)).add (effSum (recs.map (·.2)))) 0 (p1.push x v.qs (recs.flatMap (·.1))) q)) s u site w ∧
  VopEnds (.vnormb site w) 0x45 Vop.rowStep vnormbOk (fun v _ x p q o => o = x.once ∧
    (v.sb 0 = true → ∃ a p1, takePassA p x v (v.sb 2) true 16 = .got a p1 ∧
      Gives x w.qo (vnormbOut v w.rtz p1.fresh a.1) (a.2.add (passEff a.1)) 0 p1 q) ∧
    (v.sb 0 = false → ∃ a p1, takePassA p x v false true 8 = .got a p1 ∧ let recs := vnormbRecs v w.rtz a.1
      Gives x w.qo (recRows (v.sb 2) recs a.1, effSum (recs.map (·.2))) (a.2.add (passEff a.1)) 0 p1 q)) s u site w)

/-- R146 to R148: VSMAX and VSMAXB in REDUCE and APPLY, and VSTATM, which merges two queues of partial records. -/
def Obligations.SoftmaxCommandsComplete : Prop :=
  ∀ (s u : State) (site : Site) (w : CmdWord),
  VopEnds (.vsmax site w) 0x46 Vop.rowStep vsmaxOk (fun v _ x p q o => o = x.once ∧
    (v.sb 0 = true → ∃ a p1, takePassA p x v (v.sb 2) false 8 = .got a p1 ∧
      Gives x w.qo (vsmaxOut v w.rtz p1.fresh a.1) (a.2.add (passEff a.1)) (smaxUsed v) p1 q) ∧
    (v.sb 0 = false → ∃ a p1, takePassA p x v false false 0 = .got a p1 ∧ let recs := vsmaxRecs v w.rtz p1.fresh a.1
      p1.room x v.qs (recs.flatMap (·.1)).length = true ∧ Gives x w.qo (inlineRows (v.sb 2) recs a.1, {})
        ((a.2.add (passEff a.1)).add (effSum (recs.map (·.2)))) (smaxUsed v) (p1.push x v.qs (recs.flatMap (·.1))) q)) s u site w ∧
  VopEnds (.vsmaxb site w) 0x47 Vop.rowStep vsmaxbOk (fun v _ x p q o => o = x.once ∧
    (v.sb 0 = true → ∃ a p1, takePassA p x v (v.sb 2) true 16 = .got a p1 ∧
      Gives x w.qo (vsmaxbOut v w.rtz p1.fresh a.1) (a.2.add (passEff a.1)) (smaxUsed v) p1 q) ∧
    (v.sb 0 = false → ∃ a p1, takePassA p x v false true 8 = .got a p1 ∧ let recs := vsmaxbRecs v w.rtz p1.fresh a.1
      Gives x w.qo (recRows (v.sb 2) recs a.1, effSum (recs.map (·.2))) (a.2.add (passEff a.1)) (smaxUsed v) p1 q)) s u site w ∧
  VopEnds (.vstatm site w) 0x48 (fun _ => 1) vstatmOk (fun v _ x p q o => o = x.once ∧ ∃ a p1 b p2,
    take p x w.qa (8 * v.rows) = .got a p1 ∧ take p1 x w.qb (8 * v.rows) = .got b p2 ∧ let outs := vstatmRecs v w.rtz p2.fresh a b
    p2.room x w.qo (outs.flatMap (·.1.1)).length = true ∧
      Gives x v.qs (if v.sb 1 then outs.flatMap (·.2.1) else [], if v.sb 1 then effSum (outs.map (·.2.2)) else {})
        (({ ps := anyPoison a || anyPoison b } : Eff).add (effSum (outs.map (·.1.2)))) (3 * v.rows)
        (p2.push x w.qo (outs.flatMap (·.1.1))) q) s u site w

/-- R149 to R152: VROPE rotates the pairs of its rows, VDROP keeps or drops each element by its hash, VSPLIT cuts lines into slices,
VSLREC puts slice products together again, and VBXADD adds or subtracts BX16 blocks. -/
def Obligations.RotateDropSplitCommandsComplete : Prop :=
  ∀ (s u : State) (site : Site) (w : CmdWord),
  VopEnds (.vrope site w) 0x49 Vop.rowStep vropeOk (fun v r x p q o => o = x.once ∧ ∃ a p1, takeA p x v = .got a p1 ∧
    Gives x w.qo (vropeOut v w.rtz p1.fresh (fun i => ropePos x (r + i)) a.1) (a.2.add (rowsEff a.1)) (v.rows * v.rowlen) p1 q) s u site w ∧
  VopEnds (.vdrop site w) 0x4A Vop.rowStep vdropOk (fun v r x p q o => o = x.once ∧ ∃ a p1, takeA p x v = .got a p1 ∧
    Gives x w.qo (vdropOut v w.rtz p1.fresh (x.cnt (v.s 3 1)) (x.cnt (v.s 6 4) + w32 r) a.1) (a.2.add (rowsEff a.1)) 0 p1 q) s u site w ∧
  VopEnds (.vsplit site w) 0x4B Vop.splitStep vsplitOk (fun v _ x p q o => o = x.once ∧ ∃ a p1, takeA p x v = .got a p1 ∧
    let ls := a.1.map (splitLine (v.s 3 0))
    p1.room x v.qs (vsplitExps ls).length = true ∧
      Gives x w.qo (vsplitOut v ls, {}) (a.2.add (effSum (ls.map (·.eff)))) 0 (p1.push x v.qs (vsplitExps ls)) q) s u site w ∧
  VopEnds (.vslrec site w) 0x4C (fun _ => 1) vslrecOk (fun v _ x p q o => o = x.once ∧ ∃ ts p1,
    takeTiles x (v.s 3 0) v.rows [] {} p = .got ts p1 ∧
    Gives x w.qo (outRows v.fo w.rtz false p1.fresh ts.1) (ts.2.add { ps := ts.1.any fun t => t.any (·.2) }) 0 p1 q) s u site w ∧
  VopEnds (.vbxadd site w) 0x4D (fun _ => 1) vbxaddOk (fun v _ x p q o => o = x.once ∧ ∃ a p1 b p2,
    take p x w.qa v.bxBytes = .got a p1 ∧ take p1 x w.qb v.bxBytes = .got b p2 ∧
    Gives x w.qo (vbxaddOut (decide (v.sub = 1)) w.rtz a b) {} 0 p2 q) s u site w

/-! ### Events of the cores -/

/-- R99, R100, R102: a miss of the instruction cache fetches the line of the slot's next command, after which the cache holds its four
words; where the fetch fails the slot fails, and a poisoned line leaves its pointer at the line's first command. A word whose parity
fails is fetched again, or the slot fails POISONED, with opcode 0 by the model's choice (log entry 42). No other core has changed. R107
to R109: where the fetch engine may run ahead to a FETCH, it issues it: its data go to its queue and it stands as issued; one whose
resident translations do not permit the read is dropped and counted; at a FETCH on the way to it of which a translation is not resident
the engine stops. -/
def Obligations.InstructionLinesAndRunAhead : Prop :=
  (∀ (s u : State) (site : Site) (ws : List (BitVec 128)) (i : FaultInfo), let k := site.core.toNat; let c := s.core k
  let sl := s.slotAt site; let start := lineStart sl.ptr
  let known (v : State) : Prop := ∀ n, n < 4 → ∀ y, (v.core k).nextWord n = some y → (cmdOf y.1).isSome = true
  let filled (t : State) : Prop := (∀ n, n < 4 → (t.core k).iword sl.gen (start + BitVec.ofNat 48 (16 * n)) = some (nth 0 ws n)) ∧
    t.slotAt site = sl ∧ ∀ j, j ≠ k → t.core j = s.core j
  Quiet s site.core → c.fenced = false → sl.st = 1 → sl.group = none →
  (c.iline sl.gen sl.ptr = none →
    let s1 := s.updCore k (·.count 0x310 1)
    known ((s1.demandLine site).specLine site.core sl.gen (start + 64)) →
    (s1.fetchLine site.core start = (.ok ws, u) → Completes (.icacheFill site .miss) s filled) ∧
    (s1.fetchLine site.core start = (.error i, u) → Completes (.icacheFill site .miss) s fun t =>
      SlotFailed s t site 0 i.status ∧
        (t.slotAt site).ptr = if i.status = stPoisoned ∧ i.cause = 0xFF then start else sl.ptr)) ∧
  ((c.iline sl.gen sl.ptr).isSome = true →
    let s1 := s.updCore k (·.dropIline sl.gen start)
    (known (s1.demandLine site) → s1.fetchLine site.core start = (.ok ws, u) → Completes (.icacheFill site (.parity false)) s filled) ∧
    (known (s1.failSlot site 0 { status := stPoisoned }) → Completes (.icacheFill site (.parity true)) s fun t =>
      SlotFailed s t site 0 stPoisoned ∧ (t.core k).iline sl.gen sl.ptr = none))) ∧
  (∀ (s u : State) (core : CoreId) (va : VA) (w : CmdWord), let k := core.toNat; let c := s.core k; let sl := c.slot 0
  let site : Site := { core := core, slot := 0 }
  let x := s.aheadCtx core va w
  let f := xferOf x; let scan := s.scanAhead core sl.gen va w (16 * bits c.ctrl 8 4) (s.scanStart core)
  bit c.ctrl 0 = true → c.fenced = false → sl.st = 1 → s.storesDone site = true → sl.swap = none → (∀ r ∈ c.runs, r.op ≠ 0x21) →
  let issued (t v : State) (words : Nat) (dropped : Bool) : Prop := let d := (v.core k).dropRun x.id
    (∀ j, j ≠ k → t.core j = v.core j) ∧ { t with cores := [] } = { v with cores := [] } ∧
    (t.core k).ahead = c.ahead ++ [{ va := va, w := w, q := w.qo, words := words, dropped := dropped }] ∧
    { t.core k with ahead := [], counts := [] } = { d with ahead := [], counts := [] } ∧
    ∀ off, SMap.get 0 (t.core k).counts off = SMap.get 0 d.counts off + if off = (if dropped then 0x328 else 0x320) then 1 else 0
  (∀ p, scan = .page p → Completes (.runAheadFetch core va w) s fun t =>
    CoreMoved s t core id (fun c => { c with raStop := none }) ∧ (t.core k).raStop = some p) ∧
  (scan = .no → Completes (.runAheadFetch core va w) s fun t => t = s) ∧
  (scan = .found → f.pushed ≤ s.creditWords core w.qo.toNat * 4 → c.clogged w.qo = false → s.spanOf core f = .dropped →
    Completes (.runAheadFetch core va w) s fun t => issued t s 0 true) ∧
  (scan = .found → f.pushed ≤ s.creditWords core w.qo.toNat * 4 → c.clogged w.qo = false → s.spanOf core f = .open_ → fetchOk s x = true → (s.updCore k fun c => { c with ahead := [] }).fetchAhead x = some u →
    Completes (.runAheadFetch core va w) s fun t => issued t u (f.pushed / 4) false))

/-- R96, R160, R221: the oldest tokens of a slot for a core are counted there, or held back where the counter cannot take them; the
oldest push of a link queue enters the ring of its peer; and an acknowledgement of a STORE whose invalidations are done is taken. -/
def Obligations.TokensPushesAndAcknowledgementsArrive : Prop :=
  ∀ (s : State),
  (∀ (src : Site) (target : CoreId) (t0 : Tok), let k := target.toNat
    s.net.tokens.find? (fun t => decide (t.src = some src ∧ t.target = target)) = some t0 →
    s.turnedTo (.core src.core) target = none → Completes (.tokenArrival src target) s fun t =>
      t.net = { s.net with tokens := s.net.tokens.erase t0 } ∧
      CoreMoved s t target (fun s => { s with net := {} }) (fun c => { c with tcs := [], held := [] }) ∧
      ∀ n, ((t.core k).tc n).toNat + (t.core k).heldFor n =
        ((s.core k).tc n).toNat + (s.core k).heldFor n + if n = t0.tc.toNat then t0.n.toNat else 0) ∧
  (∀ (core : CoreId) (q : BitVec 2) (p : Push), s.oldestPush core q = some p → s.turnedTo (.core p.src) p.dst = none →
    Completes (.linkQueuePush core q) s fun t =>
      t.net = { s.net with pushes := s.net.pushes.erase p } ∧
      CoreMoved s t p.dst (fun s => { s with net := {} }) (fun c => { c with rings := [] }) ∧
      ∀ n, ((t.core p.dst.toNat).ring n).data =
        ((s.core p.dst.toNat).ring n).data ++ if n = p.dstQ.toNat then p.data else []) ∧
  (∀ (site : Site) (a : StoreAck), (s.core site.core.toNat).fenced = false →
    s.net.acks.find? (fun a => decide (a.site = site) && !(s.net.invals.any fun i =>
      decide ((i.wid = a.wid ∧ a.wid ≠ 0) ∨ (i.line = a.line ∧ i.seq < a.seq)))) = some a →
    let rest : Net := { s.net with acks := s.net.acks.erase a }
    (a.status = stOk → Completes (.storeAck site) s fun t => t = { s with net := rest }) ∧
    (a.status ≠ stOk → Completes (.storeAck site) s fun t => t.net = rest ∧ SlotFailed s t site 0x21 a.status))

/-- R97, R161, R194, R196, R204, R208: what is turned back on its way comes back and is counted where it turns: a push ends its
command, with the slot's pointer at it and no more of its output to come, and the others of that command only go; a token travels home,
where it fails its slot; a response to a fenced core is lost. R64, R73, R102, R195: parity that fails in a core's control state fences
the core: every slot is FAULTED with FENCED, unless it was so before; no command stays in execution and nothing waits to be pushed; the
tiles of the product commands that it stops are POISONED, and the bedstones of a BEDLOAD not loaded; the tokens held back at it go home
(R192), the reads it waits for are counted as turned back at its router (R196); and CORE_FENCED names the core with cause 1. No other
core has changed. -/
def Obligations.FencedCoresAndPathsBounce : Prop :=
  (∀ (s : State),
  let counted (t : State) (w : Turned) : Prop := match w with
    | .router k => (∀ j, t.half j = s.half j) ∧ ∀ j off,
        SMap.get 0 (t.cluster j).counts off = SMap.get 0 (s.cluster j).counts off + (if j = k ∧ off = 0x3C then 1 else 0)
    | .seam h => (∀ j, t.cluster j = s.cluster j) ∧ ∀ j off,
        SMap.get 0 (t.half j).counts off = SMap.get 0 (s.half j).counts off + (if j = h ∧ off = 0x4020 then 1 else 0)
  (∀ (core : CoreId) (q : BitVec 2) (p : Push) (w : Turned), s.oldestPush core q = some p → s.turnedTo (.core p.src) p.dst = some w →
    (s.core core.toNat).fenced = false → let from_ : Site := { core := core, slot := p.origin.slot }
    let rest : Net := { s.net with pushes := s.net.pushes.erase p }
    (p.told = true → Completes (.fencedBounce (.push core q)) s fun t => t.net = rest ∧ counted t w ∧ t.cores = s.cores ∧ t.ctl = s.ctl) ∧
    (p.told = false → Completes (.fencedBounce (.push core q)) s fun t =>
      t.net = rest.tell p ∧ counted t w ∧ SlotFailed s t from_ p.origin.opcode.toNat stFenced ∧
      ((s.slotAt from_).st ≠ 3 → (t.slotAt from_).ptr = p.origin.ptr ∧ (t.slotAt from_).loops = p.origin.loops) ∧
      (∀ b ∈ (t.core core.toNat).backlog, b.src ≠ p.origin) ∧
      ∀ r ∈ (t.core core.toNat).runs, ¬(r.slot = p.origin.slot ∧ r.op = p.origin.opcode ∧ r.ptr = p.origin.ptr))) ∧
  (∀ (src : Site) (target : CoreId) (t0 : Tok) (w : Turned),
    s.net.tokens.find? (fun t => decide (t.src = some src ∧ t.target = target)) = some t0 →
    s.turnedTo (.core src.core) target = some w → Completes (.fencedBounce (.token src target)) s fun t =>
      t.net = { s.net with tokens := s.net.tokens.erase t0, returning := s.net.returning ++ [t0] } ∧ counted t w ∧
      { t with net := {}, clusters := [], halves := [] } = { s with net := {}, clusters := [], halves := [] }) ∧
  (∀ (core : CoreId) (a : StoreAck), s.fencedCore core.toNat = true → s.net.acks.find? (fun a => decide (a.site.core = core)) = some a →
    Completes (.fencedBounce (.response core)) s fun t =>
      t.net = { s.net with acks := s.net.acks.erase a } ∧ counted t (.router (clusterOf core)) ∧
      { t with net := {}, clusters := [] } = { s with net := {}, clusters := [] }) ∧
  (∀ (src : Site) (target : CoreId) (t0 : Tok), (s.core src.core.toNat).fenced = false →
    s.net.returning.find? (fun t => decide (t.src = some src ∧ t.target = target)) = some t0 →
    Completes (.tokenReturn src target) s fun t =>
      t.net = { s.net with returning := s.net.returning.erase t0 } ∧ SlotFailed s t src 0x03 stFenced)) ∧
  (∀ (s : State) (core : CoreId), let k := core.toNat; let c := s.core k
  s.hasCore core = true → c.fenced = false → Completes (.controlStateParity core) s fun t =>
    (t.core k).fenced = true ∧ (t.core k).held = [] ∧ (t.core k).runs = [] ∧ (t.core k).backlog = [] ∧ (t.core k).ahead = [] ∧
    (∀ n, n < 4 → ((t.core k).slot n).st = 3 ∧
      ((t.core k).slot n).fault = if (c.slot n).st = 3 then (c.slot n).fault else w32 stFenced.toNat) ∧
    (∀ r ∈ c.runs, (∀ key ∈ targetTiles r.op r.w, ∀ e ∈ ((t.core k).tile key).list, e.st = 3) ∧
      (r.op = 0x13 → ∀ e, e < 4 → r.w.emask.getLsbD e = true → ((t.core k).bed e).loaded = false)) ∧
    (∀ j, j ≠ k → t.core j = s.core j) ∧
    let lost := (c.runs.map fun r => (r.pieces.filter Piece.waiting).length).sum
    let u := s.updCluster (clusterOf core) (·.count 0x3C lost)
    t = ({ u with cores := t.cores, net := { s.net with returning := s.net.returning ++ c.held.filter (·.src.isSome) } } : State).notify
      0x0004 [w32 k, w32 1])

/-! ### Cluster memory, stream units and translation -/

/-- R185, R248, R251 to R256, R231, R234: windows close, and a merge window goes to its controller as one request; a stream issues its
next line when it is its turn, or stops where the address does not translate; a prefetch returns and is held, or stops its stream, and
no demand waits on it any more; an invalidation takes a line's copy; and a walk leaves its leaf where the next translation finds it. -/
def Obligations.StreamUnitEventsComplete : Prop :=
  ∀ (s : State),
  let waits (t : State) (k : Nat) (pa : Nat) (prefetch : Option Nat) : Prop :=
    ∃ j, j / 64 = k ∧ ∃ r ∈ (t.core j).runs, Piece.waits (BitVec.ofNat 40 pa) prefetch ∈ r.pieces
  (∀ (cl : BitVec 6) (sector : BitVec 15), Completes (.csmWindowClose cl sector) s fun t =>
    (t.cluster cl.toNat).wins = (s.cluster cl.toNat).wins.eraseP (fun w => decide (w.sector = sector)) ∧
    { t.cluster cl.toNat with wins := [] } = { s.cluster cl.toNat with wins := [] } ∧
    (∀ j, j ≠ cl.toNat → t.cluster j = s.cluster j) ∧ { t with clusters := [] } = { s with clusters := [] }) ∧
  (∀ (cl : BitVec 6) (line : BitVec 32) (write : Bool), let k := cl.toNat
    ((s.csu k).win line write = none → Completes (.mergeWindowSend cl line write) s fun t => t = s) ∧
    (∀ w, (s.csu k).win line write = some w → Completes (.mergeWindowSend cl line write) s fun t =>
      (∀ w, w ∈ (t.csu k).wins ↔ w ∈ (s.csu k).wins ∧ ¬(w.line = line ∧ w.write = write)) ∧
      { t.csu k with wins := [] } = { s.csu k with wins := [] } ∧ (∀ j, j ≠ k → t.csu j = s.csu j) ∧
      (write = true → t.net.stores = s.net.stores.map (fun t =>
        if clusterOf t.site.core = k ∧ lineOfPa t.pa.toNat = line ∧ t.req = none then { t with req := some s.net.seq } else t) ∧
        { t with csus := [], net := {} } = { s with csus := [], net := {} }) ∧
      (write = false → ∀ i, i < 4 → w.sectors.getLsbD i = true → ¬waits t k (line.toNat * 256 + 64 * i) none))) ∧
  (∀ (cl : BitVec 6) (st : BitVec 4) (t0 : Stream) (va : VA) (n : Nat) (rest : List (VA × Nat)) (u : State),
    let k := cl.toNat; let c := s.csu k; let units := s.csuUnits k
    SMap.get none c.streams st.toNat = some t0 → t0.stopped = false → bits c.cfg 27 16 ≠ 0 → t0.rows = (va, n) :: rest → n ≠ 0 →
    (∀ cause, s.translate (.csu cl) va .r = (.bad cause, u) → Completes (.prefetchIssue cl st) s fun t =>
      SMap.get none (t.csu k).streams st.toNat = some { t0 with stopped := true } ∧ (t.csu k).inflight = c.inflight) ∧
    (s.pfCan k st.toNat = true → s.pfNext k ≠ some st.toNat → Completes (.prefetchIssue cl st) s fun t => t = s) ∧
    (∀ pa noalloc c', s.translate (.csu cl) va .r = (.ok pa noalloc, u) → t0.barred.contains (va.toNat / 2 ^ 21) = false →
      let line := lineOfPa pa
      let secs := (lineSectors va n).filter fun i => !c.has line i
      secs ≠ [] → c.held st.toNat + 64 * secs.length ≤ c.window units → c.trackers + secs.length ≤ bits c.cfg 27 16 →
      s.trackersIn k + s.demandNeed k + secs.length ≤ 3072 → s.storePending k line = false →
      c.makeRoom units (s.frameRoom k) line = some c' → s.pfNext k = some st.toNat → Completes (.prefetchIssue cl st) s fun t =>
        (t.csu k).inflight.length = c.inflight.length + 1 ∧ (t.csu k).turn = st ∧
        (∃ r, (t.csu k).inflight.getLast? = some r ∧ r.line = line ∧ r.stream = st ∧ r.cancelled = false ∧ r.demanded = 0 ∧
          ∀ i, i < 4 → r.sectors.getLsbD i = secs.contains i) ∧
        (SMap.get none (t.csu k).streams st.toNat).map (·.rows) = if passLine t0.rows = [] then none else some (passLine t0.rows))) ∧
  (∀ (cl : BitVec 6) (a : PfAnswer) (r : PfReq) (rest : List PfReq), let k := cl.toNat
    (s.csu k).inflight = r :: rest → (∀ i ∈ s.net.invals, ¬(i.csu = cl ∧ i.line = r.line ∧ i.seq < r.seq)) →
    Completes (.prefetchReturn cl a) s fun t =>
      (t.csu k).inflight = rest ∧ { t with csus := [], cores := [] } = { s with csus := [], cores := [] } ∧ (∀ j, j ≠ k → t.csu j = s.csu j) ∧
      (∀ i, i < 4 → r.sectors.getLsbD i = true → r.demanded.getLsbD i = true → ¬waits t k (r.line.toNat * 256 + 64 * i) (some r.seq)) ∧
      (r.cancelled = false → r.stale = false → r.answer a = .data →
        ∃ f ∈ (t.csu k).frames, f.line = r.line ∧ f.valid &&& r.sectors = r.sectors) ∧
      (r.cancelled = true ∨ r.stale = true ∨ r.answer a ≠ .data → (t.csu k).frames = (s.csu k).frames)) ∧
  (∀ (cl : BitVec 6) (line : BitVec 32) (i : Inval), let k := cl.toNat
    s.net.invals.find? (fun i => decide (i.csu = cl ∧ i.line = line)) = some i →
    (s.csu k).inflight.any (fun r => decide (r.line = line ∧ r.seq < i.seq ∧ r.status = stOk)) = false →
    Completes (.csuInvalidation cl line) s fun t =>
      t.net = { s.net with invals := s.net.invals.erase i } ∧ { t with csus := [], net := {} } = { s with csus := [], net := {} } ∧
      (∀ j, j ≠ k → t.csu j = s.csu j) ∧
      ∀ f, f ∈ (t.csu k).frames ↔ f ∈ (s.csu k).frames ∧ f.line ≠ line) ∧
  (∀ (who : Requester) (va : VA) (acc : Access) (pa : Nat) (noalloc : Bool) (u : State),
    s.hasRequester who = true → s.mayWalk who va = true → s.resident who va = none → s.translate who va acc = (.ok pa noalloc, u) →
    Completes (.pageWalk who va acc) s fun t => t = u ∧ ∃ e, t.resident who va = some e ∧ permits acc e.pte = true ∧ e.pa va = pa)

/-! ### Memory -/

/-- R53, R219: after a write into a sector the bytes of each written word read as its data, every other byte of memory reads as before,
and the mark of no other sector has changed; the sector is poisoned exactly when a written word is, or when it was and a word is not
written; and its cells show no mismatch any more (R217). R216, R217, R229: a read of a sector from its stack changes no byte; one that
shows its mark, or reads inverted, counts as stored poison and leaves the sector poisoned; one whose parity is right, or right when it
is replayed, is delivered; one that fails again leaves its cells known as wrong. Words of a cached sector whose parity fails are read
again, and poisoned where the sector is dirty. -/
def Obligations.SectorsAreWrittenAndReadWithTheirMarks : Prop :=
  (∀ (m : Mem) (a : Nat) (mask : BitVec 16) (data : List QW), m.wf = true → let m' := m.writeSector a mask data
  let base := a / 64 * 64
  m'.wf = true ∧
  (∀ i j, i < 16 → j < 4 → mask.getLsbD i = true → m'.read (base + 4 * i + j) = (nth {} data i).v.extractLsb' (8 * j) 8) ∧
  (∀ b, (∀ i, i < 16 → mask.getLsbD i = true → b < base + 4 * i ∨ base + 4 * i + 4 ≤ b) → m'.read b = m.read b) ∧
  (∀ b, b / 64 ≠ a / 64 → m'.poisoned b = m.poisoned b ∧ m'.wrongAt b = m.wrongAt b) ∧ m'.wrongAt a = 0 ∧
  (m'.poisoned a = true ↔ (∃ i, i < 16 ∧ mask.getLsbD i = true ∧ (nth {} data i).p = true) ∨ (m.poisoned a = true ∧ mask ≠ 0xFFFF))) ∧
  (∀ (s : State) (pa : PA) (noalloc : Bool) (words : BitVec 16) (first replay : ParityCheck)
    (b : BitVec 16), let p := s.place pa.toNat; let m := s.mc p.stack; let ch := channelOf p.off; let line := p.off / 256; let sec := p.off / 64 % 4
  let c := Instr.mcSectorRead { pa := pa, noalloc := noalloc, words := words } first replay
  let same (t : State) : Prop := (∀ a, t.mem.read a = s.mem.read a) ∧ { t with mcs := [], mem := {} } = { s with mcs := [], mem := {} }
  let counts (t : State) (off : Nat) : Prop := SMap.get 0 ((t.mc p.stack).chan ch).counts off = SMap.get 0 (m.chan ch).counts off + 1
  pa.toNat < s.capacity → s.mcShut p.stack = none → m.st = 1 → (m.chan ch).st = 2 →
  (m.held line sec = none →
    ((first = .allInverted ∨ (s.mem.poisoned pa.toNat = true ∧ first = .correct)) → Completes c s fun t =>
      same t ∧ t.mem.poisoned pa.toNat = true ∧ counts t 0x14) ∧
    (s.mem.poisoned pa.toNat = false → first = .correct → Completes c s fun t => same t ∧ t.mem.wrongAt pa.toNat = 0 ∧
      (noalloc = false → ∃ e ∈ ((t.mc p.stack).set line).ways, e.2.line = line ∧ e.2.valid.getLsbD sec = true)) ∧
    (s.mem.poisoned pa.toNat = false → first ≠ .correct → first ≠ .allInverted → replay = .correct → Completes c s fun t =>
      same t ∧ t.mem.wrongAt pa.toNat = 0 ∧ counts t 0x0C) ∧
    ((s.mem.poisoned pa.toNat = true ∨ replay ≠ .correct) → first ≠ .correct → first ≠ .allInverted → Completes c s fun t =>
      (∀ a, t.mem.read a = s.mem.read a) ∧ t.mem.wrongAt pa.toNat ≠ 0 ∧ counts t 0x10)) ∧
  (m.held line sec = some b →
    (words = 0 → Completes c s fun t => t = s) ∧
    (words ≠ 0 → (m.lineOf line).any (·.dirty.getLsbD sec) = true → Completes c s fun t =>
      { t with mcs := [] } = { s with mcs := [] } ∧ (t.mc p.stack).held line sec = some (b ||| words)) ∧
    (words ≠ 0 → (m.lineOf line).any (·.dirty.getLsbD sec) = false → Completes c s fun t =>
      t = ((s.updMc p.stack (·.count 0x114 (popcount 16 words.toNat))).updMc p.stack (·.dropSector line sec)).stackRead pa noalloc first replay)))

/-- R214, R215, R219 to R221, R211, R248: the STORE sectors of one request are served together and their answers start back: each
written, dropped at a FAILED channel, or turned away; eight persistent mismatches in one group spend a spare on it, or fail the
channel; and a stack above 85 degrees is refreshed at twice the rate, and drives THERM_N from 95 on (R428). That a write that a FAILED
channel drops is answered OK is log entry 45. -/
def Obligations.MemoryControllersServe : Prop :=
  ∀ (s : State),
  (∀ (site : Site) (t0 : StoreSec) (r : Nat), let p := s.place t0.pa.toNat; let pa := t0.pa.toNat; let c := Instr.mcSectorWrite site
    s.net.stores.find? (fun t => decide (t.site = site) && t.req.isSome) = some t0 → s.firstWrite t0 = some r →
    let mine := s.net.stores.filter fun u => decide (u.req = some r)
    let head (a : StoreAck) : Site × VA × Nat := (a.site, a.va, a.wid)
    (Completes c s fun t => t.net.stores = s.net.stores.filter (fun u => decide (u.req ≠ some r)) ∧
      t.net.acks.map head = s.net.acks.map head ++ (mine.map (·.pa)).eraseDups.flatMap fun a =>
        (mine.filter fun u => decide (u.pa = a)).map fun u => (u.site, u.va, s.net.seq + 1)) ∧
    (mine = [t0] → s.mcShut p.stack = none →
      let served (t : State) (st : Status) : Prop := t.net.acks.getLast?.map (·.status) = some st
      (s.locked (pa / 64 * 64) 64 = true → Completes c s fun t => served t stImageLocked ∧ t.mem = s.mem) ∧
      (s.locked (pa / 64 * 64) 64 = false → ((s.mc p.stack).chan (channelOf p.off)).st = 4 → Completes c s fun t => served t stOk ∧ t.mem = s.mem) ∧
      (s.locked (pa / 64 * 64) 64 = false → ((s.mc p.stack).chan (channelOf p.off)).st ≠ 4 → Completes c s fun t =>
        served t stOk ∧ ∀ a, t.mem.read a = (s.mem.writeSector pa t0.mask t0.data).read a))) ∧
  (∀ (stack ch : BitVec 4) (failing : List (BitVec 6)), let k := stack.toNat; let n := ch.toNat; let c := (s.mc k).chan n
    let mine := failing.filter fun l =>
      inGroup c.runGroup l || (decide (36 ≤ l.toNat ∧ l.toNat < 40) && inGroup c.runGroup (c.spare (l.toNat - 36)))
    s.hasStack k = true → c.st = 2 → 8 ≤ c.run →
    (c.needing mine = [] → Completes (.laneRepair stack ch failing) s fun t =>
      (t.mc k).chan n = { c with run := 0, runPas := [] } ∧ t.mem = s.mem) ∧
    (c.needing mine ≠ [] → ∀ new, c.repair mine = some new → Completes (.laneRepair stack ch failing) s fun t =>
      (t.mc k).chan n = { new with run := 0, runPas := [] } ∧ (∀ a, t.mem.read a = s.mem.read a) ∧
      ∀ a ∈ c.runPas, t.mem.wrongAt a.toNat = 0) ∧
    (c.needing mine ≠ [] → c.repair mine = none → Completes (.laneRepair stack ch failing) s fun t => ((t.mc k).chan n).st = 4)) ∧
  (∀ (stack : BitVec 4) (temp : Byte), s.hasStack stack.toNat = true → s.dormant = false → Completes (.refreshHot stack temp) s fun t =>
    let h := stack.toNat / 6; let u := s.updMc stack.toNat fun m => { m with temp := temp, hot := decide (85 < temp.toNat) }
    t.mc stack.toNat = { s.mc stack.toNat with temp := temp, hot := decide (85 < temp.toNat) } ∧
    (∀ j, j ≠ stack.toNat → t.mc j = s.mc j) ∧
    (u.hottest h < 95 → t = { u with pwr := { u.pwr with thermN := s.pwr.thermN && !decide (u.hottest 0 ≤ 90 ∧ u.hottest 1 ≤ 90) } }) ∧
    (95 ≤ u.hottest h → t = if s.pwr.thermN then u else ({ u with pwr := { u.pwr with thermN := true } } : State).noteThermal h))

/-! ### The seam, the auditor and shaft time -/

/-- R199, R200: a transfer crosses on the channel of its row that its pair gives, where none before it is to be replayed; with right
parity it advances the channel; with wrong parity it is counted on both sides, kept and replayed; the eighth replay in succession to
fail takes the channel out of use on both sides, and what its sender keeps stands on a channel still. R193, R194: a check whose sum is
P, and one that is skipped, change nothing; one whose sum differs records its link and the difference, counts, and fences a link of the
half mesh, or a binding at both its ends; the last check of a turn ends the audit. -/
def Obligations.TheSeamReplaysAndTheAuditFences : Prop :=
  (∀ (s : State) (half : BitVec 1) (path : SeamPath) (n : Nat), let h := half.toNat; let x := s.half h
  let c : SeamCh := SMap.get {} x.seamCh n
  s.seamChannel path.row.toNat path.src.toNat path.dst.toNat = some n → s.hasSeam = true → x.seamUp = true → x.seamStilled = false →
  let may := c.kept = [] ∨ c.kept.head? = some path; let kept := if c.kept.isEmpty then [path] else c.kept
  (∀ b, ¬may → Completes (.seamTransfer half path b) s fun t => t = s) ∧
  (may → Completes (.seamTransfer half path true) s fun t =>
    SMap.get {} (t.half h).seamCh n = { seq := c.seq + 1, kept := c.kept.tail } ∧ t.half (1 - h) = s.half (1 - h) ∧ { t with halves := [] } = { s with halves := [] }) ∧
  (may → c.fails < 8 → Completes (.seamTransfer half path false) s fun t =>
    SMap.get {} (t.half h).seamCh n = { c with fails := c.fails + 1, kept := kept } ∧
    SMap.get 0 (t.half h).counts 0x401C = SMap.get 0 x.counts 0x401C + 1 ∧
    SMap.get 0 (t.half (1 - h)).counts 0x4018 = SMap.get 0 (s.half (1 - h)).counts 0x4018 + 1) ∧
  (may → 8 ≤ c.fails → Completes (.seamTransfer half path false) s fun t =>
    (∀ p ∈ kept, ∃ m, p ∈ (SMap.get {} (t.half h).seamCh m : SeamCh).kept) ∧ ∀ g, g < 2 →
    (t.half g).seamActive.getLsbD n = false ∧ (t.half g).seamFenced.getLsbD n = true ∧
    ∀ j, j < 34 → j ≠ n → (t.half g).seamActive.getLsbD j = (s.half g).seamActive.getLsbD j)) ∧
  (∀ (s : State) (half : BitVec 1) (o : AuditObs) (turn : W32), let h := half.toNat; let x := s.half h
  let sum := s.auditSum h o; let pool := s.poolSize h o
  x.auditing = some turn →
  (o.last = true → Completes (.auditCheck half o) s fun t => (t.half h).auditTurn = turn ∧ (t.half h).auditing = none) ∧
  (o.last = false → (sum = pool ∨ s.auditSkips h o.link = true) → Completes (.auditCheck half o) s fun t => t = s) ∧
  (sum ≠ pool → s.auditSkips h o.link = false → Completes (.auditCheck half o) s fun t =>
    (t.half h).auditLink = o.link ∧ (t.half h).auditDiff = BitVec.ofInt 32 ((pool : Int) - (sum : Nat)) ∧
    (t.half h).auditCount.toNat = min 65535 (x.auditCount.toNat + 1) ∧
    (auKind o.link = 1 → o.link ∈ (t.half h).meshFenced) ∧
    (auKind o.link = 5 → let core := State.auCore h o.link; let q := 10 + auDir o.link; let p := peerOf core ((s.core core.toNat).bind q)
      SMap.get false (t.core core.toNat).bindFenced q = true ∧ SMap.get false (t.core p.1.toNat).bindFenced p.2 = true)))

/-- R373, R375: the count advances by one a tick, and the phase that is being applied by its share; in DORMANT nothing does. R193,
R278, R362: a turn boundary sends the heartbeats of the ports that are up, begins the audits, and counts the turns since time was set
and since the owner was there. -/
def Obligations.TicksAndTurnsPass : Prop :=
  ∀ (s : State),
  (s.dormant = false → (∀ r ∈ s.ctl.inflight, ∀ v n, r.wait = .flash v n → 1 < n) → ∃ t : State, exec .shaftTick s = .next t.flush ∧
    t.sh.count = s.sh.count + 1 ∧
    (s.sh.slewRem = 0 → t.sh.slewRem = 0 ∧ t.sh.slewAcc = 0) ∧
    (s.sh.slewRem ≠ 0 → let last := if 0 < s.sh.slewRem.toInt then 1025 else 1023
      if last ≤ s.sh.slewAcc + 1 then t.sh.slewAcc = 0 ∧ t.sh.slewRem.toInt.natAbs + 1 = s.sh.slewRem.toInt.natAbs
      else t.sh.slewAcc = s.sh.slewAcc + 1 ∧ t.sh.slewRem = s.sh.slewRem)) ∧
  (s.dormant = true → Completes .shaftTick s fun t => t = s) ∧
  (s.dormant = false → s.sh.count.toNat % 2 ^ 20 = 0 → s.sh.turnSeen ≠ some s.sh.count → Completes .turnBoundary s fun t =>
    t.sh = { s.sh with since := State.satInc s.sh.since, turnSeen := some s.sh.count } ∧
    (∀ n, n < 18 → let p := s.port n; let up := decide (s.hasPort n ∧ (p.st = psHeld ∨ p.st = psActive ∨ p.st = psResume))
      t.port n = (if up then { p with missed := State.satInc p.missed } else p) ∧
      (up = true → Out.link n (.heartbeat s.sh.count) ∈ t.out)) ∧
    (∀ h, h < 2 → (t.half h).auditing = if s.hasHalf h ∧ !s.pwr.gated.getLsbD h ∧ bit (s.half h).netCtrl 1 then
      some (BitVec.ofNat 32 (Shaft.turnOf s.sh.count)) else (s.half h).auditing) ∧
    t.ctl.lapsed = if s.ownerActive 16 || s.ownerActive 17 then 0 else State.satInc s.ctl.lapsed)

/-! ### The optical ports -/

/-- R271, R273: a port that is there goes on from DARK on signal, and from ACQUIRE on lock, within RESUME as well as outside it; a time
limit that expires, or a FAILED port's, sends it back to DARK with no lane; and loss of signal on too many wavelengths loses the link.
R263, R271, R274: with enough wavelengths that pass in both directions, logical lane i of each direction stands on the i-th of those
that it has chosen, λ8 being taken only where another fails; the receiver's choice goes to its partner in a LANE_MAP frame, and the
port sends HELLO with a nonce that nothing else has used. A wavelength passes with at most 10⁻⁵ of 2²⁸ bits in error. -/
def Obligations.PortsTrainStepByStep : Prop :=
  (∀ (s : State) (port : BitVec 5), let n := port.toNat; let p := s.port n
  let moved (t : State) : Prop := PortMoved s t n id Port.untrained ∧ ((t.port n).st = psResume ↔ p.st = psResume)
  s.hasPort n = true →
  (∀ signals : BitVec 9, p.stage = 1 → minLanes n ≤ ((wavelengths n).filter fun l => signals.getLsbD l).length →
    Completes (.portAcquire port signals) s fun t => moved t ∧ (t.port n).stage = 2) ∧
  (p.stage = 2 → Completes (.portLock port) s fun t => moved t ∧ (t.port n).stage = 3) ∧
  (2 ≤ p.stage → p.stage ≤ 5 → (p.stage = 5 → p.st = psResume) → Completes (.portStateTimeout port) s fun t =>
    moved t ∧ (t.port n).stage = 1 ∧ (t.port n).txLanes = 0 ∧ (t.port n).rxLanes = 0) ∧
  (p.st = psFailed → Completes (.failedExpiry port) s fun t =>
    moved t ∧ (t.port n).st = psDark ∧ (t.port n).txLanes = 0 ∧ (t.port n).rxLanes = 0) ∧
  (∀ lost : BitVec 9, ((List.range 9).filter fun l => decide ((p.lane l).rxLogical ≠ 15) && !lost.getLsbD l).length < minLanes n →
    (p.st = psHeld ∨ p.st = psActive → Completes (.lossOfSignal port lost) s fun t => PortMoved s t n id Port.untrained ∧
      (t.port n).st = psResume ∧ (t.port n).phase = 1 ∧ (t.port n).before = p.st ∧ p.Counted (t.port n) 0x118) ∧
    (p.st = psAcquire ∨ p.st = psDeskew ∨ p.st = psIdent → Completes (.lossOfSignal port lost) s fun t => moved t ∧ (t.port n).st = psDark) ∧
    (p.st = psOff ∨ p.st = psDark ∨ p.st = psFailed → Completes (.lossOfSignal port lost) s fun t => t = s))) ∧
  (∀ (s : State) (port : BitVec 5) (errors : List (BitVec 29)) (tx : BitVec 9), let n := port.toNat; let p := s.port n
  let r := chooseLanes n (lanePasses errors); let x := chooseLanes n tx
  (∀ l, l < 9 → (lanePasses errors).getLsbD l = decide ((nth 0 errors l).toNat * 100000 ≤ 2 ^ 28)) ∧ (
  s.hasPort n = true → p.stage = 3 → minLanes n ≤ r.1.length → minLanes n ≤ x.1.length → Completes (.laneChoice port errors tx) s fun t =>
    (t.port n).stage = 4 ∧ (t.port n).nonce = some (Config.nonce s.fresh) ∧ t.fresh = s.fresh + 1 ∧
    t.out = .link n (.hello (Config.nonce s.fresh)) :: .link n (.laneMap (r.1.map (BitVec.ofNat 4))) :: s.out ∧ (∀ j, j ≠ n → t.port j = s.port j) ∧
    (t.port n).rxLanes.toNat = r.1.length ∧ (t.port n).txLanes.toNat = x.1.length ∧
    (∀ i, i < r.1.length → ((t.port n).lane (nth 0 r.1 i)).rxLogical.toNat = i) ∧
    (∀ i, i < x.1.length → ((t.port n).lane (nth 0 x.1 i)).txLogical.toNat = i) ∧
    (∀ l, l < 9 → l ∉ r.1 → ((t.port n).lane l).rxLogical = 15) ∧ (∀ l, l < 9 → l ∉ x.1 → ((t.port n).lane l).txLogical = 15)))

/-- R274 to R277, R288: HELLO is answered with IDENT, and each is repeated until the partner's arrives; a verified identity makes a
fabric port HELD with an epoch one higher and a control port ACTIVE, and in RESUME the same partner resumes; any other is counted and
leaves the port FAILED; RESUME brings back the state before the loss and replays what the partner has not had. R277: the RESUME frame
brings a port in RESUME back to the state before the loss, and every retained frame that it does not cover goes out again, with its own
POOL and CREDITS. -/
def Obligations.IdentityIsExchangedAndResumeReplays : Prop :=
  (∀ (s : State) (port : BitVec 5), let n := port.toNat; let p := s.port n
  let zeroed := decide (s.flash.fused = 3)
  let ident (nonce : BitVec 256) : Out := .link n (.ident s.flash.serial s.fab.devId (BitVec.ofNat 8 (portCode n)) (p.nonce.getD 0) nonce
    s.sh.count (if zeroed then 0 else Config.identityKey) (if zeroed then 0 else Config.signature s.fresh))
  s.inIdent n = true →
  (∀ nonce, Completes (.hello port nonce) s fun t => t.out = ident nonce :: s.out ∧ t.fresh = s.fresh + 1 ∧
    t.port n = { p with helloIn := true, partnerNonce := some nonce } ∧ ∀ j, j ≠ n → t.port j = s.port j) ∧
  (p.helloIn = false → Completes (.helloRepeat port) s fun t => t = { s with out := .link n (.hello (p.nonce.getD 0)) :: s.out }) ∧
  (p.helloIn = true → p.identIn = false → Completes (.identRepeat port) s fun t =>
    t = { s with fresh := s.fresh + 1, out := ident (p.partnerNonce.getD 0) :: s.out }) ∧
  (∀ f : IdentFrame, f.sigOk = true → p.nonce = some f.nonceEcho → p.helloIn = true →
    let known (t : State) : Prop := (t.port n).serial = f.serial ∧ (t.port n).keyHash = f.keyHash ∧ (t.port n).dev = f.devId ∧
      (t.port n).pport = f.port
    (p.st = psIdent → n < 16 → ∃ t : State, exec (.ident port f) s = .next t.flush ∧ known t ∧ (t.port n).st = psHeld ∧
      (t.port n).epoch = p.epoch + 1 ∧ t.ctl.noteSeq = s.ctl.noteSeq + 1) ∧
    (p.st = psIdent → 16 ≤ n → ∃ t : State, exec (.ident port f) s = .next t.flush ∧ known t ∧ (t.port n).st = psActive ∧
      (t.port n).rxSeq = 0) ∧
    (p.st = psResume → p.down = false → p.serial = f.serial → p.keyHash = f.keyHash →
      ∃ t : State, exec (.ident port f) s = .next t.flush ∧ t.port n = { p with identIn := true, phase := 5 } ∧
        t.out = .link n (.resume p.rxSeq) :: s.out)) ∧
  (∀ f : IdentFrame, (f.sigOk = false ∨ p.nonce ≠ some f.nonceEcho) → p.st = psIdent →
    ∃ t : State, exec (.ident port f) s = .next t.flush ∧ (t.port n).st = psFailed ∧ p.Counted (t.port n) 0x130 ∧
      t.ctl.noteSeq = s.ctl.noteSeq + 1)) ∧
  (∀ (s : State) (port : BitVec 5) (expected : W32), let n := port.toNat; let p := s.port n
  let again (f : Sent) : Out := .frame n f.seq p.rxSeq f.gives f.credits f.body (frameCrc f.seq p.rxSeq f.gives f.credits f.body)
  s.hasPort n = true → p.st = psResume → p.phase = 5 →
  ∃ t : State, exec (.resume port expected) s = .next t.flush ∧ (t.port n).st = p.before ∧ (t.port n).down = p.down ∧
    (∀ f ∈ p.sent, covered f.seq expected = false → again f ∈ t.out) ∧
    t.ctl.noteSeq = s.ctl.noteSeq + 1)

/-- R268 to R270: on an ACTIVE port a frame in sequence is taken, with its ACK and its credits, and a packet holds its slots; one out
of sequence, or whose CRC fails, is answered NACK once; a NACK or the time limit replays what is not covered, and the 33rd replay in
succession loses the link; an idle port sends an IDLE frame, which is kept. In the other states that frames reach, one whose CRC fails
is counted (R291). -/
def Obligations.FramesArriveInOrder : Prop :=
  ∀ (s : State) (port : BitVec 5), let n := port.toNat; let p := s.port n
  let again (f : Sent) : Out := .frame n f.seq p.rxSeq f.gives f.credits f.body (frameCrc f.seq p.rxSeq f.gives f.credits f.body)
  s.hasPort n = true → (p.st ≠ psActive → p.framed = true → ∀ f : Frame, f.crcOk = false → Completes (.packetFrame port f) s fun t =>
    PortMoved s t n id (fun p => { p with counts := [] }) ∧ p.Counted (t.port n) 0x108) ∧ (p.st = psActive →
  (∀ f : Frame, let nacked (t : State) : Prop := (t.port n).nacked = true ∧ (t.port n).rxSeq = p.rxSeq ∧ (t.port n).rxHeld = p.rxHeld ∧
      t.out = if p.nacked then s.out else .link n (.nack p.rxSeq) :: s.out
    (f.crcOk = false → Completes (.packetFrame port f) s fun t => nacked t ∧ p.Counted (t.port n) 0x108) ∧
    (f.crcOk = true → f.seq ≠ p.rxSeq → Completes (.packetFrame port f) s nacked) ∧
    (f.crcOk = true → f.seq = p.rxSeq → Completes (.packetFrame port f) s fun t =>
      (t.port n).rxSeq = p.rxSeq + 1 ∧ (t.port n).nacked = false ∧
      (t.port n).rxHeld = p.rxHeld ++ (if f.packet then [{ pool := f.bodyPool, slots := (f.bytes.toNat + 255) / 256 }] else []) ∧
      (p.queue = [] → (t.port n).sent = p.sent.filter (fun x => !covered x.seq f.ack) ∧
        ∀ k, SMap.get 0 (t.port n).credit k = SMap.get 0 p.credit k + if k = f.pool.toNat then f.credits.toNat else 0))) ∧
  (∀ expected, let rest := p.sent.filter fun x => !covered x.seq expected
    p.queue = [] → rest ≠ [] → (rest.length < p.sent.length ∨ p.replays < 32) → Completes (.nack port expected) s fun t =>
      (t.port n).sent = rest ∧ (∀ x ∈ rest, again x ∈ t.out) ∧
      (t.port n).replays = (if rest.length < p.sent.length then 0 else p.replays) + 1) ∧
  (p.sent = [] → Completes (.replayTimeout port) s fun t => t = s) ∧
  (p.sent ≠ [] → p.replays < 32 → Completes (.replayTimeout port) s fun t =>
    (t.port n).replays = p.replays + 1 ∧ (t.port n).sent = p.sent ∧ ∀ x ∈ p.sent, again x ∈ t.out) ∧
  (p.sent ≠ [] → 32 ≤ p.replays → Completes (.replayTimeout port) s fun t =>
    (t.port n).st = psResume ∧ (t.port n).before = psActive ∧ p.Counted (t.port n) 0x118) ∧
  (p.retained + frameBytes none ≤ 2 ^ 20 → Completes (.idleSend port) s fun t =>
    (t.port n).txSeq = p.txSeq + 1 ∧ (t.port n).sent = p.sent ++ [{ seq := p.txSeq, pool := 0, gives := p.returns.1, credits := BitVec.ofNat 12 p.returns.2, body := none }] ∧
    ∀ k, SMap.get 0 (t.port n).credit k = SMap.get 0 p.credit k))

/-- R278, R376: a HEARTBEAT starts the window anew; HB_WINDOW turn boundaries without one declare the partner down and lose the link; a
port in HELD or RESUME answers a PING link frame with the shaft count. -/
def Obligations.HeartbeatsKeepThePartner : Prop :=
  ∀ (s : State) (port : BitVec 5), let n := port.toNat; let p := s.port n
  (s.holdsPartner n = true → ∀ shaft, Completes (.heartbeat port shaft) s fun t =>
    PortMoved s t n id (fun p => { p with missed := 0 }) ∧ (t.port n).missed = 0) ∧
  (s.holdsPartner n = true → s.hbWindow ≤ p.missed.toNat →
    ∃ t : State, exec (.heartbeatWindowExpiry port) s = .next t.flush ∧ (t.port n).st = psResume ∧ (t.port n).down = true) ∧
  (s.holdsPartner n = true → p.missed.toNat < s.hbWindow → Completes (.heartbeatWindowExpiry port) s fun t => t = s) ∧
  (∀ t1, s.hasPort n = true → (p.st = psHeld ∨ p.st = psResume) → Completes (.pingLinkFrame port t1) s fun t =>
    t = { s with out := .link n (.pong t1 s.sh.count s.sh.count) :: s.out })

/-- R272: a window of errors is recorded, with the codewords corrected and not; a weak wavelength's lane is prepared on a free λ8, or
dropped; a good window of λ8 completes the move; a dead wavelength's lane is dropped at once; and the sender trains λ8, switches a lane
to it, and drops a lane, as the receiver asks. That a lane is dropped while another's move is under way is the model's choice (log
entry 27). R264 to R266: the group of an input whose light fails goes over to its other input, or goes DARK with its ports OFF; light
comes back to the group that waits for it; and a group starts from its preferred input. -/
def Obligations.LanesAndLasersSwitch : Prop :=
  (∀ (s : State) (port : BitVec 5), let n := port.toNat; let p := s.port n
  s.inService n = true →
  (∀ (lam : BitVec 4) (errors : BitVec 25) (corrected uncorrected : BitVec 12), let l := lam.toNat; let x := p.lane l
    let bad := decide (uncorrected ≠ 0)
    let weak := decide (24 * 2 ^ 24 < errors.toNat * 100000) || (bad && x.uncor)
    (wavelengths n).contains l = true →
    let seen (t : State) : Prop := ((t.port n).lane l).rxBer = BitVec.ofNat 8 (berCode errors.toNat)
    (x.rxLogical ≠ 15 → weak = false → Completes (.berWindow port lam errors { corrected := corrected, uncorrected := uncorrected }) s fun t =>
      seen t ∧ ((t.port n).lane l).uncor = bad ∧
      SMap.get 0 (t.port n).counts 0x110 = SMap.get 0 p.counts 0x110 + w32 corrected.toNat ∧
      SMap.get 0 (t.port n).counts 0x114 = SMap.get 0 p.counts 0x114 + w32 uncorrected.toNat ∧ PortMoved s t n id (fun p => { p with lanes := [], counts := [] }) ∧
      ∀ j, j ≠ l → (t.port n).lane j = p.lane j) ∧
    (x.rxLogical ≠ 15 → weak = true → l ≠ 8 → s.spareFree n = true → Completes (.berWindow port lam errors { corrected := corrected, uncorrected := uncorrected }) s fun t =>
      seen t ∧ (t.port n).moving = some (x.rxLogical.setWidth 3) ∧ t.out = .link n (.lanePrepare (x.rxLogical.setWidth 3)) :: s.out) ∧
    (x.rxLogical ≠ 15 → weak = true → (l = 8 ∨ (s.spareFree n = false ∧ p.moving ≠ some (x.rxLogical.setWidth 3))) →
      Completes (.berWindow port lam errors { corrected := corrected, uncorrected := uncorrected }) s fun t =>
        ((t.port n).lane l).rxLogical = 15 ∧ ((t.port n).lane l).rxState = lnRetired ∧
        Out.link n (.laneDrop (x.rxLogical.setWidth 3)) ∈ t.out) ∧
    (∀ lane, x.rxLogical = 15 → l = 8 → weak = false → p.moving = some lane → Completes (.berWindow port lam errors { corrected := corrected, uncorrected := uncorrected }) s fun t =>
      ((t.port n).lane 8).rxLogical = lane.setWidth 4 ∧ (t.port n).moving = none ∧ Out.link n (.laneSwitch lane) ∈ t.out ∧
      ∀ j, p.rxOf lane = some j → j ≠ 8 → ((t.port n).lane j).rxLogical = 15)) ∧
  (∀ lam : BitVec 4, let l := lam.toNat; let x := p.lane l
    x.rxLogical ≠ 15 → Completes (.deadWavelength port lam) s fun t =>
      ((t.port n).lane l).rxLogical = 15 ∧ Out.link n (.laneDrop (x.rxLogical.setWidth 3)) ∈ t.out) ∧
  (∀ lane : BitVec 3,
    ((p.lane 8).txLogical = 15 → Completes (.laneMapPrepare port lane) s fun t =>
      PortMoved s t n (fun s => { s with out := [] }) (fun p => { p with training := none }) ∧
      (t.port n).training = some lane ∧ t.out = .link n .lanePattern :: s.out) ∧
    (p.training = some lane → Completes (.laneMapSwitch port lane) s fun t =>
      ((t.port n).lane 8).txLogical = lane.setWidth 4 ∧ (t.port n).training = none ∧ Out.link n (.laneMark lane) ∈ t.out ∧
      ∀ j, p.txOf lane = some j → j ≠ 8 → ((t.port n).lane j).txLogical = 15) ∧
    (∀ l, p.txOf lane = some l → Completes (.laneMapDrop port lane) s fun t => ((t.port n).lane l).txLogical = 15))) ∧
  (∀ (s : State), s.dormant = false →
  (∀ input : BitVec 3, let g := input.toNat / 2; let b := decide (input.toNat % 2 = 1); let l := s.laser g
    let lost : Laser := if b then { l with bOk := false } else { l with aOk := false }
    let found : Laser := if b then { l with bOk := true } else { l with aOk := true }
    ((l.lit = false ∨ l.useB ≠ b) → Completes (.laserLost input) s fun t => t = s.setLaser g lost) ∧
    (l.lit = true → l.useB = b → (if b then l.aOk else l.bOk) = true → Completes (.laserLost input) s fun t =>
      t.laser g = { lost with useB := !b } ∧ t.ctl.noteSeq = s.ctl.noteSeq + 1 ∧
      SMap.get 0 t.fab.counts 0x028 = SMap.get 0 s.fab.counts 0x028 + 1) ∧
    (l.lit = true → l.useB = b → (if b then l.aOk else l.bOk) = false →
      ∃ t : State, exec (.laserLost input) s = .next t.flush ∧ (t.laser g).lit = false ∧ ∀ n ∈ s.groupPorts g, (t.port n).st = psOff) ∧
    (s.groupPorts g ≠ [] →
      (l.lit = true → Completes (.laserOk input) s fun t => t = s.setLaser g found) ∧
      (l.lit = false → l.started = false → Completes (.laserOk input) s fun t => t = s.setLaser g { found with starting := true }) ∧
      (l.lit = false → l.started = true → Completes (.laserOk input) s fun t =>
        t.laser g = { found with lit := true, useB := b } ∧
        ∀ n ∈ s.groupPorts g, (s.port n).st = psOff → (s.port n).enable = true → s.portShut n = false → (t.port n).st = psDark))) ∧
  (∀ group : BitVec 2, let g := group.toNat; let l := s.laser g
    l.starting = true → (l.aOk = true ∨ l.bOk = true) → Completes (.laserGroupStart group) s fun t =>
      t.laser g = { l with lit := true, starting := false, started := true,
                           useB := if s.fab.prefer.getLsbD g then l.bOk else !l.aOk } ∧
      ∀ n ∈ s.groupPorts g, (s.port n).st = psOff → (s.port n).enable = true → s.portShut n = false → (t.port n).st = psDark))

/-! ### Fabric packets -/

/-- R281 to R285, R198, R344: a request that its port may not take in now, or that is for another Triat, leaves the state as it is; one
from a device that is down is answered DENIED and counted; one that is not well formed is answered BAD_PARAM. This holds of every
request. -/
def Obligations.RequestsAreChecked : Prop :=
  ∀ (s : State) (port : BitVec 4) (h : FabHdr) (data : List Byte) (body : CloseBody) (head : PutHead) (parity : Bool) (n : W64),
  ∀ x ∈ requests port h data body head parity n, let p := x.2; let k := port.toNat; let r := s.received k p
  ((s.takesIn k p.pool = false ∨ h.dstDev ≠ s.fab.devId ∨ s.heldBack k = true ∨ s.inOrder h = false) → exec x.1 s = .next s) ∧
  (s.takesIn k p.pool = true → h.dstDev = s.fab.devId → s.heldBack k = false → s.inOrder h = true → s.isDown h.srcDev = true →
    Answers x.1 s port p { status := stDenied } (r.countSec 0x124 1)) ∧
  (Reaches s port p → p.okRequest = false → Answers x.1 s port p { status := stBadParam } r)

/-- R234, R282, R376: READ answers the bytes of its range with their marks; WRITE writes its payload where the whole range can be
written; PING answers T1, T2 and T3. A range that does not translate answers the status of its first failure. The remote notify of a
peer's PUT reaches its counter once its bytes are written, and a core that is fenced turns the answer into FENCED (R178); that the
notify is an operand of WRITE is the model's choice (log entry 24), as is that PING's T2 and T3 are one count (log entry 59). -/
def Obligations.ReadWriteAndPingAreServed : Prop :=
  ∀ (s u v : State) (port : BitVec 4) (h : FabHdr) (data : List Byte) (note : Option RemoteNote) (t1 : W64) (bs : List MB) (st : Status),
  let via : Via := .va (.port port); let k := port.toNat; let a := h.addr.toNat
  (∀ p, p = bare opRead h → Reaches s port p → p.okRequest = true →
    ((s.received k p).reach via .rFab a h.len.toNat = (stOk, u) → u.readMem via .rFab a h.len.toNat = (bs, stOk, v) →
      Answers (.read port h) s port p { status := stOk, data := bs } v) ∧
    (st ≠ stOk → (s.received k p).reach via .rFab a h.len.toNat = (st, u) → Answers (.read port h) s port p { status := st } u)) ∧
  (∀ p, p = laden opWrite h data → Reaches s port p → p.okRequest = true →
    ((s.received k p).openRange via .wFab a data.length = (stOk, u) → u.writeMem via .wFab a p.payload = (st, v) →
      Answers (.write port h { data := data, note := note }) s port p { status := (v.remoteNoted port st note).1 } (v.remoteNoted port st note).2) ∧
    (st ≠ stOk → (s.received k p).openRange via .wFab a data.length = (st, u) → Answers (.write port h { data := data, note := note }) s port p { status := st } u)) ∧
  (∀ p, p = laden opPing h ((leBytes 8 t1.toNat).map (·.b)) → Reaches s port p → p.okRequest = true →
    Answers (.ping port h t1) s port p { status := stOk, data := p.payload ++ leBytes 8 s.sh.count.toNat ++ leBytes 8 s.sh.count.toNat }
      (s.received k p))

/-- R298 to R304: an RACC or RETRACT of a form is added, block by block with its count, to the OPEN job that it names, where its form
is the job's and its blocks lie in the buffer and can be written; a job that is ARMING answers BUSY, one that is CLOSED answers DENIED
and is counted, and none answers DENIED. R49, R300, R301, R304: counts are added exactly and stop at 2^31 - 1 and at -2^31 + 1; INT64
elements are added exactly and stop at the ends of their range, counted; and negating an INT64 block twice, where no element is -2^63,
gives it back. -/
def Obligations.RaccsAreAddedToTheirJob : Prop :=
  (∀ (s u v : State) (port : BitVec 4) (h : FabHdr) (data : List Byte) (j : Nat),
  let via : Via := .va (.port port); let k := port.toNat; let a := h.addr.toNat
  ∀ x ∈ ([(.raccF32 port h data, 0, opRacc), (.raccF32c port h data, 1, opRacc + 1), (.raccBx16 port h data, 2, opRacc + 2),
    (.raccI64 port h data, 3, opRacc + 3), (.retractF32 port h data, 0, opRetract), (.retractF32c port h data, 1, opRetract + 1),
    (.retractBx16 port h data, 2, opRetract + 2), (.retractI64 port h data, 3, opRetract + 3)] : List (Instr × Nat × Byte)),
  let p := laden x.2.2 h data; let r := s.received k p; let form := x.2.1; let fb := formBytes form; let e := s.job j
  Reaches s port p → p.okRequest = true → s.hasMsa = true →
  (s.jobFor h.job.toNat = none → Answers x.1 s port p { status := stDenied } r) ∧
  (s.jobFor h.job.toNat = some j →
    (e.st = jobArming → Answers x.1 s port p { status := stBusy } r) ∧
    (e.st = jobClosed → Answers x.1 s port p { status := stDenied } (r.countCe 0x114 1)) ∧
    (e.st = jobCommitting → Answers x.1 s port p { status := stDenied } r) ∧
    (e.st = jobOpen → let b := (a - e.buf) / fb; let n := data.length / fb
      let fits := form = e.form ∧ e.buf ≤ a ∧ (a - e.buf) % fb = 0 ∧ data.length % fb = 0 ∧ b < e.blocks.toNat ∧
        b + n ≤ e.blocks.toNat
      (¬fits → Answers x.1 s port p { status := stBadParam } r) ∧
      (fits → r.openRange via .wFab a data.length = (stOk, u) → u.openRange via .wFab (e.cnt + 4 * b) (4 * n) = (stOk, v) →
        Answers x.1 s port p { status := stOk } (v.addAll via .wFab j b h.seq (chunk fb p.payload)))))) ∧
  ((∀ c x : W32, (addCount c x).1.toInt = max (-(2 ^ 31) + 1) (min (2 ^ 31 - 1) (c.toInt + x.toInt)) ∧
    ((addCount c x).2 = true ↔ c.toInt + x.toInt ≤ -(2 ^ 31) ∨ 2 ^ 31 - 1 < c.toInt + x.toInt)) ∧
  (∀ x y : W64, let r := addI64 (leBytes 8 x.toNat) (leBytes 8 y.toNat)
    (bitsOf 64 r.1).toInt = max (-(2 ^ 63)) (min (2 ^ 63 - 1) (x.toInt + y.toInt)) ∧ anyPoison r.1 = false ∧
    (r.2 = 0 ↔ -(2 ^ 63) ≤ x.toInt + y.toInt ∧ x.toInt + y.toInt ≤ 2 ^ 63 - 1)) ∧
  (∀ xs : List W64, (∀ x ∈ xs, x.toInt ≠ -(2 ^ 63)) → let b := xs.flatMap fun x => leBytes 8 x.toNat
    (negateBlock 3 (negateBlock 3 b).1).1 = b ∧ (negateBlock 3 b).2.sat = 0))

/-- R299, R309, R313 to R322: CONTRIB is counted at its OPEN job and step; VOID voids the counts of its blocks; UP is counted once for
each child; DOWN sets the mark and goes on to the children; GATHER answers version, state and bytes of a SHARD job that is not
COMMITTING. -/
def Obligations.ClosePacketsAndGatherAreServed : Prop :=
  ∀ (s u v : State) (port : BitVec 4) (h : FabHdr) (b : CloseBody) (j : Nat) (bs : List MB),
  let via : Via := .va (.port port); let k := port.toNat; let c := s.coll.commit; let e := s.job j
  s.ctl.fnReset.getLsbD 31 = false →
  (∀ p, p = closing 1 h b → Reaches s port p → p.okRequest = true → s.jobFor h.job.toNat = some j → e.st = jobOpen → b.step = e.step →
    ∃ t : State, Answers (.contrib port h b) s port p { status := stOk } t ∧
      t.job j = { e with closes := e.closes + 1, closeSum := e.closeSum + b.arg0, st :=
                    if 1 ≤ e.expectClose ∧ e.expectClose ≤ (e.closes + 1).toNat + e.waived then jobClosed else jobOpen } ∧
      ∀ i, i ≠ j → t.job i = s.job i) ∧
  (∀ p, p = closing 2 h b → Reaches s port p → p.okRequest = true → s.jobFor h.job.toNat = some j → e.st = jobOpen → b.step = e.step →
    let n := b.arg1.toNat
    (n = 0 ∨ e.blocks.toNat < b.arg0.toNat + n → Answers (.void port h b) s port p { status := stBadParam } (s.received k p)) ∧
    (0 < n → b.arg0.toNat + n ≤ e.blocks.toNat →
      (s.received k p).writeWhole (viaCe 0) .w (e.cnt + 4 * b.arg0.toNat) ((List.range n).flatMap fun _ => leBytes 4 voidCount.toNat) = (stOk, u) →
      Answers (.void port h b) s port p { status := stOk } (u.countCe 0x10C 1))) ∧
  (∀ p, p = closing 3 h b → Reaches s port p → p.okRequest = true →
    (b.step ≠ c.step → Answers (.up port h b) s port p { status := stDenied } (s.received k p)) ∧
    (b.step = c.step → c.children.contains h.srcDev = false → c.children.length < 64 →
      ∃ t : State, Answers (.up port h b) s port p { status := stOk } t ∧
        t.coll.commit = { c with ups := c.ups + 1, children := c.children ++ [h.srcDev], subAbort := c.subAbort || h.stepAbort,
                                 subDevs := c.subDevs + b.arg0, subDrops := c.subDrops + b.arg1 }) ∧
    (b.step = c.step → c.children.contains h.srcDev = true → Answers (.up port h b) s port p { status := stOk } (s.received k p))) ∧
  (∀ p, p = closing 4 h b → Reaches s port p → p.okRequest = true →
    (b.step ≠ c.step → Answers (.down port h b) s port p { status := stDenied } (s.received k p)) ∧
    (b.step = c.step → c.st = 2 → Answers (.down port h b) s port p { status := stOk } (s.received k p)) ∧
    (b.step = c.step → c.st ≠ 2 → s.sh.count < b.mark → ∃ t : State, Answers (.down port h b) s port p { status := stOk } t ∧
      t.coll.commit = { c with st := 2, mark := b.mark, outAbort := h.stepAbort, outCver := b.cver } ∧
      t.fab.waiting.length = s.fab.waiting.length + c.children.length) ∧
    (b.step = c.step → c.st ≠ 2 → b.mark ≤ s.sh.count → ∃ t : State, Answers (.down port h b) s port p { status := stOk } t ∧
      t.coll.commit.step = c.step + 1 ∧ t.coll.commit.late = decide (b.mark < s.sh.count) ∧ t.coll.commit.lastAborted = h.stepAbort)) ∧
  (∀ p, p = bare opGather h → Reaches s port p → p.okRequest = true → s.jobFor h.job.toNat = some j → h.len.toNat ≤ 4088 →
    (e.shard = false → Answers (.gather port h) s port p { status := stDenied } (s.received k p)) ∧
    (e.shard = true → e.st = jobCommitting → Answers (.gather port h) s port p { status := stBusy } (s.received k p)) ∧
    (e.shard = true → e.st ≠ jobCommitting → (s.received k p).reach via .rFab h.addr.toNat h.len.toNat = (stOk, u) →
      u.readMem via .rFab h.addr.toNat h.len.toNat = (bs, stOk, v) →
      Answers (.gather port h) s port p
        { status := stOk, data := leBytes 4 e.version.toNat ++ leBytes 1 e.st.toNat ++ zeroBytes 3 ++ bs } v))

/-- R341, R342: MIRROR_PUT, PARITY_PUT and SEAL are answered as the entry that they name takes them; a SEAL that an entry must hold
back is held and not answered. DATA for the entry's work epoch, from its source and inside its area, are written, or XORed for parity,
and counted as accepted; a SEAL with another count of bytes is refused, and a void one abandons the epoch. Where a device on the down
list has a part in the epoch, it is abandoned with the packet (R344). -/
def Obligations.PutsReachTheirEntry : Prop :=
  ∀ (s u w : State) (port : BitVec 4) (h : FabHdr) (head : PutHead) (data : List Byte) (n : W64) (parity : Bool) (st : Status),
  let via : Via := .va (.port port); let k := port.toNat; let i := head.entry.toNat; let op := if parity then opParity else opMirror
  let puts : Instr := if parity then .parityPut port h head data else .mirrorPut port h head data
  let checked (r : State) (e : BitVec 512) : Prop := let f := secFields e
    f.valid = true ∧ (f.role = 1 ∨ f.role = 2) ∧ f.mirror = !parity ∧ r.sourceOk i f h.srcDev = true ∧
    (if head.gen then 1 else 0) = f.workGen ∧ head.epoch = f.workEpoch ∧ (f.role = 2 → (r.secAux i).begun = true)
  let done (c : Instr) (p : Pkt) (a : State.PutAnswer) (v : State) : Prop := match v.putChecked i a with
    | (.now st, z) => Answers c s port p { status := st } z
    | (.held, z) => exec c s = .next (z.holdSeal i { port := some port, pkt := p, who := none }).flush
  let taking (v : State) : State := v.updSecAux i fun a => { a with taking := true }
  (∀ p, p = laden op h ((putPrefix head false).map (·.b) ++ data) → Reaches s port p → p.okRequest = true →
    ∀ e, (s.received k p).entryAt i = (e, u) → checked u e → let f := secFields e; let area := f.area (if head.gen then 1 else 0)
    (¬(area ≤ h.addr.toNat ∧ h.addr.toNat + data.length ≤ area + f.len) → done puts p (.now stDenied) u) ∧
    (area ≤ h.addr.toNat → h.addr.toNat + data.length ≤ area + f.len →
      u.putData via .wFab parity h.addr.toNat (p.payload.drop 8) = (st, w) →
      (st = stOk → done puts p (.now stOk) (taking (w.updSecAux i (·.accept f.mirror h.srcDev h.addr data.length)))) ∧
      (st ≠ stOk → done puts p (.now st) w))) ∧
  (∀ p, p = laden op h ((putPrefix head true).map (·.b) ++ (leBytes 8 n.toNat).map (·.b)) → Reaches s port p → p.okRequest = true →
    ∀ e, (s.received k p).entryAt i = (e, u) → checked u e → let f := secFields e
    let bytes := (u.secAux i).acceptedFrom h.srcDev
    h.addr.toNat = f.local_ →
    (n ≠ voidBytes → n.toNat ≠ bytes → done (.seal port h head parity n) p (.now stBadParam) u) ∧
    (n = voidBytes → done (.seal port h head parity n) p (.now stAborted) (u.abandonHolder i f h.srcDev)) ∧
    (n ≠ voidBytes → n.toNat = bytes → ∀ a, (taking u).acceptSeal i f head.member.toNat = (a, w) →
      done (.seal port h head parity n) p a w))

/-- R281, R284 to R286, R299, R323, R340: a response is taken by its tag, which it frees, or its request waits to be sent anew; a
packet for another device goes on with one hop less, or is answered NOT_PRESENT when no hop or no route is left, DENIED where its
source is down, and FENCED where a link on its way is; a request of class 6 or 7 waits where its order would be lost; and the request
that was answered to be resent goes out again. By the model's choice a response without a route is dropped (log entry 23), whether the
requests before a transit request are answered is an operand (log entry 80), and a resend goes out at the end and with a new tag (log
entry 21). -/
def Obligations.ResponsesTransitAndResends : Prop :=
  ∀ (s u : State) (port : BitVec 4) (op : Byte) (h : FabHdr) (data : List Byte), let n := port.toNat
  (let tp := State.tagPort h.tag; let tn := State.tagNum h.tag; let bs := marked h.poison data
    let s1 := (s.updPort n fun p => p.count 0x12C 1).rxRelease n (poolOf h.cls true)
    s.takesIn n (poolOf h.cls true) = true → h.dstDev = s.fab.devId → s.isDown h.srcDev = false →
    (SMap.get none (s.port tp).tags tn = none → exec (.fabricResponse port op h data) s = .next s1.flush) ∧
    (∀ r, SMap.get none (s.port tp).tags tn = some r →
      let waits (s : State) (why : Resend) : State :=
        { s with fab := { s.fab with waiting := s.fab.waiting ++ [{ pkt := r.pkt, who := r.who, hold := some why, late := true, went := true }] } }
      SMap.get none ((s1.dropTag tp tn).port tp).tags tn = none ∧
      (h.status = stBusy → State.retried r.pkt.op = true →
        exec (.fabricResponse port op h data) s = .next (waits (s1.dropTag tp tn) .busy).flush) ∧
      ((h.status ≠ stBusy ∨ State.retried r.pkt.op = false) → (s1.dropTag tp tn).settle r.who r.pkt h.status bs = (none, u) →
        exec (.fabricResponse port op h data) s = .next u.flush) ∧
      (∀ why, (h.status ≠ stBusy ∨ State.retried r.pkt.op = false) → (s1.dropTag tp tn).settle r.who r.pkt h.status bs = (some why, u) →
        exec (.fabricResponse port op h data) s = .next (waits u why).flush))) ∧
  (∀ resp settled : Bool, let p : Pkt := { op := op, resp := resp, h := { h with hops := h.hops - 1 }, data := data }
    let once := if ((s.rxOldest n p.pool).map (·.again)).getD false then 0 else 1
    let s1 := s.updPort n fun p => p.count 0x12C once
    let to_ := s1.choosePort h.srcDev h.dstDev h.cls resp
    s.takesIn n p.pool = true → h.dstDev ≠ s.fab.devId → s.heldBack n = false →
    (s.isDown h.srcDev = false → h.hops ≠ 0 → ∀ m, to_ = some m → resp = false → settled = false → s.changesPort h.srcDev h.dstDev h.cls m = true →
      exec (.transit port op { resp := resp, settled := settled } h data) s = .next s) ∧
    (s.isDown h.srcDev = false → h.hops ≠ 0 → ∀ m, to_ = some m →
      (resp = true ∨ settled = true ∨ s.changesPort h.srcDev h.dstDev h.cls m = false) →
      (∀ w, s1.turned (.port n) (.port m) = some w → Completes (.transit port op { resp := resp, settled := settled } h data) s fun t =>
        t = let d := (s1.countTurn w).rxRelease n p.pool
            if resp then d else d.respond n op h { status := stFenced }) ∧
      (s1.turned (.port n) (.port m) = none → Completes (.transit port op { resp := resp, settled := settled } h data) s fun t =>
        t = let d := (s1.rxTake n p.pool).countFab 0x024 once
            (if resp then d else d.tookPort h.srcDev h.dstDev h.cls m).enqueue m
              { pool := p.pool, body := .fab p, ret := some (n, p.pool, ((s1.rxOldest n p.pool).map (·.slots)).getD 0) })) ∧
    (s.isDown h.srcDev = true → Completes (.transit port op { resp := resp, settled := settled } h data) s fun t =>
      t = let d := (s1.countSec 0x124 1).rxRelease n p.pool
          if resp then d else d.respond n op h { status := stDenied }) ∧
    (s.isDown h.srcDev = false → (h.hops = 0 ∨ to_ = none) →
      Completes (.transit port op { resp := resp, settled := settled } h data) s fun t =>
        t = let d := (s1.countFab 0x020 1).rxRelease n p.pool
            if resp then d else d.respond n op h { status := stNotPresent })) ∧
  (∀ (dst : DevId) (k : BitVec 16) (why : Resend),
    let held (ws : List Waiting) : Nat := (ws.filter fun w => decide (w.hold = some why ∧ w.pkt.h.dstDev = dst)).length
    let resend : Instr := match why with
      | .busy => .busyResend dst k
      | .older => .gatherResend dst k
      | .data => .dataResend dst k
    (∀ (a b : List Waiting) (w : Waiting), s.fab.waiting = a ++ w :: b → w.hold = some why → w.pkt.h.dstDev = dst →
      held a = k.toNat →
      let t : State := { s with fab := { s.fab with waiting := a ++ { w with hold := none } :: b } }
      exec resend s = .next (if why = .busy then t.countCe 0x118 1 else t).flush) ∧
    (held s.fab.waiting ≤ k.toNat → exec resend s = .next s.flush))

/-! ### The collective engines -/

/-- R176 to R178: an enabled ring with a descriptor owed starts it, where it is of this kind: it is in execution, PUT has sent its
pieces as it could read them, GET one READ for each piece; a descriptor that breaks R177 ends BAD_PARAM at once. Of another kind, it
waits. R293 to R325: a list with an occurrence owed starts its next descriptor, where it is of this kind: SEND scans its blocks, PASS
reads them on, CLOSE sends one CONTRIB, and GATHER one request for each piece; a CLOSE with HOLD waits for its group. -/
def Obligations.DescriptorsStart : Prop :=
  (∀ (s u : State) (half : BitVec 1) (ring : BitVec 4) (bs : List MB), let h := half.toNat; let k := ring.toNat; let r := (s.ce h).ring k
  let a := addr48 r.baseLo r.baseHi + 32 * r.head.toNat; let d : BitVec 256 := bitsOf 256 bs; let f := mvFields d
  let ps := pieces 4096 f.len
  let started := u.updRing h k fun r => { r with run := some { addr := a, desc := d } }
  s.ceRuns h = true → bit r.ctrl 31 = true → r.owed ≠ 0 → r.head ≠ r.tail → r.run = none →
  s.readMem (viaCe h) .r a 32 = (bs, stOk, u) → anyPoison bs = false →
  (f.op = 1 → f.bad = false → exec (.put half ring) s = .next ((started.putPieces h k f ps).endMove h k).flush ∧
    exec (.get half ring) s = .next s.flush) ∧
  (f.op = 2 → f.bad = false → (f.lotEn = false ∨ SMap.get false (u.ce h).lots f.lot = true) →
    ∃ t : State, exec (.get half ring) s = .next t.flush ∧
      (((t.ce h).ring k).run.map (·.left)) = some ps.length ∧ t.fab.waiting.length = u.fab.waiting.length + ps.length ∧
      (∀ e ∈ ps, ∃ w ∈ t.fab.waiting, w.pkt.op = opRead ∧ w.pkt.h.addr = BitVec.ofNat 48 (f.remote + e.1) ∧
        w.pkt.h.len = BitVec.ofNat 13 e.2 ∧ w.who = .move half ring e.1) ∧
      exec (.put half ring) s = .next s.flush) ∧
  (f.bad = true → (f.op = 1 → exec (.put half ring) s = .next ((u.updRing h k fun r =>
      { r with run := some { addr := a, desc := d, status := stBadParam } }).finishMove h k).flush) ∧
    (f.op = 2 → exec (.get half ring) s = .next ((u.updRing h k fun r =>
      { r with run := some { addr := a, desc := d, status := stBadParam } }).finishMove h k).flush))) ∧
  (∀ (s u : State) (half : BitVec 1) (list : BitVec 4) (bs : List MB), let h := half.toNat; let k := list.toNat; let l := (s.ce h).list k
  let a := addr48 l.baseLo l.baseHi + 64 * l.next.toNat; let d : BitVec 512 := bitsOf 512 bs; let f := dFields d
  let id := (l.runs.map (·.id)).foldl Nat.max 0 + 1
  let started (u : State) : State := u.updList h k fun l => { l with next := l.next + 1, runs := l.runs ++ [{ id := id, addr := a, desc := d }] }
  s.ceRuns h = true → bit l.ctrl 31 = true → l.owed ≠ 0 → l.next < l.len → l.runs.length < 8 →
  s.readMem (viaCe h) .r a 64 = (bs, stOk, u) → anyPoison bs = false → f.bad = false →
  (f.op = 1 → exec (.reductionSend half list) s = .next (((started u).beginSend h k id f).endDesc h k id).flush) ∧
  (f.op = 2 → exec (.reductionPass half list) s = .next (((started u).beginPass h k id f).endDesc h k id).flush) ∧
  (f.op = 3 → f.hold = false → ∃ t : State, exec (.reductionClose half list) s = .next t.flush ∧
    (t.drun h k id).map (·.left) = some 1 ∧
    ∃ w, t.fab.waiting = u.fab.waiting ++ [w] ∧ w.pkt.op = opClose ∧ w.pkt.h.dstDev = f.dev ∧ w.pkt.h.job = f.job ∧
      closeOf w.pkt.payload = (1, { step := u.coll.commit.step, arg0 := f.ccount.signExtend 32 })) ∧
  (f.op = 3 → f.hold = true → ((u.useGroup f.group).cg f.group).st ≠ 3 → exec (.reductionClose half list) s = .next s.flush) ∧
  (f.op = 4 → s.csuUnits f.widenCl ≠ 0 → f.len ≠ 0 → ∃ t : State, exec (.reductionGather half list) s = .next t.flush ∧
    (t.drun h k id).map (·.left) = some (pieces 4088 f.len).length ∧
    t.fab.waiting.length = u.fab.waiting.length + (pieces 4088 f.len).length) ∧
  (f.op ≠ 3 → exec (.reductionClose half list) s = .next s.flush))

/-- R299, R315, R320: arming ends with the job OPEN and its counts written, or FREE with ARM_FAILED where a range fails translation; a
CLOSED job is scanned once, by the engine of the half that holds its buffer; and a COMMITTING job whose optimiser has raised its event
takes the new version and the next step, and arms again. That the engine of the half that holds the buffer makes the scan is log entry
28, and what an outcome arms is log entry 51. -/
def Obligations.JobsArmScanAndCommit : Prop :=
  ∀ (s u v : State) (job : BitVec 6) (st : Status), let j := job.toNat; let e := s.job j; let n := e.blocks.toNat
  let scanner := s.ceRuns (s.bufHalf j)
  s.ceRuns 0 = true →
  (e.st = jobArming → e.armZero = false → s.reach (viaCe 0) .w e.cnt (4 * n) = (stOk, u) →
    u.writeMem (viaCe 0) .w e.cnt (zeroBytes (4 * n)) = (stOk, v) →
    ∃ t : State, exec (.armingDone job) s = .next t.flush ∧ t.mem = v.mem ∧ (t.job j).st =
      if 1 ≤ e.expectClose ∧ e.expectClose ≤ e.closes.toNat + e.waived then jobClosed else jobOpen) ∧
  (e.st = jobArming → st ≠ stOk → s.reach (viaCe 0) .w e.cnt (4 * n) = (st, u) →
    ∃ t : State, exec (.armingDone job) s = .next t.flush ∧ (t.job j).st = jobFree ∧ (t.job j).armFailed = true ∧
      (e.armZero = false → t.mem = u.mem)) ∧
  (e.st ≠ jobArming → exec (.armingDone job) s = .next s.flush) ∧
  (scanner = true → e.st = jobClosed → e.scanned = false → ∃ t : State, exec (.closeScan job) s = .next t.flush ∧ (t.job j).scanned = true ∧
    (t.job j).st = jobClosed ∧ (t.job j).closeSum = e.closeSum) ∧
  (scanner = true → (e.st ≠ jobClosed ∨ e.scanned = true) → exec (.closeScan job) s = .next s.flush) ∧
  (e.st = jobCommitting → e.optRaised = true → s.coll.heldJobs.contains j = false →
    ∃ t : State, exec (.optEvent job) s = .next t.flush ∧ (t.job j).st = jobArming ∧ (t.job j).version = s.coll.commit.cver ∧
      (t.job j).step = e.step + 1 ∧ (t.job j).closes = 0 ∧ (t.job j).armZero = true)

/-- R318 to R320: when the subtree is ready the root chooses a mark at a turn boundary at least LEAD turns ahead, another Triat sends
UP; at the mark the outcome takes effect: the step is one higher, and without STEP_ABORT so is CVER and the CLOSED shards commit. -/
def Obligations.TheCommitTreeDecides : Prop :=
  ∀ (s : State), let c := s.coll.commit
  s.ceRuns 0 = true →
  (s.treeReady = true → s.treeParent ≠ 0xFFFF → ∃ t : State, exec .upSend s = .next t.flush ∧
    t.coll.commit = { c with st := 1, drops := s.treeDrops, upOut := some (s.treeAbort, c.subDevs + 1, s.treeDrops), upWait := true } ∧
    ∃ w, t.fab.waiting = s.fab.waiting ++ [w] ∧ w.pkt.op = opClose ∧ w.pkt.h.dstDev = s.treeParent ∧ w.pkt.h.stepAbort = s.treeAbort ∧
      closeOf w.pkt.payload = (3, { step := c.step, arg0 := c.subDevs + 1, arg1 := s.treeDrops })) ∧
  (s.treeReady = true → s.treeParent = 0xFFFF → s.sh.count.toNat + 17 * 2 ^ 20 < 2 ^ 64 → ∃ t : State, exec .commitMark s = .next t.flush ∧
    t.coll.commit.st = 2 ∧ t.coll.commit.mark.toNat % 2 ^ 20 = 0 ∧
    s.sh.count.toNat + bits c.cfg 3 0 * 2 ^ 20 ≤ t.coll.commit.mark.toNat ∧
    t.coll.commit.mark.toNat < s.sh.count.toNat + (bits c.cfg 3 0 + 1) * 2 ^ 20 ∧
    t.coll.commit.outAbort = s.treeAbort ∧ t.coll.commit.outCver = (if s.treeAbort then c.cver else c.cver + 1) ∧
    t.fab.waiting.length = s.fab.waiting.length + c.children.length) ∧
  (c.st = 2 → c.mark ≤ s.sh.count → ∃ t : State, exec .commitOutcome s = .next t.flush ∧
    t.coll.commit.step = c.step + 1 ∧ t.coll.commit.cver = (if c.outAbort then c.cver else c.cver + 1) ∧
    t.coll.commit.ups = 0 ∧ t.coll.commit.children = [] ∧ t.coll.commit.abortOwn = false ∧ t.coll.commit.lastAborted = c.outAbort ∧
    (∀ j ∈ s.shards, c.outAbort = true → (t.job j).st = jobArming) ∧
    (∀ j ∈ s.shards, c.outAbort = false → (s.job j).st = jobClosed → (t.job j).st = jobCommitting) ∧
    t.sec.commits = s.sec.commits + if c.outAbort then 0 else 1) ∧
  (c.st ≠ 2 ∨ s.sh.count < c.mark → exec .commitOutcome s = .next s.flush)

/-- R338, R339, R343, R349: an epoch that is due starts when no shard is COMMITTING; an open one without entries left completes and
gives the tokens that it held back; and the lichen map is compacted when fewer than 1,024 records are free, keeping every valid one. -/
def Obligations.EpochsStartAndComplete : Prop :=
  ∀ (s : State),
  (s.ceRuns 0 = true → ∀ m, s.sec.due = some m → s.shardCommitting = false → ∃ t : State, exec .secEpochStart s = .next t.flush ∧
    t.sec.epoch = s.sec.epoch + 1 ∧ t.sec.open_ = true ∧ t.sec.due = none ∧ t.sec.next = m + BitVec.ofNat 64 (s.sec.period.toNat * 2 ^ 20)) ∧
  (s.ceRuns 0 = true → (s.sec.due = none ∨ s.shardCommitting = true) → exec .secEpochStart s = .next s.flush) ∧
  (s.ceRuns 0 = true → s.sec.open_ = true → s.openEntries = 0 → ∃ t : State, exec .secEpochDone s = .next t.flush ∧
    t.sec.open_ = false ∧ t.sec.gateHeld = false ∧ t.coll.heldJobs = [] ∧
    SMap.get 0 t.sec.counts 0x100 = SMap.get 0 s.sec.counts 0x100 + 1) ∧
  (s.ceRuns 0 = true → (s.sec.open_ = false ∨ s.openEntries ≠ 0) → exec .secEpochDone s = .next s.flush) ∧
  (s.lm.free < 1024 → s.dormant = false → Completes .lichenCompaction s fun t =>
    t.flash.useB = (!s.flash.useB) ∧ t.lm.gen = s.lm.gen + 1 ∧ t.lm.valid = true ∧ t.sec.lmWait = [] ∧
    t.lm.recs.map (·.2) = (s.lmList ++ s.sec.lmWait).take lmRecords) ∧
  (1024 ≤ s.lm.free ∨ s.dormant = true → Completes .lichenCompaction s fun t => t = s)

/-! ### Command packets -/

/-- R356 to R362, R386, R404: a command packet on a port that does not hear it leaves the state as it is; one whose CRC is wrong is
counted; one whose header is wrong or which is too long is answered BAD_PARAM; one whose tag is in flight is counted and noted; with 64
in flight it is answered BUSY; and one that its sender may not make now is answered as its first failing check says. R362, R386: before
READY only the requests of step 5 are started; a request that only the owner may make is DENIED to every other partner, before READY
too, where neither rule gives an order: that is the model's choice (log entry 36). -/
def Obligations.CommandPacketsAreChecked : Prop :=
  (∀ (s : State) (h : CpHdr) (p : List W32) (cert : Cert) (measured : Hash) (found : List TestResult) (lanes : List LaneTest),
  ∀ x ∈ packets h p cert measured found lanes, let u := s.heard (16 + h.port.toNat) cpRequestPool; let n := s.ctl.inflight.length
  let free := ∀ r ∈ s.ctl.inflight, r.tag ≠ h.tag
  (s.hears h.port cpRequestPool = false → exec x.1 s = .next s) ∧
  (s.hears h.port cpRequestPool = true →
    (h.crcOk = false → exec x.1 s = .next (u.countCtl 0x204 1).flush) ∧
    (h.crcOk = true →
      (State.headerOk h = false ∨ 1024 < p.length → Replies x.1 s h x.2 stBadParam [] u) ∧
      (State.headerOk h = true → p.length ≤ 1024 →
        (¬free → exec x.1 s = .next ((u.countCtl 0x208 1).notify 0x000C [x.2.setWidth 32, h.tag.setWidth 32]).flush) ∧
        (free → 64 ≤ n → Replies x.1 s h x.2 stBusy [] (u.countCtl 0x20C 1)) ∧
        (free → n < 64 → ∀ st ws, (s.taken h).admission h x.2 p = some (st, ws) →
          Replies x.1 s h x.2 st ws (if st = stAborted then (s.taken h).countCtl 0x214 1 else s.taken h)))))) ∧
  (∀ (s : State) (h : CpHdr) (op : BitVec 16) (p : List W32), s.ctl.inRecovery = false → s.flash.fused ≠ 3 → h.dlEn = false →
  (s.admission h op p = none →
    (s.portOwner (16 + h.port.toNat) = true ∨ op = cpOwnClaim ∨ op = cpAttest ∨ op = cpRegRead) ∧
    (s.ctl.ready = true ∨ op ∈ [cpOwnClaim, cpShaftSet, cpShaftSync, cpFateSet, cpLichenEdit, cpConfigDone, cpRegRead, cpRegWrite,
      cpAttest, cpAbort])) ∧
  (s.portOwner (16 + h.port.toNat) = false → op ∉ [cpOwnClaim, cpAttest, cpRegRead] → s.admission h op p = some (stDenied, [])))

/-- R362, R369, R385, R386: OWN_CLAIM, OWN_RELEASE, CONFIG_DONE, MODULE_RESET, REG_READ and REG_WRITE. A burst is checked whole before
any word moves; a word that is turned away after that ends it, and the reply tells how many words came before. A request that touches
what one in flight touches is carried out, and its reply waits (R359; which units a request touches is log entry 89). CONFIG_DONE
outside step 5 is BUSY by the model's choice (log entry 36). -/
def Obligations.OwnersConfigureAndAccessRegisters : Prop :=
  ∀ (s v : State) (h : CpHdr) (p ws : List W32) (n : Nat) (st : Status), let u := s.taken h; let who := h.port.toNat
  let lapsed := u.ownerActive 16 = false ∧ u.ownerActive 17 = false ∧ u.ctl.lapse ≤ u.ctl.lapsed
  let as_ := State.burst p; let vs := as_.zip (p.drop 2)
  (Admitted s h cpOwnClaim p →
    (u.ctl.owner = none ∨ (bit (word p 0) 0 = true ∧ lapsed) → Replies (.ownClaim h p) s h cpOwnClaim stOk []
      { u with ctl := { u.ctl with owner := some (u.port (16 + h.port.toNat)).keyHash, lapsed := 0 } }) ∧
    (u.ctl.owner ≠ none → ¬(bit (word p 0) 0 = true ∧ lapsed) → Replies (.ownClaim h p) s h cpOwnClaim stDenied [] u)) ∧
  (Admitted s h cpOwnRelease p → Replies (.ownRelease h p) s h cpOwnRelease stOk [] { u with ctl := { u.ctl with owner := none } }) ∧
  (Admitted s h cpConfigDone p → p.length = 1 →
    (u.ctl.step = 5 → bits (word p 0) 1 0 ≠ 3 → Replies (.configDone h p) s h cpConfigDone stOk []
      { u with ctl := { u.ctl with step := 6, test := (word p 0).setWidth 2 } }) ∧
    (u.ctl.step ≠ 5 → Replies (.configDone h p) s h cpConfigDone stBusy [] u)) ∧
  (Admitted s h cpModuleReset p → exec (.moduleReset h p) s = .next (u.reply h.port cpModuleReset h.tag stOk []).restart.flush) ∧
  (Admitted s h cpRegRead p → p.length = 2 → burstBad p = false →
    (u.burstCheck who (as_.map fun a => (a, none)) = st → st ≠ stOk → Replies (.regRead h p) s h cpRegRead st [] u) ∧
    (u.burstCheck who (as_.map fun a => (a, none)) = stOk → u.readBurst who as_ [] = (ws, st, v) →
      Replies (.regRead h p) s h cpRegRead st (if st = stOk then ws else [w32 ws.length]) v)) ∧
  (Passes s h cpRegRead p → u.ahead cpRegRead p = true → p.length = 2 → burstBad p = false →
    u.burstCheck who (as_.map fun a => (a, none)) = stOk → u.readBurst who as_ [] = (ws, stOk, v) →
    Holds (.regRead h p) s h cpRegRead p (.behind stOk ws) v) ∧
  (Admitted s h cpRegWrite p → p.length = 2 + bits (word p 1) 8 0 → burstBad p = false →
    (u.burstCheck who (vs.map fun e => (e.1, some e.2)) = st → st ≠ stOk → Replies (.regWrite h p) s h cpRegWrite st [] u) ∧
    (u.burstCheck who (vs.map fun e => (e.1, some e.2)) = stOk → u.writeBurst who vs 0 = (n, st, v) →
      Replies (.regWrite h p) s h cpRegWrite st (if st = stOk then [] else [w32 n]) v))

/-- R366, R367, R371, R372: BULK_WRITE waits for its data; BULK_READ sends the bytes of its ranges; BULK_DATA in order is written, and
with the last byte the transfer ends; another OFFSET than the next one ends it with the rest poisoned, and so do data behind its end,
which is the model's choice (log entry 35); a bad header is BAD_PARAM (R358); ABORT and a deadline end the request in flight ABORTED.
-/
def Obligations.BulkTransfersMoveInOrder : Prop :=
  ∀ (s v : State) (h : CpHdr) (p : List W32) (op : BitVec 16) (mask : W64) (data : List Byte) (fw : FwVerdict) (sts : List Status)
    (bs : List MB) (r : Inflight) (pre post : List Inflight) (next : Nat) (ds es : List BulkDesc) (d off : W64),
  let u := s.taken h; let w := s.heard (16 + h.port.toNat) cpReplyPool; let c := Instr.bulkData h op (BitVec.ofNat 64 next) mask data fw
  let good := State.headerOk h = true ∧ State.knownOpcode op = true ∧ data.length ≤ 4096 ∧ data.length % 4 = 0
  let parts := splitReply 5 sts.length ((List.range sts.length).zip sts); let total := (ds.map (·.len)).sum; let past := next + data.length
  (Admitted s h cpBulkWrite p →
    (bulkMalformed p = true → Replies (.bulkWrite h p) s h cpBulkWrite stBadParam [] u) ∧
    (bulkMalformed p = false → u.bulkShut h.port = true → Replies (.bulkWrite h p) s h cpBulkWrite stBusy [] u) ∧
    (bulkMalformed p = false → u.bulkShut h.port = false → Holds (.bulkWrite h p) s h cpBulkWrite p (.bulk 0 (bulkDescs p)) u)) ∧
  (Admitted s h cpBulkRead p → bulkMalformed p = false → u.bulkShut h.port = false → u.bulkGetAll h.port (bulkDescs p) = (sts, bs, v) →
    Replies (.bulkRead h p) s h cpBulkRead parts.1 parts.2 (v.bulkSend h.port h.tag bs)) ∧
  (s.hears h.port cpReplyPool = true → h.crcOk = true → ¬good → exec (.bulkData h op off mask data fw) s = .next (w.reply h.port op h.tag stBadParam []).flush) ∧
  (s.hears h.port cpReplyPool = true → h.crcOk = true → good → w.ctl.inflight = pre ++ r :: post →
    (∀ x ∈ pre, x.port = h.port → x.tag = h.tag → x.opcode ≠ op) → r.port = h.port → r.tag = h.tag → r.opcode = op →
    r.wait = .bulk next ds → next < 2 ^ 64 →
    (past ≤ total → w.bulkSpread h.port next (State.maskedBytes mask data) 0 ds = (es, v) →
      (past = total → exec c s = .next (v.finishBulk r es).flush) ∧
      (past < total → exec c s = .next ({ v with ctl := { v.ctl with
        inflight := v.ctl.inflight.map fun x => if x = r then { x with wait := .bulk past es } else x } }).flush)) ∧
    (total < past → exec c s = .next (w.finishBulk r (State.cutShort next 0 ds)).flush) ∧
    (off.toNat ≠ next → exec (.bulkData h op off mask data fw) s = .next (w.finishBulk r (State.cutShort next 0 ds)).flush)) ∧
  (Admitted s h cpAbort p → p.length = 1 → let t : BitVec 16 := (word p 0).setWidth 16
    (u.ctl.inflight = pre ++ r :: post → (∀ x ∈ pre, x.tag ≠ t) → r.tag = t →
      (abortable r.opcode = true → r.isDone = false → Replies (.abort h p) s h cpAbort stAborted [] ((u.abortRequest r).countCtl 0x214 1)) ∧
      (abortable r.opcode = true → r.isDone = true → Replies (.abort h p) s h cpAbort stAlreadyDone [] (u.countCtl 0x218 1)) ∧
      (abortable r.opcode = false → Replies (.abort h p) s h cpAbort stBusy [] u)) ∧
    ((∀ x ∈ u.ctl.inflight, x.tag ≠ t) →
      (SMap.get false u.ctl.replied t.toNat = true → Replies (.abort h p) s h cpAbort stAlreadyDone [] (u.countCtl 0x218 1)) ∧
      (SMap.get false u.ctl.replied t.toNat = false → Replies (.abort h p) s h cpAbort stBadParam [] u))) ∧
  (s.ctl.inflight = pre ++ r :: post → (∀ x ∈ pre, ¬(x.port = h.port ∧ x.tag = h.tag)) → r.port = h.port → r.tag = h.tag → r.deadline = some d →
    r.isDone = false → d ≤ s.sh.count → exec (.deadline h.port h.tag) s = .next ((s.abortRequest r).countCtl 0x214 1).flush)

/-- R374 to R377, R387: SHAFT_SET sets the count; SHAFT_SYNC answers T1, T2 and T3; SHAFT_SLEW sets the phase to slew and trims the
rate within its limits; holdover loses the lock; SHAFT_LO_READ reads the low half and latches the high half for its port. T2 and T3 are
one count as the reply is formed (log entry 59); T3 is stamped anew when it goes out (R374). R377, R29: SCHED_SET fills a free entry,
unless its action is none or names a half that is absent; SCHED_CANCEL empties those of its mask; an entry that is due executes, the
earliest first, and is empty then, with its status noted; one that is late, or not OK, is notified. -/
def Obligations.TheShaftAndItsSchedule : Prop :=
  (∀ (s : State) (h : CpHdr) (p : List W32), let u := s.taken h; let t := u.sh.count
  (Admitted s h cpShaftSet p → p.length = 2 → u.turnTaken = false →
    (u.schedMask = 0 → u.coll.commit.st ≠ 2 → u.secIdle = true → Replies (.shaftSet h p) s h cpShaftSet stOk []
      ((u.closeSession 4).updSh fun x => { x with count := word64 p 0, locked := true, since := 0, turnSeen := none })) ∧
    (u.schedMask ≠ 0 ∨ u.coll.commit.st = 2 ∨ u.secIdle = false → Replies (.shaftSet h p) s h cpShaftSet stBusy [] u)) ∧
  (Admitted s h cpShaftSync p → p.length = 2 → Replies (.shaftSync h p) s h cpShaftSync stOk
    [word p 0, word p 1, lo32 t, hi32 t, lo32 t, hi32 t] (u.countSh 0x200 1)) ∧
  (Admitted s h cpShaftSlew p → p.length = 2 →
    ((word p 0).toInt.natAbs ≤ 2 ^ 20 → ∃ rate : W32,
      rate.toInt = max (-(2 ^ 14)) (min (2 ^ 14) (u.sh.rate.toInt + (word p 1).toInt)) ∧ Replies (.shaftSlew h p) s h cpShaftSlew stOk []
        (u.updSh fun x => { x with rate := rate, slewRem := word p 0, slewAcc := 0, locked := true, since := 0 })) ∧
    (2 ^ 20 < (word p 0).toInt.natAbs → Replies (.shaftSlew h p) s h cpShaftSlew stBadParam [] u)) ∧
  exec .holdover s = .next (if s.sh.locked = true ∧ s.sh.limit ≤ s.sh.since then
      ((s.updSh fun x => { x with locked := false, holdover := true }).shaftEvent 1 0 0).closeSession 4 else s) ∧
  (Admitted s h cpRegRead [0x1000, 1] → Replies (.shaftLoRead h) s h cpRegRead stOk [lo32 t]
    { u with sh := { u.sh with latch := SMap.set 0 u.sh.latch h.port.toNat (hi32 t) } })) ∧
  (∀ (s v : State) (h : CpHdr) (p : List W32) (i : BitVec 4) (st : Status), let u := s.taken h; let k := i.toNat; let w := word p 0
  let act := bits w 11 8; let n := (word p 4).toNat; let dst := word64 p 5; let e := s.sched k
  let absent := ∃ x, x < 2 ∧ (word p 3).getLsbD x = true ∧ u.hasHalf x = false
  (Admitted s h cpSchedSet p → p.length = 7 → bits w 3 0 = k →
    ((u.sched k).valid = true → Replies (.schedSet h p) s h cpSchedSet stBusy [] u) ∧
    ((u.sched k).valid = false →
      (1 ≤ act → act ≤ 3 → (act = 2 → 1 ≤ n ∧ n ≤ 256 ∧ dst.toNat % 8 = 0) → (act = 3 → ¬absent) →
        Replies (.schedSet h p) s h cpSchedSet stOk [] (u.setSched k { u.sched k with
          valid := true, at_ := word64 p 1, action := BitVec.ofNat 4 act, arg0 := word p 3, arg1 := word p 4, arg2 := dst })) ∧
      (act = 3 → absent → Replies (.schedSet h p) s h cpSchedSet stNotPresent [] u) ∧
      (act = 0 ∨ 3 < act ∨ (act = 2 ∧ (n = 0 ∨ 256 < n ∨ dst.toNat % 8 ≠ 0)) → Replies (.schedSet h p) s h cpSchedSet stBadParam [] u))) ∧
  (Admitted s h cpSchedCancel p → p.length = 1 → ∃ t : State, Replies (.schedCancel h p) s h cpSchedCancel stOk [] t ∧
    t = { u with sh := { u.sh with sched := t.sh.sched } } ∧
    ∀ j, j < 16 → t.sched j = { u.sched j with valid := (u.sched j).valid && !w.getLsbD j }) ∧
  (s.schedDue k = false → exec (.scheduledAction i) s = .next s) ∧
  (s.schedDue k = true → s.schedRun e = (st, v) → let late := decide (e.at_.toNat + 64 < s.sh.count.toNat)
    exec (.scheduledAction i) s = .next
      (let t1 := (v.setSched k { v.sched k with valid := false, status := st }).countSh 0x204 1
       let t2 := if late then (t1.updSh fun x => { x with late := x.late ||| BitVec.ofNat 16 (2 ^ k) }).shaftEvent 2 k st else t1
       if st = stOk then t2 else t2.shaftEvent 3 k st).flush) ∧
  ∀ j, s.schedDue k = true → j < 16 → (s.sched j).valid = true → e.at_.toNat < (s.sched j).at_.toNat ∨ (e.at_ = (s.sched j).at_ ∧ k ≤ j))

/-! ### Register writes -/

/-- R94, R96, R101, R106, R113, R155, R195, R198, R250, R253: what the register commands of a half do, where their half, core or
cluster is present, awake and not fenced, and nothing runs that the rule forbids. That a START drops what a STOP, a swap or a failed
group has left behind is log entry 42; which of these registers can be written in IDLE is log entry 37; and a quiesce point that ends
is taken by the remap that waits for it (R197). R101, R104, R380: SLOT_START sets the slots of its mask RUNNING where they stand, under
the generation that is current, clears their faults, and counts their waiting for the issue logic from then (that a STOP or a swap that
waits, and the group of a failed slot, go is log entry 42); SLOT_STOP stops a RUNNING slot of its mask at once where no command of it
is in execution, and otherwise with that command's completion; what is left of its fused group goes (log entry 74). Every other slot,
every counter, and, on a start, every ring stays. -/
def Obligations.ComputeRegistersTakeEffect : Prop :=
  (∀ (s : State) (h : CpHdr) (half : BitVec 1) (m : BitVec 4) (n : BitVec 2) (hi : Bool) (v : W32) (q : BitVec 4) (cl : BitVec 5),
  let w := half.toNat; let hb := 0x10000 + 0x8000 * w; let core := (s.taken h).selected w h.port.toNat; let k := core.toNat; let x := 32 * w + cl.toNat
  let size := bits v 21 11; let base := bits v 10 0; let bv := v &&& 0x800037FF; let peer := peerOf core bv
  let emptied (r : Ring) : Ring := { size := BitVec.ofNat 11 size, base := BitVec.ofNat 11 base, staged := r.staged }
  let idle (u : State) : Prop := (u.core k).anyRunning = false
  let free (u : State) : Prop := u.halfOpen half ∧ u.hasCluster x = true
  let upd (f : Core → Core) (u : State) : State := u.setCore k (f (u.core k))
  let old (c : Core) : Slot := c.slot n.toNat
  let np (p : VA) : VA := if hi then setBits p 47 32 (bits v 15 0) else setBits p 31 0 (v.toNat / 16 * 16)
  ∀ r ∈ ([
    ⟨.slotStart h half m, hb + 0x10C, m.setWidth 32,
      fun u => u.windowOpen h half ∧ bit (u.half w).netCtrl 0 = false ∧ (bit (u.core k).ctrl 0 = true → m.toNat ≤ 1),
      fun u => upd (fun c => (bitList 4 m.toNat).foldl (Core.start (u.half w).gen) c) u⟩,
    ⟨.slotStop h half m, hb + 0x10C, w32 (16 * m.toNat),
      fun u => u.hasHalf w = true ∧ u.hasCore core = true ∧ (u.fencedCore k = true → m ≠ 0) ∧ u.pwr.gated.getLsbD w = false ∧ u.pwr.st ≠ 1,
      upd fun c => (bitList 4 m.toNat).foldl Core.stopSlot c⟩,
    ⟨.slotPtr h half n hi v, hb + 0x120 + 8 * n.toNat + (if hi then 4 else 0), v, fun u => u.windowOpen h half ∧ (old (u.core k)).st = 0,
      upd fun c => c.setSlot n.toNat { old c with loops := [], group := none, ptr := np (old c).ptr }⟩,
    ⟨.qcfg h half q v, hb + 0x190 + 4 * q.toNat, v,
      fun u => q ≠ 15 ∧ u.windowOpen h half ∧ idle u ∧ base + size ≤ 1536 ∧ (u.core k).overlaps q.toNat size base = false ∧
        (q = 14 → size = 0 ∨ 32 < size),
      upd fun c => { c with rings := SMap.set {} c.rings q.toNat (emptied (c.ring q.toNat)) }⟩,
    ⟨.qcfg h half q v, hb + 0x190 + 4 * q.toNat, v, fun u => q = 15 ∧ u.windowOpen h half, id⟩,
    ⟨.qbind h half n v, hb + 0x1D0 + 4 * n.toNat, v,
      fun u => u.windowOpen h half ∧ idle u ∧ u.hasCore peer.1 = true ∧ ¬(bit bv 31 = true ∧ peer = (core, 10 + n.toNat)),
      upd fun c => { c with binds := SMap.set 0 c.binds (10 + n.toNat) bv, bindFenced := SMap.set false c.bindFenced (10 + n.toNat) false }⟩,
    ⟨.coreSeen h half v, hb + 0x108, v, fun u => u.windowOpen h half,
      upd fun c => { c with pseen := c.pseen && !bit v 0, nfseen := c.nfseen && !bit v 1 }⟩,
    ⟨.pipePolicy h half v, hb + 4, v, fun u => u.halfOpen half, fun u => u.setPolicy w v⟩,
    ⟨.fenceCmd h half cl v, hb + 0x808 + 0x100 * cl.toNat, v, free,
      fun u => if bit v 8 then u.fenceCore (BitVec.ofNat 12 (64 * x + bits v 5 0)) 0 else u⟩,
    ⟨.quiesceReq h half v, hb + 0x400, v, fun u => u.halfOpen half,
      fun u => let z := u.updHalf w fun y => { y with netCtrl := v &&& 3, auditing := if bit v 1 then y.auditing else none }
               if bit v 0 then z else z.remapNow w⟩,
    ⟨.csmCfg h half cl v, hb + 0x800 + 0x100 * cl.toNat, v, fun u => free u ∧ u.clusterRuns x = false ∧ bits v 5 0 ≤ 32,
      fun u => (u.updCluster x fun c => { c with cfg := w32 (bits v 5 0) }).updCsu x Csu.discard⟩,
    ⟨.csuCancel h half cl v, 0x60004 + 0x1000 * w + 0x80 * cl.toNat, v, free,
      fun u => u.updCsu x fun c => (bitList 16 v.toNat).foldl Csu.cancel c⟩] : List RegRow), r.Holds s h) ∧
  (∀ (c : Core) (g : BitVec 16) (m : BitVec 4) (n : Nat), n < 4 →
  let a := (bitList 4 m.toNat).foldl (Core.start g) c; let b := (bitList 4 m.toNat).foldl Core.stopSlot c; let sl := c.slot n
  let works : Prop := ∃ r ∈ c.runs, r.slot.toNat = n
  (m.getLsbD n = true → sl.st ≠ 1 → a.slot n = { sl with st := 1, fault := 0, marked := false, gen := g, swap := none, stop := false, last := c.clock,
                                                          group := if sl.st = 3 then none else sl.group }) ∧
  (m.getLsbD n = false ∨ sl.st = 1 → a.slot n = sl) ∧
  (m.getLsbD n = true → sl.st = 1 → ¬works → b.slot n = { sl with st := 0, swap := none, group := none }) ∧
  (m.getLsbD n = true → sl.st = 1 → works → b.slot n = { sl with stop := true }) ∧
  (m.getLsbD n = false ∨ sl.st ≠ 1 → b.slot n = sl) ∧ a.rings = c.rings ∧ a.runs = c.runs ∧ b.runs = c.runs ∧ a.ctr = c.ctr ∧ b.ctr = c.ctr)

/-- R27, R29, R224, R230, R236: what the commands that write a memory register do. A flush cleans its stack's cache. A chunk whose mode
changes loses its contents, and so the whole module is at a quiesce point; GT2048-H has one mode, and the fourth word is none. An
invalidation drops what it covers and marks the requests that the dropped entries had translated; while it is in progress another is
BUSY. A stack of 12 or more does not exist, and nothing happens (log entry 37); a flush is done as a whole (log entry 29). -/
def Obligations.MemoryRegistersTakeEffect : Prop :=
  ∀ (s : State) (h : CpHdr) (stack : BitVec 4) (k : BitVec 2) (v : W32),
  let sk := stack.toNat; let at_ := 0x2C000 + 4 * k.toNat; let sc := bits v 1 0
  let new (u : State) : BitVec 72 := setBits u.xl.mode (if k = 2 then 71 else 32 * k.toNat + 31) (32 * k.toNat) v.toNat
  let moved (u : State) : List Nat := (List.range 72).filter fun c => decide ((new u).getLsbD c ≠ u.xl.mode.getLsbD c)
  (∀ r ∈ ([
    ⟨.mscFlush h stack, 0x20008 + 0x1000 * sk, 1, fun u => sk < 12 ∧ u.hasStack sk = true ∧ u.pwr.gated.getLsbD (sk / 6) = false, fun u => u.mscFlush sk⟩,
    ⟨.memMode h k v, at_, v, fun u => k ≠ 3 ∧ u.part ≠ .gt2048H ∧ u.allQuiesced = true,
      fun u => let l := (moved u).foldl State.loseChunk u
               { l with xl := { l.xl with mode := new u } }⟩,
    ⟨.memMode h k v, at_, v, fun u => k = 3 ∨ u.part = .gt2048H, id⟩,
    ⟨.xlatInval h v, 0x2C020, v, fun u => u.invalBusy = false ∧ sc ≠ 0, fun u => { u.markInval sc with xl := u.xl.invalidate sc }⟩] : List RegRow),
   r.Holds s h) ∧
  (Admitted s h cpRegWrite [w32 0x2C020, 1, v] → (s.taken h).invalBusy = true → Replies (.xlatInval h v) s h cpRegWrite stBusy [0] (s.taken h)) ∧
  (12 ≤ sk → exec (.mscFlush h stack) s = .next s)

/-- R266, R279, R284, R393, R404, R428: what the commands that write a register of the shared fabric block, of the power block, or a
port's ENABLE and RETRAIN bits do, where a module in RETURNED does not enable a fabric port, and what loading the route table answers:
a table is taken whole or not at all, and in STILL, which gives no access to external memory, the load is BUSY. A port of number 18 or
more does not exist, and nothing happens. R275, R279: ADMIT makes a HELD port of a numbered device ACTIVE where it names the port's
link epoch; the BUSY, VERSION_MISMATCH and BAD_PARAM rows of R275 answer in their order and change nothing. A control port has no
ADMIT. ENABLE of the same write follows (log entry 37). -/
def Obligations.FabricRegistersTakeEffect : Prop :=
  (∀ (s u1 : State) (h : CpHdr) (v : W32) (port : BitVec 5) (b : Bool) (ws : List QW) (tbl : SMap W32) (bad : Nat),
  let n := port.toNat; let pa := 0x30000 + 0x800 * n; let t := s.taken h; let base := bits t.fab.routeHi 7 0 * 2 ^ 32 + t.fab.routeLo.toNat
  let awake (u : State) : Prop := u.hasPort n = true ∧ (n < 16 → u.pwr.gated.getLsbD (n / 8) = false ∧ (b = true → u.returned = false))
  let on (u : State) : State := if b ≠ (u.port n).enable then u.setEnable n b else u
  (∀ r ∈ ([
    ⟨.laserSwitch h v, 0x3900C, v, fun _ => True, fun u => u.setLaserCtrl v⟩,
    ⟨.portEnable h port b, pa, w32 (flag b 0), awake, on⟩,
    ⟨.retrain h port b, pa, w32 (flag b 0 + 4), awake, fun u => (on u).linkLost n⟩,
    ⟨.alertStatus h v, 0x2814, v, fun _ => True, fun u => { u with pwr := { u.pwr with alert := u.pwr.alert &&& ~~~ (v.setWidth 4) } }⟩] : List RegRow),
   r.Holds s h) ∧
  (Admitted s h cpRegWrite [w32 0x39018, 1, 1] → t.pwr.st = 3 → Replies (.routeLoad h) s h cpRegWrite stBusy [0] t) ∧
  (Admitted s h cpRegWrite [w32 0x39018, 1, 1] → t.pwr.st ≠ 3 →
    (base + 2 ^ 18 ≤ t.capacity → t.routeWords base = (ws, u1) →
      (u1.routeScan 0 ws.reverse [] = .ok tbl → Replies (.routeLoad h) s h cpRegWrite stOk []
        { u1 with fab := { u1.fab with routes := tbl, routeRefused := false, routeGen := u1.fab.routeGen + 1 } }) ∧
      (u1.routeScan 0 ws.reverse [] = .error bad → Replies (.routeLoad h) s h cpRegWrite stBadParam [0]
        { u1 with fab := { u1.fab with routeRefused := true, routeBad := BitVec.ofNat 16 bad } })) ∧
    (t.capacity < base + 2 ^ 18 → Replies (.routeLoad h) s h cpRegWrite stBadParam [0]
      { t with fab := { t.fab with routeRefused := true, routeBad := 0 } })) ∧
  (18 ≤ n → exec (.portEnable h port b) s = .next s ∧ exec (.retrain h port b) s = .next s)) ∧
  (∀ (s : State) (h : CpHdr) (port : BitVec 5) (b : Bool) (epoch : BitVec 16),
  let n := port.toNat; let v := w32 (flag b 0 + 2 + epoch.toNat * 2 ^ 16); let t := s.taken h; let p := t.port n
  let awake (u : State) : Prop := u.hasPort n = true ∧ (n < 16 → u.pwr.gated.getLsbD (n / 8) = false ∧ (b = true → u.returned = false))
  let on (u : State) : State := if b ≠ (u.port n).enable then u.setEnable n b else u
  let answers (st : Status) : Prop := Replies (.admitPort h port b epoch) s h cpRegWrite st (if st = stOk then [] else [0])
    (if st = stOk then on (t.enterActive n) else t)
  (18 ≤ n → exec (.admitPort h port b epoch) s = .next s) ∧
  (Admitted s h cpRegWrite [w32 (0x30000 + 0x800 * n), 1, v] → awake t →
    (n < 16 → (p.st ≠ psHeld → answers stBusy) ∧
      (p.st = psHeld → p.epoch ≠ epoch → answers stVersionMismatch) ∧
      (p.st = psHeld → p.epoch = epoch → t.fab.devId = 0xFFFF → answers stBadParam) ∧
      (p.st = psHeld → p.epoch = epoch → t.fab.devId ≠ 0xFFFF → answers stOk)) ∧
    (16 ≤ n → Replies (.admitPort h port b epoch) s h cpRegWrite stOk [] (on t))))

/-- R176, R179, R293, R295, R298, R299, R306, R316, R321, R328, R338, R340: what the register commands of the collective and the
resilience block do. Where one write of SEC_CTRL has both bits, START comes before ABANDON (log entry 53), and a waiver of the same
write comes after ARM (log entry 51). -/
def Obligations.CollectiveRegistersTakeEffect : Prop :=
  ∀ (s : State) (h : CpHdr) (half : BitVec 1) (ring : BitVec 4) (v : W32) (job : BitVec 6) (waive : BitVec 16) (g : BitVec 3),
  let w := half.toNat; let k := ring.toNat; let j := job.toNat; let jc := 0x41004 + 0x40 * j; let n := waive.toNat; let mv := 0x40C00 + 0x200 * w + 0x20 * k
  let cv := v &&& w32 0x8FFF1FFF; let ev := bits cv 27 16; let on := bit cv 31 = true; let raises := bits v 12 0; let rh := bits v 28 28
  let could (u : State) (old : W32) (size : BitVec 16) (bound : Bool) : Prop := u.hasCe w = true ∧
    (on → bit old 31 = false ∧ bit (u.half w).netCtrl 0 = false ∧ 1 ≤ bits cv 12 0 ∧ bits cv 12 0 ≤ 4096 ∧ size ≠ 0 ∧ bound = false)
  let jb (u : State) : Job := u.job j
  let sec (u : State) (x : W32) : State := { u with sec := { u.sec with weight := x.extractLsb' 8 8, enable := bit x 0, start := u.sec.start || bit x 1 } }
  let drop (u : State) : State := (List.range u.sec.count.toNat).foldl (fun u i => u.abandonEntry i) u
  ∀ r ∈ ([
    ⟨.mvEnable h half ring v, mv, v, fun u => could u ((u.ce w).ring k).ctrl ((u.ce w).ring k).size ((u.ce w).ringBound k ev),
      fun u => u.updCe w fun c => c.updRing k fun r =>
        if bit cv 31 then { r with ctrl := cv, head := 0, owed := 0, lastBad := 0, raises := 0, run := r.run.map fun x => { x with stale := true } }
        else { r with ctrl := cv, owed := 0, raises := 0 }⟩,
    ⟨.mvTail h half ring v, mv + 0x10, v, fun u => u.hasCe w = true, fun u => u.updCe w fun c => c.updRing k fun r => { r with tail := v.setWidth 16 }⟩,
    ⟨.rlEnable h half ring v, 0x40400 + 0x200 * w + 0x20 * k, v,
      fun u => could u ((u.ce w).list k).ctrl ((u.ce w).list k).len ((u.ce w).listBound k ev),
      fun u => u.updCe w fun c => c.updList k fun l =>
        if bit cv 31 then
          { l with ctrl := cv, owed := 0, lastBad := 0, raises := 0, next := 0, runs := l.runs.map fun x => { x with stale := true } }
        else { l with ctrl := cv, owed := 0, raises := 0 }⟩,
    ⟨.eventRaise h v, 0x40024, v, fun u => bit (u.half rh).netCtrl 0 = false ∧ 1 ≤ raises ∧ raises ≤ 4096 ∧ u.hasCe rh = true,
      fun u => u.raiseAt rh (bits v 27 16) raises⟩,
    ⟨.arm h job waive, jc, w32 (1 + n * 2 ^ 16), fun u => (jb u).st = jobFree ∧ u.jobTaken j (jb u).id = false,
      fun u => (u.armJob j (bit (jb u).cfg 6)).waiveJob j n⟩,
    ⟨.rearm h job waive, jc, w32 (2 + n * 2 ^ 16), fun u => ((jb u).st = jobOpen ∨ (jb u).st = jobClosed) ∧ (jb u).shard = false,
      fun u => (u.armJob j (bit (jb u).cfg 6)).waiveJob j n⟩,
    ⟨.release h job waive, jc, w32 (4 + n * 2 ^ 16), fun u => (jb u).st ≠ jobCommitting, fun u => u.updJob j fun e => { e with st := jobFree }⟩,
    ⟨.jobWaive h job waive, jc, w32 (n * 2 ^ 16), fun _ => True, fun u =>
      if (jb u).st = jobArming ∨ (jb u).st = jobOpen then (u.updJob j fun e => { e with waived := e.waived + n }).checkClosed j else u⟩,
    ⟨.cgDrop h g waive, 0x40080 + 4 * g.toNat, w32 (2 ^ 16 + n), fun u => (u.cg g.toNat).st ≠ 3,
      fun u => let d := (u.updCg g.toNat fun c => { c with expect := waive }).dropGroup g.toNat
               if (d.cg g.toNat).used ∧ (d.cg g.toNat).st ≠ 3 then d.checkGroup g.toNat else d⟩,
    ⟨.commitAbort h, 0x40004, 1, fun _ => True, fun u => u.updCommit fun c => { c with abortOwn := true }⟩,
    ⟨.commitResend h, 0x40004, 2, fun u => (u.coll.commit.st = 1 ∨ u.coll.commit.st = 2) ∧ u.treeParent ≠ 0xFFFF,
      fun u => match u.coll.commit.upOut with
        | some x => u.sendUp x
        | none => u⟩,
    ⟨.commitResend h, 0x40004, 2, fun u => (u.coll.commit.st ≠ 1 ∧ u.coll.commit.st ≠ 2) ∨ u.treeParent = 0xFFFF, id⟩,
    ⟨.commitWaive h waive, 0x40004, w32 (n * 2 ^ 16), fun _ => True, fun u => u.updCommit fun c => { c with waived := c.waived + n }⟩,
    ⟨.secStart h v, 0x50000, v ||| 2, fun _ => True, fun u => if bit v 2 then drop (sec u (v ||| 2)) else sec u (v ||| 2)⟩,
    ⟨.secAbandon h v, 0x50000, v ||| 4, fun _ => True, fun u => drop (sec u v)⟩] : List RegRow), r.Holds s h

/-! ### Upkeep -/

/-- R378, R382: FN_RESET begins the reset of the functions that are not busy, and is answered when all of them have restarted, or at
once where it names the function of its own port; one that names a gated unit is BUSY (R397). FN_RESTART ends the reset of one. REMAP
serves each half that is at a quiesce point, and its remap takes effect as that point ends (R197). -/
def Obligations.FunctionsResetAndClustersRemap : Prop :=
  ∀ (s v v' : State) (h : CpHdr) (p : List W32) (fn : BitVec 6) (k : Nat) (st st' : Status), let u := s.taken h; let f := fn.toNat
  let fs := bitList 34 (bits (word64 p 0) 33 0); let busy := fs.filter u.fnBusy; let go := fs.filter fun f => !u.fnBusy f
  let r := splitReply 3 34 (State.fnParts go busy); let r0 := splitReply 3 34 (State.fnParts [] busy); let two := splitReply 1 2 [(0, st), (1, st')]
  (Admitted s h cpFnReset p → p.length = 2 →
    ((∃ f ∈ fs, u.fnPresent f = false) → Replies (.fnReset h p) s h cpFnReset stNotPresent [] u) ∧
    ((∀ f ∈ fs, u.fnPresent f = true) → (∃ f ∈ fs, u.fnAsleep f = true) → Replies (.fnReset h p) s h cpFnReset stBusy [] u) ∧
    ((∀ f ∈ fs, u.fnPresent f = true ∧ u.fnAsleep f = false) →
      (go = [] → Replies (.fnReset h p) s h cpFnReset r0.1 r0.2 u) ∧
      (go ≠ [] → (h.port ≠ 0 ∨ 0 ∉ go) → Holds (.fnReset h p) s h cpFnReset p (.fnReset go [] busy) (go.foldl (fun s f => s.fnBegin false f) u)) ∧
      (h.port = 0 → 0 ∈ go → exec (.fnReset h p) s =
        .next (go.foldl (fun s f => s.fnBegin true f) (u.reply h.port cpFnReset h.tag r.1 r.2)).flush))) ∧
  (f < 34 → s.ctl.fnReset.getLsbD f = true → exec (.fnRestart fn) s = .next ((s.fnEnd f).fnReply f).flush) ∧
  (34 ≤ f ∨ s.ctl.fnReset.getLsbD f = false → exec (.fnRestart fn) s = .next s) ∧
  (Admitted s h cpRemap p → p.length = 1 → let hs := bitList 2 (word p 0).toNat
    ((∃ k ∈ hs, u.hasHalf k = false) → Replies (.remap h p) s h cpRemap stNotPresent [] u) ∧
    ((∀ k ∈ hs, u.hasHalf k = true) →
      (hs = [] → Replies (.remap h p) s h cpRemap stOk [] u) ∧
      (hs = [k] → u.remapPart k = (st, v) → Replies (.remap h p) s h cpRemap st [] v) ∧
      (hs = [0, 1] → u.remapPart 0 = (st, v) → v.remapPart 1 = (st', v') → Replies (.remap h p) s h cpRemap two.1 two.2 v'))) ∧
  (s.quiesced k = false → s.remapPart k = (stBusy, s)) ∧ (s.quiesced k = true → s.remapPart k = (stOk, s.updHalf k fun x => { x with remap := true })) ∧
  ((s.half k).remap = false → s.remapNow k = s) ∧ ((s.half k).remap = true → ((s.remapNow k).half k).remap = false)

/-- R380: PROGRAM_SWAP enters an image whose region can be executed, makes its generation current in the halves it names, and has the
slots that run under the old one change over. One that finds no room is BUSY, as is one in STILL, which gives no access to the page
tables (R393), and one that is malformed BAD_PARAM. That it takes the lowest free entry, and walks as a requester of H0, is log entry
20. -/
def Obligations.ProgramsSwap : Prop :=
  ∀ (s v : State) (h : CpHdr) (p : List W32) (l : List (Nat × Nat)) (i : Nat), let u := s.taken h
  let new : BitVec 16 := (word p 0).setWidth 16; let old : BitVec 16 := (word p 0).extractLsb' 16 16
  let base : VA := (word64 p 1).setWidth 48; let len := (word p 3).toNat; let halves : BitVec 2 := (word p 4).setWidth 2
  let live := u.ctl.images.filter fun e => e.2.valid && u.genLive e.2.gen; let held := (live.map fun e => e.2.ranges.length).sum; let rs := joinRanges l
  let oldBase := ((live.find? fun e => decide (e.2.gen = old)).map (·.2.base)).getD 0
  let good := new ≠ 0 ∧ (∀ e ∈ live, e.2.gen ≠ new) ∧ base.toNat % 4096 = 0 ∧ 0 < len ∧ len % 64 = 0 ∧ len ≤ 2 ^ 26
  let pages := u.imageRanges 0 (pagesFrom (len / 2 ^ 21 + 2) base.toNat len); let slot := (List.range 16).find? fun i => live.all fun e => decide (e.1 ≠ i)
  Admitted s h cpProgramSwap p → p.length = 5 →
  (¬good → Replies (.programSwap h p) s h cpProgramSwap stBadParam [] u) ∧
  (good → (∃ k, k < 2 ∧ halves.getLsbD k = true ∧ u.hasHalf k = false) → Replies (.programSwap h p) s h cpProgramSwap stNotPresent [] u) ∧
  (good → (∀ k, k < 2 → halves.getLsbD k = true → u.hasHalf k = true) → u.pwr.st = 3 → Replies (.programSwap h p) s h cpProgramSwap stBusy [] u) ∧
  (good → (∀ k, k < 2 → halves.getLsbD k = true → u.hasHalf k = true) → u.pwr.st ≠ 3 →
    (pages = (none, v) → Replies (.programSwap h p) s h cpProgramSwap stDenied [] v) ∧
    (pages = (some l, v) → slot = none → Replies (.programSwap h p) s h cpProgramSwap stBusy [] v) ∧
    (pages = (some l, v) → slot = some i → 16 < rs.length → Replies (.programSwap h p) s h cpProgramSwap stBadParam [] v) ∧
    (pages = (some l, v) → slot = some i → rs.length ≤ 16 → 64 < held + rs.length → Replies (.programSwap h p) s h cpProgramSwap stBusy [] v) ∧
    (pages = (some l, v) → slot = some i → rs.length ≤ 16 → held + rs.length ≤ 64 →
      let e : Image := { valid := true, gen := new, base := base, len := word p 3, halves := halves, ranges := rs.map fun r => (BitVec.ofNat 40 r.1, r.2) }
      let a : State := { v with ctl := { v.ctl with images := SMap.set {} live i e } }
      let b : State := (List.range 2).foldl (fun s h => if halves.getLsbD h then s.updHalf h fun x => { x with gen := new } else s) a
      Replies (.programSwap h p) s h cpProgramSwap stOk []
        (if old = 0 then b else b.swapSlots halves old { gen := new, oldBase := oldBase, newBase := base, len := word p 3 })))

/-- R372, R383, R384: FW_UPDATE, and FW_LOAD in recovery, wait for their image. A packet that is not at the OFFSET next expected ends
the request with BAD_PARAM, as does one that overruns the length (log entry 35). With its last byte an image whose signature is right
is written to flash, which holds no valid image until that has ended after a time that is free (log entry 90), or runs at once in
recovery, where the start-up goes on at step 4; one whose signature is wrong is DENIED. That FW_LOAD outside recovery is DENIED is log
entry 62. -/
def Obligations.FirmwareImagesArrive : Prop :=
  ∀ (s : State) (h : CpHdr) (p : List W32) (mask : W64) (data : List Byte) (fw : FwVerdict) (r : Inflight) (pre post : List Inflight) (len next q : Nat) (offset : W64),
  let u := s.taken h; let w := s.heard (16 + h.port.toNat) cpReplyPool; let n := (word p 0).toNat; let past := next + data.length
  (Admitted s h cpFwUpdate p → u.turnTaken = false →
    (p.length = 1 → 0 < n → n ≤ 2 ^ 23 → Holds (.fwUpdate h p) s h cpFwUpdate p (.image n 0) u) ∧
    (p.length ≠ 1 ∨ n = 0 ∨ 2 ^ 23 < n → Replies (.fwUpdate h p) s h cpFwUpdate stBadParam [] u)) ∧
  (Admitted s h cpFwLoad p →
    (u.ctl.inRecovery = false → Replies (.fwLoad h p) s h cpFwLoad stDenied [] u) ∧
    (u.ctl.inRecovery = true → p.length = 1 → 0 < n → n ≤ 2 ^ 23 → (∀ r ∈ u.ctl.inflight, r.opcode ≠ cpFwLoad) →
      Holds (.fwLoad h p) s h cpFwLoad p (.image n 0) u)) ∧
  (s.dormant = false → s.ctl.step ≠ 7 → s.ctl.inflight = [r] → r.opcode = cpFwUpdate → r.wait = .flash fw q →
    let t : State := { s.countTick with sh := s.countTick.sh.tick }
    (q ≤ 1 → exec .shaftTick s = .next (({ t with flash := { t.flash with fwOk := true, fwVersion := fw.version, fwMeasure := fw.measure } } : State).endUpdate r stOk).flush) ∧
    (1 < q → exec .shaftTick s = .next ({ t with ctl := { t.ctl with inflight := [{ r with wait := .flash fw (q - 1) }] } } : State).flush)) ∧
  ∀ op, op = cpFwUpdate ∨ op = cpFwLoad → s.hears h.port cpReplyPool = true → h.crcOk = true → State.headerOk h = true →
    data.length ≤ 4096 → data.length % 4 = 0 → w.ctl.inflight = pre ++ r :: post →
    (∀ x ∈ pre, x.port = h.port → x.tag = h.tag → x.opcode ≠ op) → r.port = h.port → r.tag = h.tag → r.opcode = op → r.wait = .image len next →
    let c := Instr.bulkData h op offset mask data fw
    let waits (v : State) (x : Wait) : State := { v with ctl := { v.ctl with inflight := v.ctl.inflight.map fun y => if y = r then { y with wait := x } else y } }
    let runs := fun s : State => ({ s with ctl := { s.ctl with step := 4, recovery := true, inRecovery := false, fwVersion := fw.version },
                                           lock := { s.lock with fwMeasure := fw.measure } } : State)
    (offset.toNat ≠ next ∨ len < past → exec c s = .next (if op = cpFwUpdate then w.endUpdate r stBadParam else w.endRequest r stBadParam []).flush) ∧
    (offset.toNat = next → past < len → exec c s = .next (waits w (.image len past)).flush) ∧
    (offset.toNat = next → past = len → fw.sigOk = true → op = cpFwUpdate → exec c s = .next
      (waits { w with flash := { w.flash with fwOk := false }, fresh := w.fresh + 1 } (.flash fw w.flashTicks)).flush) ∧
    (offset.toNat = next → past = len → fw.sigOk = true → op = cpFwLoad → exec c s = .next
      (((runs (w.endRequest r stOk [])).enableCp 16).enableCp 17).identNote.flush) ∧
    (offset.toNat = next → past = len → fw.sigOk = false → exec c s = .next
      (if op = cpFwUpdate then w.endUpdate r stDenied else w.endRequest r stDenied []).flush)

/-- R237 to R240: MEM_MAINT moves its stacks into MAINT or back UP, but those that are gated, under reset or under test; MEM_PPR
repairs a row with one that is left; MEM_TEST holds the stacks in MAINT under test, for a time that is free (log entry 31); MEM_RETRAIN
trains them. That a gated or reset stack, or one under test, answers BUSY is log entry 33. R350, R352: LICHEN_READ answers the header
and the records that it asks for; LICHEN_EDIT adds a record of a core or a cluster site of a half that is present (R29), or clears one.
The bound of 252 records is log entry 34. -/
def Obligations.MemoryAndTheLichenMapAreMaintained : Prop :=
  (∀ (s : State) (h : CpHdr) (p : List W32) (found : List TestResult) (lanes : List LaneTest), let u := s.taken h; let w := word p 0
  let ks := bitList 12 (bits w 11 0); let there := ∀ k ∈ ks, u.hasStack k = true; let k := bits w 3 0
  let l : Loc := { stack := k, channel := bits w 7 4, rank := bits w 11 8, bank := 4 * bits w 13 12 + bits w 15 14, row := bits w 29 16, sector := 0 }
  let e := 48 * l.channel + 4 * l.rank + bits w 13 12; let used := SMap.get 0 (u.mc k).pprUsed e
  let ready (k : Nat) : Prop := (u.mc k).st = 2 ∧ u.mcHeld k = false
  (Admitted s h cpMemMaint p → p.length = 1 → there → let parts := ks.map fun k => (k, if u.mcHeld k then stBusy else stOk)
    ∃ t : State, Replies (.memMaint h p) s h cpMemMaint (splitReply 1 12 parts).1 (splitReply 1 12 parts).2 t ∧ t.mem.bytes = u.mem.bytes ∧
      (∀ a, SMap.get false u.mem.clean a = false → SMap.get false t.mem.clean a = false) ∧
      ∀ j, (t.mc j).st = if j ∈ ks ∧ u.mcHeld j = false then (if bit w 16 then 2 else 1) else (u.mc j).st) ∧
  (Admitted s h cpMemPpr p → p.length = 1 → k < 12 → u.hasStack k = true →
    ((u.mc k).st ≠ 2 → Replies (.memPpr h p) s h cpMemPpr stBusy [] u) ∧
    ((u.mc k).st = 2 → 12 ≤ l.rank ∨ 12288 ≤ l.row → Replies (.memPpr h p) s h cpMemPpr stBadParam [] u) ∧
    ((u.mc k).st = 2 → l.rank < 12 → l.row < 12288 → bit w 31 = true → Replies (.memPpr h p) s h cpMemPpr stOk (State.rowWords (u.mc k)) u) ∧
    ((u.mc k).st = 2 → l.rank < 12 → l.row < 12288 → bit w 31 = false →
      (2 ≤ used → Replies (.memPpr h p) s h cpMemPpr stDenied [] u) ∧
      (used < 2 → Replies (.memPpr h p) s h cpMemPpr stOk [w32 (1 - used)] (u.repairRow l e)))) ∧
  (Admitted s h cpMemTest p → p.length = 2 → there → bits w 15 12 < 5 →
    ((∃ k ∈ ks, ready k) → ∃ (go busy : BitVec 12) (t : State),
      Holds (.memTest h p found) s h cpMemTest p (.memTest found go 0 busy ((Config.free64 u.fresh).toNat + 1)) t ∧ t.fresh = u.fresh + 1 ∧ t.mem = u.mem ∧
      (∀ j, j < 12 → (go.getLsbD j = true ↔ j ∈ ks ∧ ready j) ∧ (busy.getLsbD j = true ↔ j ∈ ks ∧ ¬ready j)) ∧
      (∀ j, (t.mc j).st = if j < 12 ∧ go.getLsbD j = true then 3 else (u.mc j).st))) ∧
  (Admitted s h cpMemRetrain p → p.length = 1 → there → (∀ k ∈ ks, ready k) → let t := ks.foldl (fun s k => s.trainStack k lanes) u
    Replies (.memRetrain h p lanes) s h cpMemRetrain stOk (ks.flatMap fun k => (List.range 16).map fun c => ((t.mc k).chan c).statusWord) t) ∧
  (¬there → (Admitted s h cpMemMaint p → p.length = 1 → Replies (.memMaint h p) s h cpMemMaint stNotPresent [] u) ∧
    (Admitted s h cpMemRetrain p → p.length = 1 → Replies (.memRetrain h p lanes) s h cpMemRetrain stNotPresent [] u))) ∧
  (∀ (s : State) (h : CpHdr) (p : List W32), let u := s.taken h; let w := word p 0; let first := bits w 13 0; let act := bits w 7 0
  let n := min (min (bits w 23 16) 252) (lmRecords - first); let i := (word p 1).toNat
  let r : BitVec 128 := BitVec.ofNat 128 (((List.range 4).map fun k => (word p (1 + k)).toNat * 2 ^ (32 * k)).sum)
  (Admitted s h cpLichenRead p → p.length = 1 →
    (first < lmRecords → Replies (.lichenRead h p) s h cpLichenRead stOk (u.lm.header u.flash.serial ++
      (List.range n).flatMap fun i => (List.range 4).map fun k => (u.lm.record (first + i)).extractLsb' (32 * k) 32) u) ∧
    (lmRecords ≤ first → Replies (.lichenRead h p) s h cpLichenRead stBadParam [] u)) ∧
  (Admitted s h cpLichenEdit p →
    (act = 1 → p.length = 5 → (lmType r = lmCoreRetired ∧ bits (lmLoc r) 13 7 < 66 ∨ lmType r = lmClusterRetired) → bits (lmLoc r) 6 1 < 34 →
      (u.hasHalf (bits (lmLoc r) 0 0) = false → Replies (.lichenEdit h p) s h cpLichenEdit stNotPresent [] u) ∧
      (u.hasHalf (bits (lmLoc r) 0 0) = true → Replies (.lichenEdit h p) s h cpLichenEdit stOk [] (u.lmAdd (lmType r) (lmLoc r)))) ∧
    (act = 2 → p.length = 2 → i < lmRecords →
      (u.lm.record i = lmErased → Replies (.lichenEdit h p) s h cpLichenEdit stOk [] u) ∧
      (u.lm.record i ≠ lmErased → Replies (.lichenEdit h p) s h cpLichenEdit stOk []
        (u.updLm fun a => { a with recs := SMap.set lmErased a.recs i (lmCleared (u.lm.record i)) }))) ∧
    (act = 0 ∨ 2 < act → Replies (.lichenEdit h p) s h cpLichenEdit stBadParam [] u)))

/-- R334 to R337, R344, R345: FATE_SET enters domains; SEC_PAIR pairs an entry, or refuses a pairing whose domains conflict, and is
BUSY in STILL (R393); SEC_REBUILD begins; DEV_DOWN ends what waits for a device and reports the copies that have gone with it (R342,
log entry 53), and DEV_UP lets it be heard again. -/
def Obligations.PairsAndFatesAreKept : Prop :=
  ∀ (s a b : State) (h : CpHdr) (p : List W32) (old : BitVec 512) (st : Status), let u := s.taken h; let w := word p 0
  let e : BitVec 512 := BitVec.ofNat 512 (((List.range 16).map fun k => (word p (1 + k)).toNat * 2 ^ (32 * k)).sum)
  let f := secFields e; let parity := resolveMethod e ≠ 1; let i := bits w 9 0; let n := bits w 8 0; let m := bits w 11 0; let first := if bit w 16 then 3 else 1
  let group : List DevId := (List.range (f.k + 1)).map fun m => BitVec.ofNat 16 (bits (word p (17 + m / 2)) (16 * (m % 2) + 15) (16 * (m % 2)))
  let clash := decide (parity ∨ f.role ≠ 2) && a.fateConflict (!decide parity) f.partner group; let copy := bit w 17 && decide (parity ∧ f.role = 0)
  let fates := ((List.range m).map fun i => State.fateEntry p (first + 3 * i)).foldl (fun (m : SMap (Option (BitVec 64))) e => SMap.set none m e.1 (some e.2)) u.sec.fates
  let area := if f.role = 1 then [(f.local_, 2 * f.len)] else if f.role = 2 then [(f.local_, f.len)] else if parity then [(f.held, f.len)] else []
  let cleared : Status × State := if copy then a.copyMem f.local_ f.held f.len
    else match area with
      | [x] => a.writeWhole (viaCe 0) .w x.1 (List.replicate x.2 {})
      | _ => (stOk, a)
  (Admitted s h cpFateSet p → p.length = first + 3 * m → (∀ i, i < m → (word p (first + 3 * i + 2)).toNat < 2 ^ 16) → fates.length ≤ 4096 →
    Replies (.fateSet h p) s h cpFateSet stOk [] (State.markConflicts u
      { u with sec := { u.sec with own := if bit w 16 then word64 p 1 else u.sec.own, fates := fates } })) ∧
  (Admitted s h cpSecPair p → (if f.valid ∧ parity then 17 + (f.k + 2) / 2 else 17) ≤ p.length → p.length ≤ 26 → i < u.sec.count.toNat → u.pwr.st = 3 →
    Replies (.secPair h p) s h cpSecPair stBusy [] u) ∧
  (Admitted s h cpSecPair p → (if f.valid ∧ parity then 17 + (f.k + 2) / 2 else 17) ≤ p.length → p.length ≤ 26 → i < u.sec.count.toNat →
    u.pwr.st ≠ 3 → u.secEntry i = (old, a) →
    (a.entryOpen i old = true → Replies (.secPair h p) s h cpSecPair stBusy [] a) ∧
    (a.entryOpen i old = false → f.valid = false →
      Replies (.secPair h p) s h cpSecPair stOk [] ((a.setSecEntry i (setBits old 8 8 0)).updSecAux i fun _ => {})) ∧
    (a.entryOpen i old = false → f.valid = true → a.pairBad f (decide parity) = true → Replies (.secPair h p) s h cpSecPair stBadParam [] a) ∧
    (a.entryOpen i old = false → f.valid = true → a.pairBad f (decide parity) = false → clash = true → bit w 16 = false →
      Replies (.secPair h p) s h cpSecPair stFateConflict [] (a.countSec 0x11C 1)) ∧
    (a.entryOpen i old = false → f.valid = true → a.pairBad f (decide parity) = false → (clash = true → bit w 16 = true) → cleared = (st, b) →
      (st ≠ stOk → Replies (.secPair h p) s h cpSecPair st [] b) ∧
      (st = stOk → let x := State.pairedEntry e clash
        let t := (b.setSecEntry i (if copy then setBits x 353 353 1 else x)).updSecAux i fun _ => { group := if parity then group else [] }
        Replies (.secPair h p) s h cpSecPair stOk [] (if clash then t.countSec 0x120 1 else t)))) ∧
  (Admitted s h cpSecRebuild p → p.length = 2 → i < u.sec.count.toNat → let q := word p 1; bits q 17 15 ≠ 7 → u.pwr.st ≠ 3 → u.ceRuns 0 = true →
    (∀ h ∈ u.halfList, bit (u.half h).netCtrl 0 = false) → (u.secAux i).rebuild = none →
    u.beginRebuild i (BitVec.ofNat 16 (bits w 31 16)) (BitVec.ofNat 10 (bits q 9 0)) (BitVec.ofNat 5 (bits q 14 10)) (BitVec.ofNat 3 (bits q 17 15)) = (st, a) →
    (st = stOk → Holds (.secRebuild h p) s h cpSecRebuild p (.rebuild (BitVec.ofNat 10 i)) a) ∧ (st ≠ stOk → Replies (.secRebuild h p) s h cpSecRebuild st [] a)) ∧
  (Admitted s h cpDevDown p → 1 ≤ n → n ≤ 256 → p.length = 3 + (n + 1) / 2 → let ids := State.idsOf p 3 n; let down := (u.sec.down ++ ids).eraseDups
    let t := ((({ u with sec := { u.sec with down := down } } : State).abandonTo ids).abandonWith ids).reportGone u.sec.down ids
    (down.length ≤ 2048 → Replies (.devDown h p) s h cpDevDown stOk [] (if bit w 16 then t.countInterruption (word64 p 1) else t)) ∧
    (2048 < down.length → Replies (.devDown h p) s h cpDevDown stBusy [] u)) ∧
  (Admitted s h cpDevUp p → p.length = 1 + (n + 1) / 2 → let ids := State.idsOf p 1 n
    Replies (.devUp h p) s h cpDevUp stOk [] { u with sec := { u.sec with down := u.sec.down.filter fun d => decide (d ∉ ids) } })

/-! ### Power, clocks and trust -/

/-- R389 to R397: POWER_STATE between RUN, IDLE, HALF-STILL and STILL and to DORMANT, with the conditions of each change; to the state
that holds it changes nothing, and a change that the rules do not give is BAD_PARAM. After an exit no half is gated, memory is as it
was, and one from STILL has set MEMORY_LOCK. -/
def Obligations.PowerStatesChange : Prop :=
  ∀ (s : State) (h : CpHdr) (p : List W32), let u := s.taken h; let c := Instr.powerState h p; let x := bits (word p 0) 4 4; let target := bits (word p 0) 2 0
  let cur := u.pwr.st.toNat; let tells (st : Status) (t : State) : Prop := Replies c s h cpPowerState st [] t
  let still := u.timeFree = true ∧ (∀ k ∈ u.halfList, u.halfReady k = true) ∧ ∀ r ∈ u.ctl.inflight, abortable r.opcode = false
  let split := u.timeFree = true ∧ u.quiesced x = true ∧ u.halfReady x = true
  let dark (f : State → State) : Prop := if u.wakeLow then tells stBusy u.wakeSeen
    else exec c s = .next ((f (u.wakeSeen.reply h.port cpPowerState h.tag stOk [])).enterPower 4 0).powerDown.flush
  Admitted s h cpPowerState p → u.turnTaken = false → p.length = 1 →
  (5 ≤ target → tells stBadParam u) ∧ (target = 2 → u.hasHalf 1 = false → tells stNotPresent u) ∧
  (target < 5 → (target = 2 → u.hasHalf 1 = true) →
    (target = cur → (target = 2 → x = u.gatedHalf) → tells stOk u) ∧ (target = 2 → cur = 2 → x ≠ u.gatedHalf → tells stBadParam u) ∧
    (cur = 0 → target = 1 → if u.cores.any fun e => e.2.anyRunning then tells stBusy u else tells stOk (u.enterPower 1 0)) ∧
    (cur = 1 → target = 0 → tells stOk (u.enterPower 0 0)) ∧
    (cur = 0 → target = 2 → (split → tells stOk (((u.setStilled true).gateHalf x).enterPower 2 x)) ∧ (¬split → tells stBusy u)) ∧
    (cur = 2 ∨ cur = 3 → target = 0 → tells stOk u.wakeUp ∧ let t := u.wakeUp; t.pwr.st = 0 ∧ (∀ k ∈ u.halfList, t.pwr.gated.getLsbD k = false) ∧
      t.mem = u.mem ∧ (cur = 3 → t.lock.memLock = true) ∧ (cur = 2 → t.lock = u.lock)) ∧
    (cur < 3 → target = 3 → (still → tells stOk (u.enterStill.enterPower 3 0)) ∧ (¬still → tells stBusy u)) ∧
    (cur < 3 → target = 4 → (still → dark State.enterStill) ∧ (¬still → tells stBusy u)) ∧
    (cur = 3 → target = 4 → (still → dark id) ∧ (¬still → tells stBusy u)) ∧
    ((cur, target) ∈ [(1, 2), (2, 1), (3, 1), (3, 2)] → tells stBadParam u))

/-- R202, R398, R424, R434: CLOCK_STEP takes effect at its shaft count, half by half (an absent half is NOT_PRESENT, R29); a half runs
at the slower of the step requested and its ceiling. -/
def Obligations.ClocksStep : Prop :=
  ∀ (s : State) (h : CpHdr) (p : List W32) (half : BitVec 1) (halves step : BitVec 2) (at_ : W64) (pre post : List Inflight) (r : Inflight),
  let u := s.taken h; let k := half.toNat; let hs : BitVec 2 := (word p 0).setWidth 2; let step2 : BitVec 2 := (word p 0).extractLsb' 4 2; let when_ := word64 p 1
  let t := s.stepClocks (BitVec.ofNat 2 (2 ^ k)) step; let left := halves &&& ~~~ (BitVec.ofNat 2 (2 ^ k)); let bad (n : Nat) : Prop := n < 2 ∧ hs.getLsbD n = true
  (Admitted s h cpClockStep p → p.length = 3 →
    ((∃ n, bad n ∧ u.hasHalf n = false) → Replies (.clockStep h p) s h cpClockStep stNotPresent [] u) ∧
    ((∀ n, bad n → u.hasHalf n = true) → (∃ n, bad n ∧ u.pwr.gated.getLsbD n = true) → Replies (.clockStep h p) s h cpClockStep stBusy [] u) ∧
    ((∀ n, bad n → u.hasHalf n = true ∧ u.pwr.gated.getLsbD n = false) →
      (when_ ≤ u.sh.count ∨ hs = 0 → Replies (.clockStep h p) s h cpClockStep stOk [] (u.stepClocks hs step2)) ∧
      (u.sh.count < when_ → hs ≠ 0 → Holds (.clockStep h p) s h cpClockStep p (.clockStep hs step2 when_) u))) ∧
  (s.ctl.inflight = pre ++ r :: post → r.wait = .clockStep halves step at_ → halves.getLsbD k = true → at_ ≤ s.sh.count →
    (∀ x ∈ pre, ∀ a b c, x.wait = .clockStep a b c → a.getLsbD k = false ∨ s.sh.count < c) →
    (s.pwr.gated.getLsbD k = true → exec (.clockStepAt half) s = .next (s.endRequest r stBusy []).flush) ∧
    (s.pwr.gated.getLsbD k = false → left = 0 → exec (.clockStepAt half) s = .next (t.endRequest r stOk []).flush) ∧
    (s.pwr.gated.getLsbD k = false → left ≠ 0 → exec (.clockStepAt half) s = .next { t with ctl := { t.ctl with
      inflight := t.ctl.inflight.map fun x => if x = r then { x with wait := .clockStep left step at_ } else x } })) ∧
  (∀ n, n < 2 → halves.getLsbD n = true → let c := (s.stepClocks halves step).clockOf n
    c.req = step ∧ c.step.toNat = max step.toNat (max c.therm.toNat c.curr.toNat)) ∧
  ∀ n, n < 2 → halves.getLsbD n = false → (s.stepClocks halves step).clockOf n = s.clockOf n

/-- R402, R403, R405 to R407, R410, R411, R414: ATTEST signs a report, and clears MEMORY_LOCK for the owner where the firmware measures
the same and no session is open; DEBUG_OPEN opens a session for a certificate that is right; DEBUG_CLOSE and the expiry close it;
PROVISION seals a module that is in FACTORY; RETIRE, which no stack in MAINT allows, ends one for good. Each waits its turn while
another is being served. R403: RETIRE poisons every sector of memory, empties the memories of the die, blows the RETURNED fuse, erases
the identity key, and closes a session. -/
def Obligations.TrustCommandsTakeEffect : Prop :=
  (∀ (s : State) (h : CpHdr) (p : List W32) (cert : Cert) (m : Hash), let u := s.taken h; let b := bytesOfWords p; let scope := field b 1 2; let until_ := field b 16 24
  let key : Hash := BitVec.ofNat 384 (field b 8 56); let nonce := p.take 8; let now := u.sh.count
  let signed (v : State) : State := ({ v with fresh := v.fresh + 1 } : State).countLock 0x204 1
  let attest (st : Status) (v : State) (unlocked : Bool) : Prop := Replies (.attest h p m) s h cpAttest st (wordsOfBytes (v.attestation nonce unlocked)) (signed v)
  let signer := field b 8 16 = u.flash.serial.toNat ∧ cert.keyHash = u.flash.dbgKey ∧ cert.sigOk = true
  let zero := field b 2 8 = 0 ∧ field b 24 32 = 0 ∧ field b 129 136 = 0
  (∀ x ∈ ([(.powerState h p, cpPowerState, noCert, 0), (.debugOpen h p cert, cpDebugOpen, cert, 0), (.debugClose h p, cpDebugClose, noCert, 0),
      (.attest h p m, cpAttest, noCert, m), (.provision h p cert, cpProvision, cert, 0), (.retire h p, cpRetire, noCert, 0),
      (.fwUpdate h p, cpFwUpdate, noCert, 0), (.shaftSet h p, cpShaftSet, noCert, 0)] : List (Instr × BitVec 16 × Cert × Hash)),
    Admitted s h x.2.1 p → u.turnTaken = true → Holds x.1 s h x.2.1 p (.turn h p x.2.2.1 x.2.2.2) u) ∧
  (u.turnTaken = false →
    (Admitted s h cpAttest p → p.length = 9 →
      (bit (word p 8) 0 = false → attest stOk u false) ∧
      (bit (word p 8) 0 = true → u.portOwner (16 + h.port.toNat) = false → Replies (.attest h p m) s h cpAttest stDenied [] u) ∧
      (bit (word p 8) 0 = true → u.portOwner (16 + h.port.toNat) = true →
        (u.lock.scope ≠ 0 ∨ m ≠ u.lock.fwMeasure → attest stDenied u false) ∧
        (u.lock.scope = 0 → m = u.lock.fwMeasure →
          (u.lock.memLock = true → attest stOk ((u.setLock false).countLock 0x208 1) true) ∧ (u.lock.memLock = false → attest stOk u false)))) ∧
    (Admitted s h cpDebugOpen p → p.length = 58 → u.flash.fused = 1 → u.pwr.st.toNat ≤ 2 → u.sh.locked = true →
      field b 0 1 = 1 → 1 ≤ scope → scope ≤ 3 → zero →
      (¬signer → Replies (.debugOpen h p cert) s h cpDebugOpen stDenied [] (u.countLock 0x200 1)) ∧
      (signer → now.toNat < until_ → until_ ≤ now.toNat + 2 ^ 42 →
        let v := u.closeSession 5; let sc : BitVec 2 := BitVec.ofNat 2 scope; let na : W64 := BitVec.ofNat 64 until_
        let k : Sec := { v.lock with scope := sc, scopesOr := v.lock.scopesOr ||| sc, sessions := State.satInc v.lock.sessions, notAfter := na }
        let n : State := { v with lock := { k with first := if v.lock.sessions = 0 then v.sh.count else v.lock.first } }
        Replies (.debugOpen h p cert) s h cpDebugOpen stOk [] ((n.alert 2).notify 0x0014 [w32 scope, lo32 na, hi32 na, n.lock.sessions.setWidth 32]))) ∧
    (Admitted s h cpDebugClose p → Replies (.debugClose h p) s h cpDebugClose stOk [] (u.closeSession 1)) ∧
    (Admitted s h cpProvision p → p.length = 66 →
      let right := u.flash.fused = 0 ∧ field b 0 8 = u.flash.serial.toNat ∧ cert.keyHash = u.flash.provKey ∧ cert.sigOk = true ∧ u.flash.dbgKey &&& ~~~ key = 0
      (right → Replies (.provision h p cert) s h cpProvision stOk [] (({ u with flash := { u.flash with dbgKey := key, fused := 1 } } : State).notify 0x0016 [1])) ∧
      (¬right → Replies (.provision h p cert) s h cpProvision stDenied [] u)) ∧
    (Admitted s h cpRetire p → p.length = 1 → word p 0 = 0x52455449 →
      let may := u.pwr.st = 0 ∧ u.allQuiesced = true ∧ ∀ k ∈ u.stackList, (u.mc k).st ≠ 2
      (may → exec (.retire h p) s = .next (((u.retireNow.reply h.port cpRetire h.tag stOk []).notify 0x0016 [3]).restart).flush) ∧
      (¬may → Replies (.retire h p) s h cpRetire stBusy [] u)) ∧
    (Admitted s h cpRetire p → p.length = 1 → word p 0 ≠ 0x52455449 → Replies (.retire h p) s h cpRetire stBadParam [] u)) ∧
  exec .debugExpiry s = .next (if s.lock.scope ≠ 0 ∧ s.lock.notAfter ≤ s.sh.count then s.closeSession 2 else s)) ∧
  (∀ (s : State), let t := s.retireNow
  (∀ a, a < s.capacity → t.mem.poisoned a = true) ∧ t.flash.fused = 3 ∧ t.flash.idKey = 0 ∧ t.lock.scope = 0 ∧
  (∀ e ∈ t.cores, e.2.tiles = [] ∧ e.2.beds = [] ∧ ∀ r ∈ e.2.rings, r.2.data = []) ∧ (∀ e ∈ t.clusters, e.2.csm = []) ∧
  (∀ e ∈ t.csus, e.2.frames = []) ∧ ∀ e ∈ t.mcs, e.2.msc = [])

/-- R399: FACTORY, SEALED and RETURNED are fused, and a whole-module reset and a loss of power leave them as they are; DEBUG-OPEN is
SEALED with a session open, and ends with either. SECURITY_STATE, the IDENT notification and the report all show the same number.
ATTEST leaves that state as it is, DEBUG_OPEN goes from SEALED to DEBUG-OPEN, DEBUG_CLOSE and the expiry of a session go back,
PROVISION goes from FACTORY to SEALED, and RETIRE goes to RETURNED (R402, R403, R406, R407, R410). -/
def Obligations.SecurityStatesAreFusedOrVolatile : Prop :=
  ∀ (s : State) (nonce : List W32) (unlocked : Bool) (h : CpHdr) (p : List W32) (cert : Cert) (m : Hash), let u := s.taken h; let b := bytesOfWords p
  let scope := field b 1 2; let until_ := field b 16 24; let now := u.sh.count.toNat; let key : Hash := BitVec.ofNat 384 (field b 8 56)
  let ends (c : Instr) (P : State → Prop) : Prop := ∃ t, exec c s = .next t ∧ P t
  let served (op : BitVec 16) : Prop := Admitted s h op p ∧ u.turnTaken = false
  (s.lock.scope = 0 → s.secState = s.flash.fused.toNat) ∧ (s.lock.scope ≠ 0 → s.secState = 2) ∧
  s.restart.flash.fused = s.flash.fused ∧ s.restart.lock.scope = 0 ∧ s.powerDown.flash.fused = s.flash.fused ∧ s.powerDown.lock.scope = 0 ∧
  s.turnOff.flash.fused = s.flash.fused ∧ (s.dormant = false → s.turnOff.lock.scope = 0) ∧ bits (s.lockRead 0) 1 0 = s.secState ∧
  nth 0 (s.attestation nonce unlocked) 1 = BitVec.ofNat 8 s.secState ∧
  s.identNote = s.notify 0x0001 [lo32 s.flash.serial, hi32 s.flash.serial, s.capRead 0, s.ctl.fwVersion,
    w32 (s.secState + (if s.ctl.recovery || s.ctl.inRecovery then 2 ^ 8 else 0)), s.lm.gen] ∧
  (served cpAttest → p.length = 9 → bit (word p 8) 0 = false ∨ u.portOwner (16 + h.port.toNat) = true →
    ends (.attest h p m) fun t => t.secState = s.secState ∧ t.lock.scope = s.lock.scope) ∧
  (served cpDebugOpen → p.length = 58 → u.flash.fused = 1 → u.pwr.st.toNat ≤ 2 → u.sh.locked = true → field b 0 1 = 1 → 1 ≤ scope → scope ≤ 3 →
    field b 2 8 = 0 → field b 24 32 = 0 → field b 129 136 = 0 → field b 8 16 = u.flash.serial.toNat → cert.keyHash = u.flash.dbgKey → cert.sigOk = true →
    now < until_ → until_ ≤ now + 2 ^ 42 → ends (.debugOpen h p cert) fun t => t.secState = 2 ∧ t.lock.scope.toNat = scope ∧ t.lock.notAfter.toNat = until_) ∧
  (served cpDebugClose → ends (.debugClose h p) fun t => t.secState = s.flash.fused.toNat) ∧
  (s.lock.scope ≠ 0 → s.lock.notAfter ≤ s.sh.count → ends .debugExpiry fun t => t.secState = s.flash.fused.toNat) ∧
  (s.lock.scope = 0 ∨ s.sh.count < s.lock.notAfter → ends .debugExpiry fun t => t = s) ∧
  (served cpProvision → p.length = 66 → u.flash.fused = 0 → field b 0 8 = u.flash.serial.toNat → cert.keyHash = u.flash.provKey → cert.sigOk = true →
    u.flash.dbgKey &&& ~~~ key = 0 → ends (.provision h p cert) fun t => t.flash.fused = 1 ∧ t.flash.dbgKey = key ∧ (s.lock.scope = 0 → t.secState = 1)) ∧
  (served cpRetire → p.length = 1 → word p 0 = 0x52455449 → u.pwr.st = 0 → u.allQuiesced = true → (∀ k ∈ u.stackList, (u.mc k).st ≠ 2) →
    ends (.retire h p) fun t => t.secState = 3 ∧ t.flash.idKey = 0)

/-! ### The module -/

/-- R20, R201, R212, R239, R386, R396, R421: the steps of a start-up: WAKE starts the boot ROM where the module is asleep, from an
input that does not turn it off, and after a protective turn-off only from one within the normal limits; one outside these is alerted.
The ROM goes on at step 3 with a good image, and to recovery in step 2 without one; memory and the seam are trained and the ports
enabled; the self-test retires the cores that fail, leaves memory poisoned and makes the channels FAILED that its memory test found so;
and the remap ends in READY. A command out of its step changes nothing. That step 7 ends with the next tick of the shaft is log entry
91. -/
def Obligations.StartUpGoesStepByStep : Prop :=
  ∀ (s : State) (lanes : List LaneTest) (bad : List CoreSite) (found : List TestResult), let v := s.pwr.supply.toNat
  let locs := (bad.map fun c => State.coreLoc c.half.toNat c.cluster.toNat c.site.toNat).eraseDups.filter fun l => !s.lmHolds lmCoreRetired l
  let new := if s.ctl.test = 0 then locs else []; let wakes (t : State) : Prop := exec .wake s = .next t
  (s.asleep = true ↔ s.dormant = true ∨ (s.ctl.step = 0 ∧ s.pwr.st = 0)) ∧
  (s.asleep = false ∨ v < 28000 ∨ 42000 ≤ v → wakes s) ∧
  (s.asleep = true → 32000 ≤ v → v ≤ 40000 → wakes s.restart) ∧
  (s.asleep = true → 28000 ≤ v → v < 42000 → v < 32000 ∨ 40000 < v → (s.pwr.off = true → wakes s) ∧
    (s.pwr.off = false → wakes ((s.restart.alert 1).notify 0x0013 [w32 (v + s.restart.pwr.iin.toNat * 2 ^ 16)]))) ∧
  (s.flash.fwOk = true → s.restart.ctl.step = 3 ∧ s.restart.ctl.inRecovery = false ∧ s.restart.lock.fwMeasure = s.flash.fwMeasure) ∧
  (s.flash.fwOk = false → s.restart.ctl.step = 2 ∧ s.restart.ctl.inRecovery = true) ∧
  (s.ctl.step ≠ 6 → exec (.memoryTraining lanes) s = .next s) ∧
  (s.ctl.step = 6 → Completes (.memoryTraining lanes) s fun t => t = { ((s.trainAll lanes).trainSeam).enableFabric with ctl := t.ctl } ∧ t.ctl.step = 7) ∧
  (s.ctl.step = 7 → s.dormant = false → s.ctl.inflight = [] → let c := s.countTick
    exec .shaftTick s = .next ({ c with ctl := { c.ctl with step := 8 }, sh := c.sh.tick } : State).flush) ∧
  (s.ctl.step ≠ 8 → exec (.selfTest { cores := bad, memory := found }) s = .next s) ∧
  (s.ctl.step = 8 → Completes (.selfTest { cores := bad, memory := found }) s fun t => t.ctl.step = 9 ∧ t.ctl.newRetired = new.length ∧
    (s.ctl.test = 2 → t.mem = s.mem ∧ t.mcs = s.mcs) ∧
    (s.ctl.test ≠ 2 → (∀ k, (s.mc k).msc = []) → ∀ a, a < s.capacity → t.mem.poisoned a = true) ∧
    (s.ctl.test ≠ 2 → ∀ f ∈ found, s.hasStack f.stack.toNat = true → ∀ c, c < 16 → f.failedChannels.getLsbD c = true → ((t.mc f.stack.toNat).chan c).st = 4) ∧
    (s.ctl.test = 2 ∨ found = [] → { t with ctl := s.ctl, mem := s.mem, mcs := s.mcs } = new.foldl (fun s l => s.lmAdd lmCoreRetired l) s)) ∧
  (s.ctl.step ≠ 9 → exec .lichenRemap s = .next s) ∧
  (s.ctl.step = 9 → Completes .lichenRemap s fun t => t.ctl.step = 10 ∧ t.ctl.ready = true ∧ t.ctl.capGen = 1 ∧ t.mem = s.mem ∧
    t.ctl.noteSeq = s.ctl.noteSeq + 1)

/-- R421, R424, R427, R428, R435: an input outside its limits turns the module off, and one that is near them is alerted; the trips
turn it off. One that reaches 32.0 V after having been below 5.0 V starts the module where WAKE_N is asserted, whose level is a free
value (log entry 58). The mean current of a period lowers the ceiling of the faster half by one step at 48 A or more, or raises that of
the slower one after 64 periods at 44 A or less. A module in DORMANT sees only its supply. -/
def Obligations.InputAndCurrentAreGuarded : Prop :=
  ∀ (s : State) (mv mean : BitVec 16), let v := mv.toNat; let in_ (t : State) : Prop := exec (.inputVoltage mv) s = .next t
  let w : State := { s with pwr := { s.pwr with
    supply := mv, vin := if s.asleep then 0 else mv, low5 := decide (v < 5000) || (s.pwr.low5 && decide (v < 32000)) } }
  let x : State := { w with fresh := s.fresh + 1, pwr := { w.pwr with off := false } }
  let tells (t : State) : State := (t.alert 1).notify 0x0013 [w32 (v + t.pwr.iin.toNat * 2 ^ 16)]
  let c (s : State) (n : Nat) := s.clockOf n; let live (n : Nat) : Prop := s.hasHalf n = true ∧ s.pwr.gated.getLsbD n = false
  let down := if s.hasHalf 1 = true ∧ s.pwr.gated.getLsbD 1 = false ∧ (¬live 0 ∨ (c s 1).step < (c s 0).step) then 1 else 0
  let up := if (c s 0).curr < (c s 1).curr then 1 else 0
  (v < 28000 ∨ 42000 ≤ v → in_ (if s.asleep = true ∧ s.dormant = false then w else w.turnOff)) ∧
  (s.asleep = false → 28000 ≤ v → v < 42000 → in_ (if v < 32000 ∨ 40000 < v then tells w else w)) ∧
  (s.asleep = true → 28000 ≤ v → v < 42000 → (s.pwr.low5 = false ∨ v < 32000 → in_ w) ∧
    (s.pwr.low5 = true → 32000 ≤ v → (s.wakeLow = false → in_ { w with fresh := s.fresh + 1 }) ∧
      (s.wakeLow = true → in_ (if 40000 < v then tells x.restart else x.restart)))) ∧
  exec .overCurrentTrip s = .next s.turnOff ∧ exec .thermalTrip s = .next s.turnOff ∧
  (s.dormant = false → s.turnOff.pwr.st = 4 ∧ s.turnOff.pwr.off = true ∧ s.turnOff.ctl = {} ∧ s.turnOff.flash = s.flash ∧ s.turnOff.mem = {}) ∧
  (s.dormant = true → s.turnOff = { s with pwr := { s.pwr with off := true } } ∧ exec (.currentCeilingEvaluation mean) s = .next s) ∧
  (s.dormant = false → Completes (.currentCeilingEvaluation mean) s fun u => u.pwr.iin = mean ∧
    (4400 < mean.toNat → mean.toNat < 4800 → u = { s with pwr := { s.pwr with iin := mean, low := 0 } }) ∧
    (mean.toNat ≤ 4400 → s.pwr.low ≠ 63 → u = { s with pwr := { s.pwr with iin := mean, low := s.pwr.low + 1 } }) ∧
    (mean.toNat ≤ 4400 → s.pwr.low = 63 → u.pwr.low = 0 ∧ (c u up).curr = (if (c s up).curr = 0 then 0 else (c s up).curr - 1) ∧
      (c u up).req = (c s up).req ∧ (c u up).therm = (c s up).therm ∧ ∀ k, k ≠ up → c u k = c s k) ∧
    (4800 ≤ mean.toNat → u.pwr.low = 0 ∧ (c u down).curr = (if (c s down).curr = 3 ∨ ¬live down then (c s down).curr else (c s down).curr + 1) ∧
      (c u down).req = (c s down).req ∧ (c u down).therm = (c s down).therm ∧ ∀ k, k ≠ down → c u k = c s k))

/-- R389, R428, R434: an evaluation of a half's temperatures takes its junction and the dies of its stacks, keeps the highest junction,
moves the half's thermal ceiling by one step at 92 °C and above, or after 64 evaluations in succession at 86 °C and below, and asserts
THERM_N at 95 °C. Of a half that is gated it takes the sensors and drives THERM_N, and leaves the ceiling; one of a half that is
absent, or in DORMANT, is none. -/
def Obligations.TemperatureIsGuarded : Prop :=
  ∀ (s : State) (half : BitVec 1) (j : Byte) (dies : List Byte), let h := half.toNat; let ks := s.stacksOf h; let read := ks.zip dies
  let c (s : State) (n : Nat) := s.clockOf n
  (s.dormant = true ∨ s.hasHalf h = false → exec (.thermalEvaluation half j dies) s = .next s) ∧
  (s.dormant = false → s.hasHalf h = true → Completes (.thermalEvaluation half j dies) s fun u => let temp := u.hottest h
    (c u h).junction = j ∧ u.pwr.tjMax.toNat = max s.pwr.tjMax.toNat j.toNat ∧ (∀ e ∈ read, (u.mc e.1).temp = e.2) ∧
    (∀ k, k ∉ read.map (·.1) → u.mc k = s.mc k) ∧ j.toNat ≤ temp ∧ (∀ k ∈ ks, (u.mc k).temp.toNat ≤ temp) ∧
    (temp = j.toNat ∨ ∃ k ∈ ks, temp = (u.mc k).temp.toNat) ∧
    (∀ k, k ≠ h → c u k = c s k) ∧ (c u h).req = (c s h).req ∧ (c u h).curr = (c s h).curr ∧
    (s.pwr.gated.getLsbD h = true → (c u h).cool = (c s h).cool ∧ (c u h).therm = (c s h).therm) ∧
    (s.pwr.gated.getLsbD h = false →
      (92 ≤ temp → (c u h).cool = 0 ∧ (c u h).therm = if (c s h).therm = 3 then 3 else (c s h).therm + 1) ∧
      (86 < temp → temp < 92 → (c u h).cool = 0 ∧ (c u h).therm = (c s h).therm) ∧
      (temp ≤ 86 → (c s h).cool ≠ 63 → (c u h).cool = (c s h).cool + 1 ∧ (c u h).therm = (c s h).therm) ∧
      (temp ≤ 86 → (c s h).cool = 63 → (c u h).cool = 0 ∧ (c u h).therm = if (c s h).therm = 0 then 0 else (c s h).therm - 1)) ∧
    (95 ≤ temp → u.pwr.thermN = true) ∧ (temp ≤ 90 → u.hottest (1 - h) ≤ 90 → u.pwr.thermN = false) ∧
    (temp < 95 → 90 < temp ∨ 90 < u.hottest (1 - h) → u.pwr.thermN = s.pwr.thermN))

/-- R408, R409, R412, R428: each instruction of the TAP captures what its data register shows; the boundary register takes what is
shifted in; MGMT_ACCESS and MEM_ACCESS make their access where they are available, and are BYPASS where they are not. TDO shows what
was captured while a scan shifts it, and is high impedance otherwise and in DORMANT (R426). In DORMANT nothing happens. -/
def Obligations.TheTapServesItsInstructions : Prop :=
  ∀ (s v : State) (b : BitVec 3) (data addr : W32) (d64 : W64) (pa : PA) (write go : Bool) (st : Status) (x : W32) (bs : List MB), let a := addr.toNat; let m := pa.toNat
  let scan (ir : Byte) : State := { s with fresh := s.fresh + 1, tap := { s.tap with ir := ir, capture := s.pinLevels.setWidth 106, boundary := b } }
  let pass (ir : Byte) : State := { s with tap := { s.tap with ir := ir, capture := 0 } }
  let g : State := { s with tap := { s.tap with ir := 0x10, capture := s.tap.mgmt.setWidth 106 } }; let q : State := { s with tap := { s.tap with ir := 0x11, capture := s.tap.mem } }
  let holds (v : State) (x : W32) (st : Status) : State := { v with tap := { v.tap with mgmt := BitVec.ofNat 66 (x.toNat + st.toNat * 2 ^ 32 + 2 ^ 65) } }
  let keeps (v : State) (x : W64) (st : Status) (mark : Bool) : State :=
    { v with tap := { v.tap with mem := BitVec.ofNat 106 (x.toNat + st.toNat * 2 ^ 64 + (if mark then 2 ^ 104 else 0) + 2 ^ 105) } }
  (s.dormant = true → ∀ c ∈ [Instr.extest b, .samplePreload b, .idcode, .clamp, .highz, .bypass, .tapReset, .mgmtAccess data addr write go, .memAccess d64 pa write go],
    exec c s = .next s) ∧
  (∀ k, s.tdo (some k) = if s.dormant then none else some (s.tap.capture.getLsbD k)) ∧ s.tdo none = none ∧
  (s.dormant = false →
    exec (.extest b) s = .next (scan 0x00) ∧ exec (.samplePreload b) s = .next (scan 0x01) ∧
    exec .idcode s = .next { s with tap := { s.tap with ir := 0x02, capture :=
      (w32 (s.flash.stepMajor.toNat * 2 ^ 28 + 0x474D * 2 ^ 12 + Config.manufacturer.toNat * 2 + 1)).setWidth 106 } } ∧
    exec .clamp s = .next (pass 0x03) ∧ exec .highz s = .next (pass 0x04) ∧ exec .bypass s = .next (pass 0xFF) ∧
    exec .tapReset s = .next { s with tap := { s.tap with ir := 0x02 } } ∧
    (s.accessOpen 0 = false → exec (.mgmtAccess data addr write go) s = .next (pass 0x10)) ∧
    (s.accessOpen 0 = true →
      (go = false → exec (.mgmtAccess data addr write go) s = .next g) ∧
      (go = true → a % 4 ≠ 0 → exec (.mgmtAccess data addr write go) s = .next (holds g 0 stBadParam).flush) ∧
      (go = true → a % 4 = 0 → write = true → g.regWrite 2 a data = (st, v) → exec (.mgmtAccess data addr write go) s = .next (holds v 0 st).flush) ∧
      (go = true → a % 4 = 0 → write = false → g.regRead 2 a = (st, x, v) →
        exec (.mgmtAccess data addr write go) s = .next (holds v (if st = stOk then x else 0) st).flush)) ∧
    (s.accessOpen 1 = false → exec (.memAccess d64 pa write go) s = .next (pass 0x11)) ∧
    (s.accessOpen 1 = true →
      (go = false → exec (.memAccess d64 pa write go) s = .next q) ∧
      (go = true → m % 8 ≠ 0 → exec (.memAccess d64 pa write go) s = .next (keeps q 0 stBadParam false).flush) ∧
      (go = true → m % 8 = 0 → s.lock.memLock = true ∨ s.capacity ≤ m → exec (.memAccess d64 pa write go) s = .next (keeps q 0 stDenied false).flush) ∧
      (go = true → m % 8 = 0 → s.lock.memLock = false → m < s.capacity →
        let gated := s.pwr.gated.getLsbD ((s.place m).stack / 6)
        (gated = true → exec (.memAccess d64 pa write go) s = .next (keeps q 0 stBusy false).flush) ∧
        (gated = false → write = true → q.writeMem (.pa none) .w m (leBytes 8 d64.toNat) = (st, v) →
          exec (.memAccess d64 pa write go) s = .next (keeps v 0 st (v.mem.poisoned m)).flush) ∧
        (gated = false → write = false → q.readMem (.pa none) .r m 8 = (bs, st, v) →
          exec (.memAccess d64 pa write go) s = .next (keeps v (if st = stOk then bitsOf 64 bs else 0) st (bs.any (·.p))).flush))))

/-! ### The queue, reset, and what every command keeps -/

/-- The model's queue (log entries 2 and 3): a step runs the command at the front with the rest behind it; with none it idles. No row
of the table has bits, so that a word spells no command. -/
def Obligations.StepTakesTheQueueInOrder : Prop :=
  (∀ (c : Instr) (rest : List Instr) (s : State), step { s with pending := c :: rest } = exec c { s with pending := rest }) ∧
  (∀ s : State, s.pending = [] → step s = .next s) ∧ ∀ (s : State) (nbits w : Nat), decodeTableWord nbits w = none ∧ s.withFetchWord nbits w = s

/-- R353, R373, R387, R388, R416, and the reset columns of the other register tables: what a control port reads after a reset, with the
counts at 0, no command waiting, and memory that reads poisoned. -/
def Obligations.ResetLeavesRegistersAtTheirValues : Prop :=
  let s := State.reset
  (∀ x ∈ ([(0x1000, 0), (0x1008, 0), (0x1010, 0), (0x1014, 4096), (0x1018, 0), (0x2000, 0), (0x2008, 0), (0x200C, 4096), (0x2080, 0), (0x2090, 0),
      (0x2094, 0), (0x2200, 0), (0x2800, 0), (0x2814, 0), (0x2818, 0xF), (0x3004, 0), (0x50000, 0x4000), (0x50004, 0), (0x50028, 0x00274A48),
      (0x50030, 0xFFFFFFFF), (0x50038, 0)] : List (Nat × W32)), (s.regRead 0 x.1).1 = stOk ∧ (s.regRead 0 x.1).2.1 = x.2) ∧
  s.pending = [] ∧ s.mem.wf = true ∧ (∀ a, s.mem.poisoned a = true) ∧ (∀ n, (s.port n).st = psOff) ∧ (∀ k n, ((s.core k).slot n).st = 0) ∧
  (∀ j, (s.job j).st = jobFree) ∧ (∀ k q, ((s.core k).ring q).data = [])

/-- R66, R69 to R71: a cell's states rise: a step that does not overwrite leaves a state of no lower precedence, and a cell of each
state above NORMAL holds what R70 gives it. -/
def Obligations.CellStatesOnlyRise : Prop :=
  ∀ (int first poison : Bool) (p : FVal) (c : ACell), let d := ACell.step int first poison p c
  let legal (c : ACell) : Prop := (c.st = 3 → c.bits = if int then 0x8000000000000000 else 0x7FC000007FC00000) ∧
    (c.st = 2 → int = false ∧ c.bits = 0x7FC000007FC00000) ∧
    (c.st = 1 → c.bits ∈ if int then [0x7FFFFFFFFFFFFFFF, 0x8000000000000000] else [(0x7F7FFFFF : W64), 0xFF7FFFFF])
  legal c → legal d ∧ (first = false → c.st.toNat ≤ d.st.toNat) ∧ (poison = true → d.st = 3) ∧ (poison = false → int = false → p.isFin = false →
    (first = true ∨ c.st ≠ 3) → d.st = 2)

/-- External memory keeps its canonical form: whatever command a step runs, rising addresses and no entry equal to what an unlisted one
reads as are so after it where they were so before. -/
def Obligations.EveryStepKeepsMemoryCanonical : Prop :=
  ∀ s t : State, s.mem.wf = true → step s = .next t → t.mem.wf = true

/-- R18, R27, R399, R402, R403: the part, the serial number, the steppings and the keys that are fused for good never change, and no
step takes a fuse back: a module that is SEALED is SEALED or RETURNED after it, and one that is RETURNED stays so. A step takes one
command off the queue, and leaves the rest as it waits. -/
def Obligations.EveryStepKeepsTheFuses : Prop :=
  ∀ s t : State, step s = .next t → t.part = s.part ∧ t.flash.serial = s.flash.serial ∧ t.flash.stepMajor = s.flash.stepMajor ∧
    t.flash.stepMinor = s.flash.stepMinor ∧ t.flash.fwKey = s.flash.fwKey ∧ t.flash.provKey = s.flash.provKey ∧
    (s.flash.fused ≠ 0 → t.flash.fused = s.flash.fused ∨ t.flash.fused = 3) ∧ t.pending = s.pending.drop 1
end

