-- ==== Sys2Proof/Laws/Map.lean ====
section
/-! SUPPORT. Laws of finite maps: what is read after a write, and that writing keeps the canonical form. -/

namespace Sys2Proof

variable {α : Type}

theorem SMap.get_drop_same (d : α) (m : SMap α) (k : Nat) : SMap.get d (SMap.drop m k) k = d := by
  induction m with
  | nil => rfl
  | cons e t ih =>
    obtain ⟨j, w⟩ := e
    by_cases h : j = k <;> simp_all [SMap.drop, SMap.get]

theorem SMap.get_drop_other (d : α) (m : SMap α) {k j : Nat} (h : j ≠ k) :
    SMap.get d (SMap.drop m k) j = SMap.get d m j := by
  induction m with
  | nil => rfl
  | cons e t ih =>
    obtain ⟨i, w⟩ := e
    by_cases hi : i = k
    · subst hi; simp_all [SMap.drop, SMap.get, Ne.symm h]
    · simp_all [SMap.drop, SMap.get]

theorem SMap.get_insert (d : α) (m : SMap α) (k : Nat) (v : α) (h : ∀ e ∈ m, e.1 ≠ k) (j : Nat) :
    SMap.get d (SMap.insert m k v) j = if k = j then v else SMap.get d m j := by
  induction m with
  | nil => simp [SMap.insert, SMap.get]
  | cons e t ih =>
    obtain ⟨i, w⟩ := e
    have hi : i ≠ k := h (i, w) (by simp)
    have ht := ih fun e he => h e (by simp [he])
    by_cases hk : k < i
    · simp [SMap.insert, hk, SMap.get]
    · by_cases hj : i = j
      · subst hj; simp [SMap.insert, hk, SMap.get, Ne.symm hi]
      · simp [SMap.insert, hk, SMap.get, hj, ht]

/-- A key reads as what was written to it last. -/
@[simp] theorem SMap.get_set_same [DecidableEq α] (d : α) (m : SMap α) (k : Nat) (v : α) :
    SMap.get d (SMap.set d m k v) k = v := by
  unfold SMap.set
  by_cases hv : v = d
  · simp [hv, SMap.put, SMap.get_drop_same]
  · rw [if_neg hv]; simp only [SMap.put]
    rw [SMap.get_insert _ _ _ _ (by simp [SMap.drop])]; simp

/-- A write leaves every other key alone. -/
theorem SMap.get_set_other [DecidableEq α] (d : α) (m : SMap α) {k j : Nat} (v : α) (h : j ≠ k) :
    SMap.get d (SMap.set d m k v) j = SMap.get d m j := by
  unfold SMap.set
  by_cases hv : v = d
  · simp [hv, SMap.put, SMap.get_drop_other d m h]
  · rw [if_neg hv]; simp only [SMap.put]
    rw [SMap.get_insert _ _ _ _ (by simp [SMap.drop]), if_neg (Ne.symm h), SMap.get_drop_other d m h]

/-- What a write leaves to be read, at every key. -/
theorem SMap.get_set [DecidableEq α] (d : α) (m : SMap α) (k j : Nat) (v : α) :
    SMap.get d (SMap.set d m k v) j = if j = k then v else SMap.get d m j := by
  by_cases h : j = k
  · subst h; simp
  · simp [h, SMap.get_set_other d m v h]

@[simp] theorem SMap.get_upd_same [DecidableEq α] (d : α) (m : SMap α) (k : Nat) (f : α → α) :
    SMap.get d (SMap.upd d m k f) k = f (SMap.get d m k) := by simp [SMap.upd]

theorem SMap.get_upd [DecidableEq α] (d : α) (m : SMap α) (k j : Nat) (f : α → α) :
    SMap.get d (SMap.upd d m k f) j = if j = k then f (SMap.get d m k) else SMap.get d m j := by
  simp [SMap.upd, SMap.get_set]

theorem SMap.drop_insert (m : SMap α) (k : Nat) (v : α) : SMap.drop (SMap.insert m k v) k = SMap.drop m k := by
  induction m with
  | nil => simp [SMap.insert, SMap.drop]
  | cons e t ih =>
    obtain ⟨j, w⟩ := e
    by_cases hk : k < j
    · simp [SMap.insert, hk, SMap.drop]
    · simp only [SMap.insert, hk, if_false, SMap.drop, List.filter_cons] at ih ⊢
      rw [ih]

theorem SMap.drop_drop (m : SMap α) (k : Nat) : SMap.drop (SMap.drop m k) k = SMap.drop m k := by
  simp [SMap.drop]

/-- The last write to a key is the one that counts. -/
@[simp] theorem SMap.set_set [DecidableEq α] (d : α) (m : SMap α) (k : Nat) (v w : α) :
    SMap.set d (SMap.set d m k v) k w = SMap.set d m k w := by
  have h : SMap.drop (SMap.set d m k v) k = SMap.drop m k := by
    unfold SMap.set
    by_cases hv : v = d <;> simp [hv, SMap.put, SMap.drop_insert, SMap.drop_drop]
  generalize SMap.set d m k v = x at h
  unfold SMap.set
  by_cases hw : w = d <;> simp [hw, SMap.put, h]

/-! ### The canonical form -/

theorem SMap.rising_mono {m : SMap α} : ∀ {lo hi : Nat}, lo ≤ hi → SMap.rising (some hi) m = true → SMap.rising (some lo) m = true := by
  intro lo hi h hr
  cases m with
  | nil => rfl
  | cons e t => obtain ⟨j, w⟩ := e; simp [SMap.rising] at *; exact ⟨by omega, hr.2⟩

theorem SMap.rising_drop (k : Nat) : ∀ (m : SMap α) (lo : Option Nat), SMap.rising lo m = true → SMap.rising lo (SMap.drop m k) = true := by
  intro m
  induction m with
  | nil => intros; rfl
  | cons e t ih =>
    obtain ⟨j, w⟩ := e
    intro lo h
    simp only [SMap.rising, Bool.and_eq_true] at h
    by_cases hj : j = k
    · have := ih _ h.2
      have e : SMap.drop ((j, w) :: t) k = SMap.drop t k := by simp [SMap.drop, hj]
      rw [e]
      cases lo with
      | none =>
        revert this; generalize SMap.drop t k = u; intro hu
        cases u with
        | nil => rfl
        | cons e u => obtain ⟨i, x⟩ := e; simp [SMap.rising] at *; exact hu.2
      | some l => exact SMap.rising_mono (by simp at h; omega) this
    · have e : SMap.drop ((j, w) :: t) k = (j, w) :: SMap.drop t k := by simp [SMap.drop, hj]
      rw [e]; simp only [SMap.rising, Bool.and_eq_true]; exact ⟨h.1, ih _ h.2⟩

theorem SMap.rising_insert (k : Nat) (v : α) : ∀ (m : SMap α) (lo : Option Nat), SMap.rising lo m = true → (∀ e ∈ m, e.1 ≠ k) →
    (match lo with | none => true | some l => decide (l < k)) = true → SMap.rising lo (SMap.insert m k v) = true := by
  intro m
  induction m with
  | nil => intro lo _ _ h; simp only [SMap.insert, SMap.rising, Bool.and_true]; exact h
  | cons e t ih =>
    obtain ⟨j, w⟩ := e
    intro lo h hk hl
    simp only [SMap.rising, Bool.and_eq_true] at h
    have hj : j ≠ k := hk (j, w) (by simp)
    by_cases hlt : k < j
    · simp only [SMap.insert, hlt, if_true, SMap.rising, Bool.and_eq_true]
      exact ⟨hl, by simpa using hlt, h.2⟩
    · simp only [SMap.insert, hlt, if_false, SMap.rising, Bool.and_eq_true]
      exact ⟨h.1, ih _ h.2 (fun e he => hk e (by simp [he])) (by simp; omega)⟩

theorem SMap.mem_insert (m : SMap α) (k : Nat) (v : α) (e : Nat × α) (h : e ∈ SMap.insert m k v) : e = (k, v) ∨ e ∈ m := by
  induction m with
  | nil => simpa [SMap.insert] using h
  | cons x t ih =>
    obtain ⟨j, w⟩ := x
    by_cases hk : k < j
    · simp [SMap.insert, hk] at h; simpa using h
    · simp only [SMap.insert, hk, if_false, List.mem_cons] at h
      rcases h with h | h
      · exact .inr (by simp [h])
      · rcases ih h with h | h
        · exact .inl h
        · exact .inr (by simp [h])

/-- A write keeps the canonical form. -/
theorem SMap.wf_set [DecidableEq α] (d : α) (m : SMap α) (k : Nat) (v : α) (h : SMap.wf d m = true) :
    SMap.wf d (SMap.set d m k v) = true := by
  simp only [SMap.wf, Bool.and_eq_true, List.all_eq_true, decide_eq_true_eq] at h ⊢
  have hd := SMap.rising_drop k m none h.1
  by_cases hv : v = d
  · simp only [SMap.set, hv, if_true, SMap.put]
    exact ⟨hd, fun e he => h.2 e (by simp [SMap.drop] at he; exact he.1)⟩
  · simp only [SMap.set, if_neg hv, SMap.put]
    refine ⟨SMap.rising_insert k v _ _ hd (by simp [SMap.drop]) rfl, fun e he => ?_⟩
    rcases SMap.mem_insert _ _ _ _ he with rfl | he
    · exact hv
    · exact h.2 e (by simp [SMap.drop] at he; exact he.1)

theorem SMap.wf_upd [DecidableEq α] (d : α) (m : SMap α) (k : Nat) (f : α → α) (h : SMap.wf d m = true) :
    SMap.wf d (SMap.upd d m k f) = true := SMap.wf_set d m k _ h

theorem SMap.rising_filter (p : Nat × α → Bool) : ∀ (m : SMap α) (lo : Option Nat), SMap.rising lo m = true →
    SMap.rising lo (m.filter p) = true := by
  intro m
  induction m with
  | nil => intros; rfl
  | cons e t ih =>
    obtain ⟨j, w⟩ := e
    intro lo h
    simp only [SMap.rising, Bool.and_eq_true] at h
    rw [List.filter_cons]
    split
    · simp only [SMap.rising, Bool.and_eq_true]; exact ⟨h.1, ih _ h.2⟩
    · have := ih _ h.2
      cases lo with
      | none =>
        revert this; generalize t.filter p = u; intro hu
        cases u with
        | nil => rfl
        | cons e u => obtain ⟨i, x⟩ := e; simp [SMap.rising] at *; exact hu.2
      | some l => exact SMap.rising_mono (by simp at h; omega) this

/-- Removing entries keeps the canonical form. -/
theorem SMap.wf_dropWhere [DecidableEq α] (d : α) (p : Nat → Bool) (m : SMap α) (h : SMap.wf d m = true) :
    SMap.wf d (SMap.dropWhere p m) = true := by
  simp only [SMap.wf, Bool.and_eq_true, List.all_eq_true] at h ⊢
  exact ⟨SMap.rising_filter _ m none h.1, fun e he => h.2 e (by simp [SMap.dropWhere] at he; exact he.1)⟩

end Sys2Proof
end

