-- ==== Sys2Proof/Laws/State.lean ====
section
/-! SUPPORT. One lemma for each field of the state under each update of a unit: what an update leaves alone, and what it makes of the unit
it is about. -/

namespace Sys2Proof.Machine

namespace State

/-! setCore -/

@[simp] theorem setCore_pending (s : State) (c : Nat) (v : Core) : (s.setCore c v).pending = s.pending := rfl
@[simp] theorem setCore_part (s : State) (c : Nat) (v : Core) : (s.setCore c v).part = s.part := rfl
@[simp] theorem setCore_backed (s : State) (c : Nat) (v : Core) : (s.setCore c v).backed = s.backed := rfl
@[simp] theorem setCore_clusters (s : State) (c : Nat) (v : Core) : (s.setCore c v).clusters = s.clusters := rfl
@[simp] theorem setCore_halves (s : State) (c : Nat) (v : Core) : (s.setCore c v).halves = s.halves := rfl
@[simp] theorem setCore_mcs (s : State) (c : Nat) (v : Core) : (s.setCore c v).mcs = s.mcs := rfl
@[simp] theorem setCore_mem (s : State) (c : Nat) (v : Core) : (s.setCore c v).mem = s.mem := rfl
@[simp] theorem setCore_xl (s : State) (c : Nat) (v : Core) : (s.setCore c v).xl = s.xl := rfl
@[simp] theorem setCore_csus (s : State) (c : Nat) (v : Core) : (s.setCore c v).csus = s.csus := rfl
@[simp] theorem setCore_net (s : State) (c : Nat) (v : Core) : (s.setCore c v).net = s.net := rfl
@[simp] theorem setCore_ports (s : State) (c : Nat) (v : Core) : (s.setCore c v).ports = s.ports := rfl
@[simp] theorem setCore_fab (s : State) (c : Nat) (v : Core) : (s.setCore c v).fab = s.fab := rfl
@[simp] theorem setCore_coll (s : State) (c : Nat) (v : Core) : (s.setCore c v).coll = s.coll := rfl
@[simp] theorem setCore_sec (s : State) (c : Nat) (v : Core) : (s.setCore c v).sec = s.sec := rfl
@[simp] theorem setCore_flash (s : State) (c : Nat) (v : Core) : (s.setCore c v).flash = s.flash := rfl
@[simp] theorem setCore_ctl (s : State) (c : Nat) (v : Core) : (s.setCore c v).ctl = s.ctl := rfl
@[simp] theorem setCore_sh (s : State) (c : Nat) (v : Core) : (s.setCore c v).sh = s.sh := rfl
@[simp] theorem setCore_pwr (s : State) (c : Nat) (v : Core) : (s.setCore c v).pwr = s.pwr := rfl
@[simp] theorem setCore_lock (s : State) (c : Nat) (v : Core) : (s.setCore c v).lock = s.lock := rfl
@[simp] theorem setCore_tap (s : State) (c : Nat) (v : Core) : (s.setCore c v).tap = s.tap := rfl
@[simp] theorem setCore_out (s : State) (c : Nat) (v : Core) : (s.setCore c v).out = s.out := rfl
@[simp] theorem setCore_fresh (s : State) (c : Nat) (v : Core) : (s.setCore c v).fresh = s.fresh := rfl
@[simp] theorem setCore_cluster (s : State) (c : Nat) (v : Core) (i_ : Nat) : (s.setCore c v).cluster i_ = s.cluster i_ := rfl
@[simp] theorem setCore_half (s : State) (c : Nat) (v : Core) (i_ : Nat) : (s.setCore c v).half i_ = s.half i_ := rfl
@[simp] theorem setCore_mc (s : State) (c : Nat) (v : Core) (i_ : Nat) : (s.setCore c v).mc i_ = s.mc i_ := rfl
@[simp] theorem setCore_csu (s : State) (c : Nat) (v : Core) (i_ : Nat) : (s.setCore c v).csu i_ = s.csu i_ := rfl
@[simp] theorem setCore_port (s : State) (c : Nat) (v : Core) (i_ : Nat) : (s.setCore c v).port i_ = s.port i_ := rfl
@[simp] theorem setCore_ce (s : State) (c : Nat) (v : Core) (i_ : Nat) : (s.setCore c v).ce i_ = s.ce i_ := rfl
@[simp] theorem setCore_job (s : State) (c : Nat) (v : Core) (i_ : Nat) : (s.setCore c v).job i_ = s.job i_ := rfl
@[simp] theorem setCore_cg (s : State) (c : Nat) (v : Core) (i_ : Nat) : (s.setCore c v).cg i_ = s.cg i_ := rfl
@[simp] theorem setCore_secAux (s : State) (c : Nat) (v : Core) (i_ : Nat) : (s.setCore c v).secAux i_ = s.secAux i_ := rfl

/-! updCore -/

@[simp] theorem updCore_pending (s : State) (c : Nat) (f : Core → Core) : (s.updCore c f).pending = s.pending := rfl
@[simp] theorem updCore_part (s : State) (c : Nat) (f : Core → Core) : (s.updCore c f).part = s.part := rfl
@[simp] theorem updCore_backed (s : State) (c : Nat) (f : Core → Core) : (s.updCore c f).backed = s.backed := rfl
@[simp] theorem updCore_clusters (s : State) (c : Nat) (f : Core → Core) : (s.updCore c f).clusters = s.clusters := rfl
@[simp] theorem updCore_halves (s : State) (c : Nat) (f : Core → Core) : (s.updCore c f).halves = s.halves := rfl
@[simp] theorem updCore_mcs (s : State) (c : Nat) (f : Core → Core) : (s.updCore c f).mcs = s.mcs := rfl
@[simp] theorem updCore_mem (s : State) (c : Nat) (f : Core → Core) : (s.updCore c f).mem = s.mem := rfl
@[simp] theorem updCore_xl (s : State) (c : Nat) (f : Core → Core) : (s.updCore c f).xl = s.xl := rfl
@[simp] theorem updCore_csus (s : State) (c : Nat) (f : Core → Core) : (s.updCore c f).csus = s.csus := rfl
@[simp] theorem updCore_net (s : State) (c : Nat) (f : Core → Core) : (s.updCore c f).net = s.net := rfl
@[simp] theorem updCore_ports (s : State) (c : Nat) (f : Core → Core) : (s.updCore c f).ports = s.ports := rfl
@[simp] theorem updCore_fab (s : State) (c : Nat) (f : Core → Core) : (s.updCore c f).fab = s.fab := rfl
@[simp] theorem updCore_coll (s : State) (c : Nat) (f : Core → Core) : (s.updCore c f).coll = s.coll := rfl
@[simp] theorem updCore_sec (s : State) (c : Nat) (f : Core → Core) : (s.updCore c f).sec = s.sec := rfl
@[simp] theorem updCore_flash (s : State) (c : Nat) (f : Core → Core) : (s.updCore c f).flash = s.flash := rfl
@[simp] theorem updCore_ctl (s : State) (c : Nat) (f : Core → Core) : (s.updCore c f).ctl = s.ctl := rfl
@[simp] theorem updCore_sh (s : State) (c : Nat) (f : Core → Core) : (s.updCore c f).sh = s.sh := rfl
@[simp] theorem updCore_pwr (s : State) (c : Nat) (f : Core → Core) : (s.updCore c f).pwr = s.pwr := rfl
@[simp] theorem updCore_lock (s : State) (c : Nat) (f : Core → Core) : (s.updCore c f).lock = s.lock := rfl
@[simp] theorem updCore_tap (s : State) (c : Nat) (f : Core → Core) : (s.updCore c f).tap = s.tap := rfl
@[simp] theorem updCore_out (s : State) (c : Nat) (f : Core → Core) : (s.updCore c f).out = s.out := rfl
@[simp] theorem updCore_fresh (s : State) (c : Nat) (f : Core → Core) : (s.updCore c f).fresh = s.fresh := rfl
@[simp] theorem updCore_cluster (s : State) (c : Nat) (f : Core → Core) (i_ : Nat) : (s.updCore c f).cluster i_ = s.cluster i_ := rfl
@[simp] theorem updCore_half (s : State) (c : Nat) (f : Core → Core) (i_ : Nat) : (s.updCore c f).half i_ = s.half i_ := rfl
@[simp] theorem updCore_mc (s : State) (c : Nat) (f : Core → Core) (i_ : Nat) : (s.updCore c f).mc i_ = s.mc i_ := rfl
@[simp] theorem updCore_csu (s : State) (c : Nat) (f : Core → Core) (i_ : Nat) : (s.updCore c f).csu i_ = s.csu i_ := rfl
@[simp] theorem updCore_port (s : State) (c : Nat) (f : Core → Core) (i_ : Nat) : (s.updCore c f).port i_ = s.port i_ := rfl
@[simp] theorem updCore_ce (s : State) (c : Nat) (f : Core → Core) (i_ : Nat) : (s.updCore c f).ce i_ = s.ce i_ := rfl
@[simp] theorem updCore_job (s : State) (c : Nat) (f : Core → Core) (i_ : Nat) : (s.updCore c f).job i_ = s.job i_ := rfl
@[simp] theorem updCore_cg (s : State) (c : Nat) (f : Core → Core) (i_ : Nat) : (s.updCore c f).cg i_ = s.cg i_ := rfl
@[simp] theorem updCore_secAux (s : State) (c : Nat) (f : Core → Core) (i_ : Nat) : (s.updCore c f).secAux i_ = s.secAux i_ := rfl

/-! updCluster -/

@[simp] theorem updCluster_pending (s : State) (k : Nat) (f : Cluster → Cluster) : (s.updCluster k f).pending = s.pending := rfl
@[simp] theorem updCluster_part (s : State) (k : Nat) (f : Cluster → Cluster) : (s.updCluster k f).part = s.part := rfl
@[simp] theorem updCluster_backed (s : State) (k : Nat) (f : Cluster → Cluster) : (s.updCluster k f).backed = s.backed := rfl
@[simp] theorem updCluster_cores (s : State) (k : Nat) (f : Cluster → Cluster) : (s.updCluster k f).cores = s.cores := rfl
@[simp] theorem updCluster_halves (s : State) (k : Nat) (f : Cluster → Cluster) : (s.updCluster k f).halves = s.halves := rfl
@[simp] theorem updCluster_mcs (s : State) (k : Nat) (f : Cluster → Cluster) : (s.updCluster k f).mcs = s.mcs := rfl
@[simp] theorem updCluster_mem (s : State) (k : Nat) (f : Cluster → Cluster) : (s.updCluster k f).mem = s.mem := rfl
@[simp] theorem updCluster_xl (s : State) (k : Nat) (f : Cluster → Cluster) : (s.updCluster k f).xl = s.xl := rfl
@[simp] theorem updCluster_csus (s : State) (k : Nat) (f : Cluster → Cluster) : (s.updCluster k f).csus = s.csus := rfl
@[simp] theorem updCluster_net (s : State) (k : Nat) (f : Cluster → Cluster) : (s.updCluster k f).net = s.net := rfl
@[simp] theorem updCluster_ports (s : State) (k : Nat) (f : Cluster → Cluster) : (s.updCluster k f).ports = s.ports := rfl
@[simp] theorem updCluster_fab (s : State) (k : Nat) (f : Cluster → Cluster) : (s.updCluster k f).fab = s.fab := rfl
@[simp] theorem updCluster_coll (s : State) (k : Nat) (f : Cluster → Cluster) : (s.updCluster k f).coll = s.coll := rfl
@[simp] theorem updCluster_sec (s : State) (k : Nat) (f : Cluster → Cluster) : (s.updCluster k f).sec = s.sec := rfl
@[simp] theorem updCluster_flash (s : State) (k : Nat) (f : Cluster → Cluster) : (s.updCluster k f).flash = s.flash := rfl
@[simp] theorem updCluster_ctl (s : State) (k : Nat) (f : Cluster → Cluster) : (s.updCluster k f).ctl = s.ctl := rfl
@[simp] theorem updCluster_sh (s : State) (k : Nat) (f : Cluster → Cluster) : (s.updCluster k f).sh = s.sh := rfl
@[simp] theorem updCluster_pwr (s : State) (k : Nat) (f : Cluster → Cluster) : (s.updCluster k f).pwr = s.pwr := rfl
@[simp] theorem updCluster_lock (s : State) (k : Nat) (f : Cluster → Cluster) : (s.updCluster k f).lock = s.lock := rfl
@[simp] theorem updCluster_tap (s : State) (k : Nat) (f : Cluster → Cluster) : (s.updCluster k f).tap = s.tap := rfl
@[simp] theorem updCluster_out (s : State) (k : Nat) (f : Cluster → Cluster) : (s.updCluster k f).out = s.out := rfl
@[simp] theorem updCluster_fresh (s : State) (k : Nat) (f : Cluster → Cluster) : (s.updCluster k f).fresh = s.fresh := rfl
@[simp] theorem updCluster_core (s : State) (k : Nat) (f : Cluster → Cluster) (i_ : Nat) : (s.updCluster k f).core i_ = s.core i_ := rfl
@[simp] theorem updCluster_half (s : State) (k : Nat) (f : Cluster → Cluster) (i_ : Nat) : (s.updCluster k f).half i_ = s.half i_ := rfl
@[simp] theorem updCluster_mc (s : State) (k : Nat) (f : Cluster → Cluster) (i_ : Nat) : (s.updCluster k f).mc i_ = s.mc i_ := rfl
@[simp] theorem updCluster_csu (s : State) (k : Nat) (f : Cluster → Cluster) (i_ : Nat) : (s.updCluster k f).csu i_ = s.csu i_ := rfl
@[simp] theorem updCluster_port (s : State) (k : Nat) (f : Cluster → Cluster) (i_ : Nat) : (s.updCluster k f).port i_ = s.port i_ := rfl
@[simp] theorem updCluster_ce (s : State) (k : Nat) (f : Cluster → Cluster) (i_ : Nat) : (s.updCluster k f).ce i_ = s.ce i_ := rfl
@[simp] theorem updCluster_job (s : State) (k : Nat) (f : Cluster → Cluster) (i_ : Nat) : (s.updCluster k f).job i_ = s.job i_ := rfl
@[simp] theorem updCluster_cg (s : State) (k : Nat) (f : Cluster → Cluster) (i_ : Nat) : (s.updCluster k f).cg i_ = s.cg i_ := rfl
@[simp] theorem updCluster_secAux (s : State) (k : Nat) (f : Cluster → Cluster) (i_ : Nat) : (s.updCluster k f).secAux i_ = s.secAux i_ := rfl

/-! updHalf -/

@[simp] theorem updHalf_pending (s : State) (h : Nat) (f : Half → Half) : (s.updHalf h f).pending = s.pending := rfl
@[simp] theorem updHalf_part (s : State) (h : Nat) (f : Half → Half) : (s.updHalf h f).part = s.part := rfl
@[simp] theorem updHalf_backed (s : State) (h : Nat) (f : Half → Half) : (s.updHalf h f).backed = s.backed := rfl
@[simp] theorem updHalf_cores (s : State) (h : Nat) (f : Half → Half) : (s.updHalf h f).cores = s.cores := rfl
@[simp] theorem updHalf_clusters (s : State) (h : Nat) (f : Half → Half) : (s.updHalf h f).clusters = s.clusters := rfl
@[simp] theorem updHalf_mcs (s : State) (h : Nat) (f : Half → Half) : (s.updHalf h f).mcs = s.mcs := rfl
@[simp] theorem updHalf_mem (s : State) (h : Nat) (f : Half → Half) : (s.updHalf h f).mem = s.mem := rfl
@[simp] theorem updHalf_xl (s : State) (h : Nat) (f : Half → Half) : (s.updHalf h f).xl = s.xl := rfl
@[simp] theorem updHalf_csus (s : State) (h : Nat) (f : Half → Half) : (s.updHalf h f).csus = s.csus := rfl
@[simp] theorem updHalf_net (s : State) (h : Nat) (f : Half → Half) : (s.updHalf h f).net = s.net := rfl
@[simp] theorem updHalf_ports (s : State) (h : Nat) (f : Half → Half) : (s.updHalf h f).ports = s.ports := rfl
@[simp] theorem updHalf_fab (s : State) (h : Nat) (f : Half → Half) : (s.updHalf h f).fab = s.fab := rfl
@[simp] theorem updHalf_coll (s : State) (h : Nat) (f : Half → Half) : (s.updHalf h f).coll = s.coll := rfl
@[simp] theorem updHalf_sec (s : State) (h : Nat) (f : Half → Half) : (s.updHalf h f).sec = s.sec := rfl
@[simp] theorem updHalf_flash (s : State) (h : Nat) (f : Half → Half) : (s.updHalf h f).flash = s.flash := rfl
@[simp] theorem updHalf_ctl (s : State) (h : Nat) (f : Half → Half) : (s.updHalf h f).ctl = s.ctl := rfl
@[simp] theorem updHalf_sh (s : State) (h : Nat) (f : Half → Half) : (s.updHalf h f).sh = s.sh := rfl
@[simp] theorem updHalf_pwr (s : State) (h : Nat) (f : Half → Half) : (s.updHalf h f).pwr = s.pwr := rfl
@[simp] theorem updHalf_lock (s : State) (h : Nat) (f : Half → Half) : (s.updHalf h f).lock = s.lock := rfl
@[simp] theorem updHalf_tap (s : State) (h : Nat) (f : Half → Half) : (s.updHalf h f).tap = s.tap := rfl
@[simp] theorem updHalf_out (s : State) (h : Nat) (f : Half → Half) : (s.updHalf h f).out = s.out := rfl
@[simp] theorem updHalf_fresh (s : State) (h : Nat) (f : Half → Half) : (s.updHalf h f).fresh = s.fresh := rfl
@[simp] theorem updHalf_core (s : State) (h : Nat) (f : Half → Half) (i_ : Nat) : (s.updHalf h f).core i_ = s.core i_ := rfl
@[simp] theorem updHalf_cluster (s : State) (h : Nat) (f : Half → Half) (i_ : Nat) : (s.updHalf h f).cluster i_ = s.cluster i_ := rfl
@[simp] theorem updHalf_mc (s : State) (h : Nat) (f : Half → Half) (i_ : Nat) : (s.updHalf h f).mc i_ = s.mc i_ := rfl
@[simp] theorem updHalf_csu (s : State) (h : Nat) (f : Half → Half) (i_ : Nat) : (s.updHalf h f).csu i_ = s.csu i_ := rfl
@[simp] theorem updHalf_port (s : State) (h : Nat) (f : Half → Half) (i_ : Nat) : (s.updHalf h f).port i_ = s.port i_ := rfl
@[simp] theorem updHalf_ce (s : State) (h : Nat) (f : Half → Half) (i_ : Nat) : (s.updHalf h f).ce i_ = s.ce i_ := rfl
@[simp] theorem updHalf_job (s : State) (h : Nat) (f : Half → Half) (i_ : Nat) : (s.updHalf h f).job i_ = s.job i_ := rfl
@[simp] theorem updHalf_cg (s : State) (h : Nat) (f : Half → Half) (i_ : Nat) : (s.updHalf h f).cg i_ = s.cg i_ := rfl
@[simp] theorem updHalf_secAux (s : State) (h : Nat) (f : Half → Half) (i_ : Nat) : (s.updHalf h f).secAux i_ = s.secAux i_ := rfl

/-! updMc -/

@[simp] theorem updMc_pending (s : State) (k : Nat) (f : Mc → Mc) : (s.updMc k f).pending = s.pending := rfl
@[simp] theorem updMc_part (s : State) (k : Nat) (f : Mc → Mc) : (s.updMc k f).part = s.part := rfl
@[simp] theorem updMc_backed (s : State) (k : Nat) (f : Mc → Mc) : (s.updMc k f).backed = s.backed := rfl
@[simp] theorem updMc_cores (s : State) (k : Nat) (f : Mc → Mc) : (s.updMc k f).cores = s.cores := rfl
@[simp] theorem updMc_clusters (s : State) (k : Nat) (f : Mc → Mc) : (s.updMc k f).clusters = s.clusters := rfl
@[simp] theorem updMc_halves (s : State) (k : Nat) (f : Mc → Mc) : (s.updMc k f).halves = s.halves := rfl
@[simp] theorem updMc_mem (s : State) (k : Nat) (f : Mc → Mc) : (s.updMc k f).mem = s.mem := rfl
@[simp] theorem updMc_xl (s : State) (k : Nat) (f : Mc → Mc) : (s.updMc k f).xl = s.xl := rfl
@[simp] theorem updMc_csus (s : State) (k : Nat) (f : Mc → Mc) : (s.updMc k f).csus = s.csus := rfl
@[simp] theorem updMc_net (s : State) (k : Nat) (f : Mc → Mc) : (s.updMc k f).net = s.net := rfl
@[simp] theorem updMc_ports (s : State) (k : Nat) (f : Mc → Mc) : (s.updMc k f).ports = s.ports := rfl
@[simp] theorem updMc_fab (s : State) (k : Nat) (f : Mc → Mc) : (s.updMc k f).fab = s.fab := rfl
@[simp] theorem updMc_coll (s : State) (k : Nat) (f : Mc → Mc) : (s.updMc k f).coll = s.coll := rfl
@[simp] theorem updMc_sec (s : State) (k : Nat) (f : Mc → Mc) : (s.updMc k f).sec = s.sec := rfl
@[simp] theorem updMc_flash (s : State) (k : Nat) (f : Mc → Mc) : (s.updMc k f).flash = s.flash := rfl
@[simp] theorem updMc_ctl (s : State) (k : Nat) (f : Mc → Mc) : (s.updMc k f).ctl = s.ctl := rfl
@[simp] theorem updMc_sh (s : State) (k : Nat) (f : Mc → Mc) : (s.updMc k f).sh = s.sh := rfl
@[simp] theorem updMc_pwr (s : State) (k : Nat) (f : Mc → Mc) : (s.updMc k f).pwr = s.pwr := rfl
@[simp] theorem updMc_lock (s : State) (k : Nat) (f : Mc → Mc) : (s.updMc k f).lock = s.lock := rfl
@[simp] theorem updMc_tap (s : State) (k : Nat) (f : Mc → Mc) : (s.updMc k f).tap = s.tap := rfl
@[simp] theorem updMc_out (s : State) (k : Nat) (f : Mc → Mc) : (s.updMc k f).out = s.out := rfl
@[simp] theorem updMc_fresh (s : State) (k : Nat) (f : Mc → Mc) : (s.updMc k f).fresh = s.fresh := rfl
@[simp] theorem updMc_core (s : State) (k : Nat) (f : Mc → Mc) (i_ : Nat) : (s.updMc k f).core i_ = s.core i_ := rfl
@[simp] theorem updMc_cluster (s : State) (k : Nat) (f : Mc → Mc) (i_ : Nat) : (s.updMc k f).cluster i_ = s.cluster i_ := rfl
@[simp] theorem updMc_half (s : State) (k : Nat) (f : Mc → Mc) (i_ : Nat) : (s.updMc k f).half i_ = s.half i_ := rfl
@[simp] theorem updMc_csu (s : State) (k : Nat) (f : Mc → Mc) (i_ : Nat) : (s.updMc k f).csu i_ = s.csu i_ := rfl
@[simp] theorem updMc_port (s : State) (k : Nat) (f : Mc → Mc) (i_ : Nat) : (s.updMc k f).port i_ = s.port i_ := rfl
@[simp] theorem updMc_ce (s : State) (k : Nat) (f : Mc → Mc) (i_ : Nat) : (s.updMc k f).ce i_ = s.ce i_ := rfl
@[simp] theorem updMc_job (s : State) (k : Nat) (f : Mc → Mc) (i_ : Nat) : (s.updMc k f).job i_ = s.job i_ := rfl
@[simp] theorem updMc_cg (s : State) (k : Nat) (f : Mc → Mc) (i_ : Nat) : (s.updMc k f).cg i_ = s.cg i_ := rfl
@[simp] theorem updMc_secAux (s : State) (k : Nat) (f : Mc → Mc) (i_ : Nat) : (s.updMc k f).secAux i_ = s.secAux i_ := rfl

/-! updCsu -/

@[simp] theorem updCsu_pending (s : State) (k : Nat) (f : Csu → Csu) : (s.updCsu k f).pending = s.pending := rfl
@[simp] theorem updCsu_part (s : State) (k : Nat) (f : Csu → Csu) : (s.updCsu k f).part = s.part := rfl
@[simp] theorem updCsu_backed (s : State) (k : Nat) (f : Csu → Csu) : (s.updCsu k f).backed = s.backed := rfl
@[simp] theorem updCsu_cores (s : State) (k : Nat) (f : Csu → Csu) : (s.updCsu k f).cores = s.cores := rfl
@[simp] theorem updCsu_clusters (s : State) (k : Nat) (f : Csu → Csu) : (s.updCsu k f).clusters = s.clusters := rfl
@[simp] theorem updCsu_halves (s : State) (k : Nat) (f : Csu → Csu) : (s.updCsu k f).halves = s.halves := rfl
@[simp] theorem updCsu_mcs (s : State) (k : Nat) (f : Csu → Csu) : (s.updCsu k f).mcs = s.mcs := rfl
@[simp] theorem updCsu_mem (s : State) (k : Nat) (f : Csu → Csu) : (s.updCsu k f).mem = s.mem := rfl
@[simp] theorem updCsu_xl (s : State) (k : Nat) (f : Csu → Csu) : (s.updCsu k f).xl = s.xl := rfl
@[simp] theorem updCsu_net (s : State) (k : Nat) (f : Csu → Csu) : (s.updCsu k f).net = s.net := rfl
@[simp] theorem updCsu_ports (s : State) (k : Nat) (f : Csu → Csu) : (s.updCsu k f).ports = s.ports := rfl
@[simp] theorem updCsu_fab (s : State) (k : Nat) (f : Csu → Csu) : (s.updCsu k f).fab = s.fab := rfl
@[simp] theorem updCsu_coll (s : State) (k : Nat) (f : Csu → Csu) : (s.updCsu k f).coll = s.coll := rfl
@[simp] theorem updCsu_sec (s : State) (k : Nat) (f : Csu → Csu) : (s.updCsu k f).sec = s.sec := rfl
@[simp] theorem updCsu_flash (s : State) (k : Nat) (f : Csu → Csu) : (s.updCsu k f).flash = s.flash := rfl
@[simp] theorem updCsu_ctl (s : State) (k : Nat) (f : Csu → Csu) : (s.updCsu k f).ctl = s.ctl := rfl
@[simp] theorem updCsu_sh (s : State) (k : Nat) (f : Csu → Csu) : (s.updCsu k f).sh = s.sh := rfl
@[simp] theorem updCsu_pwr (s : State) (k : Nat) (f : Csu → Csu) : (s.updCsu k f).pwr = s.pwr := rfl
@[simp] theorem updCsu_lock (s : State) (k : Nat) (f : Csu → Csu) : (s.updCsu k f).lock = s.lock := rfl
@[simp] theorem updCsu_tap (s : State) (k : Nat) (f : Csu → Csu) : (s.updCsu k f).tap = s.tap := rfl
@[simp] theorem updCsu_out (s : State) (k : Nat) (f : Csu → Csu) : (s.updCsu k f).out = s.out := rfl
@[simp] theorem updCsu_fresh (s : State) (k : Nat) (f : Csu → Csu) : (s.updCsu k f).fresh = s.fresh := rfl
@[simp] theorem updCsu_core (s : State) (k : Nat) (f : Csu → Csu) (i_ : Nat) : (s.updCsu k f).core i_ = s.core i_ := rfl
@[simp] theorem updCsu_cluster (s : State) (k : Nat) (f : Csu → Csu) (i_ : Nat) : (s.updCsu k f).cluster i_ = s.cluster i_ := rfl
@[simp] theorem updCsu_half (s : State) (k : Nat) (f : Csu → Csu) (i_ : Nat) : (s.updCsu k f).half i_ = s.half i_ := rfl
@[simp] theorem updCsu_mc (s : State) (k : Nat) (f : Csu → Csu) (i_ : Nat) : (s.updCsu k f).mc i_ = s.mc i_ := rfl
@[simp] theorem updCsu_port (s : State) (k : Nat) (f : Csu → Csu) (i_ : Nat) : (s.updCsu k f).port i_ = s.port i_ := rfl
@[simp] theorem updCsu_ce (s : State) (k : Nat) (f : Csu → Csu) (i_ : Nat) : (s.updCsu k f).ce i_ = s.ce i_ := rfl
@[simp] theorem updCsu_job (s : State) (k : Nat) (f : Csu → Csu) (i_ : Nat) : (s.updCsu k f).job i_ = s.job i_ := rfl
@[simp] theorem updCsu_cg (s : State) (k : Nat) (f : Csu → Csu) (i_ : Nat) : (s.updCsu k f).cg i_ = s.cg i_ := rfl
@[simp] theorem updCsu_secAux (s : State) (k : Nat) (f : Csu → Csu) (i_ : Nat) : (s.updCsu k f).secAux i_ = s.secAux i_ := rfl

/-! setPort -/

@[simp] theorem setPort_pending (s : State) (p : Nat) (v : Port) : (s.setPort p v).pending = s.pending := rfl
@[simp] theorem setPort_part (s : State) (p : Nat) (v : Port) : (s.setPort p v).part = s.part := rfl
@[simp] theorem setPort_backed (s : State) (p : Nat) (v : Port) : (s.setPort p v).backed = s.backed := rfl
@[simp] theorem setPort_cores (s : State) (p : Nat) (v : Port) : (s.setPort p v).cores = s.cores := rfl
@[simp] theorem setPort_clusters (s : State) (p : Nat) (v : Port) : (s.setPort p v).clusters = s.clusters := rfl
@[simp] theorem setPort_halves (s : State) (p : Nat) (v : Port) : (s.setPort p v).halves = s.halves := rfl
@[simp] theorem setPort_mcs (s : State) (p : Nat) (v : Port) : (s.setPort p v).mcs = s.mcs := rfl
@[simp] theorem setPort_mem (s : State) (p : Nat) (v : Port) : (s.setPort p v).mem = s.mem := rfl
@[simp] theorem setPort_xl (s : State) (p : Nat) (v : Port) : (s.setPort p v).xl = s.xl := rfl
@[simp] theorem setPort_csus (s : State) (p : Nat) (v : Port) : (s.setPort p v).csus = s.csus := rfl
@[simp] theorem setPort_net (s : State) (p : Nat) (v : Port) : (s.setPort p v).net = s.net := rfl
@[simp] theorem setPort_fab (s : State) (p : Nat) (v : Port) : (s.setPort p v).fab = s.fab := rfl
@[simp] theorem setPort_coll (s : State) (p : Nat) (v : Port) : (s.setPort p v).coll = s.coll := rfl
@[simp] theorem setPort_sec (s : State) (p : Nat) (v : Port) : (s.setPort p v).sec = s.sec := rfl
@[simp] theorem setPort_flash (s : State) (p : Nat) (v : Port) : (s.setPort p v).flash = s.flash := rfl
@[simp] theorem setPort_ctl (s : State) (p : Nat) (v : Port) : (s.setPort p v).ctl = s.ctl := rfl
@[simp] theorem setPort_sh (s : State) (p : Nat) (v : Port) : (s.setPort p v).sh = s.sh := rfl
@[simp] theorem setPort_pwr (s : State) (p : Nat) (v : Port) : (s.setPort p v).pwr = s.pwr := rfl
@[simp] theorem setPort_lock (s : State) (p : Nat) (v : Port) : (s.setPort p v).lock = s.lock := rfl
@[simp] theorem setPort_tap (s : State) (p : Nat) (v : Port) : (s.setPort p v).tap = s.tap := rfl
@[simp] theorem setPort_out (s : State) (p : Nat) (v : Port) : (s.setPort p v).out = s.out := rfl
@[simp] theorem setPort_fresh (s : State) (p : Nat) (v : Port) : (s.setPort p v).fresh = s.fresh := rfl
@[simp] theorem setPort_core (s : State) (p : Nat) (v : Port) (i_ : Nat) : (s.setPort p v).core i_ = s.core i_ := rfl
@[simp] theorem setPort_cluster (s : State) (p : Nat) (v : Port) (i_ : Nat) : (s.setPort p v).cluster i_ = s.cluster i_ := rfl
@[simp] theorem setPort_half (s : State) (p : Nat) (v : Port) (i_ : Nat) : (s.setPort p v).half i_ = s.half i_ := rfl
@[simp] theorem setPort_mc (s : State) (p : Nat) (v : Port) (i_ : Nat) : (s.setPort p v).mc i_ = s.mc i_ := rfl
@[simp] theorem setPort_csu (s : State) (p : Nat) (v : Port) (i_ : Nat) : (s.setPort p v).csu i_ = s.csu i_ := rfl
@[simp] theorem setPort_ce (s : State) (p : Nat) (v : Port) (i_ : Nat) : (s.setPort p v).ce i_ = s.ce i_ := rfl
@[simp] theorem setPort_job (s : State) (p : Nat) (v : Port) (i_ : Nat) : (s.setPort p v).job i_ = s.job i_ := rfl
@[simp] theorem setPort_cg (s : State) (p : Nat) (v : Port) (i_ : Nat) : (s.setPort p v).cg i_ = s.cg i_ := rfl
@[simp] theorem setPort_secAux (s : State) (p : Nat) (v : Port) (i_ : Nat) : (s.setPort p v).secAux i_ = s.secAux i_ := rfl

/-! updPort -/

@[simp] theorem updPort_pending (s : State) (p : Nat) (f : Port → Port) : (s.updPort p f).pending = s.pending := rfl
@[simp] theorem updPort_part (s : State) (p : Nat) (f : Port → Port) : (s.updPort p f).part = s.part := rfl
@[simp] theorem updPort_backed (s : State) (p : Nat) (f : Port → Port) : (s.updPort p f).backed = s.backed := rfl
@[simp] theorem updPort_cores (s : State) (p : Nat) (f : Port → Port) : (s.updPort p f).cores = s.cores := rfl
@[simp] theorem updPort_clusters (s : State) (p : Nat) (f : Port → Port) : (s.updPort p f).clusters = s.clusters := rfl
@[simp] theorem updPort_halves (s : State) (p : Nat) (f : Port → Port) : (s.updPort p f).halves = s.halves := rfl
@[simp] theorem updPort_mcs (s : State) (p : Nat) (f : Port → Port) : (s.updPort p f).mcs = s.mcs := rfl
@[simp] theorem updPort_mem (s : State) (p : Nat) (f : Port → Port) : (s.updPort p f).mem = s.mem := rfl
@[simp] theorem updPort_xl (s : State) (p : Nat) (f : Port → Port) : (s.updPort p f).xl = s.xl := rfl
@[simp] theorem updPort_csus (s : State) (p : Nat) (f : Port → Port) : (s.updPort p f).csus = s.csus := rfl
@[simp] theorem updPort_net (s : State) (p : Nat) (f : Port → Port) : (s.updPort p f).net = s.net := rfl
@[simp] theorem updPort_fab (s : State) (p : Nat) (f : Port → Port) : (s.updPort p f).fab = s.fab := rfl
@[simp] theorem updPort_coll (s : State) (p : Nat) (f : Port → Port) : (s.updPort p f).coll = s.coll := rfl
@[simp] theorem updPort_sec (s : State) (p : Nat) (f : Port → Port) : (s.updPort p f).sec = s.sec := rfl
@[simp] theorem updPort_flash (s : State) (p : Nat) (f : Port → Port) : (s.updPort p f).flash = s.flash := rfl
@[simp] theorem updPort_ctl (s : State) (p : Nat) (f : Port → Port) : (s.updPort p f).ctl = s.ctl := rfl
@[simp] theorem updPort_sh (s : State) (p : Nat) (f : Port → Port) : (s.updPort p f).sh = s.sh := rfl
@[simp] theorem updPort_pwr (s : State) (p : Nat) (f : Port → Port) : (s.updPort p f).pwr = s.pwr := rfl
@[simp] theorem updPort_lock (s : State) (p : Nat) (f : Port → Port) : (s.updPort p f).lock = s.lock := rfl
@[simp] theorem updPort_tap (s : State) (p : Nat) (f : Port → Port) : (s.updPort p f).tap = s.tap := rfl
@[simp] theorem updPort_out (s : State) (p : Nat) (f : Port → Port) : (s.updPort p f).out = s.out := rfl
@[simp] theorem updPort_fresh (s : State) (p : Nat) (f : Port → Port) : (s.updPort p f).fresh = s.fresh := rfl
@[simp] theorem updPort_core (s : State) (p : Nat) (f : Port → Port) (i_ : Nat) : (s.updPort p f).core i_ = s.core i_ := rfl
@[simp] theorem updPort_cluster (s : State) (p : Nat) (f : Port → Port) (i_ : Nat) : (s.updPort p f).cluster i_ = s.cluster i_ := rfl
@[simp] theorem updPort_half (s : State) (p : Nat) (f : Port → Port) (i_ : Nat) : (s.updPort p f).half i_ = s.half i_ := rfl
@[simp] theorem updPort_mc (s : State) (p : Nat) (f : Port → Port) (i_ : Nat) : (s.updPort p f).mc i_ = s.mc i_ := rfl
@[simp] theorem updPort_csu (s : State) (p : Nat) (f : Port → Port) (i_ : Nat) : (s.updPort p f).csu i_ = s.csu i_ := rfl
@[simp] theorem updPort_ce (s : State) (p : Nat) (f : Port → Port) (i_ : Nat) : (s.updPort p f).ce i_ = s.ce i_ := rfl
@[simp] theorem updPort_job (s : State) (p : Nat) (f : Port → Port) (i_ : Nat) : (s.updPort p f).job i_ = s.job i_ := rfl
@[simp] theorem updPort_cg (s : State) (p : Nat) (f : Port → Port) (i_ : Nat) : (s.updPort p f).cg i_ = s.cg i_ := rfl
@[simp] theorem updPort_secAux (s : State) (p : Nat) (f : Port → Port) (i_ : Nat) : (s.updPort p f).secAux i_ = s.secAux i_ := rfl

/-! emit -/

@[simp] theorem emit_pending (s : State) (o : Out) : (s.emit o).pending = s.pending := rfl
@[simp] theorem emit_part (s : State) (o : Out) : (s.emit o).part = s.part := rfl
@[simp] theorem emit_backed (s : State) (o : Out) : (s.emit o).backed = s.backed := rfl
@[simp] theorem emit_cores (s : State) (o : Out) : (s.emit o).cores = s.cores := rfl
@[simp] theorem emit_clusters (s : State) (o : Out) : (s.emit o).clusters = s.clusters := rfl
@[simp] theorem emit_halves (s : State) (o : Out) : (s.emit o).halves = s.halves := rfl
@[simp] theorem emit_mcs (s : State) (o : Out) : (s.emit o).mcs = s.mcs := rfl
@[simp] theorem emit_mem (s : State) (o : Out) : (s.emit o).mem = s.mem := rfl
@[simp] theorem emit_xl (s : State) (o : Out) : (s.emit o).xl = s.xl := rfl
@[simp] theorem emit_csus (s : State) (o : Out) : (s.emit o).csus = s.csus := rfl
@[simp] theorem emit_net (s : State) (o : Out) : (s.emit o).net = s.net := rfl
@[simp] theorem emit_ports (s : State) (o : Out) : (s.emit o).ports = s.ports := rfl
@[simp] theorem emit_fab (s : State) (o : Out) : (s.emit o).fab = s.fab := rfl
@[simp] theorem emit_coll (s : State) (o : Out) : (s.emit o).coll = s.coll := rfl
@[simp] theorem emit_sec (s : State) (o : Out) : (s.emit o).sec = s.sec := rfl
@[simp] theorem emit_flash (s : State) (o : Out) : (s.emit o).flash = s.flash := rfl
@[simp] theorem emit_ctl (s : State) (o : Out) : (s.emit o).ctl = s.ctl := rfl
@[simp] theorem emit_sh (s : State) (o : Out) : (s.emit o).sh = s.sh := rfl
@[simp] theorem emit_pwr (s : State) (o : Out) : (s.emit o).pwr = s.pwr := rfl
@[simp] theorem emit_lock (s : State) (o : Out) : (s.emit o).lock = s.lock := rfl
@[simp] theorem emit_tap (s : State) (o : Out) : (s.emit o).tap = s.tap := rfl
@[simp] theorem emit_fresh (s : State) (o : Out) : (s.emit o).fresh = s.fresh := rfl
@[simp] theorem emit_core (s : State) (o : Out) (i_ : Nat) : (s.emit o).core i_ = s.core i_ := rfl
@[simp] theorem emit_cluster (s : State) (o : Out) (i_ : Nat) : (s.emit o).cluster i_ = s.cluster i_ := rfl
@[simp] theorem emit_half (s : State) (o : Out) (i_ : Nat) : (s.emit o).half i_ = s.half i_ := rfl
@[simp] theorem emit_mc (s : State) (o : Out) (i_ : Nat) : (s.emit o).mc i_ = s.mc i_ := rfl
@[simp] theorem emit_csu (s : State) (o : Out) (i_ : Nat) : (s.emit o).csu i_ = s.csu i_ := rfl
@[simp] theorem emit_port (s : State) (o : Out) (i_ : Nat) : (s.emit o).port i_ = s.port i_ := rfl
@[simp] theorem emit_ce (s : State) (o : Out) (i_ : Nat) : (s.emit o).ce i_ = s.ce i_ := rfl
@[simp] theorem emit_job (s : State) (o : Out) (i_ : Nat) : (s.emit o).job i_ = s.job i_ := rfl
@[simp] theorem emit_cg (s : State) (o : Out) (i_ : Nat) : (s.emit o).cg i_ = s.cg i_ := rfl
@[simp] theorem emit_secAux (s : State) (o : Out) (i_ : Nat) : (s.emit o).secAux i_ = s.secAux i_ := rfl

/-! link -/

@[simp] theorem link_pending (s : State) (p : Nat) (f : LinkFrame) : (s.link p f).pending = s.pending := rfl
@[simp] theorem link_part (s : State) (p : Nat) (f : LinkFrame) : (s.link p f).part = s.part := rfl
@[simp] theorem link_backed (s : State) (p : Nat) (f : LinkFrame) : (s.link p f).backed = s.backed := rfl
@[simp] theorem link_cores (s : State) (p : Nat) (f : LinkFrame) : (s.link p f).cores = s.cores := rfl
@[simp] theorem link_clusters (s : State) (p : Nat) (f : LinkFrame) : (s.link p f).clusters = s.clusters := rfl
@[simp] theorem link_halves (s : State) (p : Nat) (f : LinkFrame) : (s.link p f).halves = s.halves := rfl
@[simp] theorem link_mcs (s : State) (p : Nat) (f : LinkFrame) : (s.link p f).mcs = s.mcs := rfl
@[simp] theorem link_mem (s : State) (p : Nat) (f : LinkFrame) : (s.link p f).mem = s.mem := rfl
@[simp] theorem link_xl (s : State) (p : Nat) (f : LinkFrame) : (s.link p f).xl = s.xl := rfl
@[simp] theorem link_csus (s : State) (p : Nat) (f : LinkFrame) : (s.link p f).csus = s.csus := rfl
@[simp] theorem link_net (s : State) (p : Nat) (f : LinkFrame) : (s.link p f).net = s.net := rfl
@[simp] theorem link_ports (s : State) (p : Nat) (f : LinkFrame) : (s.link p f).ports = s.ports := rfl
@[simp] theorem link_fab (s : State) (p : Nat) (f : LinkFrame) : (s.link p f).fab = s.fab := rfl
@[simp] theorem link_coll (s : State) (p : Nat) (f : LinkFrame) : (s.link p f).coll = s.coll := rfl
@[simp] theorem link_sec (s : State) (p : Nat) (f : LinkFrame) : (s.link p f).sec = s.sec := rfl
@[simp] theorem link_flash (s : State) (p : Nat) (f : LinkFrame) : (s.link p f).flash = s.flash := rfl
@[simp] theorem link_ctl (s : State) (p : Nat) (f : LinkFrame) : (s.link p f).ctl = s.ctl := rfl
@[simp] theorem link_sh (s : State) (p : Nat) (f : LinkFrame) : (s.link p f).sh = s.sh := rfl
@[simp] theorem link_pwr (s : State) (p : Nat) (f : LinkFrame) : (s.link p f).pwr = s.pwr := rfl
@[simp] theorem link_lock (s : State) (p : Nat) (f : LinkFrame) : (s.link p f).lock = s.lock := rfl
@[simp] theorem link_tap (s : State) (p : Nat) (f : LinkFrame) : (s.link p f).tap = s.tap := rfl
@[simp] theorem link_fresh (s : State) (p : Nat) (f : LinkFrame) : (s.link p f).fresh = s.fresh := rfl
@[simp] theorem link_core (s : State) (p : Nat) (f : LinkFrame) (i_ : Nat) : (s.link p f).core i_ = s.core i_ := rfl
@[simp] theorem link_cluster (s : State) (p : Nat) (f : LinkFrame) (i_ : Nat) : (s.link p f).cluster i_ = s.cluster i_ := rfl
@[simp] theorem link_half (s : State) (p : Nat) (f : LinkFrame) (i_ : Nat) : (s.link p f).half i_ = s.half i_ := rfl
@[simp] theorem link_mc (s : State) (p : Nat) (f : LinkFrame) (i_ : Nat) : (s.link p f).mc i_ = s.mc i_ := rfl
@[simp] theorem link_csu (s : State) (p : Nat) (f : LinkFrame) (i_ : Nat) : (s.link p f).csu i_ = s.csu i_ := rfl
@[simp] theorem link_port (s : State) (p : Nat) (f : LinkFrame) (i_ : Nat) : (s.link p f).port i_ = s.port i_ := rfl
@[simp] theorem link_ce (s : State) (p : Nat) (f : LinkFrame) (i_ : Nat) : (s.link p f).ce i_ = s.ce i_ := rfl
@[simp] theorem link_job (s : State) (p : Nat) (f : LinkFrame) (i_ : Nat) : (s.link p f).job i_ = s.job i_ := rfl
@[simp] theorem link_cg (s : State) (p : Nat) (f : LinkFrame) (i_ : Nat) : (s.link p f).cg i_ = s.cg i_ := rfl
@[simp] theorem link_secAux (s : State) (p : Nat) (f : LinkFrame) (i_ : Nat) : (s.link p f).secAux i_ = s.secAux i_ := rfl

/-! updCe -/

@[simp] theorem updCe_pending (s : State) (h : Nat) (f : Ce → Ce) : (s.updCe h f).pending = s.pending := rfl
@[simp] theorem updCe_part (s : State) (h : Nat) (f : Ce → Ce) : (s.updCe h f).part = s.part := rfl
@[simp] theorem updCe_backed (s : State) (h : Nat) (f : Ce → Ce) : (s.updCe h f).backed = s.backed := rfl
@[simp] theorem updCe_cores (s : State) (h : Nat) (f : Ce → Ce) : (s.updCe h f).cores = s.cores := rfl
@[simp] theorem updCe_clusters (s : State) (h : Nat) (f : Ce → Ce) : (s.updCe h f).clusters = s.clusters := rfl
@[simp] theorem updCe_halves (s : State) (h : Nat) (f : Ce → Ce) : (s.updCe h f).halves = s.halves := rfl
@[simp] theorem updCe_mcs (s : State) (h : Nat) (f : Ce → Ce) : (s.updCe h f).mcs = s.mcs := rfl
@[simp] theorem updCe_mem (s : State) (h : Nat) (f : Ce → Ce) : (s.updCe h f).mem = s.mem := rfl
@[simp] theorem updCe_xl (s : State) (h : Nat) (f : Ce → Ce) : (s.updCe h f).xl = s.xl := rfl
@[simp] theorem updCe_csus (s : State) (h : Nat) (f : Ce → Ce) : (s.updCe h f).csus = s.csus := rfl
@[simp] theorem updCe_net (s : State) (h : Nat) (f : Ce → Ce) : (s.updCe h f).net = s.net := rfl
@[simp] theorem updCe_ports (s : State) (h : Nat) (f : Ce → Ce) : (s.updCe h f).ports = s.ports := rfl
@[simp] theorem updCe_fab (s : State) (h : Nat) (f : Ce → Ce) : (s.updCe h f).fab = s.fab := rfl
@[simp] theorem updCe_sec (s : State) (h : Nat) (f : Ce → Ce) : (s.updCe h f).sec = s.sec := rfl
@[simp] theorem updCe_flash (s : State) (h : Nat) (f : Ce → Ce) : (s.updCe h f).flash = s.flash := rfl
@[simp] theorem updCe_ctl (s : State) (h : Nat) (f : Ce → Ce) : (s.updCe h f).ctl = s.ctl := rfl
@[simp] theorem updCe_sh (s : State) (h : Nat) (f : Ce → Ce) : (s.updCe h f).sh = s.sh := rfl
@[simp] theorem updCe_pwr (s : State) (h : Nat) (f : Ce → Ce) : (s.updCe h f).pwr = s.pwr := rfl
@[simp] theorem updCe_lock (s : State) (h : Nat) (f : Ce → Ce) : (s.updCe h f).lock = s.lock := rfl
@[simp] theorem updCe_tap (s : State) (h : Nat) (f : Ce → Ce) : (s.updCe h f).tap = s.tap := rfl
@[simp] theorem updCe_out (s : State) (h : Nat) (f : Ce → Ce) : (s.updCe h f).out = s.out := rfl
@[simp] theorem updCe_fresh (s : State) (h : Nat) (f : Ce → Ce) : (s.updCe h f).fresh = s.fresh := rfl
@[simp] theorem updCe_core (s : State) (h : Nat) (f : Ce → Ce) (i_ : Nat) : (s.updCe h f).core i_ = s.core i_ := rfl
@[simp] theorem updCe_cluster (s : State) (h : Nat) (f : Ce → Ce) (i_ : Nat) : (s.updCe h f).cluster i_ = s.cluster i_ := rfl
@[simp] theorem updCe_half (s : State) (h : Nat) (f : Ce → Ce) (i_ : Nat) : (s.updCe h f).half i_ = s.half i_ := rfl
@[simp] theorem updCe_mc (s : State) (h : Nat) (f : Ce → Ce) (i_ : Nat) : (s.updCe h f).mc i_ = s.mc i_ := rfl
@[simp] theorem updCe_csu (s : State) (h : Nat) (f : Ce → Ce) (i_ : Nat) : (s.updCe h f).csu i_ = s.csu i_ := rfl
@[simp] theorem updCe_port (s : State) (h : Nat) (f : Ce → Ce) (i_ : Nat) : (s.updCe h f).port i_ = s.port i_ := rfl
@[simp] theorem updCe_job (s : State) (h : Nat) (f : Ce → Ce) (i_ : Nat) : (s.updCe h f).job i_ = s.job i_ := rfl
@[simp] theorem updCe_cg (s : State) (h : Nat) (f : Ce → Ce) (i_ : Nat) : (s.updCe h f).cg i_ = s.cg i_ := rfl
@[simp] theorem updCe_secAux (s : State) (h : Nat) (f : Ce → Ce) (i_ : Nat) : (s.updCe h f).secAux i_ = s.secAux i_ := rfl

/-! updJob -/

@[simp] theorem updJob_pending (s : State) (k : Nat) (f : Job → Job) : (s.updJob k f).pending = s.pending := rfl
@[simp] theorem updJob_part (s : State) (k : Nat) (f : Job → Job) : (s.updJob k f).part = s.part := rfl
@[simp] theorem updJob_backed (s : State) (k : Nat) (f : Job → Job) : (s.updJob k f).backed = s.backed := rfl
@[simp] theorem updJob_cores (s : State) (k : Nat) (f : Job → Job) : (s.updJob k f).cores = s.cores := rfl
@[simp] theorem updJob_clusters (s : State) (k : Nat) (f : Job → Job) : (s.updJob k f).clusters = s.clusters := rfl
@[simp] theorem updJob_halves (s : State) (k : Nat) (f : Job → Job) : (s.updJob k f).halves = s.halves := rfl
@[simp] theorem updJob_mcs (s : State) (k : Nat) (f : Job → Job) : (s.updJob k f).mcs = s.mcs := rfl
@[simp] theorem updJob_mem (s : State) (k : Nat) (f : Job → Job) : (s.updJob k f).mem = s.mem := rfl
@[simp] theorem updJob_xl (s : State) (k : Nat) (f : Job → Job) : (s.updJob k f).xl = s.xl := rfl
@[simp] theorem updJob_csus (s : State) (k : Nat) (f : Job → Job) : (s.updJob k f).csus = s.csus := rfl
@[simp] theorem updJob_net (s : State) (k : Nat) (f : Job → Job) : (s.updJob k f).net = s.net := rfl
@[simp] theorem updJob_ports (s : State) (k : Nat) (f : Job → Job) : (s.updJob k f).ports = s.ports := rfl
@[simp] theorem updJob_fab (s : State) (k : Nat) (f : Job → Job) : (s.updJob k f).fab = s.fab := rfl
@[simp] theorem updJob_sec (s : State) (k : Nat) (f : Job → Job) : (s.updJob k f).sec = s.sec := rfl
@[simp] theorem updJob_flash (s : State) (k : Nat) (f : Job → Job) : (s.updJob k f).flash = s.flash := rfl
@[simp] theorem updJob_ctl (s : State) (k : Nat) (f : Job → Job) : (s.updJob k f).ctl = s.ctl := rfl
@[simp] theorem updJob_sh (s : State) (k : Nat) (f : Job → Job) : (s.updJob k f).sh = s.sh := rfl
@[simp] theorem updJob_pwr (s : State) (k : Nat) (f : Job → Job) : (s.updJob k f).pwr = s.pwr := rfl
@[simp] theorem updJob_lock (s : State) (k : Nat) (f : Job → Job) : (s.updJob k f).lock = s.lock := rfl
@[simp] theorem updJob_tap (s : State) (k : Nat) (f : Job → Job) : (s.updJob k f).tap = s.tap := rfl
@[simp] theorem updJob_out (s : State) (k : Nat) (f : Job → Job) : (s.updJob k f).out = s.out := rfl
@[simp] theorem updJob_fresh (s : State) (k : Nat) (f : Job → Job) : (s.updJob k f).fresh = s.fresh := rfl
@[simp] theorem updJob_core (s : State) (k : Nat) (f : Job → Job) (i_ : Nat) : (s.updJob k f).core i_ = s.core i_ := rfl
@[simp] theorem updJob_cluster (s : State) (k : Nat) (f : Job → Job) (i_ : Nat) : (s.updJob k f).cluster i_ = s.cluster i_ := rfl
@[simp] theorem updJob_half (s : State) (k : Nat) (f : Job → Job) (i_ : Nat) : (s.updJob k f).half i_ = s.half i_ := rfl
@[simp] theorem updJob_mc (s : State) (k : Nat) (f : Job → Job) (i_ : Nat) : (s.updJob k f).mc i_ = s.mc i_ := rfl
@[simp] theorem updJob_csu (s : State) (k : Nat) (f : Job → Job) (i_ : Nat) : (s.updJob k f).csu i_ = s.csu i_ := rfl
@[simp] theorem updJob_port (s : State) (k : Nat) (f : Job → Job) (i_ : Nat) : (s.updJob k f).port i_ = s.port i_ := rfl
@[simp] theorem updJob_ce (s : State) (k : Nat) (f : Job → Job) (i_ : Nat) : (s.updJob k f).ce i_ = s.ce i_ := rfl
@[simp] theorem updJob_cg (s : State) (k : Nat) (f : Job → Job) (i_ : Nat) : (s.updJob k f).cg i_ = s.cg i_ := rfl
@[simp] theorem updJob_secAux (s : State) (k : Nat) (f : Job → Job) (i_ : Nat) : (s.updJob k f).secAux i_ = s.secAux i_ := rfl

/-! updCg -/

@[simp] theorem updCg_pending (s : State) (g : Nat) (f : Cg → Cg) : (s.updCg g f).pending = s.pending := rfl
@[simp] theorem updCg_part (s : State) (g : Nat) (f : Cg → Cg) : (s.updCg g f).part = s.part := rfl
@[simp] theorem updCg_backed (s : State) (g : Nat) (f : Cg → Cg) : (s.updCg g f).backed = s.backed := rfl
@[simp] theorem updCg_cores (s : State) (g : Nat) (f : Cg → Cg) : (s.updCg g f).cores = s.cores := rfl
@[simp] theorem updCg_clusters (s : State) (g : Nat) (f : Cg → Cg) : (s.updCg g f).clusters = s.clusters := rfl
@[simp] theorem updCg_halves (s : State) (g : Nat) (f : Cg → Cg) : (s.updCg g f).halves = s.halves := rfl
@[simp] theorem updCg_mcs (s : State) (g : Nat) (f : Cg → Cg) : (s.updCg g f).mcs = s.mcs := rfl
@[simp] theorem updCg_mem (s : State) (g : Nat) (f : Cg → Cg) : (s.updCg g f).mem = s.mem := rfl
@[simp] theorem updCg_xl (s : State) (g : Nat) (f : Cg → Cg) : (s.updCg g f).xl = s.xl := rfl
@[simp] theorem updCg_csus (s : State) (g : Nat) (f : Cg → Cg) : (s.updCg g f).csus = s.csus := rfl
@[simp] theorem updCg_net (s : State) (g : Nat) (f : Cg → Cg) : (s.updCg g f).net = s.net := rfl
@[simp] theorem updCg_ports (s : State) (g : Nat) (f : Cg → Cg) : (s.updCg g f).ports = s.ports := rfl
@[simp] theorem updCg_fab (s : State) (g : Nat) (f : Cg → Cg) : (s.updCg g f).fab = s.fab := rfl
@[simp] theorem updCg_sec (s : State) (g : Nat) (f : Cg → Cg) : (s.updCg g f).sec = s.sec := rfl
@[simp] theorem updCg_flash (s : State) (g : Nat) (f : Cg → Cg) : (s.updCg g f).flash = s.flash := rfl
@[simp] theorem updCg_ctl (s : State) (g : Nat) (f : Cg → Cg) : (s.updCg g f).ctl = s.ctl := rfl
@[simp] theorem updCg_sh (s : State) (g : Nat) (f : Cg → Cg) : (s.updCg g f).sh = s.sh := rfl
@[simp] theorem updCg_pwr (s : State) (g : Nat) (f : Cg → Cg) : (s.updCg g f).pwr = s.pwr := rfl
@[simp] theorem updCg_lock (s : State) (g : Nat) (f : Cg → Cg) : (s.updCg g f).lock = s.lock := rfl
@[simp] theorem updCg_tap (s : State) (g : Nat) (f : Cg → Cg) : (s.updCg g f).tap = s.tap := rfl
@[simp] theorem updCg_out (s : State) (g : Nat) (f : Cg → Cg) : (s.updCg g f).out = s.out := rfl
@[simp] theorem updCg_fresh (s : State) (g : Nat) (f : Cg → Cg) : (s.updCg g f).fresh = s.fresh := rfl
@[simp] theorem updCg_core (s : State) (g : Nat) (f : Cg → Cg) (i_ : Nat) : (s.updCg g f).core i_ = s.core i_ := rfl
@[simp] theorem updCg_cluster (s : State) (g : Nat) (f : Cg → Cg) (i_ : Nat) : (s.updCg g f).cluster i_ = s.cluster i_ := rfl
@[simp] theorem updCg_half (s : State) (g : Nat) (f : Cg → Cg) (i_ : Nat) : (s.updCg g f).half i_ = s.half i_ := rfl
@[simp] theorem updCg_mc (s : State) (g : Nat) (f : Cg → Cg) (i_ : Nat) : (s.updCg g f).mc i_ = s.mc i_ := rfl
@[simp] theorem updCg_csu (s : State) (g : Nat) (f : Cg → Cg) (i_ : Nat) : (s.updCg g f).csu i_ = s.csu i_ := rfl
@[simp] theorem updCg_port (s : State) (g : Nat) (f : Cg → Cg) (i_ : Nat) : (s.updCg g f).port i_ = s.port i_ := rfl
@[simp] theorem updCg_ce (s : State) (g : Nat) (f : Cg → Cg) (i_ : Nat) : (s.updCg g f).ce i_ = s.ce i_ := rfl
@[simp] theorem updCg_job (s : State) (g : Nat) (f : Cg → Cg) (i_ : Nat) : (s.updCg g f).job i_ = s.job i_ := rfl
@[simp] theorem updCg_secAux (s : State) (g : Nat) (f : Cg → Cg) (i_ : Nat) : (s.updCg g f).secAux i_ = s.secAux i_ := rfl

/-! updCommit -/

@[simp] theorem updCommit_pending (s : State) (f : Commit → Commit) : (s.updCommit f).pending = s.pending := rfl
@[simp] theorem updCommit_part (s : State) (f : Commit → Commit) : (s.updCommit f).part = s.part := rfl
@[simp] theorem updCommit_backed (s : State) (f : Commit → Commit) : (s.updCommit f).backed = s.backed := rfl
@[simp] theorem updCommit_cores (s : State) (f : Commit → Commit) : (s.updCommit f).cores = s.cores := rfl
@[simp] theorem updCommit_clusters (s : State) (f : Commit → Commit) : (s.updCommit f).clusters = s.clusters := rfl
@[simp] theorem updCommit_halves (s : State) (f : Commit → Commit) : (s.updCommit f).halves = s.halves := rfl
@[simp] theorem updCommit_mcs (s : State) (f : Commit → Commit) : (s.updCommit f).mcs = s.mcs := rfl
@[simp] theorem updCommit_mem (s : State) (f : Commit → Commit) : (s.updCommit f).mem = s.mem := rfl
@[simp] theorem updCommit_xl (s : State) (f : Commit → Commit) : (s.updCommit f).xl = s.xl := rfl
@[simp] theorem updCommit_csus (s : State) (f : Commit → Commit) : (s.updCommit f).csus = s.csus := rfl
@[simp] theorem updCommit_net (s : State) (f : Commit → Commit) : (s.updCommit f).net = s.net := rfl
@[simp] theorem updCommit_ports (s : State) (f : Commit → Commit) : (s.updCommit f).ports = s.ports := rfl
@[simp] theorem updCommit_fab (s : State) (f : Commit → Commit) : (s.updCommit f).fab = s.fab := rfl
@[simp] theorem updCommit_sec (s : State) (f : Commit → Commit) : (s.updCommit f).sec = s.sec := rfl
@[simp] theorem updCommit_flash (s : State) (f : Commit → Commit) : (s.updCommit f).flash = s.flash := rfl
@[simp] theorem updCommit_ctl (s : State) (f : Commit → Commit) : (s.updCommit f).ctl = s.ctl := rfl
@[simp] theorem updCommit_sh (s : State) (f : Commit → Commit) : (s.updCommit f).sh = s.sh := rfl
@[simp] theorem updCommit_pwr (s : State) (f : Commit → Commit) : (s.updCommit f).pwr = s.pwr := rfl
@[simp] theorem updCommit_lock (s : State) (f : Commit → Commit) : (s.updCommit f).lock = s.lock := rfl
@[simp] theorem updCommit_tap (s : State) (f : Commit → Commit) : (s.updCommit f).tap = s.tap := rfl
@[simp] theorem updCommit_out (s : State) (f : Commit → Commit) : (s.updCommit f).out = s.out := rfl
@[simp] theorem updCommit_fresh (s : State) (f : Commit → Commit) : (s.updCommit f).fresh = s.fresh := rfl
@[simp] theorem updCommit_core (s : State) (f : Commit → Commit) (i_ : Nat) : (s.updCommit f).core i_ = s.core i_ := rfl
@[simp] theorem updCommit_cluster (s : State) (f : Commit → Commit) (i_ : Nat) : (s.updCommit f).cluster i_ = s.cluster i_ := rfl
@[simp] theorem updCommit_half (s : State) (f : Commit → Commit) (i_ : Nat) : (s.updCommit f).half i_ = s.half i_ := rfl
@[simp] theorem updCommit_mc (s : State) (f : Commit → Commit) (i_ : Nat) : (s.updCommit f).mc i_ = s.mc i_ := rfl
@[simp] theorem updCommit_csu (s : State) (f : Commit → Commit) (i_ : Nat) : (s.updCommit f).csu i_ = s.csu i_ := rfl
@[simp] theorem updCommit_port (s : State) (f : Commit → Commit) (i_ : Nat) : (s.updCommit f).port i_ = s.port i_ := rfl
@[simp] theorem updCommit_ce (s : State) (f : Commit → Commit) (i_ : Nat) : (s.updCommit f).ce i_ = s.ce i_ := rfl
@[simp] theorem updCommit_job (s : State) (f : Commit → Commit) (i_ : Nat) : (s.updCommit f).job i_ = s.job i_ := rfl
@[simp] theorem updCommit_cg (s : State) (f : Commit → Commit) (i_ : Nat) : (s.updCommit f).cg i_ = s.cg i_ := rfl
@[simp] theorem updCommit_secAux (s : State) (f : Commit → Commit) (i_ : Nat) : (s.updCommit f).secAux i_ = s.secAux i_ := rfl

/-! countCe -/

@[simp] theorem countCe_pending (s : State) (o n : Nat) : (s.countCe o n).pending = s.pending := rfl
@[simp] theorem countCe_part (s : State) (o n : Nat) : (s.countCe o n).part = s.part := rfl
@[simp] theorem countCe_backed (s : State) (o n : Nat) : (s.countCe o n).backed = s.backed := rfl
@[simp] theorem countCe_cores (s : State) (o n : Nat) : (s.countCe o n).cores = s.cores := rfl
@[simp] theorem countCe_clusters (s : State) (o n : Nat) : (s.countCe o n).clusters = s.clusters := rfl
@[simp] theorem countCe_halves (s : State) (o n : Nat) : (s.countCe o n).halves = s.halves := rfl
@[simp] theorem countCe_mcs (s : State) (o n : Nat) : (s.countCe o n).mcs = s.mcs := rfl
@[simp] theorem countCe_mem (s : State) (o n : Nat) : (s.countCe o n).mem = s.mem := rfl
@[simp] theorem countCe_xl (s : State) (o n : Nat) : (s.countCe o n).xl = s.xl := rfl
@[simp] theorem countCe_csus (s : State) (o n : Nat) : (s.countCe o n).csus = s.csus := rfl
@[simp] theorem countCe_net (s : State) (o n : Nat) : (s.countCe o n).net = s.net := rfl
@[simp] theorem countCe_ports (s : State) (o n : Nat) : (s.countCe o n).ports = s.ports := rfl
@[simp] theorem countCe_fab (s : State) (o n : Nat) : (s.countCe o n).fab = s.fab := rfl
@[simp] theorem countCe_sec (s : State) (o n : Nat) : (s.countCe o n).sec = s.sec := rfl
@[simp] theorem countCe_flash (s : State) (o n : Nat) : (s.countCe o n).flash = s.flash := rfl
@[simp] theorem countCe_ctl (s : State) (o n : Nat) : (s.countCe o n).ctl = s.ctl := rfl
@[simp] theorem countCe_sh (s : State) (o n : Nat) : (s.countCe o n).sh = s.sh := rfl
@[simp] theorem countCe_pwr (s : State) (o n : Nat) : (s.countCe o n).pwr = s.pwr := rfl
@[simp] theorem countCe_lock (s : State) (o n : Nat) : (s.countCe o n).lock = s.lock := rfl
@[simp] theorem countCe_tap (s : State) (o n : Nat) : (s.countCe o n).tap = s.tap := rfl
@[simp] theorem countCe_out (s : State) (o n : Nat) : (s.countCe o n).out = s.out := rfl
@[simp] theorem countCe_fresh (s : State) (o n : Nat) : (s.countCe o n).fresh = s.fresh := rfl
@[simp] theorem countCe_core (s : State) (o n : Nat) (i_ : Nat) : (s.countCe o n).core i_ = s.core i_ := rfl
@[simp] theorem countCe_cluster (s : State) (o n : Nat) (i_ : Nat) : (s.countCe o n).cluster i_ = s.cluster i_ := rfl
@[simp] theorem countCe_half (s : State) (o n : Nat) (i_ : Nat) : (s.countCe o n).half i_ = s.half i_ := rfl
@[simp] theorem countCe_mc (s : State) (o n : Nat) (i_ : Nat) : (s.countCe o n).mc i_ = s.mc i_ := rfl
@[simp] theorem countCe_csu (s : State) (o n : Nat) (i_ : Nat) : (s.countCe o n).csu i_ = s.csu i_ := rfl
@[simp] theorem countCe_port (s : State) (o n : Nat) (i_ : Nat) : (s.countCe o n).port i_ = s.port i_ := rfl
@[simp] theorem countCe_ce (s : State) (o n : Nat) (i_ : Nat) : (s.countCe o n).ce i_ = s.ce i_ := rfl
@[simp] theorem countCe_job (s : State) (o n : Nat) (i_ : Nat) : (s.countCe o n).job i_ = s.job i_ := rfl
@[simp] theorem countCe_cg (s : State) (o n : Nat) (i_ : Nat) : (s.countCe o n).cg i_ = s.cg i_ := rfl
@[simp] theorem countCe_secAux (s : State) (o n : Nat) (i_ : Nat) : (s.countCe o n).secAux i_ = s.secAux i_ := rfl

/-! countSec -/

@[simp] theorem countSec_pending (s : State) (o n : Nat) : (s.countSec o n).pending = s.pending := rfl
@[simp] theorem countSec_part (s : State) (o n : Nat) : (s.countSec o n).part = s.part := rfl
@[simp] theorem countSec_backed (s : State) (o n : Nat) : (s.countSec o n).backed = s.backed := rfl
@[simp] theorem countSec_cores (s : State) (o n : Nat) : (s.countSec o n).cores = s.cores := rfl
@[simp] theorem countSec_clusters (s : State) (o n : Nat) : (s.countSec o n).clusters = s.clusters := rfl
@[simp] theorem countSec_halves (s : State) (o n : Nat) : (s.countSec o n).halves = s.halves := rfl
@[simp] theorem countSec_mcs (s : State) (o n : Nat) : (s.countSec o n).mcs = s.mcs := rfl
@[simp] theorem countSec_mem (s : State) (o n : Nat) : (s.countSec o n).mem = s.mem := rfl
@[simp] theorem countSec_xl (s : State) (o n : Nat) : (s.countSec o n).xl = s.xl := rfl
@[simp] theorem countSec_csus (s : State) (o n : Nat) : (s.countSec o n).csus = s.csus := rfl
@[simp] theorem countSec_net (s : State) (o n : Nat) : (s.countSec o n).net = s.net := rfl
@[simp] theorem countSec_ports (s : State) (o n : Nat) : (s.countSec o n).ports = s.ports := rfl
@[simp] theorem countSec_fab (s : State) (o n : Nat) : (s.countSec o n).fab = s.fab := rfl
@[simp] theorem countSec_coll (s : State) (o n : Nat) : (s.countSec o n).coll = s.coll := rfl
@[simp] theorem countSec_flash (s : State) (o n : Nat) : (s.countSec o n).flash = s.flash := rfl
@[simp] theorem countSec_ctl (s : State) (o n : Nat) : (s.countSec o n).ctl = s.ctl := rfl
@[simp] theorem countSec_sh (s : State) (o n : Nat) : (s.countSec o n).sh = s.sh := rfl
@[simp] theorem countSec_pwr (s : State) (o n : Nat) : (s.countSec o n).pwr = s.pwr := rfl
@[simp] theorem countSec_lock (s : State) (o n : Nat) : (s.countSec o n).lock = s.lock := rfl
@[simp] theorem countSec_tap (s : State) (o n : Nat) : (s.countSec o n).tap = s.tap := rfl
@[simp] theorem countSec_out (s : State) (o n : Nat) : (s.countSec o n).out = s.out := rfl
@[simp] theorem countSec_fresh (s : State) (o n : Nat) : (s.countSec o n).fresh = s.fresh := rfl
@[simp] theorem countSec_core (s : State) (o n : Nat) (i_ : Nat) : (s.countSec o n).core i_ = s.core i_ := rfl
@[simp] theorem countSec_cluster (s : State) (o n : Nat) (i_ : Nat) : (s.countSec o n).cluster i_ = s.cluster i_ := rfl
@[simp] theorem countSec_half (s : State) (o n : Nat) (i_ : Nat) : (s.countSec o n).half i_ = s.half i_ := rfl
@[simp] theorem countSec_mc (s : State) (o n : Nat) (i_ : Nat) : (s.countSec o n).mc i_ = s.mc i_ := rfl
@[simp] theorem countSec_csu (s : State) (o n : Nat) (i_ : Nat) : (s.countSec o n).csu i_ = s.csu i_ := rfl
@[simp] theorem countSec_port (s : State) (o n : Nat) (i_ : Nat) : (s.countSec o n).port i_ = s.port i_ := rfl
@[simp] theorem countSec_ce (s : State) (o n : Nat) (i_ : Nat) : (s.countSec o n).ce i_ = s.ce i_ := rfl
@[simp] theorem countSec_job (s : State) (o n : Nat) (i_ : Nat) : (s.countSec o n).job i_ = s.job i_ := rfl
@[simp] theorem countSec_cg (s : State) (o n : Nat) (i_ : Nat) : (s.countSec o n).cg i_ = s.cg i_ := rfl

/-! countCtl -/

@[simp] theorem countCtl_pending (s : State) (o n : Nat) : (s.countCtl o n).pending = s.pending := rfl
@[simp] theorem countCtl_part (s : State) (o n : Nat) : (s.countCtl o n).part = s.part := rfl
@[simp] theorem countCtl_backed (s : State) (o n : Nat) : (s.countCtl o n).backed = s.backed := rfl
@[simp] theorem countCtl_cores (s : State) (o n : Nat) : (s.countCtl o n).cores = s.cores := rfl
@[simp] theorem countCtl_clusters (s : State) (o n : Nat) : (s.countCtl o n).clusters = s.clusters := rfl
@[simp] theorem countCtl_halves (s : State) (o n : Nat) : (s.countCtl o n).halves = s.halves := rfl
@[simp] theorem countCtl_mcs (s : State) (o n : Nat) : (s.countCtl o n).mcs = s.mcs := rfl
@[simp] theorem countCtl_mem (s : State) (o n : Nat) : (s.countCtl o n).mem = s.mem := rfl
@[simp] theorem countCtl_xl (s : State) (o n : Nat) : (s.countCtl o n).xl = s.xl := rfl
@[simp] theorem countCtl_csus (s : State) (o n : Nat) : (s.countCtl o n).csus = s.csus := rfl
@[simp] theorem countCtl_net (s : State) (o n : Nat) : (s.countCtl o n).net = s.net := rfl
@[simp] theorem countCtl_ports (s : State) (o n : Nat) : (s.countCtl o n).ports = s.ports := rfl
@[simp] theorem countCtl_fab (s : State) (o n : Nat) : (s.countCtl o n).fab = s.fab := rfl
@[simp] theorem countCtl_coll (s : State) (o n : Nat) : (s.countCtl o n).coll = s.coll := rfl
@[simp] theorem countCtl_sec (s : State) (o n : Nat) : (s.countCtl o n).sec = s.sec := rfl
@[simp] theorem countCtl_flash (s : State) (o n : Nat) : (s.countCtl o n).flash = s.flash := rfl
@[simp] theorem countCtl_sh (s : State) (o n : Nat) : (s.countCtl o n).sh = s.sh := rfl
@[simp] theorem countCtl_pwr (s : State) (o n : Nat) : (s.countCtl o n).pwr = s.pwr := rfl
@[simp] theorem countCtl_lock (s : State) (o n : Nat) : (s.countCtl o n).lock = s.lock := rfl
@[simp] theorem countCtl_tap (s : State) (o n : Nat) : (s.countCtl o n).tap = s.tap := rfl
@[simp] theorem countCtl_out (s : State) (o n : Nat) : (s.countCtl o n).out = s.out := rfl
@[simp] theorem countCtl_fresh (s : State) (o n : Nat) : (s.countCtl o n).fresh = s.fresh := rfl
@[simp] theorem countCtl_core (s : State) (o n : Nat) (i_ : Nat) : (s.countCtl o n).core i_ = s.core i_ := rfl
@[simp] theorem countCtl_cluster (s : State) (o n : Nat) (i_ : Nat) : (s.countCtl o n).cluster i_ = s.cluster i_ := rfl
@[simp] theorem countCtl_half (s : State) (o n : Nat) (i_ : Nat) : (s.countCtl o n).half i_ = s.half i_ := rfl
@[simp] theorem countCtl_mc (s : State) (o n : Nat) (i_ : Nat) : (s.countCtl o n).mc i_ = s.mc i_ := rfl
@[simp] theorem countCtl_csu (s : State) (o n : Nat) (i_ : Nat) : (s.countCtl o n).csu i_ = s.csu i_ := rfl
@[simp] theorem countCtl_port (s : State) (o n : Nat) (i_ : Nat) : (s.countCtl o n).port i_ = s.port i_ := rfl
@[simp] theorem countCtl_ce (s : State) (o n : Nat) (i_ : Nat) : (s.countCtl o n).ce i_ = s.ce i_ := rfl
@[simp] theorem countCtl_job (s : State) (o n : Nat) (i_ : Nat) : (s.countCtl o n).job i_ = s.job i_ := rfl
@[simp] theorem countCtl_cg (s : State) (o n : Nat) (i_ : Nat) : (s.countCtl o n).cg i_ = s.cg i_ := rfl
@[simp] theorem countCtl_secAux (s : State) (o n : Nat) (i_ : Nat) : (s.countCtl o n).secAux i_ = s.secAux i_ := rfl

/-! updSecAux -/

@[simp] theorem updSecAux_pending (s : State) (i : Nat) (f : SecAux → SecAux) : (s.updSecAux i f).pending = s.pending := rfl
@[simp] theorem updSecAux_part (s : State) (i : Nat) (f : SecAux → SecAux) : (s.updSecAux i f).part = s.part := rfl
@[simp] theorem updSecAux_backed (s : State) (i : Nat) (f : SecAux → SecAux) : (s.updSecAux i f).backed = s.backed := rfl
@[simp] theorem updSecAux_cores (s : State) (i : Nat) (f : SecAux → SecAux) : (s.updSecAux i f).cores = s.cores := rfl
@[simp] theorem updSecAux_clusters (s : State) (i : Nat) (f : SecAux → SecAux) : (s.updSecAux i f).clusters = s.clusters := rfl
@[simp] theorem updSecAux_halves (s : State) (i : Nat) (f : SecAux → SecAux) : (s.updSecAux i f).halves = s.halves := rfl
@[simp] theorem updSecAux_mcs (s : State) (i : Nat) (f : SecAux → SecAux) : (s.updSecAux i f).mcs = s.mcs := rfl
@[simp] theorem updSecAux_mem (s : State) (i : Nat) (f : SecAux → SecAux) : (s.updSecAux i f).mem = s.mem := rfl
@[simp] theorem updSecAux_xl (s : State) (i : Nat) (f : SecAux → SecAux) : (s.updSecAux i f).xl = s.xl := rfl
@[simp] theorem updSecAux_csus (s : State) (i : Nat) (f : SecAux → SecAux) : (s.updSecAux i f).csus = s.csus := rfl
@[simp] theorem updSecAux_net (s : State) (i : Nat) (f : SecAux → SecAux) : (s.updSecAux i f).net = s.net := rfl
@[simp] theorem updSecAux_ports (s : State) (i : Nat) (f : SecAux → SecAux) : (s.updSecAux i f).ports = s.ports := rfl
@[simp] theorem updSecAux_fab (s : State) (i : Nat) (f : SecAux → SecAux) : (s.updSecAux i f).fab = s.fab := rfl
@[simp] theorem updSecAux_coll (s : State) (i : Nat) (f : SecAux → SecAux) : (s.updSecAux i f).coll = s.coll := rfl
@[simp] theorem updSecAux_flash (s : State) (i : Nat) (f : SecAux → SecAux) : (s.updSecAux i f).flash = s.flash := rfl
@[simp] theorem updSecAux_ctl (s : State) (i : Nat) (f : SecAux → SecAux) : (s.updSecAux i f).ctl = s.ctl := rfl
@[simp] theorem updSecAux_sh (s : State) (i : Nat) (f : SecAux → SecAux) : (s.updSecAux i f).sh = s.sh := rfl
@[simp] theorem updSecAux_pwr (s : State) (i : Nat) (f : SecAux → SecAux) : (s.updSecAux i f).pwr = s.pwr := rfl
@[simp] theorem updSecAux_lock (s : State) (i : Nat) (f : SecAux → SecAux) : (s.updSecAux i f).lock = s.lock := rfl
@[simp] theorem updSecAux_tap (s : State) (i : Nat) (f : SecAux → SecAux) : (s.updSecAux i f).tap = s.tap := rfl
@[simp] theorem updSecAux_out (s : State) (i : Nat) (f : SecAux → SecAux) : (s.updSecAux i f).out = s.out := rfl
@[simp] theorem updSecAux_fresh (s : State) (i : Nat) (f : SecAux → SecAux) : (s.updSecAux i f).fresh = s.fresh := rfl
@[simp] theorem updSecAux_core (s : State) (i : Nat) (f : SecAux → SecAux) (i_ : Nat) : (s.updSecAux i f).core i_ = s.core i_ := rfl
@[simp] theorem updSecAux_cluster (s : State) (i : Nat) (f : SecAux → SecAux) (i_ : Nat) : (s.updSecAux i f).cluster i_ = s.cluster i_ := rfl
@[simp] theorem updSecAux_half (s : State) (i : Nat) (f : SecAux → SecAux) (i_ : Nat) : (s.updSecAux i f).half i_ = s.half i_ := rfl
@[simp] theorem updSecAux_mc (s : State) (i : Nat) (f : SecAux → SecAux) (i_ : Nat) : (s.updSecAux i f).mc i_ = s.mc i_ := rfl
@[simp] theorem updSecAux_csu (s : State) (i : Nat) (f : SecAux → SecAux) (i_ : Nat) : (s.updSecAux i f).csu i_ = s.csu i_ := rfl
@[simp] theorem updSecAux_port (s : State) (i : Nat) (f : SecAux → SecAux) (i_ : Nat) : (s.updSecAux i f).port i_ = s.port i_ := rfl
@[simp] theorem updSecAux_ce (s : State) (i : Nat) (f : SecAux → SecAux) (i_ : Nat) : (s.updSecAux i f).ce i_ = s.ce i_ := rfl
@[simp] theorem updSecAux_job (s : State) (i : Nat) (f : SecAux → SecAux) (i_ : Nat) : (s.updSecAux i f).job i_ = s.job i_ := rfl
@[simp] theorem updSecAux_cg (s : State) (i : Nat) (f : SecAux → SecAux) (i_ : Nat) : (s.updSecAux i f).cg i_ = s.cg i_ := rfl

/-! countFab -/

@[simp] theorem countFab_pending (s : State) (o n : Nat) : (s.countFab o n).pending = s.pending := rfl
@[simp] theorem countFab_part (s : State) (o n : Nat) : (s.countFab o n).part = s.part := rfl
@[simp] theorem countFab_backed (s : State) (o n : Nat) : (s.countFab o n).backed = s.backed := rfl
@[simp] theorem countFab_cores (s : State) (o n : Nat) : (s.countFab o n).cores = s.cores := rfl
@[simp] theorem countFab_clusters (s : State) (o n : Nat) : (s.countFab o n).clusters = s.clusters := rfl
@[simp] theorem countFab_halves (s : State) (o n : Nat) : (s.countFab o n).halves = s.halves := rfl
@[simp] theorem countFab_mcs (s : State) (o n : Nat) : (s.countFab o n).mcs = s.mcs := rfl
@[simp] theorem countFab_mem (s : State) (o n : Nat) : (s.countFab o n).mem = s.mem := rfl
@[simp] theorem countFab_xl (s : State) (o n : Nat) : (s.countFab o n).xl = s.xl := rfl
@[simp] theorem countFab_csus (s : State) (o n : Nat) : (s.countFab o n).csus = s.csus := rfl
@[simp] theorem countFab_net (s : State) (o n : Nat) : (s.countFab o n).net = s.net := rfl
@[simp] theorem countFab_ports (s : State) (o n : Nat) : (s.countFab o n).ports = s.ports := rfl
@[simp] theorem countFab_coll (s : State) (o n : Nat) : (s.countFab o n).coll = s.coll := rfl
@[simp] theorem countFab_sec (s : State) (o n : Nat) : (s.countFab o n).sec = s.sec := rfl
@[simp] theorem countFab_flash (s : State) (o n : Nat) : (s.countFab o n).flash = s.flash := rfl
@[simp] theorem countFab_ctl (s : State) (o n : Nat) : (s.countFab o n).ctl = s.ctl := rfl
@[simp] theorem countFab_sh (s : State) (o n : Nat) : (s.countFab o n).sh = s.sh := rfl
@[simp] theorem countFab_pwr (s : State) (o n : Nat) : (s.countFab o n).pwr = s.pwr := rfl
@[simp] theorem countFab_lock (s : State) (o n : Nat) : (s.countFab o n).lock = s.lock := rfl
@[simp] theorem countFab_tap (s : State) (o n : Nat) : (s.countFab o n).tap = s.tap := rfl
@[simp] theorem countFab_out (s : State) (o n : Nat) : (s.countFab o n).out = s.out := rfl
@[simp] theorem countFab_fresh (s : State) (o n : Nat) : (s.countFab o n).fresh = s.fresh := rfl
@[simp] theorem countFab_core (s : State) (o n : Nat) (i_ : Nat) : (s.countFab o n).core i_ = s.core i_ := rfl
@[simp] theorem countFab_cluster (s : State) (o n : Nat) (i_ : Nat) : (s.countFab o n).cluster i_ = s.cluster i_ := rfl
@[simp] theorem countFab_half (s : State) (o n : Nat) (i_ : Nat) : (s.countFab o n).half i_ = s.half i_ := rfl
@[simp] theorem countFab_mc (s : State) (o n : Nat) (i_ : Nat) : (s.countFab o n).mc i_ = s.mc i_ := rfl
@[simp] theorem countFab_csu (s : State) (o n : Nat) (i_ : Nat) : (s.countFab o n).csu i_ = s.csu i_ := rfl
@[simp] theorem countFab_port (s : State) (o n : Nat) (i_ : Nat) : (s.countFab o n).port i_ = s.port i_ := rfl
@[simp] theorem countFab_ce (s : State) (o n : Nat) (i_ : Nat) : (s.countFab o n).ce i_ = s.ce i_ := rfl
@[simp] theorem countFab_job (s : State) (o n : Nat) (i_ : Nat) : (s.countFab o n).job i_ = s.job i_ := rfl
@[simp] theorem countFab_cg (s : State) (o n : Nat) (i_ : Nat) : (s.countFab o n).cg i_ = s.cg i_ := rfl
@[simp] theorem countFab_secAux (s : State) (o n : Nat) (i_ : Nat) : (s.countFab o n).secAux i_ = s.secAux i_ := rfl

/-! updSh -/

@[simp] theorem updSh_pending (s : State) (f : Shaft → Shaft) : (s.updSh f).pending = s.pending := rfl
@[simp] theorem updSh_part (s : State) (f : Shaft → Shaft) : (s.updSh f).part = s.part := rfl
@[simp] theorem updSh_backed (s : State) (f : Shaft → Shaft) : (s.updSh f).backed = s.backed := rfl
@[simp] theorem updSh_cores (s : State) (f : Shaft → Shaft) : (s.updSh f).cores = s.cores := rfl
@[simp] theorem updSh_clusters (s : State) (f : Shaft → Shaft) : (s.updSh f).clusters = s.clusters := rfl
@[simp] theorem updSh_halves (s : State) (f : Shaft → Shaft) : (s.updSh f).halves = s.halves := rfl
@[simp] theorem updSh_mcs (s : State) (f : Shaft → Shaft) : (s.updSh f).mcs = s.mcs := rfl
@[simp] theorem updSh_mem (s : State) (f : Shaft → Shaft) : (s.updSh f).mem = s.mem := rfl
@[simp] theorem updSh_xl (s : State) (f : Shaft → Shaft) : (s.updSh f).xl = s.xl := rfl
@[simp] theorem updSh_csus (s : State) (f : Shaft → Shaft) : (s.updSh f).csus = s.csus := rfl
@[simp] theorem updSh_net (s : State) (f : Shaft → Shaft) : (s.updSh f).net = s.net := rfl
@[simp] theorem updSh_ports (s : State) (f : Shaft → Shaft) : (s.updSh f).ports = s.ports := rfl
@[simp] theorem updSh_fab (s : State) (f : Shaft → Shaft) : (s.updSh f).fab = s.fab := rfl
@[simp] theorem updSh_coll (s : State) (f : Shaft → Shaft) : (s.updSh f).coll = s.coll := rfl
@[simp] theorem updSh_sec (s : State) (f : Shaft → Shaft) : (s.updSh f).sec = s.sec := rfl
@[simp] theorem updSh_flash (s : State) (f : Shaft → Shaft) : (s.updSh f).flash = s.flash := rfl
@[simp] theorem updSh_ctl (s : State) (f : Shaft → Shaft) : (s.updSh f).ctl = s.ctl := rfl
@[simp] theorem updSh_pwr (s : State) (f : Shaft → Shaft) : (s.updSh f).pwr = s.pwr := rfl
@[simp] theorem updSh_lock (s : State) (f : Shaft → Shaft) : (s.updSh f).lock = s.lock := rfl
@[simp] theorem updSh_tap (s : State) (f : Shaft → Shaft) : (s.updSh f).tap = s.tap := rfl
@[simp] theorem updSh_out (s : State) (f : Shaft → Shaft) : (s.updSh f).out = s.out := rfl
@[simp] theorem updSh_fresh (s : State) (f : Shaft → Shaft) : (s.updSh f).fresh = s.fresh := rfl
@[simp] theorem updSh_core (s : State) (f : Shaft → Shaft) (i_ : Nat) : (s.updSh f).core i_ = s.core i_ := rfl
@[simp] theorem updSh_cluster (s : State) (f : Shaft → Shaft) (i_ : Nat) : (s.updSh f).cluster i_ = s.cluster i_ := rfl
@[simp] theorem updSh_half (s : State) (f : Shaft → Shaft) (i_ : Nat) : (s.updSh f).half i_ = s.half i_ := rfl
@[simp] theorem updSh_mc (s : State) (f : Shaft → Shaft) (i_ : Nat) : (s.updSh f).mc i_ = s.mc i_ := rfl
@[simp] theorem updSh_csu (s : State) (f : Shaft → Shaft) (i_ : Nat) : (s.updSh f).csu i_ = s.csu i_ := rfl
@[simp] theorem updSh_port (s : State) (f : Shaft → Shaft) (i_ : Nat) : (s.updSh f).port i_ = s.port i_ := rfl
@[simp] theorem updSh_ce (s : State) (f : Shaft → Shaft) (i_ : Nat) : (s.updSh f).ce i_ = s.ce i_ := rfl
@[simp] theorem updSh_job (s : State) (f : Shaft → Shaft) (i_ : Nat) : (s.updSh f).job i_ = s.job i_ := rfl
@[simp] theorem updSh_cg (s : State) (f : Shaft → Shaft) (i_ : Nat) : (s.updSh f).cg i_ = s.cg i_ := rfl
@[simp] theorem updSh_secAux (s : State) (f : Shaft → Shaft) (i_ : Nat) : (s.updSh f).secAux i_ = s.secAux i_ := rfl

/-! countSh -/

@[simp] theorem countSh_pending (s : State) (o n : Nat) : (s.countSh o n).pending = s.pending := rfl
@[simp] theorem countSh_part (s : State) (o n : Nat) : (s.countSh o n).part = s.part := rfl
@[simp] theorem countSh_backed (s : State) (o n : Nat) : (s.countSh o n).backed = s.backed := rfl
@[simp] theorem countSh_cores (s : State) (o n : Nat) : (s.countSh o n).cores = s.cores := rfl
@[simp] theorem countSh_clusters (s : State) (o n : Nat) : (s.countSh o n).clusters = s.clusters := rfl
@[simp] theorem countSh_halves (s : State) (o n : Nat) : (s.countSh o n).halves = s.halves := rfl
@[simp] theorem countSh_mcs (s : State) (o n : Nat) : (s.countSh o n).mcs = s.mcs := rfl
@[simp] theorem countSh_mem (s : State) (o n : Nat) : (s.countSh o n).mem = s.mem := rfl
@[simp] theorem countSh_xl (s : State) (o n : Nat) : (s.countSh o n).xl = s.xl := rfl
@[simp] theorem countSh_csus (s : State) (o n : Nat) : (s.countSh o n).csus = s.csus := rfl
@[simp] theorem countSh_net (s : State) (o n : Nat) : (s.countSh o n).net = s.net := rfl
@[simp] theorem countSh_ports (s : State) (o n : Nat) : (s.countSh o n).ports = s.ports := rfl
@[simp] theorem countSh_fab (s : State) (o n : Nat) : (s.countSh o n).fab = s.fab := rfl
@[simp] theorem countSh_coll (s : State) (o n : Nat) : (s.countSh o n).coll = s.coll := rfl
@[simp] theorem countSh_sec (s : State) (o n : Nat) : (s.countSh o n).sec = s.sec := rfl
@[simp] theorem countSh_flash (s : State) (o n : Nat) : (s.countSh o n).flash = s.flash := rfl
@[simp] theorem countSh_ctl (s : State) (o n : Nat) : (s.countSh o n).ctl = s.ctl := rfl
@[simp] theorem countSh_pwr (s : State) (o n : Nat) : (s.countSh o n).pwr = s.pwr := rfl
@[simp] theorem countSh_lock (s : State) (o n : Nat) : (s.countSh o n).lock = s.lock := rfl
@[simp] theorem countSh_tap (s : State) (o n : Nat) : (s.countSh o n).tap = s.tap := rfl
@[simp] theorem countSh_out (s : State) (o n : Nat) : (s.countSh o n).out = s.out := rfl
@[simp] theorem countSh_fresh (s : State) (o n : Nat) : (s.countSh o n).fresh = s.fresh := rfl
@[simp] theorem countSh_core (s : State) (o n : Nat) (i_ : Nat) : (s.countSh o n).core i_ = s.core i_ := rfl
@[simp] theorem countSh_cluster (s : State) (o n : Nat) (i_ : Nat) : (s.countSh o n).cluster i_ = s.cluster i_ := rfl
@[simp] theorem countSh_half (s : State) (o n : Nat) (i_ : Nat) : (s.countSh o n).half i_ = s.half i_ := rfl
@[simp] theorem countSh_mc (s : State) (o n : Nat) (i_ : Nat) : (s.countSh o n).mc i_ = s.mc i_ := rfl
@[simp] theorem countSh_csu (s : State) (o n : Nat) (i_ : Nat) : (s.countSh o n).csu i_ = s.csu i_ := rfl
@[simp] theorem countSh_port (s : State) (o n : Nat) (i_ : Nat) : (s.countSh o n).port i_ = s.port i_ := rfl
@[simp] theorem countSh_ce (s : State) (o n : Nat) (i_ : Nat) : (s.countSh o n).ce i_ = s.ce i_ := rfl
@[simp] theorem countSh_job (s : State) (o n : Nat) (i_ : Nat) : (s.countSh o n).job i_ = s.job i_ := rfl
@[simp] theorem countSh_cg (s : State) (o n : Nat) (i_ : Nat) : (s.countSh o n).cg i_ = s.cg i_ := rfl
@[simp] theorem countSh_secAux (s : State) (o n : Nat) (i_ : Nat) : (s.countSh o n).secAux i_ = s.secAux i_ := rfl

/-! countPwr -/

@[simp] theorem countPwr_pending (s : State) (o n : Nat) : (s.countPwr o n).pending = s.pending := rfl
@[simp] theorem countPwr_part (s : State) (o n : Nat) : (s.countPwr o n).part = s.part := rfl
@[simp] theorem countPwr_backed (s : State) (o n : Nat) : (s.countPwr o n).backed = s.backed := rfl
@[simp] theorem countPwr_cores (s : State) (o n : Nat) : (s.countPwr o n).cores = s.cores := rfl
@[simp] theorem countPwr_clusters (s : State) (o n : Nat) : (s.countPwr o n).clusters = s.clusters := rfl
@[simp] theorem countPwr_halves (s : State) (o n : Nat) : (s.countPwr o n).halves = s.halves := rfl
@[simp] theorem countPwr_mcs (s : State) (o n : Nat) : (s.countPwr o n).mcs = s.mcs := rfl
@[simp] theorem countPwr_mem (s : State) (o n : Nat) : (s.countPwr o n).mem = s.mem := rfl
@[simp] theorem countPwr_xl (s : State) (o n : Nat) : (s.countPwr o n).xl = s.xl := rfl
@[simp] theorem countPwr_csus (s : State) (o n : Nat) : (s.countPwr o n).csus = s.csus := rfl
@[simp] theorem countPwr_net (s : State) (o n : Nat) : (s.countPwr o n).net = s.net := rfl
@[simp] theorem countPwr_ports (s : State) (o n : Nat) : (s.countPwr o n).ports = s.ports := rfl
@[simp] theorem countPwr_fab (s : State) (o n : Nat) : (s.countPwr o n).fab = s.fab := rfl
@[simp] theorem countPwr_coll (s : State) (o n : Nat) : (s.countPwr o n).coll = s.coll := rfl
@[simp] theorem countPwr_sec (s : State) (o n : Nat) : (s.countPwr o n).sec = s.sec := rfl
@[simp] theorem countPwr_flash (s : State) (o n : Nat) : (s.countPwr o n).flash = s.flash := rfl
@[simp] theorem countPwr_ctl (s : State) (o n : Nat) : (s.countPwr o n).ctl = s.ctl := rfl
@[simp] theorem countPwr_sh (s : State) (o n : Nat) : (s.countPwr o n).sh = s.sh := rfl
@[simp] theorem countPwr_lock (s : State) (o n : Nat) : (s.countPwr o n).lock = s.lock := rfl
@[simp] theorem countPwr_tap (s : State) (o n : Nat) : (s.countPwr o n).tap = s.tap := rfl
@[simp] theorem countPwr_out (s : State) (o n : Nat) : (s.countPwr o n).out = s.out := rfl
@[simp] theorem countPwr_fresh (s : State) (o n : Nat) : (s.countPwr o n).fresh = s.fresh := rfl
@[simp] theorem countPwr_core (s : State) (o n : Nat) (i_ : Nat) : (s.countPwr o n).core i_ = s.core i_ := rfl
@[simp] theorem countPwr_cluster (s : State) (o n : Nat) (i_ : Nat) : (s.countPwr o n).cluster i_ = s.cluster i_ := rfl
@[simp] theorem countPwr_half (s : State) (o n : Nat) (i_ : Nat) : (s.countPwr o n).half i_ = s.half i_ := rfl
@[simp] theorem countPwr_mc (s : State) (o n : Nat) (i_ : Nat) : (s.countPwr o n).mc i_ = s.mc i_ := rfl
@[simp] theorem countPwr_csu (s : State) (o n : Nat) (i_ : Nat) : (s.countPwr o n).csu i_ = s.csu i_ := rfl
@[simp] theorem countPwr_port (s : State) (o n : Nat) (i_ : Nat) : (s.countPwr o n).port i_ = s.port i_ := rfl
@[simp] theorem countPwr_ce (s : State) (o n : Nat) (i_ : Nat) : (s.countPwr o n).ce i_ = s.ce i_ := rfl
@[simp] theorem countPwr_job (s : State) (o n : Nat) (i_ : Nat) : (s.countPwr o n).job i_ = s.job i_ := rfl
@[simp] theorem countPwr_cg (s : State) (o n : Nat) (i_ : Nat) : (s.countPwr o n).cg i_ = s.cg i_ := rfl
@[simp] theorem countPwr_secAux (s : State) (o n : Nat) (i_ : Nat) : (s.countPwr o n).secAux i_ = s.secAux i_ := rfl

/-! updClock -/

@[simp] theorem updClock_pending (s : State) (h : Nat) (f : HalfClock → HalfClock) : (s.updClock h f).pending = s.pending := rfl
@[simp] theorem updClock_part (s : State) (h : Nat) (f : HalfClock → HalfClock) : (s.updClock h f).part = s.part := rfl
@[simp] theorem updClock_backed (s : State) (h : Nat) (f : HalfClock → HalfClock) : (s.updClock h f).backed = s.backed := rfl
@[simp] theorem updClock_cores (s : State) (h : Nat) (f : HalfClock → HalfClock) : (s.updClock h f).cores = s.cores := rfl
@[simp] theorem updClock_clusters (s : State) (h : Nat) (f : HalfClock → HalfClock) : (s.updClock h f).clusters = s.clusters := rfl
@[simp] theorem updClock_halves (s : State) (h : Nat) (f : HalfClock → HalfClock) : (s.updClock h f).halves = s.halves := rfl
@[simp] theorem updClock_mcs (s : State) (h : Nat) (f : HalfClock → HalfClock) : (s.updClock h f).mcs = s.mcs := rfl
@[simp] theorem updClock_mem (s : State) (h : Nat) (f : HalfClock → HalfClock) : (s.updClock h f).mem = s.mem := rfl
@[simp] theorem updClock_xl (s : State) (h : Nat) (f : HalfClock → HalfClock) : (s.updClock h f).xl = s.xl := rfl
@[simp] theorem updClock_csus (s : State) (h : Nat) (f : HalfClock → HalfClock) : (s.updClock h f).csus = s.csus := rfl
@[simp] theorem updClock_net (s : State) (h : Nat) (f : HalfClock → HalfClock) : (s.updClock h f).net = s.net := rfl
@[simp] theorem updClock_ports (s : State) (h : Nat) (f : HalfClock → HalfClock) : (s.updClock h f).ports = s.ports := rfl
@[simp] theorem updClock_fab (s : State) (h : Nat) (f : HalfClock → HalfClock) : (s.updClock h f).fab = s.fab := rfl
@[simp] theorem updClock_coll (s : State) (h : Nat) (f : HalfClock → HalfClock) : (s.updClock h f).coll = s.coll := rfl
@[simp] theorem updClock_sec (s : State) (h : Nat) (f : HalfClock → HalfClock) : (s.updClock h f).sec = s.sec := rfl
@[simp] theorem updClock_flash (s : State) (h : Nat) (f : HalfClock → HalfClock) : (s.updClock h f).flash = s.flash := rfl
@[simp] theorem updClock_ctl (s : State) (h : Nat) (f : HalfClock → HalfClock) : (s.updClock h f).ctl = s.ctl := rfl
@[simp] theorem updClock_sh (s : State) (h : Nat) (f : HalfClock → HalfClock) : (s.updClock h f).sh = s.sh := rfl
@[simp] theorem updClock_lock (s : State) (h : Nat) (f : HalfClock → HalfClock) : (s.updClock h f).lock = s.lock := rfl
@[simp] theorem updClock_tap (s : State) (h : Nat) (f : HalfClock → HalfClock) : (s.updClock h f).tap = s.tap := rfl
@[simp] theorem updClock_out (s : State) (h : Nat) (f : HalfClock → HalfClock) : (s.updClock h f).out = s.out := rfl
@[simp] theorem updClock_fresh (s : State) (h : Nat) (f : HalfClock → HalfClock) : (s.updClock h f).fresh = s.fresh := rfl
@[simp] theorem updClock_core (s : State) (h : Nat) (f : HalfClock → HalfClock) (i_ : Nat) : (s.updClock h f).core i_ = s.core i_ := rfl
@[simp] theorem updClock_cluster (s : State) (h : Nat) (f : HalfClock → HalfClock) (i_ : Nat) : (s.updClock h f).cluster i_ = s.cluster i_ := rfl
@[simp] theorem updClock_half (s : State) (h : Nat) (f : HalfClock → HalfClock) (i_ : Nat) : (s.updClock h f).half i_ = s.half i_ := rfl
@[simp] theorem updClock_mc (s : State) (h : Nat) (f : HalfClock → HalfClock) (i_ : Nat) : (s.updClock h f).mc i_ = s.mc i_ := rfl
@[simp] theorem updClock_csu (s : State) (h : Nat) (f : HalfClock → HalfClock) (i_ : Nat) : (s.updClock h f).csu i_ = s.csu i_ := rfl
@[simp] theorem updClock_port (s : State) (h : Nat) (f : HalfClock → HalfClock) (i_ : Nat) : (s.updClock h f).port i_ = s.port i_ := rfl
@[simp] theorem updClock_ce (s : State) (h : Nat) (f : HalfClock → HalfClock) (i_ : Nat) : (s.updClock h f).ce i_ = s.ce i_ := rfl
@[simp] theorem updClock_job (s : State) (h : Nat) (f : HalfClock → HalfClock) (i_ : Nat) : (s.updClock h f).job i_ = s.job i_ := rfl
@[simp] theorem updClock_cg (s : State) (h : Nat) (f : HalfClock → HalfClock) (i_ : Nat) : (s.updClock h f).cg i_ = s.cg i_ := rfl
@[simp] theorem updClock_secAux (s : State) (h : Nat) (f : HalfClock → HalfClock) (i_ : Nat) : (s.updClock h f).secAux i_ = s.secAux i_ := rfl

/-! countLock -/

@[simp] theorem countLock_pending (s : State) (o n : Nat) : (s.countLock o n).pending = s.pending := rfl
@[simp] theorem countLock_part (s : State) (o n : Nat) : (s.countLock o n).part = s.part := rfl
@[simp] theorem countLock_backed (s : State) (o n : Nat) : (s.countLock o n).backed = s.backed := rfl
@[simp] theorem countLock_cores (s : State) (o n : Nat) : (s.countLock o n).cores = s.cores := rfl
@[simp] theorem countLock_clusters (s : State) (o n : Nat) : (s.countLock o n).clusters = s.clusters := rfl
@[simp] theorem countLock_halves (s : State) (o n : Nat) : (s.countLock o n).halves = s.halves := rfl
@[simp] theorem countLock_mcs (s : State) (o n : Nat) : (s.countLock o n).mcs = s.mcs := rfl
@[simp] theorem countLock_mem (s : State) (o n : Nat) : (s.countLock o n).mem = s.mem := rfl
@[simp] theorem countLock_xl (s : State) (o n : Nat) : (s.countLock o n).xl = s.xl := rfl
@[simp] theorem countLock_csus (s : State) (o n : Nat) : (s.countLock o n).csus = s.csus := rfl
@[simp] theorem countLock_net (s : State) (o n : Nat) : (s.countLock o n).net = s.net := rfl
@[simp] theorem countLock_ports (s : State) (o n : Nat) : (s.countLock o n).ports = s.ports := rfl
@[simp] theorem countLock_fab (s : State) (o n : Nat) : (s.countLock o n).fab = s.fab := rfl
@[simp] theorem countLock_coll (s : State) (o n : Nat) : (s.countLock o n).coll = s.coll := rfl
@[simp] theorem countLock_sec (s : State) (o n : Nat) : (s.countLock o n).sec = s.sec := rfl
@[simp] theorem countLock_flash (s : State) (o n : Nat) : (s.countLock o n).flash = s.flash := rfl
@[simp] theorem countLock_ctl (s : State) (o n : Nat) : (s.countLock o n).ctl = s.ctl := rfl
@[simp] theorem countLock_sh (s : State) (o n : Nat) : (s.countLock o n).sh = s.sh := rfl
@[simp] theorem countLock_pwr (s : State) (o n : Nat) : (s.countLock o n).pwr = s.pwr := rfl
@[simp] theorem countLock_tap (s : State) (o n : Nat) : (s.countLock o n).tap = s.tap := rfl
@[simp] theorem countLock_out (s : State) (o n : Nat) : (s.countLock o n).out = s.out := rfl
@[simp] theorem countLock_fresh (s : State) (o n : Nat) : (s.countLock o n).fresh = s.fresh := rfl
@[simp] theorem countLock_core (s : State) (o n : Nat) (i_ : Nat) : (s.countLock o n).core i_ = s.core i_ := rfl
@[simp] theorem countLock_cluster (s : State) (o n : Nat) (i_ : Nat) : (s.countLock o n).cluster i_ = s.cluster i_ := rfl
@[simp] theorem countLock_half (s : State) (o n : Nat) (i_ : Nat) : (s.countLock o n).half i_ = s.half i_ := rfl
@[simp] theorem countLock_mc (s : State) (o n : Nat) (i_ : Nat) : (s.countLock o n).mc i_ = s.mc i_ := rfl
@[simp] theorem countLock_csu (s : State) (o n : Nat) (i_ : Nat) : (s.countLock o n).csu i_ = s.csu i_ := rfl
@[simp] theorem countLock_port (s : State) (o n : Nat) (i_ : Nat) : (s.countLock o n).port i_ = s.port i_ := rfl
@[simp] theorem countLock_ce (s : State) (o n : Nat) (i_ : Nat) : (s.countLock o n).ce i_ = s.ce i_ := rfl
@[simp] theorem countLock_job (s : State) (o n : Nat) (i_ : Nat) : (s.countLock o n).job i_ = s.job i_ := rfl
@[simp] theorem countLock_cg (s : State) (o n : Nat) (i_ : Nat) : (s.countLock o n).cg i_ = s.cg i_ := rfl
@[simp] theorem countLock_secAux (s : State) (o n : Nat) (i_ : Nat) : (s.countLock o n).secAux i_ = s.secAux i_ := rfl

/-! updTap -/

@[simp] theorem updTap_pending (s : State) (f : Tap → Tap) : (s.updTap f).pending = s.pending := rfl
@[simp] theorem updTap_part (s : State) (f : Tap → Tap) : (s.updTap f).part = s.part := rfl
@[simp] theorem updTap_backed (s : State) (f : Tap → Tap) : (s.updTap f).backed = s.backed := rfl
@[simp] theorem updTap_cores (s : State) (f : Tap → Tap) : (s.updTap f).cores = s.cores := rfl
@[simp] theorem updTap_clusters (s : State) (f : Tap → Tap) : (s.updTap f).clusters = s.clusters := rfl
@[simp] theorem updTap_halves (s : State) (f : Tap → Tap) : (s.updTap f).halves = s.halves := rfl
@[simp] theorem updTap_mcs (s : State) (f : Tap → Tap) : (s.updTap f).mcs = s.mcs := rfl
@[simp] theorem updTap_mem (s : State) (f : Tap → Tap) : (s.updTap f).mem = s.mem := rfl
@[simp] theorem updTap_xl (s : State) (f : Tap → Tap) : (s.updTap f).xl = s.xl := rfl
@[simp] theorem updTap_csus (s : State) (f : Tap → Tap) : (s.updTap f).csus = s.csus := rfl
@[simp] theorem updTap_net (s : State) (f : Tap → Tap) : (s.updTap f).net = s.net := rfl
@[simp] theorem updTap_ports (s : State) (f : Tap → Tap) : (s.updTap f).ports = s.ports := rfl
@[simp] theorem updTap_fab (s : State) (f : Tap → Tap) : (s.updTap f).fab = s.fab := rfl
@[simp] theorem updTap_coll (s : State) (f : Tap → Tap) : (s.updTap f).coll = s.coll := rfl
@[simp] theorem updTap_sec (s : State) (f : Tap → Tap) : (s.updTap f).sec = s.sec := rfl
@[simp] theorem updTap_flash (s : State) (f : Tap → Tap) : (s.updTap f).flash = s.flash := rfl
@[simp] theorem updTap_ctl (s : State) (f : Tap → Tap) : (s.updTap f).ctl = s.ctl := rfl
@[simp] theorem updTap_sh (s : State) (f : Tap → Tap) : (s.updTap f).sh = s.sh := rfl
@[simp] theorem updTap_pwr (s : State) (f : Tap → Tap) : (s.updTap f).pwr = s.pwr := rfl
@[simp] theorem updTap_lock (s : State) (f : Tap → Tap) : (s.updTap f).lock = s.lock := rfl
@[simp] theorem updTap_out (s : State) (f : Tap → Tap) : (s.updTap f).out = s.out := rfl
@[simp] theorem updTap_fresh (s : State) (f : Tap → Tap) : (s.updTap f).fresh = s.fresh := rfl
@[simp] theorem updTap_core (s : State) (f : Tap → Tap) (i_ : Nat) : (s.updTap f).core i_ = s.core i_ := rfl
@[simp] theorem updTap_cluster (s : State) (f : Tap → Tap) (i_ : Nat) : (s.updTap f).cluster i_ = s.cluster i_ := rfl
@[simp] theorem updTap_half (s : State) (f : Tap → Tap) (i_ : Nat) : (s.updTap f).half i_ = s.half i_ := rfl
@[simp] theorem updTap_mc (s : State) (f : Tap → Tap) (i_ : Nat) : (s.updTap f).mc i_ = s.mc i_ := rfl
@[simp] theorem updTap_csu (s : State) (f : Tap → Tap) (i_ : Nat) : (s.updTap f).csu i_ = s.csu i_ := rfl
@[simp] theorem updTap_port (s : State) (f : Tap → Tap) (i_ : Nat) : (s.updTap f).port i_ = s.port i_ := rfl
@[simp] theorem updTap_ce (s : State) (f : Tap → Tap) (i_ : Nat) : (s.updTap f).ce i_ = s.ce i_ := rfl
@[simp] theorem updTap_job (s : State) (f : Tap → Tap) (i_ : Nat) : (s.updTap f).job i_ = s.job i_ := rfl
@[simp] theorem updTap_cg (s : State) (f : Tap → Tap) (i_ : Nat) : (s.updTap f).cg i_ = s.cg i_ := rfl
@[simp] theorem updTap_secAux (s : State) (f : Tap → Tap) (i_ : Nat) : (s.updTap f).secAux i_ = s.secAux i_ := rfl

@[simp] theorem updCore_core_same (s : State) (k : Nat) (f : Core → Core) : (s.updCore k f).core k = f (s.core k) := SMap.get_set_same _ _ _ _
theorem updCore_core (s : State) (k j : Nat) (f : Core → Core) : (s.updCore k f).core j = if j = k then f (s.core k) else s.core j := SMap.get_set _ _ _ _ _
theorem updCore_core_other (s : State) (f : Core → Core) {k j : Nat} (h : j ≠ k) : (s.updCore k f).core j = s.core j := SMap.get_set_other _ _ _ h
@[simp] theorem updCluster_cluster_same (s : State) (k : Nat) (f : Cluster → Cluster) : (s.updCluster k f).cluster k = f (s.cluster k) := SMap.get_set_same _ _ _ _
theorem updCluster_cluster (s : State) (k j : Nat) (f : Cluster → Cluster) : (s.updCluster k f).cluster j = if j = k then f (s.cluster k) else s.cluster j := SMap.get_set _ _ _ _ _
theorem updCluster_cluster_other (s : State) (f : Cluster → Cluster) {k j : Nat} (h : j ≠ k) : (s.updCluster k f).cluster j = s.cluster j := SMap.get_set_other _ _ _ h
@[simp] theorem updHalf_half_same (s : State) (k : Nat) (f : Half → Half) : (s.updHalf k f).half k = f (s.half k) := SMap.get_set_same _ _ _ _
theorem updHalf_half (s : State) (k j : Nat) (f : Half → Half) : (s.updHalf k f).half j = if j = k then f (s.half k) else s.half j := SMap.get_set _ _ _ _ _
theorem updHalf_half_other (s : State) (f : Half → Half) {k j : Nat} (h : j ≠ k) : (s.updHalf k f).half j = s.half j := SMap.get_set_other _ _ _ h
@[simp] theorem updMc_mc_same (s : State) (k : Nat) (f : Mc → Mc) : (s.updMc k f).mc k = f (s.mc k) := SMap.get_set_same _ _ _ _
theorem updMc_mc (s : State) (k j : Nat) (f : Mc → Mc) : (s.updMc k f).mc j = if j = k then f (s.mc k) else s.mc j := SMap.get_set _ _ _ _ _
theorem updMc_mc_other (s : State) (f : Mc → Mc) {k j : Nat} (h : j ≠ k) : (s.updMc k f).mc j = s.mc j := SMap.get_set_other _ _ _ h
@[simp] theorem updCsu_csu_same (s : State) (k : Nat) (f : Csu → Csu) : (s.updCsu k f).csu k = f (s.csu k) := SMap.get_set_same _ _ _ _
theorem updCsu_csu (s : State) (k j : Nat) (f : Csu → Csu) : (s.updCsu k f).csu j = if j = k then f (s.csu k) else s.csu j := SMap.get_set _ _ _ _ _
theorem updCsu_csu_other (s : State) (f : Csu → Csu) {k j : Nat} (h : j ≠ k) : (s.updCsu k f).csu j = s.csu j := SMap.get_set_other _ _ _ h
@[simp] theorem updPort_port_same (s : State) (k : Nat) (f : Port → Port) : (s.updPort k f).port k = f (s.port k) := SMap.get_set_same _ _ _ _
theorem updPort_port (s : State) (k j : Nat) (f : Port → Port) : (s.updPort k f).port j = if j = k then f (s.port k) else s.port j := SMap.get_set _ _ _ _ _
theorem updPort_port_other (s : State) (f : Port → Port) {k j : Nat} (h : j ≠ k) : (s.updPort k f).port j = s.port j := SMap.get_set_other _ _ _ h
@[simp] theorem updCe_ce_same (s : State) (k : Nat) (f : Ce → Ce) : (s.updCe k f).ce k = f (s.ce k) := SMap.get_set_same _ _ _ _
theorem updCe_ce (s : State) (k j : Nat) (f : Ce → Ce) : (s.updCe k f).ce j = if j = k then f (s.ce k) else s.ce j := SMap.get_set _ _ _ _ _
theorem updCe_ce_other (s : State) (f : Ce → Ce) {k j : Nat} (h : j ≠ k) : (s.updCe k f).ce j = s.ce j := SMap.get_set_other _ _ _ h
@[simp] theorem updJob_job_same (s : State) (k : Nat) (f : Job → Job) : (s.updJob k f).job k = f (s.job k) := SMap.get_set_same _ _ _ _
theorem updJob_job (s : State) (k j : Nat) (f : Job → Job) : (s.updJob k f).job j = if j = k then f (s.job k) else s.job j := SMap.get_set _ _ _ _ _
theorem updJob_job_other (s : State) (f : Job → Job) {k j : Nat} (h : j ≠ k) : (s.updJob k f).job j = s.job j := SMap.get_set_other _ _ _ h
@[simp] theorem updCg_cg_same (s : State) (k : Nat) (f : Cg → Cg) : (s.updCg k f).cg k = f (s.cg k) := SMap.get_set_same _ _ _ _
theorem updCg_cg (s : State) (k j : Nat) (f : Cg → Cg) : (s.updCg k f).cg j = if j = k then f (s.cg k) else s.cg j := SMap.get_set _ _ _ _ _
theorem updCg_cg_other (s : State) (f : Cg → Cg) {k j : Nat} (h : j ≠ k) : (s.updCg k f).cg j = s.cg j := SMap.get_set_other _ _ _ h
@[simp] theorem updSecAux_secAux_same (s : State) (k : Nat) (f : SecAux → SecAux) : (s.updSecAux k f).secAux k = f (s.secAux k) := SMap.get_set_same _ _ _ _
theorem updSecAux_secAux (s : State) (k j : Nat) (f : SecAux → SecAux) : (s.updSecAux k f).secAux j = if j = k then f (s.secAux k) else s.secAux j := SMap.get_set _ _ _ _ _
theorem updSecAux_secAux_other (s : State) (f : SecAux → SecAux) {k j : Nat} (h : j ≠ k) : (s.updSecAux k f).secAux j = s.secAux j := SMap.get_set_other _ _ _ h
@[simp] theorem updCore_updCore (s : State) (k : Nat) (f g : Core → Core) : (s.updCore k f).updCore k g = s.updCore k fun c => g (f c) := by
  simp [updCore, setCore, core]
@[simp] theorem setCore_setCore (s : State) (k : Nat) (v w : Core) : (s.setCore k v).setCore k w = s.setCore k w := by simp [setCore]
@[simp] theorem setPort_setPort (s : State) (k : Nat) (v w : Port) : (s.setPort k v).setPort k w = s.setPort k w := by simp [setPort]
@[simp] theorem updPort_updPort (s : State) (k : Nat) (f g : Port → Port) : (s.updPort k f).updPort k g = s.updPort k fun c => g (f c) := by
  simp [updPort, setPort, port]
@[simp] theorem setCore_core_same (s : State) (k : Nat) (v : Core) : (s.setCore k v).core k = v := SMap.get_set_same _ _ _ _
theorem setCore_core_other (s : State) (v : Core) {k j : Nat} (h : j ≠ k) : (s.setCore k v).core j = s.core j := SMap.get_set_other _ _ _ h
@[simp] theorem setPort_port_same (s : State) (k : Nat) (v : Port) : (s.setPort k v).port k = v := SMap.get_set_same _ _ _ _
theorem setPort_port_other (s : State) (v : Port) {k j : Nat} (h : j ≠ k) : (s.setPort k v).port j = s.port j := SMap.get_set_other _ _ _ h

end State

namespace Core

@[simp] theorem setSlot_tiles (c : Core) (n : Nat) (v : Slot) : (c.setSlot n v).tiles = c.tiles := rfl
@[simp] theorem setSlot_beds (c : Core) (n : Nat) (v : Slot) : (c.setSlot n v).beds = c.beds := rfl
@[simp] theorem setSlot_rings (c : Core) (n : Nat) (v : Slot) : (c.setSlot n v).rings = c.rings := rfl
@[simp] theorem setSlot_binds (c : Core) (n : Nat) (v : Slot) : (c.setSlot n v).binds = c.binds := rfl
@[simp] theorem setSlot_bindFenced (c : Core) (n : Nat) (v : Slot) : (c.setSlot n v).bindFenced = c.bindFenced := rfl
@[simp] theorem setSlot_tailrace (c : Core) (n : Nat) (v : Slot) : (c.setSlot n v).tailrace = c.tailrace := rfl
@[simp] theorem setSlot_lag (c : Core) (n : Nat) (v : Slot) : (c.setSlot n v).lag = c.lag := rfl
@[simp] theorem setSlot_pseen (c : Core) (n : Nat) (v : Slot) : (c.setSlot n v).pseen = c.pseen := rfl
@[simp] theorem setSlot_nfseen (c : Core) (n : Nat) (v : Slot) : (c.setSlot n v).nfseen = c.nfseen := rfl
@[simp] theorem setSlot_ctr (c : Core) (n : Nat) (v : Slot) : (c.setSlot n v).ctr = c.ctr := rfl
@[simp] theorem setSlot_cmps (c : Core) (n : Nat) (v : Slot) : (c.setSlot n v).cmps = c.cmps := rfl
@[simp] theorem setSlot_ctrl (c : Core) (n : Nat) (v : Slot) : (c.setSlot n v).ctrl = c.ctrl := rfl
@[simp] theorem setSlot_lastGen (c : Core) (n : Nat) (v : Slot) : (c.setSlot n v).lastGen = c.lastGen := rfl
@[simp] theorem setSlot_icache (c : Core) (n : Nat) (v : Slot) : (c.setSlot n v).icache = c.icache := rfl
@[simp] theorem setSlot_fenced (c : Core) (n : Nat) (v : Slot) : (c.setSlot n v).fenced = c.fenced := rfl
@[simp] theorem setSlot_tcs (c : Core) (n : Nat) (v : Slot) : (c.setSlot n v).tcs = c.tcs := rfl
@[simp] theorem setSlot_held (c : Core) (n : Nat) (v : Slot) : (c.setSlot n v).held = c.held := rfl
@[simp] theorem setSlot_ahead (c : Core) (n : Nat) (v : Slot) : (c.setSlot n v).ahead = c.ahead := rfl
@[simp] theorem setSlot_raStop (c : Core) (n : Nat) (v : Slot) : (c.setSlot n v).raStop = c.raStop := rfl
@[simp] theorem setSlot_clock (c : Core) (n : Nat) (v : Slot) : (c.setSlot n v).clock = c.clock := rfl
@[simp] theorem setSlot_runs (c : Core) (n : Nat) (v : Slot) : (c.setSlot n v).runs = c.runs := rfl
@[simp] theorem setSlot_backlog (c : Core) (n : Nat) (v : Slot) : (c.setSlot n v).backlog = c.backlog := rfl
@[simp] theorem setSlot_counts (c : Core) (n : Nat) (v : Slot) : (c.setSlot n v).counts = c.counts := rfl
@[simp] theorem setSlot_ring (c : Core) (n : Nat) (v : Slot) (k : Nat) : (c.setSlot n v).ring k = c.ring k := rfl
@[simp] theorem setSlot_cnt (c : Core) (n : Nat) (v : Slot) (k : Nat) : (c.setSlot n v).cnt k = c.cnt k := rfl
@[simp] theorem updSlot_tiles (c : Core) (n : Nat) (f : Slot → Slot) : (c.updSlot n f).tiles = c.tiles := rfl
@[simp] theorem updSlot_beds (c : Core) (n : Nat) (f : Slot → Slot) : (c.updSlot n f).beds = c.beds := rfl
@[simp] theorem updSlot_rings (c : Core) (n : Nat) (f : Slot → Slot) : (c.updSlot n f).rings = c.rings := rfl
@[simp] theorem updSlot_binds (c : Core) (n : Nat) (f : Slot → Slot) : (c.updSlot n f).binds = c.binds := rfl
@[simp] theorem updSlot_bindFenced (c : Core) (n : Nat) (f : Slot → Slot) : (c.updSlot n f).bindFenced = c.bindFenced := rfl
@[simp] theorem updSlot_tailrace (c : Core) (n : Nat) (f : Slot → Slot) : (c.updSlot n f).tailrace = c.tailrace := rfl
@[simp] theorem updSlot_lag (c : Core) (n : Nat) (f : Slot → Slot) : (c.updSlot n f).lag = c.lag := rfl
@[simp] theorem updSlot_pseen (c : Core) (n : Nat) (f : Slot → Slot) : (c.updSlot n f).pseen = c.pseen := rfl
@[simp] theorem updSlot_nfseen (c : Core) (n : Nat) (f : Slot → Slot) : (c.updSlot n f).nfseen = c.nfseen := rfl
@[simp] theorem updSlot_ctr (c : Core) (n : Nat) (f : Slot → Slot) : (c.updSlot n f).ctr = c.ctr := rfl
@[simp] theorem updSlot_cmps (c : Core) (n : Nat) (f : Slot → Slot) : (c.updSlot n f).cmps = c.cmps := rfl
@[simp] theorem updSlot_ctrl (c : Core) (n : Nat) (f : Slot → Slot) : (c.updSlot n f).ctrl = c.ctrl := rfl
@[simp] theorem updSlot_lastGen (c : Core) (n : Nat) (f : Slot → Slot) : (c.updSlot n f).lastGen = c.lastGen := rfl
@[simp] theorem updSlot_icache (c : Core) (n : Nat) (f : Slot → Slot) : (c.updSlot n f).icache = c.icache := rfl
@[simp] theorem updSlot_fenced (c : Core) (n : Nat) (f : Slot → Slot) : (c.updSlot n f).fenced = c.fenced := rfl
@[simp] theorem updSlot_tcs (c : Core) (n : Nat) (f : Slot → Slot) : (c.updSlot n f).tcs = c.tcs := rfl
@[simp] theorem updSlot_held (c : Core) (n : Nat) (f : Slot → Slot) : (c.updSlot n f).held = c.held := rfl
@[simp] theorem updSlot_ahead (c : Core) (n : Nat) (f : Slot → Slot) : (c.updSlot n f).ahead = c.ahead := rfl
@[simp] theorem updSlot_raStop (c : Core) (n : Nat) (f : Slot → Slot) : (c.updSlot n f).raStop = c.raStop := rfl
@[simp] theorem updSlot_clock (c : Core) (n : Nat) (f : Slot → Slot) : (c.updSlot n f).clock = c.clock := rfl
@[simp] theorem updSlot_runs (c : Core) (n : Nat) (f : Slot → Slot) : (c.updSlot n f).runs = c.runs := rfl
@[simp] theorem updSlot_backlog (c : Core) (n : Nat) (f : Slot → Slot) : (c.updSlot n f).backlog = c.backlog := rfl
@[simp] theorem updSlot_counts (c : Core) (n : Nat) (f : Slot → Slot) : (c.updSlot n f).counts = c.counts := rfl
@[simp] theorem updSlot_ring (c : Core) (n : Nat) (f : Slot → Slot) (k : Nat) : (c.updSlot n f).ring k = c.ring k := rfl
@[simp] theorem updSlot_cnt (c : Core) (n : Nat) (f : Slot → Slot) (k : Nat) : (c.updSlot n f).cnt k = c.cnt k := rfl
@[simp] theorem updRing_tiles (c : Core) (q : Nat) (f : Ring → Ring) : (c.updRing q f).tiles = c.tiles := rfl
@[simp] theorem updRing_beds (c : Core) (q : Nat) (f : Ring → Ring) : (c.updRing q f).beds = c.beds := rfl
@[simp] theorem updRing_binds (c : Core) (q : Nat) (f : Ring → Ring) : (c.updRing q f).binds = c.binds := rfl
@[simp] theorem updRing_bindFenced (c : Core) (q : Nat) (f : Ring → Ring) : (c.updRing q f).bindFenced = c.bindFenced := rfl
@[simp] theorem updRing_slots (c : Core) (q : Nat) (f : Ring → Ring) : (c.updRing q f).slots = c.slots := rfl
@[simp] theorem updRing_tailrace (c : Core) (q : Nat) (f : Ring → Ring) : (c.updRing q f).tailrace = c.tailrace := rfl
@[simp] theorem updRing_lag (c : Core) (q : Nat) (f : Ring → Ring) : (c.updRing q f).lag = c.lag := rfl
@[simp] theorem updRing_pseen (c : Core) (q : Nat) (f : Ring → Ring) : (c.updRing q f).pseen = c.pseen := rfl
@[simp] theorem updRing_nfseen (c : Core) (q : Nat) (f : Ring → Ring) : (c.updRing q f).nfseen = c.nfseen := rfl
@[simp] theorem updRing_ctr (c : Core) (q : Nat) (f : Ring → Ring) : (c.updRing q f).ctr = c.ctr := rfl
@[simp] theorem updRing_cmps (c : Core) (q : Nat) (f : Ring → Ring) : (c.updRing q f).cmps = c.cmps := rfl
@[simp] theorem updRing_ctrl (c : Core) (q : Nat) (f : Ring → Ring) : (c.updRing q f).ctrl = c.ctrl := rfl
@[simp] theorem updRing_lastGen (c : Core) (q : Nat) (f : Ring → Ring) : (c.updRing q f).lastGen = c.lastGen := rfl
@[simp] theorem updRing_icache (c : Core) (q : Nat) (f : Ring → Ring) : (c.updRing q f).icache = c.icache := rfl
@[simp] theorem updRing_fenced (c : Core) (q : Nat) (f : Ring → Ring) : (c.updRing q f).fenced = c.fenced := rfl
@[simp] theorem updRing_tcs (c : Core) (q : Nat) (f : Ring → Ring) : (c.updRing q f).tcs = c.tcs := rfl
@[simp] theorem updRing_held (c : Core) (q : Nat) (f : Ring → Ring) : (c.updRing q f).held = c.held := rfl
@[simp] theorem updRing_ahead (c : Core) (q : Nat) (f : Ring → Ring) : (c.updRing q f).ahead = c.ahead := rfl
@[simp] theorem updRing_raStop (c : Core) (q : Nat) (f : Ring → Ring) : (c.updRing q f).raStop = c.raStop := rfl
@[simp] theorem updRing_clock (c : Core) (q : Nat) (f : Ring → Ring) : (c.updRing q f).clock = c.clock := rfl
@[simp] theorem updRing_runs (c : Core) (q : Nat) (f : Ring → Ring) : (c.updRing q f).runs = c.runs := rfl
@[simp] theorem updRing_backlog (c : Core) (q : Nat) (f : Ring → Ring) : (c.updRing q f).backlog = c.backlog := rfl
@[simp] theorem updRing_counts (c : Core) (q : Nat) (f : Ring → Ring) : (c.updRing q f).counts = c.counts := rfl
@[simp] theorem updRing_slot (c : Core) (q : Nat) (f : Ring → Ring) (k : Nat) : (c.updRing q f).slot k = c.slot k := rfl
@[simp] theorem updRing_cnt (c : Core) (q : Nat) (f : Ring → Ring) (k : Nat) : (c.updRing q f).cnt k = c.cnt k := rfl
@[simp] theorem setCnt_tiles (c : Core) (n : Nat) (v : W32) : (c.setCnt n v).tiles = c.tiles := rfl
@[simp] theorem setCnt_beds (c : Core) (n : Nat) (v : W32) : (c.setCnt n v).beds = c.beds := rfl
@[simp] theorem setCnt_rings (c : Core) (n : Nat) (v : W32) : (c.setCnt n v).rings = c.rings := rfl
@[simp] theorem setCnt_binds (c : Core) (n : Nat) (v : W32) : (c.setCnt n v).binds = c.binds := rfl
@[simp] theorem setCnt_bindFenced (c : Core) (n : Nat) (v : W32) : (c.setCnt n v).bindFenced = c.bindFenced := rfl
@[simp] theorem setCnt_slots (c : Core) (n : Nat) (v : W32) : (c.setCnt n v).slots = c.slots := rfl
@[simp] theorem setCnt_tailrace (c : Core) (n : Nat) (v : W32) : (c.setCnt n v).tailrace = c.tailrace := rfl
@[simp] theorem setCnt_lag (c : Core) (n : Nat) (v : W32) : (c.setCnt n v).lag = c.lag := rfl
@[simp] theorem setCnt_pseen (c : Core) (n : Nat) (v : W32) : (c.setCnt n v).pseen = c.pseen := rfl
@[simp] theorem setCnt_nfseen (c : Core) (n : Nat) (v : W32) : (c.setCnt n v).nfseen = c.nfseen := rfl
@[simp] theorem setCnt_cmps (c : Core) (n : Nat) (v : W32) : (c.setCnt n v).cmps = c.cmps := rfl
@[simp] theorem setCnt_ctrl (c : Core) (n : Nat) (v : W32) : (c.setCnt n v).ctrl = c.ctrl := rfl
@[simp] theorem setCnt_lastGen (c : Core) (n : Nat) (v : W32) : (c.setCnt n v).lastGen = c.lastGen := rfl
@[simp] theorem setCnt_icache (c : Core) (n : Nat) (v : W32) : (c.setCnt n v).icache = c.icache := rfl
@[simp] theorem setCnt_fenced (c : Core) (n : Nat) (v : W32) : (c.setCnt n v).fenced = c.fenced := rfl
@[simp] theorem setCnt_tcs (c : Core) (n : Nat) (v : W32) : (c.setCnt n v).tcs = c.tcs := rfl
@[simp] theorem setCnt_held (c : Core) (n : Nat) (v : W32) : (c.setCnt n v).held = c.held := rfl
@[simp] theorem setCnt_ahead (c : Core) (n : Nat) (v : W32) : (c.setCnt n v).ahead = c.ahead := rfl
@[simp] theorem setCnt_raStop (c : Core) (n : Nat) (v : W32) : (c.setCnt n v).raStop = c.raStop := rfl
@[simp] theorem setCnt_clock (c : Core) (n : Nat) (v : W32) : (c.setCnt n v).clock = c.clock := rfl
@[simp] theorem setCnt_runs (c : Core) (n : Nat) (v : W32) : (c.setCnt n v).runs = c.runs := rfl
@[simp] theorem setCnt_backlog (c : Core) (n : Nat) (v : W32) : (c.setCnt n v).backlog = c.backlog := rfl
@[simp] theorem setCnt_counts (c : Core) (n : Nat) (v : W32) : (c.setCnt n v).counts = c.counts := rfl
@[simp] theorem setCnt_slot (c : Core) (n : Nat) (v : W32) (k : Nat) : (c.setCnt n v).slot k = c.slot k := rfl
@[simp] theorem setCnt_ring (c : Core) (n : Nat) (v : W32) (k : Nat) : (c.setCnt n v).ring k = c.ring k := rfl
@[simp] theorem count_tiles (c : Core) (o n : Nat) : (c.count o n).tiles = c.tiles := by unfold Core.count; split <;> rfl
@[simp] theorem itouch_tiles (c : Core) (g : BitVec 16) (va : VA) : (c.itouch g va).tiles = c.tiles := by unfold Core.itouch; split <;> rfl
@[simp] theorem effect_tiles (c : Core) (e : Eff) : (c.effect e).tiles = c.tiles := by simp [Core.effect]
@[simp] theorem count_beds (c : Core) (o n : Nat) : (c.count o n).beds = c.beds := by unfold Core.count; split <;> rfl
@[simp] theorem itouch_beds (c : Core) (g : BitVec 16) (va : VA) : (c.itouch g va).beds = c.beds := by unfold Core.itouch; split <;> rfl
@[simp] theorem effect_beds (c : Core) (e : Eff) : (c.effect e).beds = c.beds := by simp [Core.effect]
@[simp] theorem count_rings (c : Core) (o n : Nat) : (c.count o n).rings = c.rings := by unfold Core.count; split <;> rfl
@[simp] theorem itouch_rings (c : Core) (g : BitVec 16) (va : VA) : (c.itouch g va).rings = c.rings := by unfold Core.itouch; split <;> rfl
@[simp] theorem effect_rings (c : Core) (e : Eff) : (c.effect e).rings = c.rings := by simp [Core.effect]
@[simp] theorem count_binds (c : Core) (o n : Nat) : (c.count o n).binds = c.binds := by unfold Core.count; split <;> rfl
@[simp] theorem itouch_binds (c : Core) (g : BitVec 16) (va : VA) : (c.itouch g va).binds = c.binds := by unfold Core.itouch; split <;> rfl
@[simp] theorem effect_binds (c : Core) (e : Eff) : (c.effect e).binds = c.binds := by simp [Core.effect]
@[simp] theorem count_bindFenced (c : Core) (o n : Nat) : (c.count o n).bindFenced = c.bindFenced := by unfold Core.count; split <;> rfl
@[simp] theorem itouch_bindFenced (c : Core) (g : BitVec 16) (va : VA) : (c.itouch g va).bindFenced = c.bindFenced := by unfold Core.itouch; split <;> rfl
@[simp] theorem effect_bindFenced (c : Core) (e : Eff) : (c.effect e).bindFenced = c.bindFenced := by simp [Core.effect]
@[simp] theorem count_slots (c : Core) (o n : Nat) : (c.count o n).slots = c.slots := by unfold Core.count; split <;> rfl
@[simp] theorem itouch_slots (c : Core) (g : BitVec 16) (va : VA) : (c.itouch g va).slots = c.slots := by unfold Core.itouch; split <;> rfl
@[simp] theorem effect_slots (c : Core) (e : Eff) : (c.effect e).slots = c.slots := by simp [Core.effect]
@[simp] theorem count_tailrace (c : Core) (o n : Nat) : (c.count o n).tailrace = c.tailrace := by unfold Core.count; split <;> rfl
@[simp] theorem itouch_tailrace (c : Core) (g : BitVec 16) (va : VA) : (c.itouch g va).tailrace = c.tailrace := by unfold Core.itouch; split <;> rfl
@[simp] theorem effect_tailrace (c : Core) (e : Eff) : (c.effect e).tailrace = c.tailrace := by simp [Core.effect]
@[simp] theorem count_lag (c : Core) (o n : Nat) : (c.count o n).lag = c.lag := by unfold Core.count; split <;> rfl
@[simp] theorem itouch_lag (c : Core) (g : BitVec 16) (va : VA) : (c.itouch g va).lag = c.lag := by unfold Core.itouch; split <;> rfl
@[simp] theorem effect_lag (c : Core) (e : Eff) : (c.effect e).lag = c.lag := by simp [Core.effect]
@[simp] theorem count_pseen (c : Core) (o n : Nat) : (c.count o n).pseen = c.pseen := by unfold Core.count; split <;> rfl
@[simp] theorem itouch_pseen (c : Core) (g : BitVec 16) (va : VA) : (c.itouch g va).pseen = c.pseen := by unfold Core.itouch; split <;> rfl
@[simp] theorem count_nfseen (c : Core) (o n : Nat) : (c.count o n).nfseen = c.nfseen := by unfold Core.count; split <;> rfl
@[simp] theorem itouch_nfseen (c : Core) (g : BitVec 16) (va : VA) : (c.itouch g va).nfseen = c.nfseen := by unfold Core.itouch; split <;> rfl
@[simp] theorem count_ctr (c : Core) (o n : Nat) : (c.count o n).ctr = c.ctr := by unfold Core.count; split <;> rfl
@[simp] theorem itouch_ctr (c : Core) (g : BitVec 16) (va : VA) : (c.itouch g va).ctr = c.ctr := by unfold Core.itouch; split <;> rfl
@[simp] theorem effect_ctr (c : Core) (e : Eff) : (c.effect e).ctr = c.ctr := by simp [Core.effect]
@[simp] theorem count_cmps (c : Core) (o n : Nat) : (c.count o n).cmps = c.cmps := by unfold Core.count; split <;> rfl
@[simp] theorem itouch_cmps (c : Core) (g : BitVec 16) (va : VA) : (c.itouch g va).cmps = c.cmps := by unfold Core.itouch; split <;> rfl
@[simp] theorem effect_cmps (c : Core) (e : Eff) : (c.effect e).cmps = c.cmps := by simp [Core.effect]
@[simp] theorem count_ctrl (c : Core) (o n : Nat) : (c.count o n).ctrl = c.ctrl := by unfold Core.count; split <;> rfl
@[simp] theorem itouch_ctrl (c : Core) (g : BitVec 16) (va : VA) : (c.itouch g va).ctrl = c.ctrl := by unfold Core.itouch; split <;> rfl
@[simp] theorem effect_ctrl (c : Core) (e : Eff) : (c.effect e).ctrl = c.ctrl := by simp [Core.effect]
@[simp] theorem count_lastGen (c : Core) (o n : Nat) : (c.count o n).lastGen = c.lastGen := by unfold Core.count; split <;> rfl
@[simp] theorem itouch_lastGen (c : Core) (g : BitVec 16) (va : VA) : (c.itouch g va).lastGen = c.lastGen := by unfold Core.itouch; split <;> rfl
@[simp] theorem effect_lastGen (c : Core) (e : Eff) : (c.effect e).lastGen = c.lastGen := by simp [Core.effect]
@[simp] theorem count_icache (c : Core) (o n : Nat) : (c.count o n).icache = c.icache := by unfold Core.count; split <;> rfl
@[simp] theorem effect_icache (c : Core) (e : Eff) : (c.effect e).icache = c.icache := by simp [Core.effect]
@[simp] theorem count_fenced (c : Core) (o n : Nat) : (c.count o n).fenced = c.fenced := by unfold Core.count; split <;> rfl
@[simp] theorem itouch_fenced (c : Core) (g : BitVec 16) (va : VA) : (c.itouch g va).fenced = c.fenced := by unfold Core.itouch; split <;> rfl
@[simp] theorem effect_fenced (c : Core) (e : Eff) : (c.effect e).fenced = c.fenced := by simp [Core.effect]
@[simp] theorem count_tcs (c : Core) (o n : Nat) : (c.count o n).tcs = c.tcs := by unfold Core.count; split <;> rfl
@[simp] theorem itouch_tcs (c : Core) (g : BitVec 16) (va : VA) : (c.itouch g va).tcs = c.tcs := by unfold Core.itouch; split <;> rfl
@[simp] theorem effect_tcs (c : Core) (e : Eff) : (c.effect e).tcs = c.tcs := by simp [Core.effect]
@[simp] theorem count_held (c : Core) (o n : Nat) : (c.count o n).held = c.held := by unfold Core.count; split <;> rfl
@[simp] theorem itouch_held (c : Core) (g : BitVec 16) (va : VA) : (c.itouch g va).held = c.held := by unfold Core.itouch; split <;> rfl
@[simp] theorem effect_held (c : Core) (e : Eff) : (c.effect e).held = c.held := by simp [Core.effect]
@[simp] theorem count_ahead (c : Core) (o n : Nat) : (c.count o n).ahead = c.ahead := by unfold Core.count; split <;> rfl
@[simp] theorem itouch_ahead (c : Core) (g : BitVec 16) (va : VA) : (c.itouch g va).ahead = c.ahead := by unfold Core.itouch; split <;> rfl
@[simp] theorem effect_ahead (c : Core) (e : Eff) : (c.effect e).ahead = c.ahead := by simp [Core.effect]
@[simp] theorem count_raStop (c : Core) (o n : Nat) : (c.count o n).raStop = c.raStop := by unfold Core.count; split <;> rfl
@[simp] theorem itouch_raStop (c : Core) (g : BitVec 16) (va : VA) : (c.itouch g va).raStop = c.raStop := by unfold Core.itouch; split <;> rfl
@[simp] theorem effect_raStop (c : Core) (e : Eff) : (c.effect e).raStop = c.raStop := by simp [Core.effect]
@[simp] theorem count_clock (c : Core) (o n : Nat) : (c.count o n).clock = c.clock := by unfold Core.count; split <;> rfl
@[simp] theorem itouch_clock (c : Core) (g : BitVec 16) (va : VA) : (c.itouch g va).clock = c.clock := by unfold Core.itouch; split <;> rfl
@[simp] theorem effect_clock (c : Core) (e : Eff) : (c.effect e).clock = c.clock := by simp [Core.effect]
@[simp] theorem count_runs (c : Core) (o n : Nat) : (c.count o n).runs = c.runs := by unfold Core.count; split <;> rfl
@[simp] theorem itouch_runs (c : Core) (g : BitVec 16) (va : VA) : (c.itouch g va).runs = c.runs := by unfold Core.itouch; split <;> rfl
@[simp] theorem effect_runs (c : Core) (e : Eff) : (c.effect e).runs = c.runs := by simp [Core.effect]
@[simp] theorem count_backlog (c : Core) (o n : Nat) : (c.count o n).backlog = c.backlog := by unfold Core.count; split <;> rfl
@[simp] theorem itouch_backlog (c : Core) (g : BitVec 16) (va : VA) : (c.itouch g va).backlog = c.backlog := by unfold Core.itouch; split <;> rfl
@[simp] theorem effect_backlog (c : Core) (e : Eff) : (c.effect e).backlog = c.backlog := by simp [Core.effect]
@[simp] theorem itouch_counts (c : Core) (g : BitVec 16) (va : VA) : (c.itouch g va).counts = c.counts := by unfold Core.itouch; split <;> rfl
@[simp] theorem count_slot (c : Core) (o n : Nat) (k : Nat) : (c.count o n).slot k = c.slot k := by simp [Core.slot]
@[simp] theorem itouch_slot (c : Core) (g : BitVec 16) (va : VA) (k : Nat) : (c.itouch g va).slot k = c.slot k := by simp [Core.slot]
@[simp] theorem effect_slot (c : Core) (e : Eff) (k : Nat) : (c.effect e).slot k = c.slot k := by simp [Core.slot]
@[simp] theorem count_ring (c : Core) (o n : Nat) (k : Nat) : (c.count o n).ring k = c.ring k := by simp [Core.ring]
@[simp] theorem itouch_ring (c : Core) (g : BitVec 16) (va : VA) (k : Nat) : (c.itouch g va).ring k = c.ring k := by simp [Core.ring]
@[simp] theorem effect_ring (c : Core) (e : Eff) (k : Nat) : (c.effect e).ring k = c.ring k := by simp [Core.ring]
@[simp] theorem count_cnt (c : Core) (o n : Nat) (k : Nat) : (c.count o n).cnt k = c.cnt k := by simp [Core.cnt]
@[simp] theorem itouch_cnt (c : Core) (g : BitVec 16) (va : VA) (k : Nat) : (c.itouch g va).cnt k = c.cnt k := by simp [Core.cnt]
@[simp] theorem effect_cnt (c : Core) (e : Eff) (k : Nat) : (c.effect e).cnt k = c.cnt k := by simp [Core.cnt]
@[simp] theorem updSlot_slot_same (c : Core) (k : Nat) (f : Slot → Slot) : (c.updSlot k f).slot k = f (c.slot k) := SMap.get_set_same _ _ _ _
theorem updSlot_slot_other (c : Core) (f : Slot → Slot) {k j : Nat} (h : j ≠ k) : (c.updSlot k f).slot j = c.slot j := SMap.get_set_other _ _ _ h
@[simp] theorem updRing_ring_same (c : Core) (k : Nat) (f : Ring → Ring) : (c.updRing k f).ring k = f (c.ring k) := SMap.get_set_same _ _ _ _
theorem updRing_ring_other (c : Core) (f : Ring → Ring) {k j : Nat} (h : j ≠ k) : (c.updRing k f).ring j = c.ring j := SMap.get_set_other _ _ _ h
@[simp] theorem updSlot_updSlot (c : Core) (k : Nat) (f g : Slot → Slot) : (c.updSlot k f).updSlot k g = c.updSlot k fun x => g (f x) := by
  simp [updSlot, setSlot, slot]
@[simp] theorem setSlot_slot_same (c : Core) (k : Nat) (v : Slot) : (c.setSlot k v).slot k = v := SMap.get_set_same _ _ _ _
theorem setSlot_slot_other (c : Core) (v : Slot) {k j : Nat} (h : j ≠ k) : (c.setSlot k v).slot j = c.slot j := SMap.get_set_other _ _ _ h
@[simp] theorem setCnt_cnt_same (c : Core) (k : Nat) (v : W32) : (c.setCnt k v).cnt k = v := SMap.get_set_same _ _ _ _
theorem setCnt_cnt_other (c : Core) (v : W32) {k j : Nat} (h : j ≠ k) : (c.setCnt k v).cnt j = c.cnt j := SMap.get_set_other _ _ _ h

end Core

end Sys2Proof.Machine
end

