-- ==== Sys2Proof/Laws/Issue.lean ====
section
/-! SUPPORT. Laws of issue (R88, R101 to R112, R120): what a core command that is ready comes to, what its issue changes of its slot, and how a
command ends. -/

namespace Sys2Proof.Machine

open Sys2Proof

/-! ### The instruction cache -/

/-- Making a line the most recently used changes no word that the cache answers with. -/
theorem Core.itouch_iword (c : Core) (g : BitVec 16) (va : VA) (g' : BitVec 16) (va' : VA) :
    (c.itouch g va).iword g' va' = c.iword g' va' := by
  unfold Core.itouch
  cases h : c.iline g va with
  | none => rfl
  | some l =>
    have key : ({ c with icache := SMap.upd [] c.icache (va.toNat / 64 % 64) fun ls => l :: ls.filter fun y => decide (y ≠ l) } : Core).iline g' va' =
        c.iline g' va' := by
      unfold Core.iline at h ⊢
      simp only [SMap.get_upd]
      by_cases hk : va'.toNat / 64 % 64 = va.toNat / 64 % 64
      · rw [if_pos hk, hk]
        set ls := SMap.get [] c.icache (va.toNat / 64 % 64) with hls
        have hp := List.find?_some h
        simp only [decide_eq_true_eq] at hp
        by_cases hq : l.gen = g' ∧ l.va.toNat = va'.toNat / 64 * 64
        · rw [List.find?_cons_of_pos (by simpa using hq)]
          have : (fun (x : ILine) => decide (x.gen = g' ∧ x.va.toNat = va'.toNat / 64 * 64)) = fun x => decide (x.gen = g ∧ x.va.toNat = va.toNat / 64 * 64) := by
            funext x; rw [← hq.1, ← hq.2, hp.1, hp.2]
          rw [this, h]
        · rw [List.find?_cons_of_neg (by simpa using hq), List.find?_filter]
          congr 1; funext x
          by_cases hx : x = l
          · subst hx; simp [hq]
          · simp [hx]
      · rw [if_neg hk]
    simp only [Core.iword, key]

@[simp] theorem State.slotAt_updCore (s : State) (site : Site) (f : Core → Core) :
    (s.updCore site.core.toNat f).slotAt site = (f (s.core site.core.toNat)).slot site.slot.toNat := by
  simp [State.slotAt]

@[simp] theorem Core.slot_updSlot (c : Core) (k j : Nat) (f : Slot → Slot) : (c.updSlot k f).slot j = if j = k then f (c.slot k) else c.slot j :=
  SMap.get_set _ _ _ _ _

theorem Core.updSlot_issued (c : Core) (k : Nat) (f : Slot → Slot) : (c.updSlot k f).issued = c.issued := rfl

theorem Core.itouch_issued (c : Core) (g : BitVec 16) (va : VA) : (c.itouch g va).issued = c.issued := by
  unfold Core.itouch; split <;> rfl

theorem Core.iword_updSlot (c : Core) (k : Nat) (f : Slot → Slot) (g : BitVec 16) (va : VA) : (c.updSlot k f).iword g va = c.iword g va := rfl

/-! ### The command word (R119) -/

/-- The fields of a command word are where its 128 bits have them. -/
theorem CmdWord.decode_encode (op : Byte) (w : CmdWord) : CmdWord.decode (w.encode op) = (op, w) := by
  obtain ⟨ps, pi, qa, qb, qo, acc, tile, rtz, last, em, pr⟩ := w
  simp only [CmdWord.decode, CmdWord.encode, Prod.mk.injEq, CmdWord.mk.injEq]

  refine ⟨?_, ?_, ?_, ?_, ?_, ?_, ?_, ?_, ?_, ?_, ?_, ?_⟩
  case refine_3 => simp only [BitVec.getLsbD_append]; simp
  case refine_7 => simp only [BitVec.getLsbD_append]; simp
  case refine_8 => simp only [BitVec.getLsbD_append]; simp
  case refine_9 => simp only [BitVec.getLsbD_append]; simp
  case refine_10 => simp only [BitVec.getLsbD_append]; simp
  all_goals
    apply BitVec.eq_of_getLsbD_eq
    intro i hi
    simp only [BitVec.getLsbD_extractLsb', BitVec.getLsbD_append, decide_eq_true hi, Bool.true_and]
    repeat first | rw [if_pos (by omega)] | rw [if_neg (by omega)]
    congr 1; omega

/-- The next word of a slot is the word that its gate has found. -/
theorem Core.nextWord_of_iword {c : Core} {n : Nat} {op : Byte} {w : CmdWord}
    (h : c.iword (c.slot n).gen (c.slot n).ptr = some (w.encode op)) : c.nextWord n = some (op, w) := by
  simp only [Core.nextWord, h, Option.map_some, CmdWord.decode_encode]

/-! ### A core at rest (R88, R95) -/

/-- A core with nothing left to push stays as it is. -/
theorem State.drainBacklog_nil (s : State) (core : CoreId) (h : (s.core core.toNat).backlog = []) : s.drainBacklog core = s := by
  simp [State.drainBacklog, h]

/-- A core with nothing in execution stays as it is. -/
theorem State.goOnAll_nil (s : State) (core : CoreId) (h : (s.core core.toNat).backlog = []) (h' : (s.core core.toNat).runs = []) :
    s.goOnAll core = s := by
  simp [State.goOnAll, State.drainBacklog_nil s core h, h']

/-- Slots whose next words are commands of the table are not rejected. -/
theorem State.rejectReserved_known (s : State) (core : CoreId)
    (h : ∀ n, n < 4 → ∀ y, (s.core core.toNat).nextWord n = some y → (cmdOf y.1).isSome = true) : s.rejectReserved core = s := by
  unfold State.rejectReserved
  suffices ∀ l : List Nat, (∀ n ∈ l, n < 4) → l.foldl _ s = s from this _ fun n hn => List.mem_range.mp hn
  intro l
  induction l with
  | nil => intro _; rfl
  | cons n l ih =>
    intro hl
    rw [List.foldl_cons]
    cases e : (s.core core.toNat).nextWord n with
    | none => simp only []; exact ih fun m hm => hl m (List.mem_cons_of_mem _ hm)
    | some y =>
      have := h n (hl n List.mem_cons_self) y e
      have hn : (cmdOf y.1).isNone = false := by cases hc : cmdOf y.1 <;> simp_all
      simp only [hn, Bool.false_and, Bool.false_eq_true, if_false]
      exact ih fun m hm => hl m (List.mem_cons_of_mem _ hm)

/-- Before a command is presented to a core at rest, nothing happens. -/
theorem State.prelude_quiet {s : State} {core : CoreId} (h : Quiet s core) : s.prelude core = s := by
  rw [State.prelude, State.goOnAll_nil s core h.backlog h.runs, State.rejectReserved_known s core h.known]

/-- A core without a RACC in execution sends no packets. -/
theorem State.flushRacc_none (s : State) (core : CoreId) (h : ∀ r ∈ (s.core core.toNat).runs, r.op ≠ 0x24) : s.flushRacc core = s := by
  have : (s.core core.toNat).runs.any (fun r => decide (r.op = 0x24)) = false := by simpa using h
  rw [State.flushRacc, this]; rfl

/-! ### Issue (R103, R104) -/

/-- A slot whose predicate lets it issue has no command in execution. -/
theorem State.gate_go {s : State} {site : Site} {op : Byte} {w : CmdWord} (h : s.gate site op w = .go) :
    (s.slotAt site).st = 1 ∧ (s.core site.core.toNat).fenced = false ∧ (s.core site.core.toNat).busy site.slot = false ∧
      (s.core site.core.toNat).iword (s.slotAt site).gen (s.slotAt site).ptr = some (w.encode op) := by
  unfold State.gate at h
  dsimp only at h
  split at h
  · cases h
  · rename_i h1
    split at h
    · cases h
    · split at h
      · cases h
      · rename_i h3
        rw [not_or, not_or] at h1; rw [not_not] at h1 h3
        exact ⟨h1.1, by simpa using h1.2.1, by simpa using h1.2.2, h3⟩

theorem State.gate_group {s : State} {site : Site} {op : Byte} {w : CmdWord} (h : s.gate site op w = .go) :
    (s.slotAt site).group = none := by
  have := (State.gate_go h).2.2.1
  simp only [Core.busy, Bool.or_eq_false_iff] at this
  simpa [State.slotAt] using this.1

/-- A slot that is picked with this command has a verdict other than to wait. -/
theorem Ready.verdict {s : State} {site : Site} {op : Byte} {w : CmdWord} (h : Ready s site op w) :
    s.verdict site op w = s.verdictOf (s.ctx site op w) ∧ (s.verdictOf (s.ctx site op w)).waits = false := by
  have hv : s.verdict site op w = s.verdictOf (s.ctx site op w) := by simp only [State.verdict, h.gate]
  refine ⟨hv, ?_⟩
  have hp := h.picked
  simp only [State.picked, Bool.and_eq_true] at hp
  have hr := hp.1
  have hg := State.gate_group h.gate
  simp only [State.slotAt] at hg
  have hw := Core.nextWord_of_iword (State.gate_go h.gate).2.2.2
  simp only [State.readyAt, hg, Option.isSome_none, Bool.false_eq_true, if_false, hw, Bool.not_eq_true'] at hr
  rw [← hv]; exact hr

/-- A ready command that passes its check is presented, and starts. -/
theorem Ready.verdict_go {s : State} {site : Site} {op : Byte} {w : CmdWord} (h : Ready s site op w) {c : Cmd}
    (hc : cmdOf op = some c) (hk : c.check (s.ctx site op w) s = none) : s.verdict site op w = .go c (s.ctx site op w) := by
  obtain ⟨h1, h2⟩ := h.verdict
  rw [h1]
  unfold State.verdictOf at h2 ⊢
  have : (s.ctx site op w).op = op := rfl
  simp only [this, hc, hk] at h2 ⊢
  split at h2
  · simp [Verdict.waits] at h2
  · rename_i hu
    rw [if_neg hu]
    split at h2
    · rename_i e; simp only
    · simp [Verdict.waits] at h2

/-- A ready command whose check fails is refused with that status. -/
theorem Ready.verdict_bad {s : State} {site : Site} {op : Byte} {w : CmdWord} (h : Ready s site op w) {c : Cmd} {st : Status}
    (hc : cmdOf op = some c) (hk : c.check (s.ctx site op w) s = some st) : s.verdict site op w = .bad st := by
  obtain ⟨h1, h2⟩ := h.verdict
  rw [h1]
  unfold State.verdictOf at h2 ⊢
  have : (s.ctx site op w).op = op := rfl
  simp only [this, hc, hk] at h2 ⊢
  split at h2
  · simp [Verdict.waits] at h2
  · rename_i hu
    rw [if_neg hu]
    split at h2
    · rename_i e; simp only
    · simp [Verdict.waits] at h2

/-- Presenting a ready command carries its verdict out. -/
theorem issue_ready {s : State} {site : Site} {op : Byte} {w : CmdWord} (h : Ready s site op w) :
    issue op site w s = .next ((s.carry (s.ctx site op w) (s.verdict site op w)).flushRacc site.core) := by
  have hg := State.gate_group h.gate
  simp only [State.slotAt] at hg
  simp only [issue, State.prelude_quiet h.quiet, State.present, h.picked, hg, Bool.not_true, Bool.false_eq_true, if_false]

/-- A ready command that passes its check goes as far as it can. -/
theorem issue_start {s : State} {site : Site} {op : Byte} {w : CmdWord} (h : Ready s site op w) {c : Cmd}
    (hc : cmdOf op = some c) (hk : c.check (s.ctx site op w) s = none) :
    issue op site w s = .next ((s.start c (s.ctx site op w)).flushRacc site.core) := by
  rw [issue_ready h, h.verdict_go hc hk]; rfl

/-- A ready command whose check fails is not executed. -/
theorem issue_bad {s : State} {site : Site} {op : Byte} {w : CmdWord} (h : Ready s site op w) {c : Cmd} {st : Status}
    (hc : cmdOf op = some c) (hk : c.check (s.ctx site op w) s = some st) :
    issue op site w s = .next (((s.mark (s.ctx site op w) 0).failSlot site op { status := st }).flushRacc site.core) := by
  rw [issue_ready h, h.verdict_bad hc hk]; rfl

/-! ### The slot goes on -/

theorem State.mark_other (s : State) (x : Ctx) (n : Nat) {j : Nat} (h : j ≠ x.c) : (s.mark x n).core j = s.core j :=
  State.updCore_core_other _ _ h

theorem State.mark_runs (s : State) (x : Ctx) (n : Nat) : ((s.mark x n).core x.c).runs = (s.core x.c).runs := by
  simp [State.mark, Core.updSlot, Core.setSlot]

theorem State.mark_backlog (s : State) (x : Ctx) (n : Nat) : ((s.mark x n).core x.c).backlog = (s.core x.c).backlog := by
  simp [State.mark, Core.updSlot, Core.setSlot]

theorem State.mark_rings (s : State) (x : Ctx) (n : Nat) : ((s.mark x n).core x.c).rings = (s.core x.c).rings := by
  simp [State.mark, Core.updSlot, Core.setSlot]

/-- An issue changes its slot, the order of the cached lines and the picker's count. -/
theorem State.mark_moved (s : State) (x : Ctx) (n : Nat) :
    Moved s (s.mark x n) x.site (if n = 0 then s.slotAt x.site else (s.slotAt x.site).behind n) id id := by
  refine ⟨rfl, fun j hj => s.mark_other x n hj, ?_, fun k hk => ?_, fun g va => ?_, ?_, ?_⟩
  · simp only [State.mark, State.slotAt, Ctx.c, State.updCore_core_same]
    simp [Core.slot, Core.updSlot, Core.setSlot]
  · simp only [State.mark, Ctx.c, State.updCore_core_same]
    simp [Core.slot, Core.updSlot, Core.setSlot, SMap.get_set, hk]
  · simp only [State.mark, Ctx.c, State.updCore_core_same]
    exact Core.itouch_iword _ _ _ _ _
  · simp [State.mark, Ctx.c]
  · simp only [State.mark, Ctx.c, State.updCore_core_same, id]
    exact Core.itouch_issued _ _ _

/-- A change behind an issue that is within what is blanked, and leaves slots, cache and the picker's count. -/
theorem Moved.before {s u t : State} {site : Site} {new : Slot} {dB : State → State} {cB : Core → Core} (h : Moved s u site new id id)
    (hd : dB { t with cores := [] } = dB { u with cores := [] }) (hc : ∀ j, j ≠ site.core.toNat → t.core j = u.core j)
    (hs : (t.core site.core.toNat).slots = (u.core site.core.toNat).slots)
    (hi : (t.core site.core.toNat).icache = (u.core site.core.toNat).icache)
    (hk : (t.core site.core.toNat).clock = (u.core site.core.toNat).clock)
    (hb : cB (t.core site.core.toNat).issued = cB (u.core site.core.toNat).issued) : Moved s t site new dB cB := by
  refine ⟨?_, fun j hj => (hc j hj).trans (h.cores j hj), ?_, fun k hk' => ?_, fun g va => ?_, hk.trans h.clock, ?_⟩
  · have := h.die; simp only [id] at this; rw [hd, this]
  · rw [← h.slot]; simp only [State.slotAt, Core.slot, hs]
  · rw [← h.slots k hk']; simp only [Core.slot, hs]
  · rw [← h.words g va]; simp only [Core.iword, Core.iline, hi]
  · have := h.core; simp only [id] at this; rw [hb, this]

/-! ### A command's end (R95, R102) -/

/-- A boundary with neither STOP nor generation change does nothing. -/
theorem State.boundary_none (s : State) (site : Site) (h1 : (s.slotAt site).stop = false) (h2 : (s.slotAt site).swap = none) :
    s.boundary site = s := by
  unfold State.slotAt at h1 h2
  simp only [State.boundary, h1, h2]; simp

/-- A core in which nothing is in execution and nothing of the command is staged is left as it is when the command completes. -/
theorem Core.dropRun_none (c : Core) (id : Nat) (h : c.runs = []) (h' : ∀ e ∈ c.rings, e.2.own id = []) : c.dropRun id = c := by
  have : (c.rings.all fun e => (e.2.own id).isEmpty) = true := by
    rw [List.all_eq_true]; intro e he; rw [h' e he]; rfl
  simp only [Core.dropRun, this, if_true, h, List.filter_nil]
  cases c; simp_all

/-- A slot with neither a command nor a group in execution, that neither STOP nor generation change waits for, goes on as it is. -/
theorem State.released_none (s : State) (site : Site) (h : (s.core site.core.toNat).runs = []) (hg : (s.slotAt site).group = none)
    (h1 : (s.slotAt site).stop = false) (h2 : (s.slotAt site).swap = none) : s.released site = s := by
  have hg' : ((s.core site.core.toNat).slot site.slot.toNat).group = none := hg
  simp only [State.released, h, List.any_nil, Bool.false_eq_true, if_false, hg']
  exact s.boundary_none site h1 h2

/-- A command whose work is done and whose output has gone out completes. -/
theorem State.ended_complete (s : State) (x : Ctx) (f : Option FaultInfo) (h : ∀ b ∈ (s.core x.c).backlog, b.id ≠ x.id) :
    s.ended x f = s.complete x f := by
  have : (s.core x.c).backlog.any (fun b => decide (b.id = x.id)) = false := by simpa using h
  rw [State.ended, this]; rfl

end Sys2Proof.Machine
end

