-- ==== Sys2Proof/Laws/Memory.lean ====
section
/-! SUPPORT. Laws of memory: a read after a write, what a write leaves alone, and that every operation on memory keeps its canonical
form. -/

namespace Sys2Proof.Machine

open Sys2Proof

namespace Mem

theorem wf_iff (m : Mem) : m.wf = true ↔ SMap.wf 0 m.bytes = true ∧ SMap.wf false m.clean = true ∧ SMap.wf 0 m.wrong = true := by
  simp only [wf, Bool.and_eq_true, and_assoc]

/-! ### Bytes -/

theorem wf_write {m : Mem} (a : Nat) (b : Byte) (h : m.wf = true) : (m.write a b).wf = true :=
  (wf_iff _).2 ⟨SMap.wf_set 0 m.bytes a b ((wf_iff m).1 h).1, ((wf_iff m).1 h).2⟩

@[simp] theorem read_write_same (m : Mem) (a : Nat) (b : Byte) : (m.write a b).read a = b := SMap.get_set_same 0 m.bytes a b

theorem read_write_other (m : Mem) {a c : Nat} (b : Byte) (h : c ≠ a) : (m.write a b).read c = m.read c := SMap.get_set_other 0 m.bytes b h

@[simp] theorem poisoned_write (m : Mem) (a : Nat) (b : Byte) (c : Nat) : (m.write a b).poisoned c = m.poisoned c := rfl

@[simp] theorem wrong_writeBytes : ∀ (l : List Byte) (m : Mem) (a : Nat), (m.writeBytes a l).wrong = m.wrong
  | [], _, _ => rfl
  | _ :: t, m, a => by rw [writeBytes, wrong_writeBytes t]; rfl

@[simp] theorem clean_writeBytes : ∀ (l : List Byte) (m : Mem) (a : Nat), (m.writeBytes a l).clean = m.clean
  | [], _, _ => rfl
  | _ :: t, m, a => by rw [writeBytes, clean_writeBytes t]; rfl

theorem wf_writeBytes : ∀ (l : List Byte) {m : Mem} (a : Nat), m.wf = true → (m.writeBytes a l).wf = true
  | [], _, _, h => h
  | b :: t, _, a, h => wf_writeBytes t (a + 1) (wf_write a b h)

/-- Bytes outside the range written read as before. -/
theorem read_writeBytes_other : ∀ (l : List Byte) (m : Mem) (a c : Nat), c < a ∨ a + l.length ≤ c → (m.writeBytes a l).read c = m.read c
  | [], _, _, _, _ => rfl
  | b :: t, m, a, c, h => by
    simp only [List.length_cons] at h
    rw [writeBytes, read_writeBytes_other t _ _ _ (by omega), read_write_other _ _ (by omega)]

/-- Byte `i` of the range written reads as what was written. -/
theorem read_writeBytes : ∀ (l : List Byte) (m : Mem) (a i : Nat), i < l.length → (m.writeBytes a l).read (a + i) = nth 0 l i
  | [], _, _, _, h => absurd h (Nat.not_lt_zero _)
  | b :: t, m, a, 0, _ => by
    rw [writeBytes, read_writeBytes_other t _ _ _ (by omega), Nat.add_zero, read_write_same]; rfl
  | b :: t, m, a, i + 1, h => by
    simp only [List.length_cons] at h
    rw [writeBytes, show a + (i + 1) = a + 1 + i by omega, read_writeBytes t _ _ i (by omega)]; rfl

/-! ### Marks -/

theorem wf_setPoison {m : Mem} (a : Nat) (p : Bool) (h : m.wf = true) : (m.setPoison a p).wf = true :=
  (wf_iff _).2 ⟨((wf_iff m).1 h).1, SMap.wf_set false m.clean _ _ ((wf_iff m).1 h).2.1, ((wf_iff m).1 h).2.2⟩

@[simp] theorem read_setPoison (m : Mem) (a : Nat) (p : Bool) (c : Nat) : (m.setPoison a p).read c = m.read c := rfl

@[simp] theorem poisoned_setPoison_same (m : Mem) (a : Nat) (p : Bool) : (m.setPoison a p).poisoned a = p := by
  rw [poisoned, setPoison, SMap.get_set_same, Bool.not_not]

theorem poisoned_setPoison_other (m : Mem) {a c : Nat} (p : Bool) (h : c / 64 ≠ a / 64) : (m.setPoison a p).poisoned c = m.poisoned c := by
  rw [poisoned, setPoison, SMap.get_set_other _ _ _ h]; rfl

theorem wf_setWrong {m : Mem} (a : Nat) (v : BitVec 3) (h : m.wf = true) : (m.setWrong a v).wf = true :=
  (wf_iff _).2 ⟨((wf_iff m).1 h).1, ((wf_iff m).1 h).2.1, SMap.wf_set 0 m.wrong _ _ ((wf_iff m).1 h).2.2⟩

@[simp] theorem read_setWrong (m : Mem) (a : Nat) (v : BitVec 3) (c : Nat) : (m.setWrong a v).read c = m.read c := rfl
@[simp] theorem poisoned_setWrong (m : Mem) (a : Nat) (v : BitVec 3) (c : Nat) : (m.setWrong a v).poisoned c = m.poisoned c := rfl
@[simp] theorem wrongAt_setPoison (m : Mem) (a : Nat) (p : Bool) (c : Nat) : (m.setPoison a p).wrongAt c = m.wrongAt c := rfl
@[simp] theorem wrongAt_setWrong_same (m : Mem) (a : Nat) (v : BitVec 3) : (m.setWrong a v).wrongAt a = v := SMap.get_set_same 0 m.wrong _ v

theorem wrongAt_setWrong_other (m : Mem) {a c : Nat} (v : BitVec 3) (h : c / 64 ≠ a / 64) : (m.setWrong a v).wrongAt c = m.wrongAt c :=
  SMap.get_set_other 0 m.wrong v h

/-- Sectors may become poisoned without a request, whichever are picked. -/
theorem wf_dropMarks {m : Mem} (p : Nat → Bool) (h : m.wf = true) : (m.dropMarks p).wf = true :=
  (wf_iff _).2 ⟨((wf_iff m).1 h).1, SMap.wf_dropWhere false p m.clean ((wf_iff m).1 h).2.1, SMap.wf_dropWhere 0 p m.wrong ((wf_iff m).1 h).2.2⟩

theorem wf_poisonRange {m : Mem} (a n : Nat) (h : m.wf = true) : (m.poisonRange a n).wf = true := wf_dropMarks _ h

/-- Marks set one after another, as a write-back does. -/
theorem wf_foldl_setPoison (p : Bool) : ∀ (l : List Nat) {m : Mem}, m.wf = true → (l.foldl (fun m a => m.setPoison a p) m).wf = true
  | [], _, h => h
  | a :: t, _, h => wf_foldl_setPoison p t (wf_setPoison a p h)

theorem read_foldl_setPoison (p : Bool) (c : Nat) : ∀ (l : List Nat) (m : Mem), (l.foldl (fun m a => m.setPoison a p) m).read c = m.read c
  | [], _ => rfl
  | _ :: t, _ => read_foldl_setPoison p c t _

/-! ### Sectors (R53, R219) -/

/-- The words of a sector written one after another. -/
def wordsIn (base : Nat) (data : List QW) (m : Mem) (l : List Nat) : Mem :=
  l.foldl (fun m i => m.writeBytes (base + 4 * i) ((nth {} data i).bytes.map (·.b))) m

theorem writeSector_eq (m : Mem) (a : Nat) (mask : BitVec 16) (data : List QW) :
    m.writeSector a mask data =
      ((wordsIn (a / 64 * 64) data m ((List.range 16).filter fun i => mask.getLsbD i)).setPoison a
        ((((List.range 16).filter fun i => mask.getLsbD i).any fun i => (nth {} data i).p) || (m.poisoned a && !decide (mask = 0xFFFF)))).setWrong a 0 := rfl

theorem wf_wordsIn (base : Nat) (data : List QW) : ∀ (l : List Nat) {m : Mem}, m.wf = true → (wordsIn base data m l).wf = true
  | [], _, h => h
  | _ :: t, _, h => wf_wordsIn base data t (wf_writeBytes _ _ h)

@[simp] theorem clean_wordsIn (base : Nat) (data : List QW) : ∀ (l : List Nat) (m : Mem), (wordsIn base data m l).clean = m.clean
  | [], _ => rfl
  | i :: t, m => by
    show (wordsIn base data (m.writeBytes _ _) t).clean = m.clean
    rw [clean_wordsIn base data t, clean_writeBytes]

theorem wf_writeSector {m : Mem} (a : Nat) (mask : BitVec 16) (data : List QW) (h : m.wf = true) : (m.writeSector a mask data).wf = true := by
  rw [writeSector_eq]; exact wf_setWrong _ _ (wf_setPoison _ _ (wf_wordsIn _ _ _ h))

/-- A write into a sector leaves the marks of all others. -/
theorem poisoned_writeSector_other (m : Mem) {a c : Nat} (mask : BitVec 16) (data : List QW) (h : c / 64 ≠ a / 64) :
    (m.writeSector a mask data).poisoned c = m.poisoned c := by
  rw [writeSector_eq, poisoned_setWrong, poisoned_setPoison_other _ _ h, poisoned, poisoned, clean_wordsIn]

@[simp] theorem wrong_wordsIn (base : Nat) (data : List QW) : ∀ (l : List Nat) (m : Mem), (wordsIn base data m l).wrong = m.wrong
  | [], _ => rfl
  | i :: t, m => by
    show (wordsIn base data (m.writeBytes _ _) t).wrong = m.wrong
    rw [wrong_wordsIn base data t, wrong_writeBytes]

/-- What the cells of other sectors have shown stays. -/
theorem wrongAt_writeSector_other (m : Mem) {a c : Nat} (mask : BitVec 16) (data : List QW) (h : c / 64 ≠ a / 64) :
    (m.writeSector a mask data).wrongAt c = m.wrongAt c := by
  rw [writeSector_eq, wrongAt_setWrong_other _ _ h, wrongAt_setPoison, wrongAt, wrongAt, wrong_wordsIn]

end Mem

/-! ### Operations on the state (R219, R227, R229, R300) -/

/-- A write-back of lines changes marks only. -/
theorem State.wf_backMarks {s : State} (stack : Nat) (ls : List MLine) (h : s.mem.wf = true) : (s.backMarks stack ls).mem.wf = true :=
  Mem.wf_foldl_setPoison true _ h

theorem State.wf_mscAllocate {s : State} (stack line : Nat) (h : s.mem.wf = true) : (s.mscAllocate stack line).mem.wf = true :=
  State.wf_backMarks _ _ h

theorem State.wf_mscFlush {s : State} (stack : Nat) (h : s.mem.wf = true) : (s.mscFlush stack).mem.wf = true := State.wf_backMarks _ _ h

theorem State.wf_noteWrite {s : State} (p : Place) (n : Bool) (b : BitVec 16) (r : Bool) (h : s.mem.wf = true) :
    (s.noteWrite p n b r).mem.wf = true := by
  unfold State.noteWrite
  dsimp only
  split
  · exact h
  · split
    · exact h
    · exact State.wf_mscAllocate _ _ h

theorem State.wf_fillSector {s : State} (p : Place) (n : Bool) (b : BitVec 16) (h : s.mem.wf = true) : (s.fillSector p n b).mem.wf = true := by
  unfold State.fillSector
  dsimp only
  split
  · exact h
  · split
    · exact h
    · exact State.wf_mscAllocate _ _ h

@[simp] theorem State.lmAdd_mem (s : State) (type : Nat) (loc : BitVec 48) : (s.lmAdd type loc).mem = s.mem := by
  unfold State.lmAdd State.lmCompact State.lmClearOldest State.updLm
  dsimp only
  split
  · rfl
  · split
    · rfl
    · split
      · rfl
      · split <;> rfl

@[simp] theorem State.identSent_mem (s : State) (b : Option FBody) : (s.identSent b).mem = s.mem := by
  unfold State.identSent; split <;> rfl

@[simp] theorem State.sendFrame_mem (s : State) (n : Nat) (pool : BitVec 4) (b : Option FBody) : (s.sendFrame n pool b).mem = s.mem := by
  show (State.identSent _ _).mem = s.mem
  rw [State.identSent_mem]; rfl

@[simp] theorem State.giveBack_mem (s : State) (r : Option (Nat × BitVec 4 × Nat)) : (s.giveBack r).mem = s.mem := by
  unfold State.giveBack; split <;> rfl

@[simp] theorem State.drainFrom_mem (s : State) (n : Nat) (qs kept : List QItem) : (s.drainFrom n qs kept).mem = s.mem := by
  induction qs generalizing s kept with
  | nil => rfl
  | cons q qs ih =>
    unfold State.drainFrom
    split
    · rw [ih, State.giveBack_mem, State.sendFrame_mem]
    · exact ih _ _

/-- What a port sends touches no memory. -/
@[simp] theorem State.enqueue_mem (s : State) (n : Nat) (q : QItem) : (s.enqueue n q).mem = s.mem := by
  unfold State.enqueue State.drain
  rw [State.drainFrom_mem]; rfl

@[simp] theorem State.pumpNotes_mem (s : State) : s.pumpNotes.mem = s.mem := by
  unfold State.pumpNotes
  split
  · rfl
  · rename_i n _
    dsimp only
    generalize s.ctl.notes = ns
    generalize e : ({ s with ctl := _ } : State) = u
    have h : u.mem = s.mem := by rw [← e]
    clear e
    induction ns generalizing u with
    | nil => exact h
    | cons x xs ih => exact ih _ (by rw [← h]; exact State.enqueue_mem _ _ _)

@[simp] theorem State.notify_mem (s : State) (code : BitVec 16) (ws : List W32) : (s.notify code ws).mem = s.mem := by
  unfold State.notify
  dsimp only
  split
  · rw [State.pumpNotes_mem]
  · rfl

theorem State.wf_mismatch {s : State} (pa : PA) (g : Option (BitVec 2)) (h : s.mem.wf = true) : (s.mismatch pa g).mem.wf = true := by
  have k : (s.mem.setWrong pa.toNat (wrongMark g)).wf = true := Mem.wf_setWrong _ _ h
  unfold State.mismatch
  dsimp only
  split
  · exact k
  · rw [State.notify_mem]
    show (State.lmAdd _ _ _).mem.wf = true
    rw [State.lmAdd_mem]
    exact k

/-- A read of the cells keeps the form of memory: at most it notes again what they showed. -/
theorem State.wf_cellRead {s : State} (pa : Nat) (h : s.mem.wf = true) : (s.cellRead pa).2.mem.wf = true := by
  unfold State.cellRead
  dsimp only
  split
  · exact h
  · split
    · exact State.wf_mismatch _ _ h
    · exact h

theorem State.wf_mergeWrite {s : State} (pa : Nat) (n : Bool) (mask : BitVec 16) (data : List QW) (h : s.mem.wf = true) :
    (s.mergeWrite pa n mask data).mem.wf = true := by
  have hm : ∀ (m : Mem) (b : Bool), m.wf = true →
      (if b = true then (m.writeSector pa mask data).setPoison pa true else m.writeSector pa mask data).wf = true := by
    intro m b hm
    split
    · exact Mem.wf_setPoison _ _ (Mem.wf_writeSector _ _ _ hm)
    · exact Mem.wf_writeSector _ _ _ hm
  unfold State.mergeWrite
  dsimp only
  split
  · exact State.wf_noteWrite _ _ _ _ (hm _ _ h)
  · have e : (if decide (mask = 0xFFFF) = true then (false, s) else s.cellRead pa).2.mem.wf = true := by
      split
      · exact h
      · exact State.wf_cellRead pa h
    generalize (if decide (mask = 0xFFFF) = true then (false, s) else s.cellRead pa) = r at e
    obtain ⟨b, u⟩ := r
    exact State.wf_noteWrite _ _ _ _ (hm _ _ e)

theorem State.wf_unmarkWord {s : State} (pa : Nat) (h : s.mem.wf = true) : (s.unmarkWord pa).mem.wf = true := by
  unfold State.unmarkWord
  dsimp only
  split
  · exact h
  · exact Mem.wf_setPoison _ _ h

/-- Memory after reset is in canonical form. -/
theorem State.reset_mem_wf : State.reset.mem.wf = true := rfl

end Sys2Proof.Machine
end

