-- ==== Sys2Proof/Laws/Queues.lean ====
section
/-! SUPPORT. Laws of queues (R93 to R97): taking input changes the rings of one core and nothing else; a push changes the rings and the backlog of
one core and what is in flight, and what has credit goes out whole. -/

namespace Sys2Proof.Machine

open Sys2Proof

/-- From `s` to `u` nothing has changed but the rings of core `k`. -/
structure RingsOnly (k : Nat) (s u : State) : Prop where
  die : { u with cores := [] } = { s with cores := [] }
  cores : ∀ j, j ≠ k → u.core j = s.core j
  core : { u.core k with rings := [] } = { s.core k with rings := [] }

namespace RingsOnly

variable {k : Nat} {s u v : State}

theorem refl (k : Nat) (s : State) : RingsOnly k s s := ⟨rfl, fun _ _ => rfl, rfl⟩

theorem trans (h : RingsOnly k s u) (h' : RingsOnly k u v) : RingsOnly k s v :=
  ⟨h'.die.trans h.die, fun j hj => (h'.cores j hj).trans (h.cores j hj), h'.core.trans h.core⟩

theorem slots (h : RingsOnly k s u) : (u.core k).slots = (s.core k).slots := by have := congrArg Core.slots h.core; exact this
theorem icache (h : RingsOnly k s u) : (u.core k).icache = (s.core k).icache := by have := congrArg Core.icache h.core; exact this
theorem backlog (h : RingsOnly k s u) : (u.core k).backlog = (s.core k).backlog := by have := congrArg Core.backlog h.core; exact this
theorem fresh (h : RingsOnly k s u) : u.fresh = s.fresh := by have := congrArg State.fresh h.die; exact this
theorem net (h : RingsOnly k s u) : u.net = s.net := by have := congrArg State.net h.die; exact this

theorem slotAt {site : Site} (h : RingsOnly site.core.toNat s u) : u.slotAt site = s.slotAt site := by
  simp only [State.slotAt, Core.slot, h.slots]

theorem updRing (s : State) (k q : Nat) (f : Ring → Ring) : RingsOnly k s (s.updCore k fun c => c.updRing q f) :=
  ⟨rfl, fun _ hj => State.updCore_core_other _ _ hj, by simp only [State.updCore_core_same]; rfl⟩

end RingsOnly

theorem State.pop_rings {s u : State} {core : CoreId} {id : Nat} {q : BitVec 4} {n : Nat} {bs : List MB} (h : s.pop core id q n = some (bs, u)) :
    RingsOnly core.toNat s u := by
  unfold State.pop at h
  split at h
  · cases h; exact .refl _ _
  · dsimp only at h
    split at h
    · cases h
    · cases h; exact .updRing _ _ _ _

/-- What a taken input has changed. -/
theorem take_rings {s u : State} {x : Ctx} {q : BitVec 4} {n : Nat} {bs : List MB} (h : take s x q n = .got bs u) :
    RingsOnly x.c s u := by
  unfold take at h
  split at h
  · cases h; exact .refl _ _
  · split at h
    · cases h
    · rename_i e; cases h; exact State.pop_rings e

theorem Taken.more_got {α β : Type} {t : Taken α} {f : α → State → Taken β} {b : β} {u : State} (h : t.more f = .got b u) :
    ∃ a v, t = .got a v ∧ f a v = .got b u := by
  cases t with
  | got a v => exact ⟨a, v, rfl, h⟩
  | no b => cases h

theorem takeRecs_rings {x : Ctx} {q : BitVec 4} {ok : Nat → Bool} {f : FpFmt} : ∀ {n : Nat} {acc : List (List MV)} {e : Eff} {s u : State}
    {r : List (List MV) × Eff}, takeRecs x q ok f n acc e s = .got r u → RingsOnly x.c s u := by
  intro n
  induction n with
  | zero => intro acc e s u r h; cases h; exact .refl _ _
  | succ n ih =>
    intro acc e s u r h
    unfold takeRecs at h
    obtain ⟨a, v, h1, h2⟩ := Taken.more_got h
    dsimp only at h2
    split at h2
    · cases h2
    · obtain ⟨b, v', h3, h4⟩ := Taken.more_got h2
      exact (take_rings h1).trans ((take_rings h3).trans (ih h4))

theorem takeRows_rings {s u : State} {x : Ctx} {q : BitVec 4} {f : Fmt} {n len : Nat} {r : List (List MV)}
    (h : takeRows s x q f n len = .got r u) : RingsOnly x.c s u := by
  obtain ⟨a, v, h1, h2⟩ := Taken.more_got h
  cases h2; exact take_rings h1

theorem takeA_rings {s u : State} {x : Ctx} {v : Vop} {r : List (List MV) × Eff} (h : takeA s x v = .got r u) : RingsOnly x.c s u := by
  unfold takeA at h
  split at h
  · obtain ⟨a, w, h1, h2⟩ := Taken.more_got h
    cases h2; exact takeRecs_rings h1
  · obtain ⟨a, w, h1, h2⟩ := Taken.more_got h
    cases h2; exact takeRows_rings h1

theorem takePass_rings {x : Ctx} {v : Vop} {inl second : Bool} {len : Nat} : ∀ {n : Nat} {acc : List PassRow} {s u : State}
    {r : List PassRow}, takePass x v inl second len n acc s = .got r u → RingsOnly x.c s u := by
  intro n
  induction n with
  | zero => intro acc s u r h; cases h; exact .refl _ _
  | succ n ih =>
    intro acc s u r h
    unfold takePass at h
    obtain ⟨_, _, h1, h2⟩ := Taken.more_got h
    obtain ⟨_, _, h3, h4⟩ := Taken.more_got h2
    obtain ⟨_, _, h5, h6⟩ := Taken.more_got h4
    exact (take_rings h1).trans ((take_rings h3).trans ((take_rings h5).trans (ih h6)))

theorem takePassA_rings {s u : State} {x : Ctx} {v : Vop} {inl second : Bool} {len : Nat} {r : List PassRow × Eff}
    (h : takePassA s x v inl second len = .got r u) : RingsOnly x.c s u := by
  unfold takePassA at h
  split at h
  · obtain ⟨_, _, h1, h2⟩ := Taken.more_got h
    obtain ⟨_, _, h3, h4⟩ := Taken.more_got h2
    obtain ⟨_, _, h5, h6⟩ := Taken.more_got h4
    cases h6; exact (takeA_rings h1).trans ((take_rings h3).trans (takeRows_rings h5))
  · obtain ⟨_, _, h1, h2⟩ := Taken.more_got h
    cases h2; exact takePass_rings h1

theorem takeTiles_rings {x : Ctx} {n : Nat} : ∀ {t : Nat} {acc : List (List (Calc × Bool))} {e : Eff} {s u : State}
    {r : List (List (Calc × Bool)) × Eff}, takeTiles x n t acc e s = .got r u → RingsOnly x.c s u := by
  intro t
  induction t with
  | zero => intro acc e s u r h; cases h; exact .refl _ _
  | succ t ih =>
    intro acc e s u r h
    unfold takeTiles at h
    obtain ⟨_, _, h1, h2⟩ := Taken.more_got h
    obtain ⟨_, _, h3, h4⟩ := Taken.more_got h2
    exact (takeRecs_rings h1).trans ((take_rings h3).trans (ih h4))

/-! ### Pushing -/

/-- From `s` to `u` nothing has changed but the rings and the backlog of core `k`, and what is in flight. -/
structure PushOnly (k : Nat) (s u : State) : Prop where
  die : { u with cores := [], net := {} } = { s with cores := [], net := {} }
  cores : ∀ j, j ≠ k → u.core j = s.core j
  core : { u.core k with rings := [], backlog := [] } = { s.core k with rings := [], backlog := [] }

namespace PushOnly

variable {k : Nat} {s u v : State}

theorem refl (k : Nat) (s : State) : PushOnly k s s := ⟨rfl, fun _ _ => rfl, rfl⟩

theorem trans (h : PushOnly k s u) (h' : PushOnly k u v) : PushOnly k s v :=
  ⟨h'.die.trans h.die, fun j hj => (h'.cores j hj).trans (h.cores j hj), h'.core.trans h.core⟩

theorem of_net (s : State) (n : Net) : PushOnly k s { s with net := n } := ⟨rfl, fun _ _ => rfl, rfl⟩

theorem of_core (s : State) (f : Core → Core)
    (h : { f (s.core k) with rings := [], backlog := [] } = { s.core k with rings := [], backlog := [] }) : PushOnly k s (s.updCore k f) :=
  ⟨rfl, fun _ hj => State.updCore_core_other _ _ hj, by rw [State.updCore_core_same]; exact h⟩

theorem slots (h : PushOnly k s u) : (u.core k).slots = (s.core k).slots := by have := congrArg Core.slots h.core; exact this
theorem runs (h : PushOnly k s u) : (u.core k).runs = (s.core k).runs := by have := congrArg Core.runs h.core; exact this
theorem fresh (h : PushOnly k s u) : u.fresh = s.fresh := by have := congrArg State.fresh h.die; exact this

end PushOnly

theorem State.deliver_frame (s : State) (core : CoreId) (b : Backlog) : PushOnly core.toNat s (s.deliver core b) := by
  unfold State.deliver
  dsimp only
  split
  · exact .refl _ _
  · split
    · exact .of_net _ _
    · exact .of_core _ _ rfl

theorem State.deliverSome_frame (s : State) (core : CoreId) (b : Backlog) : PushOnly core.toNat s (s.deliverSome core b) := by
  unfold State.deliverSome
  dsimp only
  split
  · exact State.deliver_frame _ _ _
  · exact (State.deliver_frame _ _ _).trans (.of_core _ _ rfl)

/-- What a push changes. -/
theorem State.push_frame (s : State) (x : Ctx) (q : BitVec 4) (bs : List MB) : PushOnly x.c s (s.push x q bs) := by
  unfold State.push
  dsimp only
  split
  · exact .refl _ _
  · split
    · exact .of_core _ _ rfl
    · split
      · exact State.deliver_frame _ _ _
      · exact State.deliverSome_frame _ _ _

/-- A push that has credit leaves nothing waiting. -/
theorem State.push_backlog {s : State} {x : Ctx} {q : BitVec 4} {bs : List MB} (hb : (s.core x.c).backlog = [])
    (hc : (wordsOf bs).length ≤ s.creditWords x.site.core q.toNat) : ((s.push x q bs).core x.c).backlog = [] := by
  unfold State.push
  have : (s.core x.c).clogged q = false := by simp [Core.clogged, hb]
  dsimp only
  rw [this]
  split
  · exact hb
  · simp only [Bool.false_eq_true, if_false]
    unfold State.deliver
    dsimp only
    split
    · exact hb
    · split
      · exact hb
      · simp only [State.append, Ctx.c, State.updCore_core_same, Core.updRing_backlog]; exact hb

/-- Pushes of all that waits change what a push changes. -/
theorem State.drainBacklog_frame (s : State) (core : CoreId) : PushOnly core.toNat s (s.drainBacklog core) := by
  unfold State.drainBacklog
  dsimp only
  split
  · exact .refl _ _
  · suffices ∀ (bs : List Backlog) (u : State), PushOnly core.toNat s u → PushOnly core.toNat s (bs.foldl (fun s b => s.deliverSome core b) u) from
      this _ _ (.of_core _ _ rfl)
    intro bs
    induction bs with
    | nil => intro u h; exact h
    | cons b bs ih => intro u h; exact ih _ (h.trans (u.deliverSome_frame core b))

/-- What a command in execution takes in before its next unit is whole changes its core's rings. -/
theorem State.absorb_rings (s : State) (x : Ctx) (y : Why) : RingsOnly x.c s (s.absorb x y) := by
  cases y with
  | inQ q => exact .updRing _ _ _ _
  | outQ q => exact .refl _ _
  | other => exact .refl _ _

/-! ### A vector unit's result (R113, R139) -/

/-- A unit that has room for its result pushes it, applies its effects, and counts the free values that it has used. -/
theorem finish_gives {s t : State} {x : Ctx} {q : BitVec 4} {out : List MB × Eff} {e : Eff} {used : Nat}
    (h : finish s x q out e used = .done t) : Gives x q out e used s t := by
  unfold finish pushThen at h
  split at h
  · rename_i hr; cases h; exact ⟨hr, rfl⟩
  · cases h

/-- Units one after the other, each done, are done. -/
theorem units_succ {one : Ctx → State → Body} {k : Nat} {x : Ctx} {s t : State} (h : one x s = .done t) :
    units one (k + 1) x s = units one k { x with unit := x.unit + 1 } t := by
  rw [units, h]

end Sys2Proof.Machine
end

