-- ==== Sys2Proof/Laws/Requests.lean ====
section
/-! SUPPORT. Laws of requests: what a command packet that is admitted comes to (R356 to R362), and what a fabric request that reaches
this Triat comes to (R281 to R286), each once its own part is known. -/

namespace Sys2Proof.Machine

open Sys2Proof

/-! ### Command packets -/

/-- Giving a packet's slots back concerns its port, and nothing else of the die but the free counts of its return path. -/
theorem State.rxRelease_none {s : State} {n : Nat} {pool : BitVec 4} (h : s.rxOldest n pool = none) : s.rxRelease n pool = s := by
  unfold State.rxRelease; rw [h]

@[simp] theorem State.rxTake_ctl (s : State) (n : Nat) (pool : BitVec 4) : (s.rxTake n pool).ctl = s.ctl := by
  unfold State.rxTake; split <;> rfl

@[simp] theorem State.giveBack_ctl (s : State) (r : Option (Nat × BitVec 4 × Nat)) : (s.giveBack r).ctl = s.ctl := by
  unfold State.giveBack; split <;> rfl

@[simp] theorem State.rxRelease_ctl (s : State) (n : Nat) (pool : BitVec 4) : (s.rxRelease n pool).ctl = s.ctl := by
  unfold State.rxRelease; split
  · rfl
  · rw [State.giveBack_ctl, State.rxTake_ctl]

@[simp] theorem State.heard_ctl (s : State) (n : Nat) (pool : BitVec 4) : (s.heard n pool).ctl = s.ctl := by
  unfold State.heard; rw [State.rxRelease_ctl]; rfl

/-- A packet on a port that hears none leaves the state as it is. -/
theorem request_unheard {s : State} {h : CpHdr} (op : BitVec 16) (p : List W32) (body : State → CtlRes) (d : s.hears h.port cpRequestPool = false) :
    request h op p body s = .next s := by
  unfold request; rw [d]; rfl

/-- A request that is admitted comes to what its body comes to. -/
theorem request_admitted {s : State} {h : CpHdr} {op : BitVec 16} {p : List W32} (a : Admitted s h op p) (body : State → CtlRes) :
    request h op p body s = .next (State.finish h op p false (body (s.taken h))).flush := by
  have tags : ((s.heard (16 + h.port.toNat) cpRequestPool).ctl.inflight.any fun r => decide (r.tag = h.tag)) = false := by
    rw [State.heard_ctl, List.any_eq_false]
    intro r m; simpa using a.tag r m
  have room : ¬64 ≤ (s.heard (16 + h.port.toNat) cpRequestPool).ctl.inflight.length := by
    rw [State.heard_ctl]; exact Nat.not_le.2 a.room
  have long : ¬1024 < p.length := Nat.not_lt.2 a.short
  have clear : ((s.heard (16 + h.port.toNat) cpRequestPool).countCtl 0x200 1).ahead op p = false := a.clear
  have may : ((s.heard (16 + h.port.toNat) cpRequestPool).countCtl 0x200 1).admission h op p = none := a.may
  unfold request State.receive State.accept
  rw [a.hears, a.crc, a.header]
  simp only [Bool.not_true, Bool.false_eq_true, false_or, if_false, if_true, tags, if_neg room, if_neg long, may, clear]
  rfl

/-- An admitted request whose body answers at once, with nothing to do behind the reply. -/
theorem request_replies {s u : State} {h : CpHdr} {op : BitVec 16} {p : List W32} {body : State → CtlRes} {st : Status} {ws : List W32}
    (a : Admitted s h op p) (b : body (s.taken h) = say st ws u) :
    request h op p body s = .next (u.reply h.port op h.tag st ws).flush := by
  rw [request_admitted a, b]; rfl

/-- An admitted request whose body waits is in flight from then on. -/
theorem request_holds {s u : State} {h : CpHdr} {op : BitVec 16} {p : List W32} {body : State → CtlRes} {w : Wait}
    (a : Admitted s h op p) (b : body (s.taken h) = .hold w u) :
    request h op p body s = .next (u.undertaken h op p w).flush := by
  rw [request_admitted a, b]; rfl

/-- A request of a fixed length, admitted with that length. -/
theorem requestOf_admitted {s : State} {h : CpHdr} {op : BitVec 16} {p : List W32} {n : Nat} (a : Admitted s h op p) (l : p.length = n)
    (body : State → CtlRes) : requestOf n h op p body s = .next (State.finish h op p false (body (s.taken h))).flush := by
  unfold requestOf; rw [request_admitted a, if_pos l]

/-! ### Fabric requests -/

@[simp] theorem State.rxTake_sec (s : State) (n : Nat) (pool : BitVec 4) : (s.rxTake n pool).sec = s.sec := by
  unfold State.rxTake; split <;> rfl

@[simp] theorem State.giveBack_sec (s : State) (r : Option (Nat × BitVec 4 × Nat)) : (s.giveBack r).sec = s.sec := by
  unfold State.giveBack; split <;> rfl

@[simp] theorem State.rxRelease_sec (s : State) (n : Nat) (pool : BitVec 4) : (s.rxRelease n pool).sec = s.sec := by
  unfold State.rxRelease; split
  · rfl
  · rw [State.giveBack_sec, State.rxTake_sec]

@[simp] theorem State.noteOrder_sec (s : State) (h : FabHdr) : (s.noteOrder h).sec = s.sec := by
  unfold State.noteOrder; split <;> rfl

@[simp] theorem State.received_sec (s : State) (n : Nat) (p : Pkt) : (s.received n p).sec = s.sec := by
  unfold State.received; rw [State.noteOrder_sec, State.rxRelease_sec]; rfl

/-- A request that its port may not take in leaves the state as it is. -/
theorem inbound_waits {s : State} {port : BitVec 4} {p : Pkt} (after : Status → State → Status × State) (h : s.takesIn port.toNat p.pool = false ∨
    p.h.dstDev ≠ s.fab.devId ∨ s.heldBack port.toNat = true ∨ s.inOrder p.h = false) : inboundThen port p after s = .next s := by
  unfold inboundThen
  refine if_pos ?_
  obtain h | h | h | h := h <;> simp [h]

/-- A request that reaches this Triat is served, does what comes `after` it, and its answer goes out. -/
theorem inbound_reaches {s u : State} {port : BitVec 4} {p : Pkt} {a : Answer} (after : Status → State → Status × State) (r : Reaches s port p)
    (v : (s.received port.toNat p).serve (.va (.port port)) .rFab .wFab p = (.answer a, u)) :
    inboundThen port p after s = .next ((after a.status u).2.respond port.toNat p.op p.h { a with status := (after a.status u).1 }).flush := by
  have up : (s.received port.toNat p).isDown p.h.srcDev = false := by
    unfold State.isDown; rw [State.received_sec]; exact r.up
  unfold State.received at v up
  have e : (BitVec.ofNat 4 port.toNat) = port := by rw [BitVec.ofNat_toNat, BitVec.setWidth_eq]
  unfold inboundThen
  rw [if_neg]
  · unfold State.arrive
    simp only [up, Bool.false_eq_true, if_false, e, v]
    rfl
  · simp [r.taken, r.own, r.free, r.order]

end Sys2Proof.Machine
end

