-- ==== Sys2Proof/Tests/Slice0.lean ====
section
/-! SUPPORT. Tests: ill-formed commands, small cases of the rules, and for each statement a state and operands that meet its hypotheses. -/

namespace Sys2Proof.Tests

open Sys2Proof Sys2Proof.Machine

/-! ### Ill-formed commands -/

theorem test_ill_formed_port : (Instr.portAcquire 18 0).wf = false := by decide
theorem test_ill_formed_wavelength : (Instr.deadWavelength 0 9).wf = false := by decide
theorem test_ill_formed_stack : (Instr.refreshHot 12 0).wf = false := by decide
theorem test_ill_formed_lane_choice : (Instr.laneChoice 0 [] 0).wf = false := by decide
theorem test_ill_formed_lane : (Instr.laneRepair 0 0 [40]).wf = false := by decide
theorem test_ill_formed_lane_test : (Instr.memoryTraining [{ stack := 12, ch := 0, dead := [], weak := [] }]).wf = false := by decide
theorem test_ill_formed_site : (Instr.selfTest { cores := [{ half := 0, cluster := 0, site := 66 }], memory := [] }).wf = false := by decide
theorem test_ill_formed_function : (Instr.fnRestart 34).wf = false := by decide
theorem test_ill_formed_data : (Instr.write 0 {} { data := List.replicate 4097 0 }).wf = false := by
  show decide ((List.replicate 4097 (0 : Byte)).length ≤ 4096) = false
  rw [List.length_replicate]; decide
theorem test_ill_formed_payload : (Instr.ownClaim {} (List.replicate 1025 0)).wf = false := by
  show decide ((List.replicate 1025 (0 : W32)).length ≤ 1024) = false
  rw [List.length_replicate]; decide
theorem test_well_formed : (Instr.portAcquire 17 0).wf = true ∧ (Instr.fnRestart 33).wf = true ∧ (Instr.refreshHot 11 0).wf = true := by decide

/-! ### A Triat in service -/

/-- Fields of a command word: lowest bit and value. -/
def par (l : List (Nat × Nat)) : BitVec 96 := BitVec.ofNat 96 (l.map fun e => e.2 * 2 ^ (e.1 - 32)).sum

/-- A whole part in RUN whose owner is at CP0, with its stacks UP. -/
def live : State :=
  { backed := [(0, 0xFFFFFFFF), (1, 0xFFFFFFFF)]
    mcs := (List.range 12).map fun k => (k, { st := 1, chans := (List.range 16).map fun c => (c, { st := 2 }) })
    ports := [(0, { st := psActive, enable := true }), (16, { st := psActive, enable := true, keyHash := 7 })]
    ctl := { step := 10, ready := true, owner := some 7 } }

/-- Slot 0 of core 0. -/
def site0 : Site := { core := 0, slot := 0 }

/-- `live` with slot 0 of core 0 RUNNING at these command words; `f` sets the rest of the core. -/
def running (ws : List (Byte × CmdWord)) (f : Core → Core := id) : State :=
  { live with cores := [(0, f { slots := [(0, { st := 1 })],
                                icache := [(0, [{ va := 0, gen := 0, words := ws.map fun e => e.2.encode e.1 }])] })] }

/-- A word whose queues are all Q15. -/
def w15 (l : List (Nat × Nat)) : CmdWord := { qa := 15, qb := 15, qo := 15, params := par l }

/-- Word `w` as the next command of slot 0. -/
def next0 (op : Byte) (w : CmdWord) (f : Core → Core := id) : State := running [(op, w)] f

/-- The hypotheses of `Quiet`, as a test. -/
def isQuiet (s : State) : Bool :=
  decide ((s.core 0).runs = [] ∧ (s.core 0).backlog = []) && (s.core 0).rings.all (fun e => decide (e.2.staged = [])) &&
    (List.range 4).all fun n => match (s.core 0).nextWord n with
      | some y => (cmdOf y.1).isSome
      | none => true

theorem quiet0 {s : State} (h : isQuiet s = true) : Quiet s 0 := by
  simp only [isQuiet, Bool.and_eq_true, decide_eq_true_eq, List.all_eq_true, List.mem_range] at h
  obtain ⟨⟨⟨h1, h2⟩, h3⟩, h4⟩ := h
  refine ⟨h1, h2, h3, fun n hn y hy => ?_⟩
  have := h4 n hn
  rw [show s.core 0 = s.core (0 : CoreId).toNat from rfl, hy] at this
  exact this

/-- The hypotheses of `Ready`, as a test. -/
def isReady (s : State) (op : Byte) (w : CmdWord) : Bool :=
  isQuiet s && decide (s.gate site0 op w = .go ∧ s.picked site0 = true ∧ (s.slotAt site0).stop = false ∧ (s.slotAt site0).swap = none)

theorem ready0 {s : State} {op : Byte} {w : CmdWord} (h : isReady s op w = true) : Ready s site0 op w := by
  simp only [isReady, Bool.and_eq_true, decide_eq_true_eq] at h
  exact ⟨quiet0 h.1, h.2.1, h.2.2.1, h.2.2.2.1, h.2.2.2.2⟩

/-- A command of one unit. -/
theorem one_unit {n : Nat} {x : Ctx} {unit : Ctx → State → State → List MB → Prop} {s u : State} {o : List MB} (hn : n = 1)
    (h : unit { x with unit := 0, once := x.once } s u o) : InUnits n x unit s u := by
  subst hn
  refine ⟨fun i => if i = 0 then (s, x.once) else (u, o), rfl, rfl, fun i hi => ?_⟩
  obtain rfl : i = 0 := by omega
  exact h

/-! ### Core commands: words that issue -/

def wCset : CmdWord := { params := par [(32, 7), (64, 0xFFFFFFFF)] }
def wCaddc : CmdWord := { params := par [(32, 7), (36, 7)] }
def wCmpset : CmdWord := { params := par [(32, 3), (34, 7), (37, 7), (40, 1), (41, 1), (42, 5), (64, 9)] }
def wBad : CmdWord := { params := par [(63, 1), (127, 1)] }
def wFence : CmdWord := { params := par [(32, 3), (35, 2)] }
def wToken : CmdWord := { params := par [(32, 0), (36, 4095), (48, 7), (51, 65535)] }
def wWait : CmdWord := { params := par [(32, 7), (35, 65535)] }
def wLoop : CmdWord := { params := par [(35, 1), (36, 2), (60, 1)] }
def wLoop0 : CmdWord := { params := par [(35, 1), (60, 1)] }

theorem test_counter_statement_met :
    Ready (next0 0x08 wCset) site0 0x08 wCset ∧ wCset.z 63 35 ∧ wCset.z 127 96 ∧ Ready (next0 0x09 wCset) site0 0x09 wCset ∧
    Ready (next0 0x0A wCaddc) site0 0x0A wCaddc ∧ wCaddc.z 35 35 ∧ wCaddc.z 127 39 ∧
    Ready (next0 0x0C wCmpset) site0 0x0C wCmpset ∧ wCmpset.z 63 45 ∧ wCmpset.z 127 96 ∧ wCmpset.f 44 42 ≤ 5 ∧
    Ready (next0 0x0D {}) site0 0x0D {} ∧ CmdWord.z {} 127 34 ∧
    Ready (next0 0x08 wBad) site0 0x08 wBad ∧ (wBad.z 63 35 && wBad.z 127 96) = false ∧ wBad.last = false := by
  refine ⟨ready0 ?_, ?_, ?_, ready0 ?_, ready0 ?_, ?_, ?_, ready0 ?_, ?_, ?_, ?_, ready0 ?_, ?_, ready0 ?_, ?_, ?_⟩ <;> decide

/-- CSET of C7, and CADDC of C7 to itself (R153): the sum wraps. -/
theorem test_cset_and_caddc_wraps : (match exec (.caddc site0 wCaddc) (next0 0x0A wCaddc fun c => { c with ctr := [(7, 0x80000001)] }) with
    | .next t => (t.core 0).cnt 7
    | _ => 0) = 2 := by decide

theorem test_synchronisation_statement_met :
    Ready (next0 0x00 {}) site0 0x00 {} ∧ Ready (next0 0x01 {}) site0 0x01 {} ∧
    Ready (next0 0x02 wFence) site0 0x02 wFence ∧ wFence.z 127 37 ∧ wFence.f 34 32 ≤ 3 ∧ wFence.f 36 35 ≤ 2 ∧
    (next0 0x02 wFence).scopeHolds site0 (wFence.f 34 32) = true ∧
    Ready (next0 0x03 wToken) site0 0x03 wToken ∧ wToken.z 35 35 ∧ wToken.z 127 67 ∧ wToken.f 66 51 ≠ 0 ∧
    (next0 0x03 wToken).scopeHolds site0 (wToken.f 34 32) = true ∧ (next0 0x03 wToken).hasCore (BitVec.ofNat 12 (wToken.f 47 36)) = true ∧
    (next0 0x03 wToken).stilledCross 0 1 = false ∧
    (let s := next0 0x04 wWait fun c => { c with tcs := [(7, 65535)] }
     Ready s site0 0x04 wWait ∧ wWait.z 127 51 ∧ wWait.f 50 35 ≠ 0 ∧ wWait.f 50 35 ≤ ((s.core 0).tc (wWait.f 34 32)).toNat) := by
  refine ⟨ready0 ?_, ready0 ?_, ready0 ?_, ?_, ?_, ?_, ?_, ready0 ?_, ?_, ?_, ?_, ?_, ?_, ?_, ready0 ?_, ?_, ?_, ?_⟩ <;> decide

theorem test_loop_statement_met :
    (let s := running [(0x05, wLoop), (0x00, {})]
     Ready s site0 0x05 wLoop ∧ wLoop.z 127 72 ∧ wLoop.f 71 60 ≠ 0 ∧ (s.slotAt site0).loops = [] ∧ wLoop.b 35 = true ∧ wLoop.f 59 36 ≠ 0 ∧
     s.bodyOk 0 0 (wLoop.f 71 60) 0 16 = true) ∧
    (let s := running [(0x05, wLoop0), (0x00, {})]
     Ready s site0 0x05 wLoop0 ∧ wLoop0.b 35 = true ∧ wLoop0.f 59 36 = 0) := by
  refine ⟨⟨ready0 ?_, ?_, ?_, ?_, ?_, ?_, ?_⟩, ready0 ?_, ?_, ?_⟩ <;> decide

/-! ### Groups, products, transfers -/

def wFuse (n : Nat) : CmdWord := { params := par [(32, 2), (39, 1), (40, n)] }
/-- VEW and VCVT of one element of FP32, Q15 to Q15, as members of a group. -/
def wMember (last : Bool) : CmdWord := { w15 [(40, 3), (44, 3), (48, 3), (68, 1)] with last := last }
def wOpMember : CmdWord := { qa := 15, qo := 15, emask := 1, params := par [(34, 0)] }
def wOprod : CmdWord := { qa := 15, emask := 1, params := par [(34, 0), (68, 1)] }
def wOpslice : CmdWord := { qa := 15, emask := 1, params := par [(34, 2), (38, 2), (72, 1)] }
def wOpdiag (op : Nat) : CmdWord := { qa := 15, qo := 15, emask := 1, params := par [(34, 0), (38, op), (73, 1)] }
/-- OPE 0 with a loaded bedstone of a format, 16 columns by 16 rows. -/
def bedded (f : Fmt) (int : Bool) (c : Core) : Core :=
  { c with beds := [(0, { loaded := true, fmt := f, rows := 64, cols := 64 })], tiles := [(0, { int := int })] }
def wBedload : CmdWord := { qa := 15, emask := 1, params := par [(32, 0), (38, 1), (39, 16), (50, 16)] }
def wTread : CmdWord := { qo := 14, emask := 1 }
def ring14 (c : Core) : Core := { c with rings := [(14, { size := 100 })] }

/-- FETCH with HINT = 1, where the cluster has no CSU area: done at once. -/
def wHint : CmdWord := { qo := 0, params := par [(88, 8), (125, 1)] }
def ring0 (c : Core) : Core := { c with rings := [(0, { size := 100 })] }
/-- A cluster with shared memory, and no CSU area where `n` is 0. -/
def shared (s : State) (n : W32) : State := { s with clusters := [(0, { cfg := n })] }
def wFuseEv : CmdWord := { params := par [(32, 2), (39, 1), (40, 1), (88, 5), (100, 1)] }
/-- A group in execution whose one member is `wHint`, with `n` iterations to do. -/
def grouped (w : CmdWord) (n : Nat) : State :=
  let s := shared (running [] ring0) 0
  s.updCore 0 fun c => c.updSlot 0 fun sl =>
    { sl with group := some { id := 0, w := w, ptr := 0, loops := [], members := [(0x20, wHint)], total := n, done := [0] } }

def isDone (b : Body) : Bool :=
  match b with
  | .done _ => true
  | _ => false

theorem done {b : Body} (h : isDone b = true) : ∃ u, b = .done u := by
  cases b <;> first | exact ⟨_, rfl⟩ | cases h

/-- The hypotheses on a group in execution. -/
abbrev groupMet (w : CmdWord) (n : Nat) : Prop :=
  let s := grouped w n
  ∃ (g : GroupRun) (u : State), let x := s.memberCtx site0 g 0
    let h : GroupRun := { g with done := g.done.set 0 (nth 0 g.done 0 + 1) }
    let t := s.updCore 0 fun c => c.updSlot 0 fun sl => { sl with group := some h }
    (Quiet s 0 ∧ (s.slotAt site0).group = some g ∧ g.w = w ∧ s.picked site0 = true ∧ s.nextMember site0 = some (g, 0) ∧
      (s.slotAt site0).stop = false ∧ (s.slotAt site0).swap = none ∧ cmdOf x.op = some cmdFetch ∧ cmdFetch.check x s = none) ∧
    cmdFetch.body x (t.mark x 0) = .done u ∧ (u.core 0).runs = [] ∧ (u.core 0).backlog = [] ∧ u.slotAt site0 = (t.mark x 0).slotAt site0 ∧
    (n = 1 → ∀ i, i < h.done.length → nth 0 h.done i = g.total) ∧ (n = 2 → ∃ i, i < h.done.length ∧ nth 0 h.done i ≠ g.total)

theorem test_fuse_statement_met :
    (let s := running [(0x06, wFuse 0), (0x40, wMember false), (0x20, wMember true)]
     let x := s.ctx site0 0x06 (wFuse 0)
     Ready s site0 0x06 (wFuse 0) ∧ fuseOk s x = true ∧ ((s.mark x 3).groupOf x).total = 0) ∧
    (let s := running [(0x06, wFuse 1), (0x40, wMember false), (0x20, wMember true)]
     let x := s.ctx site0 0x06 (wFuse 1)
     Ready s site0 0x06 (wFuse 1) ∧ fuseOk s x = true ∧ ((s.mark x 3).groupOf x).total ≠ 0) ∧
    groupMet (wFuse 1) 1 ∧ groupMet (wFuse 1) 2 ∧ groupMet wFuseEv 1 ∧ (wFuse 1).b 100 = false ∧ wFuseEv.b 100 = true := by
  refine ⟨⟨ready0 ?_, ?_, ?_⟩, ⟨ready0 ?_, ?_, ?_⟩, ⟨_, _, ⟨quiet0 ?_, rfl, rfl, ?_, ?_, rfl, rfl, rfl, ?_⟩, rfl, ?_, ?_, ?_, ?_, ?_⟩,
    ⟨_, _, ⟨quiet0 ?_, rfl, rfl, ?_, ?_, rfl, rfl, rfl, ?_⟩, rfl, ?_, ?_, ?_, ?_, ?_⟩,
    ⟨_, _, ⟨quiet0 ?_, rfl, rfl, ?_, ?_, rfl, rfl, rfl, ?_⟩, rfl, ?_, ?_, ?_, ?_, ?_⟩, ?_, ?_⟩ <;> decide

set_option maxRecDepth 8000 in
theorem test_product_statement_met :
    (let s := next0 0x10 wOprod (bedded .fp8e4 false)
     let x := s.ctx site0 0x10 wOprod
     Ready s site0 0x10 wOprod ∧ oprodOk s x = true ∧
     ∃ bs u, take (s.mark x 1) x 15 ((oprodSlice wOprod).fa.streamBytes (oprodSlice wOprod).k) = .got bs u) ∧
    (let s := next0 0x11 wOpslice (bedded .int8 true)
     let x := s.ctx site0 0x11 wOpslice
     Ready s site0 0x11 wOpslice ∧ s.hasSlice = true ∧ opsliceOk s x = true ∧
     ∃ bs u, take (s.mark x 1) x 15 (((sliceGroup wOpslice).g - 1) * (sliceGroup wOpslice).k * 16) = .got bs u) ∧
    (let s := next0 0x12 (wOpdiag 5) (bedded .fp8e4 false)
     let x := s.ctx site0 0x12 (wOpdiag 5)
     Ready s site0 0x12 (wOpdiag 5) ∧ opdiagOk s x = true ∧ opdiagOp (wOpdiag 5) = 5 ∧
     ∃ bs u, take (s.mark x 1) x 15 ((opdiagSlice (wOpdiag 5)).fa.streamBytes (opdiagSlice (wOpdiag 5)).k) = .got bs u) ∧
    (let w := wOpdiag 0
     let s := next0 0x12 w (bedded .fp8e4 false)
     let x := s.ctx site0 0x12 w
     Ready s site0 0x12 w ∧ opdiagOk s x = true ∧ opdiagOp w ≠ 5 ∧ ∃ u,
       InUnits (opdiagSlice w).k x (fun x p q o => ∃ r p1, diagColumn x p = .got r p1 ∧ o = r.1 ∧
         let out := diagOut x (x.opes.map (p1.core 0).bed) r.2 (nth 0 (opdiagSlice w).lines x.unit)
         p1.room x w.qo out.1.length = true ∧ q = (p1.push x w.qo out.1).updCore 0 (·.effect out.2)) (s.mark x 1) u) := by
  refine ⟨⟨ready0 ?_, ?_, _, _, rfl⟩, ⟨ready0 ?_, ?_, ?_, _, _, rfl⟩, ⟨ready0 ?_, ?_, ?_, _, _, rfl⟩, ready0 ?_, ?_, ?_, _,
    one_unit ?_ ⟨_, _, rfl, rfl, ?_, rfl⟩⟩ <;> decide

set_option maxRecDepth 8000 in
theorem test_bedload_and_tread_statement_met :
    (let s := next0 0x13 wBedload
     let x := s.ctx site0 0x13 wBedload
     Ready s site0 0x13 wBedload ∧ bedloadOk s x = true ∧ ∃ bs u, take (s.mark x 1) x 15 ((bedF wBedload).bytes x.opes.length) = .got bs u) ∧
    (let s := next0 0x14 wTread ring14
     let x := s.ctx site0 0x14 wTread
     Ready s site0 0x14 wTread ∧ treadOk s x = true ∧ ∃ u,
       InUnits x.opes.length x (fun x p q o => o = x.once ∧ let r := treadRec x (p.core 0) (nth 0 x.opes x.unit)
         p.room x 14 r.1.length = true ∧ q = (p.push x 14 r.1).updCore 0 (·.effect r.2)) (s.mark x 1) u) := by
  refine ⟨⟨ready0 ?_, ?_, _, _, rfl⟩, ready0 ?_, ?_, _, one_unit ?_ ⟨rfl, ?_, rfl⟩⟩ <;> decide
def wFetch (l : List (Nat × Nat)) : CmdWord := { qo := 0, params := par ((88, 8) :: l) }
def wStore (l : List (Nat × Nat)) : CmdWord := { qa := 15, params := par ((88, 8) :: l) }
/-- One leaf that maps the first 2 MiB, held by the core's translation buffer; it may be read, written and used by the fabric. -/
def mapped (s : State) : State := { s with xl := { tbs := [(0, [{ base := 0, giant := false, pte := 0x3D }])] } }
def wMove : CmdWord := { qa := 15, qo := 15, params := par [(32, 1)] }
def wRacc : CmdWord := { qa := 15, params := par [(102, 1)] }
/-- Q10 of core 0 and Q10 of core 1 bound to one another. -/
def linked (s : State) : State :=
  { s with cores := [(0, { (s.core 0) with rings := [(10, { size := 8 })], binds := [(10, 0x80000001)] }),
                     (1, { rings := [(10, { size := 8 })], binds := [(10, 0x80000000)] })] }
/-- SEND of `n` granules from Q15 to Q10, and RECV from Q10 to Q15. -/
def wSend (n : Nat) : CmdWord := { qa := 15, qo := 10, params := par [(32, n)] }
def wRecv : CmdWord := { qa := 10, qo := 15, params := par [(32, 1)] }
/-- FETCH of a whole line, which its controller answers at once. -/
def wLine : CmdWord := { qo := 0, params := par [(88, 32)] }
/-- The first line of memory is clean. -/
def clean0 (s : State) : State := { s with mem := { clean := [(0, true), (1, true), (2, true), (3, true)] } }

theorem triple {α γ : Type} {r : α × Bool × γ} (h : r.2.1 = false) : r = (r.1, false, r.2.2) := by rw [← h]
theorem pair {α : Type} {r : Bool × α} (h : r.1 = false) : r = (false, r.2) := by rw [← h]

/-- A FETCH of device memory, or of shared memory, asks for its sectors and has them all at once. -/
abbrev fetched (s : State) (w : CmdWord) : Prop :=
  let x := s.ctx site0 0x20 w
  let f := xferOf x
  let y : Ctx := { x with pieces := List.replicate f.secs.length .todo }
  let v := (((s.mark x 1).updCore 0 (·.passAhead x.ptr w)).putRun y).askAll y (lineRuns f.secs.length 0 (f.secs.map (·.1)))
  Ready s site0 0x20 w ∧ fetchOk s x = true ∧ f.hint = false ∧ ((s.core 0).aheadOf x.ptr w).any (!·.dropped) = false ∧
    (v.runOf y).pieces.length = f.secs.length ∧ (∀ p ∈ (v.runOf y).pieces, ∃ d, p = .got d stOk) ∧
    (f.space = 0 ∨ (f.space = 1 ∧ ∃ rows c, (v.cluster 0).readRows f.rows [] = (rows, false, c)))

def isGot (p : Piece) : Bool :=
  match p with
  | .got _ st => decide (st = stOk)
  | _ => false

theorem allGot {ps : List Piece} (h : ps.all isGot = true) : ∀ p ∈ ps, ∃ d, p = .got d stOk := by
  intro p hp
  have h := List.all_eq_true.mp h p hp
  cases p with
  | got d st => exact ⟨d, by rw [show st = stOk from by simpa [isGot] using h]⟩
  | todo => simp [isGot] at h
  | waits => simp [isGot] at h
  | fault => simp [isGot] at h

set_option maxRecDepth 8000 in
theorem test_fetch_statement_met :
    (let w := wFetch [(125, 1)]
     let s := shared (next0 0x20 w ring0) 0
     Ready s site0 0x20 w ∧ fetchOk s (s.ctx site0 0x20 w) = true ∧ (xferOf (s.ctx site0 0x20 w)).hint = true ∧
     bits (s.cluster 0).cfg 5 0 = 0 ∧ bits ((shared s 8).cluster 0).cfg 5 0 ≠ 0) ∧
    (let w := wFetch []
     let s := next0 0x20 w fun c => { ring0 c with ahead := [{ va := 0, w := w, q := 0, words := 16 }] }
     Ready s site0 0x20 w ∧ fetchOk s (s.ctx site0 0x20 w) = true ∧ (xferOf (s.ctx site0 0x20 w)).hint = false ∧
     ((s.core 0).aheadOf 0 w).any (!·.dropped) = true) ∧
    fetched (clean0 (mapped (shared (next0 0x20 wLine ring0) 0))) wLine ∧
    fetched (shared (next0 0x20 (wFetch [(32, 1)]) ring0) 0) (wFetch [(32, 1)]) := by
  refine ⟨⟨ready0 ?_, ?_, ?_, ?_, ?_⟩, ⟨ready0 ?_, ?_, ?_, ?_⟩, ⟨ready0 ?_, ?_, ?_, ?_, ?_, allGot ?_, .inl rfl⟩,
    ready0 ?_, ?_, ?_, ?_, ?_, allGot ?_, .inr ⟨rfl, _, _, triple ?_⟩⟩ <;> decide

def isOkX (r : Xl × State) : Bool :=
  match r.1 with
  | .ok _ _ => true
  | .bad _ => false

def paX (r : Xl × State) : Nat :=
  match r.1 with
  | .ok pa _ => pa
  | .bad _ => 0

def naX (r : Xl × State) : Bool :=
  match r.1 with
  | .ok _ na => na
  | .bad _ => false

theorem okX {r : Xl × State} (h : isOkX r = true) : r = (.ok (paX r) (naX r), r.2) := by
  obtain ⟨a, b⟩ := r
  cases a
  · rfl
  · cases h

/-- The unit of a STORE, as its statement has it. -/
abbrev storeUnit (w : CmdWord) (f : Xfer) (x : Ctx) (p q : State) (o : List MB) : Prop :=
  o = x.once ∧ let e := nth (0, 0) f.lines x.unit; ∃ d p1, take p x w.qa e.2 = .got d p1 ∧
    (f.space = 1 → ∃ c, (p1.cluster 0).writeLine e.1 e.2 (wordsOf d) = (false, c) ∧ q = p1.updCluster 0 fun _ => c) ∧
    (f.space = 0 → (sectorsOf e.1 e.2).length ≤ p.trackerRoom x.c ∧
      ∃ pa na p2, p1.translate (.core 0) (BitVec.ofNat 48 e.1) .w = (.ok pa na, p2) ∧ q = p2.sendStore x pa na (storeParts e.1 e.2 (wordsOf d)))

set_option maxRecDepth 8000 in
theorem test_store_statement_met :
    (let w := wStore []
     let s := mapped (next0 0x21 w)
     let x := s.ctx site0 0x21 w
     Ready s site0 0x21 w ∧ storeOk s x = true ∧ ∃ u, InUnits (xferOf x).lines.length x (storeUnit w (xferOf x)) (s.mark x 1) u) ∧
    (let w := wStore [(32, 1)]
     let s := shared (next0 0x21 w) 0
     let x := s.ctx site0 0x21 w
     Ready s site0 0x21 w ∧ storeOk s x = true ∧ ∃ u, InUnits (xferOf x).lines.length x (storeUnit w (xferOf x)) (s.mark x 1) u) := by
  constructor
  · refine ⟨ready0 ?_, ?_, _, one_unit ?_ ⟨rfl, _, _, rfl, fun h => ?_, fun _ => ⟨?_, _, _, _, okX ?_, rfl⟩⟩⟩
    · decide
    · decide
    · decide
    · cases h
    · decide
    · decide
  · refine ⟨ready0 ?_, ?_, _, one_unit ?_ ⟨rfl, _, _, rfl, fun _ => ⟨_, pair ?_, rfl⟩, fun h => ?_⟩⟩
    · decide
    · decide
    · decide
    · decide
    · cases h

/-- A move of granules that issues, for which there are `g` granules on both sides and `d` behind them. -/
abbrev moves (s : State) (op : Byte) (w : CmdWord) (l : BitVec 4) : Prop :=
  let x := s.ctx site0 op w
  let m := s.mark x 1
  let g := m.granulesIn x w.qa (moveLen w) ⊓ m.granulesOut x w.qo (moveLen w)
  Ready s site0 op w ∧ isLink l = true ∧ moveOk s x = true ∧ g ≠ 0 ∧ ∃ bs u, take m x w.qa (8 * g) = .got bs u

theorem test_send_recv_statement_met :
    moves (linked (next0 0x22 (wSend 1))) 0x22 (wSend 1) 10 ∧
    (let s := linked (next0 0x22 (wSend 100))
     let x := s.ctx site0 0x22 (wSend 100)
     moves s 0x22 (wSend 100) 10 ∧ (s.mark x 1).granulesIn x 15 100 ⊓ (s.mark x 1).granulesOut x 10 100 < 100) ∧
    moves ((linked (next0 0x23 wRecv)).append 0 10 [{}, {}]) 0x23 wRecv 10 := by
  refine ⟨⟨ready0 ?_, ?_, ?_, ?_, _, _, rfl⟩, ⟨⟨ready0 ?_, ?_, ?_, ?_, _, _, rfl⟩, ?_⟩, ready0 ?_, ?_, ?_, ?_, _, _, rfl⟩ <;> decide

theorem test_racc_statement_met :
    let w := wRacc
    let s := next0 0x24 w
    let x := s.ctx site0 0x24 w
    let f := raccF x
    Ready s site0 0x24 w ∧ raccOk s x = true ∧ ∃ u,
      InUnits f.pieces.length { x with acks := f.pieces.length } (fun x p q o => o = x.once ∧ let e := nth (0, 0) f.pieces x.unit
        ∃ bs p1, take p x w.qa e.2 = .got bs p1 ∧ let d := raccData f.form f.retract bs
          q = (p1.want (f.packet d.1 e) (.racc site0)).updCore 0 (·.effect d.2)) (s.mark x 1) u := by
  refine ⟨ready0 ?_, ?_, _, one_unit ?_ ⟨rfl, _, _, rfl, rfl⟩⟩ <;> decide

/-! ### Vector commands: one row from Q15 to Q15 -/

def wV (sub fa fb fo len rows : Nat) (rest : List (Nat × Nat)) : CmdWord :=
  w15 ([(32, sub), (40, fa), (44, fb), (48, fo), (52, len - 1), (68, rows), (92, 15)] ++ rest)
def vewW : CmdWord := wV 2 2 2 2 3 1 []
def vewB : CmdWord := wV 34 2 2 2 3 1 []
def vunW : CmdWord := wV 12 3 3 3 1 1 []
def vredW : CmdWord := wV 4 3 3 3 2 1 []
def vcvtW : CmdWord := wV 0 9 3 3 2 1 []
def normR : CmdWord := wV 0 3 3 3 2 1 []
def normA : CmdWord := wV 1 3 3 3 2 1 []
def inlineA : CmdWord := wV 5 3 3 3 2 1 []
def vropeW : CmdWord := wV 0 3 3 3 2 1 [(96, 0x3F800000)]
def vsplitW : CmdWord := wV 2 3 3 3 2 1 []
def vslrecW : CmdWord := { wV 2 15 3 3 16 1 [] with qa := 0 }
/-- Two tile records of FP64 in Q0. -/
def slices0 (c : Core) : Core :=
  let r : List QW := ⟨0x5000, false⟩ :: List.replicate 515 {}
  { c with rings := [(0, { size := 100, data := r ++ r })] }
def vbxW : CmdWord := wV 1 8 8 8 32 1 []

/-- A vector command of one unit issues with this word, and its unit goes through. -/
abbrev vopMet (op : Byte) (n : Vop → Nat) (ok : State → Ctx → Bool) (w : CmdWord)
    (unit : CmdWord → Vop → Nat → Ctx → State → State → List MB → Prop) (f : Core → Core := id) : Prop :=
  let s := next0 op w f
  let x := s.ctx site0 op w
  let v := vopOf w
  Ready s site0 op w ∧ ok s x = true ∧
    ∃ u, InUnits (v.units (n v)) x (fun x p q o => unit w (v.part (n v) x.unit) (x.unit * n v) x p q o) (s.mark x 1) u

/-- The unit of VEW, as its statement has it. -/
abbrev vewUnit : CmdWord → Vop → Nat → Ctx → State → State → List MB → Prop :=
  fun w v _ x p q o => ∃ a p1 bb p2, takeA p x v = .got a p1 ∧
    (if v.bcast then takeOnce p1 x w.qb v.bNeed else take p1 x w.qb v.bNeed) = .got bb p2 ∧ o = (if v.bcast then bb else []) ∧
    let bs := (chunk (v.fb.rowBytes v.bLen) bb).map (v.fb.decodeRow v.bLen)
    Gives x w.qo (vewOut v w.rtz p2.fresh a.1 bs) ((a.2.add (rowsEff a.1)).add (if v.useB then rowsEff bs else {}))
      (v.rows * v.rowlen) p2 q

/-- The unit of VUN, as its statement has it. -/
abbrev vunUnit : CmdWord → Vop → Nat → Ctx → State → State → List MB → Prop :=
  fun w v _ x p q o => o = x.once ∧ ∃ a p1, takeA p x v = .got a p1 ∧
    Gives x w.qo (vunOut v w.rtz p1.fresh a.1) (a.2.add (rowsEff a.1)) (v.rows * v.rowlen) p1 q

/-- The unit of VRED, as its statement has it. -/
abbrev vredUnit : CmdWord → Vop → Nat → Ctx → State → State → List MB → Prop :=
  fun w v _ x p q o => o = x.once ∧ ∃ a p1 bs p2, takeA p x v = .got a p1 ∧
    takeRows p1 x w.qb v.fb v.dotRows v.rowlen = .got bs p2 ∧
    Gives x w.qo (vredOut v w.rtz p2.fresh a.1 bs) ((a.2.add (rowsEff a.1)).add (rowsEff bs)) v.rows p2 q

/-- The unit of VCVT, as its statement has it. -/
abbrev vcvtUnit : CmdWord → Vop → Nat → Ctx → State → State → List MB → Prop :=
  fun w v _ x p q o => o = x.once ∧ ∃ a p1, takeA p x v = .got a p1 ∧
    Gives x w.qo (vcvtOut v w.rtz a.1) (a.2.add (rowsEff a.1)) 0 p1 q

/-- The unit of VNORM, as its statement has it. -/
abbrev vnormUnit : CmdWord → Vop → Nat → Ctx → State → State → List MB → Prop :=
  fun w v _ x p q o =>
    (v.sb 0 = true → ∃ gb p1 a p2, takeOnce p x w.qb (vnormQb v * v.fb.rowBytes v.rowlen) = .got gb p1 ∧ o = gb ∧
      takePassA p1 x v (v.sb 2) false 8 = .got a p2 ∧ let gs := (chunk (v.fb.rowBytes v.rowlen) gb).map (v.fb.decodeRow v.rowlen)
      Gives x w.qo (vnormOut v w.rtz p2.fresh gs a.1) ((a.2.add (passEff a.1)).add (rowsEff gs)) 0 p2 q) ∧
    (v.sb 0 = false → o = x.once ∧ ∃ a p1, takePassA p x v false false 0 = .got a p1 ∧ let recs := vnormRecs v w.rtz a.1
      p1.room x v.qs (recs.flatMap (·.1)).length = true ∧ Gives x w.qo (inlineRows (v.sb 2) recs a.1, {})
        ((a.2.add (passEff a.1)).add (effSum (recs.map (·.2)))) 0 (p1.push x v.qs (recs.flatMap (·.1))) q)

/-- The unit of VNORMB, as its statement has it. -/
abbrev vnormbUnit : CmdWord → Vop → Nat → Ctx → State → State → List MB → Prop :=
  fun w v _ x p q o => o = x.once ∧
    (v.sb 0 = true → ∃ a p1, takePassA p x v (v.sb 2) true 16 = .got a p1 ∧
      Gives x w.qo (vnormbOut v w.rtz p1.fresh a.1) (a.2.add (passEff a.1)) 0 p1 q) ∧
    (v.sb 0 = false → ∃ a p1, takePassA p x v false true 8 = .got a p1 ∧ let recs := vnormbRecs v w.rtz a.1
      Gives x w.qo (recRows (v.sb 2) recs a.1, effSum (recs.map (·.2))) (a.2.add (passEff a.1)) 0 p1 q)

/-- The unit of VSMAX, as its statement has it. -/
abbrev vsmaxUnit : CmdWord → Vop → Nat → Ctx → State → State → List MB → Prop :=
  fun w v _ x p q o => o = x.once ∧
    (v.sb 0 = true → ∃ a p1, takePassA p x v (v.sb 2) false 8 = .got a p1 ∧
      Gives x w.qo (vsmaxOut v w.rtz p1.fresh a.1) (a.2.add (passEff a.1)) (smaxUsed v) p1 q) ∧
    (v.sb 0 = false → ∃ a p1, takePassA p x v false false 0 = .got a p1 ∧ let recs := vsmaxRecs v w.rtz p1.fresh a.1
      p1.room x v.qs (recs.flatMap (·.1)).length = true ∧ Gives x w.qo (inlineRows (v.sb 2) recs a.1, {})
        ((a.2.add (passEff a.1)).add (effSum (recs.map (·.2)))) (smaxUsed v) (p1.push x v.qs (recs.flatMap (·.1))) q)

/-- The unit of VSMAXB, as its statement has it. -/
abbrev vsmaxbUnit : CmdWord → Vop → Nat → Ctx → State → State → List MB → Prop :=
  fun w v _ x p q o => o = x.once ∧
    (v.sb 0 = true → ∃ a p1, takePassA p x v (v.sb 2) true 16 = .got a p1 ∧
      Gives x w.qo (vsmaxbOut v w.rtz p1.fresh a.1) (a.2.add (passEff a.1)) (smaxUsed v) p1 q) ∧
    (v.sb 0 = false → ∃ a p1, takePassA p x v false true 8 = .got a p1 ∧ let recs := vsmaxbRecs v w.rtz p1.fresh a.1
      Gives x w.qo (recRows (v.sb 2) recs a.1, effSum (recs.map (·.2))) (a.2.add (passEff a.1)) (smaxUsed v) p1 q)

/-- The unit of VSTATM, as its statement has it. -/
abbrev vstatmUnit : CmdWord → Vop → Nat → Ctx → State → State → List MB → Prop :=
  fun w v _ x p q o => o = x.once ∧ ∃ a p1 b p2,
    take p x w.qa (8 * v.rows) = .got a p1 ∧ take p1 x w.qb (8 * v.rows) = .got b p2 ∧ let outs := vstatmRecs v w.rtz p2.fresh a b
    p2.room x w.qo (outs.flatMap (·.1.1)).length = true ∧
      Gives x v.qs (if v.sb 1 then outs.flatMap (·.2.1) else [], if v.sb 1 then effSum (outs.map (·.2.2)) else {})
        (({ ps := anyPoison a || anyPoison b } : Eff).add (effSum (outs.map (·.1.2)))) (3 * v.rows)
        (p2.push x w.qo (outs.flatMap (·.1.1))) q

/-- The unit of VROPE, as its statement has it. -/
abbrev vropeUnit : CmdWord → Vop → Nat → Ctx → State → State → List MB → Prop :=
  fun w v r x p q o => o = x.once ∧ ∃ a p1, takeA p x v = .got a p1 ∧
    Gives x w.qo (vropeOut v w.rtz p1.fresh (fun i => ropePos x (r + i)) a.1) (a.2.add (rowsEff a.1)) (v.rows * v.rowlen) p1 q

/-- The unit of VDROP, as its statement has it. -/
abbrev vdropUnit : CmdWord → Vop → Nat → Ctx → State → State → List MB → Prop :=
  fun w v r x p q o => o = x.once ∧ ∃ a p1, takeA p x v = .got a p1 ∧
    Gives x w.qo (vdropOut v w.rtz p1.fresh (x.cnt (v.s 3 1)) (x.cnt (v.s 6 4) + w32 r) a.1) (a.2.add (rowsEff a.1)) 0 p1 q

/-- The unit of VSPLIT, as its statement has it. -/
abbrev vsplitUnit : CmdWord → Vop → Nat → Ctx → State → State → List MB → Prop :=
  fun w v _ x p q o => o = x.once ∧ ∃ a p1, takeA p x v = .got a p1 ∧
    let ls := a.1.map (splitLine (v.s 3 0))
    p1.room x v.qs (vsplitExps ls).length = true ∧
      Gives x w.qo (vsplitOut v ls, {}) (a.2.add (effSum (ls.map (·.eff)))) 0 (p1.push x v.qs (vsplitExps ls)) q

/-- The unit of VSLREC, as its statement has it. -/
abbrev vslrecUnit : CmdWord → Vop → Nat → Ctx → State → State → List MB → Prop :=
  fun w v _ x p q o => o = x.once ∧ ∃ ts p1,
    takeTiles x (v.s 3 0) v.rows [] {} p = .got ts p1 ∧
    Gives x w.qo (outRows v.fo w.rtz false p1.fresh ts.1) (ts.2.add { ps := ts.1.any fun t => t.any (·.2) }) 0 p1 q

/-- The unit of VBXADD, as its statement has it. -/
abbrev vbxaddUnit : CmdWord → Vop → Nat → Ctx → State → State → List MB → Prop :=
  fun w v _ x p q o => o = x.once ∧ ∃ a p1 b p2,
    take p x w.qa v.bxBytes = .got a p1 ∧ take p1 x w.qb v.bxBytes = .got b p2 ∧
    Gives x w.qo (vbxaddOut (decide (v.sub = 1)) w.rtz a b) {} 0 p2 q

set_option maxRecDepth 16000 in
theorem test_elementwise_statement_met :
    vopMet 0x40 Vop.rowStep vewOk vewW vewUnit ∧
    vopMet 0x40 Vop.rowStep vewOk vewB vewUnit ∧
    vopMet 0x41 Vop.rowStep vunOk vunW vunUnit ∧
    vopMet 0x42 Vop.rowStep vredOk vredW vredUnit ∧
    vopMet 0x43 Vop.cvtStep vcvtOk vcvtW vcvtUnit := by
  refine ⟨⟨ready0 ?_, ?_, _, one_unit ?_ ⟨_, _, _, _, rfl, rfl, rfl, ⟨?_, rfl⟩⟩⟩,
    ⟨ready0 ?_, ?_, _, one_unit ?_ ⟨_, _, _, _, rfl, rfl, rfl, ⟨?_, rfl⟩⟩⟩,
    ⟨ready0 ?_, ?_, _, one_unit ?_ ⟨rfl, _, _, rfl, ⟨?_, rfl⟩⟩⟩,
    ⟨ready0 ?_, ?_, _, one_unit ?_ ⟨rfl, _, _, _, _, rfl, rfl, ⟨?_, rfl⟩⟩⟩,
    ⟨ready0 ?_, ?_, _, one_unit ?_ ⟨rfl, _, _, rfl, ⟨?_, rfl⟩⟩⟩⟩ <;> decide

set_option maxRecDepth 16000 in
theorem test_norm_statement_met :
    vopMet 0x44 Vop.rowStep vnormOk normR vnormUnit ∧
    vopMet 0x44 Vop.rowStep vnormOk normA vnormUnit ∧
    vopMet 0x45 Vop.rowStep vnormbOk normR vnormbUnit ∧
    vopMet 0x45 Vop.rowStep vnormbOk normA vnormbUnit := by
  refine ⟨⟨ready0 ?_, ?_, _, one_unit ?_ ⟨fun h => (by cases h), fun _ => ⟨rfl, _, _, rfl, ?_, ⟨?_, rfl⟩⟩⟩⟩,
    ⟨ready0 ?_, ?_, _, one_unit ?_ ⟨fun _ => ⟨_, _, _, _, rfl, rfl, rfl, ⟨?_, rfl⟩⟩, fun h => (by cases h)⟩⟩,
    ⟨ready0 ?_, ?_, _, one_unit ?_ ⟨rfl, fun h => (by cases h), fun _ => ⟨_, _, rfl, ⟨?_, rfl⟩⟩⟩⟩,
    ⟨ready0 ?_, ?_, _, one_unit ?_ ⟨rfl, fun _ => ⟨_, _, rfl, ⟨?_, rfl⟩⟩, fun h => (by cases h)⟩⟩⟩ <;> decide

set_option maxRecDepth 16000 in
theorem test_softmax_statement_met :
    vopMet 0x46 Vop.rowStep vsmaxOk normR vsmaxUnit ∧
    vopMet 0x46 Vop.rowStep vsmaxOk normA vsmaxUnit ∧
    vopMet 0x46 Vop.rowStep vsmaxOk inlineA vsmaxUnit ∧
    vopMet 0x47 Vop.rowStep vsmaxbOk normR vsmaxbUnit ∧
    vopMet 0x47 Vop.rowStep vsmaxbOk normA vsmaxbUnit ∧
    vopMet 0x48 (fun _ => 1) vstatmOk normR vstatmUnit := by
  refine ⟨⟨ready0 ?_, ?_, _, one_unit ?_ ⟨rfl, fun h => (by cases h), fun _ => ⟨_, _, rfl, ?_, ⟨?_, rfl⟩⟩⟩⟩,
    ⟨ready0 ?_, ?_, _, one_unit ?_ ⟨rfl, fun _ => ⟨_, _, rfl, ⟨?_, rfl⟩⟩, fun h => (by cases h)⟩⟩,
    ⟨ready0 ?_, ?_, _, one_unit ?_ ⟨rfl, fun _ => ⟨_, _, rfl, ⟨?_, rfl⟩⟩, fun h => (by cases h)⟩⟩,
    ⟨ready0 ?_, ?_, _, one_unit ?_ ⟨rfl, fun h => (by cases h), fun _ => ⟨_, _, rfl, ⟨?_, rfl⟩⟩⟩⟩,
    ⟨ready0 ?_, ?_, _, one_unit ?_ ⟨rfl, fun _ => ⟨_, _, rfl, ⟨?_, rfl⟩⟩, fun h => (by cases h)⟩⟩,
    ⟨ready0 ?_, ?_, _, one_unit ?_ ⟨rfl, _, _, _, _, rfl, rfl, ?_, ⟨?_, rfl⟩⟩⟩⟩ <;> decide

set_option maxRecDepth 16000 in
theorem test_rotate_drop_split_statement_met :
    vopMet 0x49 Vop.rowStep vropeOk vropeW vropeUnit ∧
    vopMet 0x4A Vop.rowStep vdropOk vropeW vdropUnit ∧
    vopMet 0x4B Vop.splitStep vsplitOk vsplitW vsplitUnit ∧
    vopMet 0x4C (fun _ => 1) vslrecOk vslrecW vslrecUnit slices0 ∧
    vopMet 0x4D (fun _ => 1) vbxaddOk vbxW vbxaddUnit := by
  refine ⟨⟨ready0 ?_, ?_, _, one_unit ?_ ⟨rfl, _, _, rfl, ⟨?_, rfl⟩⟩⟩,
    ⟨ready0 ?_, ?_, _, one_unit ?_ ⟨rfl, _, _, rfl, ⟨?_, rfl⟩⟩⟩,
    ⟨ready0 ?_, ?_, _, one_unit ?_ ⟨rfl, _, _, rfl, ?_, ⟨?_, rfl⟩⟩⟩,
    ⟨ready0 ?_, ?_, _, one_unit ?_ ⟨rfl, _, _, rfl, ⟨?_, rfl⟩⟩⟩,
    ⟨ready0 ?_, ?_, _, one_unit ?_ ⟨rfl, _, _, _, _, rfl, rfl, ⟨?_, rfl⟩⟩⟩⟩ <;> decide

/-! ### Events of the cores and of memory -/

def isOk {ε α β : Type} (r : Except ε α × β) : Bool :=
  match r.1 with
  | .ok _ => true
  | .error _ => false

theorem answered {ε α β : Type} {r : Except ε α × β} (h : isOk r = true) : ∃ a u, r = (.ok a, u) := by
  obtain ⟨a, b⟩ := r
  cases a
  · cases h
  · exact ⟨_, _, rfl⟩

theorem refused {ε α β : Type} {r : Except ε α × β} (h : isOk r = false) : ∃ a u, r = (.error a, u) := by
  obtain ⟨a, b⟩ := r
  cases a
  · exact ⟨_, _, rfl⟩
  · cases h

/-- Slot 0 RUNNING, with none or one line of the instruction cache. -/
def missing : State := { live with mem := { clean := [(0, true)] }, cores := [(0, { slots := [(0, { st := 1 })] })] }
def holding : State := { next0 0x08 wCset with mem := { clean := [(0, true)] } }

/-- No slot's next word has a reserved opcode, as the statement has it. -/
abbrev known (v : State) : Prop := ∀ n, n < 4 → ∀ y, (v.core 0).nextWord n = some y → (cmdOf y.1).isSome = true

def isKnown (v : State) : Bool :=
  (List.range 4).all fun n => match (v.core 0).nextWord n with
    | some y => (cmdOf y.1).isSome
    | none => true

theorem known0 {v : State} (h : isKnown v = true) : known v := by
  simp only [isKnown, List.all_eq_true, List.mem_range] at h
  intro n hn y hy
  have := h n hn
  rw [hy] at this
  exact this

/-- The state in which a miss fetches its line. -/
def missed (s : State) : State := ((s.updCore 0 (·.count 0x310 1)).demandLine site0).specLine 0 0 64

theorem test_icache_statement_met :
    (∀ s ∈ [missing, mapped missing], Quiet s 0 ∧ (s.core 0).fenced = false ∧ (s.slotAt site0).st = 1 ∧ (s.slotAt site0).group = none ∧
      (s.core 0).iline 0 0 = none ∧ known (missed s)) ∧
    (Quiet (mapped holding) 0 ∧ ((mapped holding).core 0).fenced = false ∧ ((mapped holding).slotAt site0).st = 1 ∧
      ((mapped holding).slotAt site0).group = none ∧ ((mapped holding).core 0).iline 0 0 ≠ none ∧
      known (((mapped holding).updCore 0 (·.dropIline 0 0)).demandLine site0) ∧
      known (((mapped holding).updCore 0 (·.dropIline 0 0)).failSlot site0 0 { status := stPoisoned })) ∧
    (∃ ws u, ((mapped missing).updCore 0 (·.count 0x310 1)).fetchLine 0 0 = (.ok ws, u)) ∧
    (∃ i u, (missing.updCore 0 (·.count 0x310 1)).fetchLine 0 0 = (.error i, u)) ∧
    (∃ ws u, ((mapped holding).updCore 0 (·.dropIline 0 0)).fetchLine 0 0 = (.ok ws, u)) := by
  refine ⟨?_, ⟨quiet0 ?_, ?_, ?_, ?_, ?_, known0 ?_, known0 ?_⟩, answered ?_, refused ?_, answered ?_⟩
  · intro s hs
    simp only [List.mem_cons, List.not_mem_nil, or_false] at hs
    rcases hs with rfl | rfl <;> refine ⟨quiet0 ?_, ?_, ?_, ?_, ?_, known0 ?_⟩ <;> decide
  all_goals decide

/-- Run-ahead scans past a CSET for the FETCH behind it. -/
def scanning (w : CmdWord) : State :=
  running [(0x08, wCset), (0x20, w)] fun c => { ring0 c with ctrl := 0x41 }
abbrev xAhead (s : State) (w : CmdWord) : Ctx := s.aheadCtx 0 16 w
abbrev scanned (s : State) (w : CmdWord) (r : Scanned) : Prop :=
  let c := s.core 0
  bit c.ctrl 0 = true ∧ c.fenced = false ∧ (c.slot 0).st = 1 ∧ s.storesDone site0 = true ∧ (c.slot 0).swap = none ∧ (∀ r ∈ c.runs, r.op ≠ 0x21) ∧
  s.scanAhead 0 0 16 w (16 * bits c.ctrl 8 4) (s.scanStart 0) = r ∧
  (xferOf (xAhead s w)).pushed ≤ s.creditWords 0 0 * 4 ∧ c.clogged 0 = false

def deaf (s : State) : State := { s with xl := { tbs := [(0, [{ base := 0, giant := false, pte := 1 }])] } }

theorem isSome' {α : Type} {o : Option α} (h : o.isSome = true) : ∃ u, o = some u := by
  cases o
  · cases h
  · exact ⟨_, rfl⟩

theorem test_run_ahead_statement_met :
    (let s := scanning wLine
     scanned s wLine (.page 16)) ∧
    (let s := deaf (scanning wLine)
     scanned s wLine .found ∧ s.spanOf 0 (xferOf (xAhead s wLine)) = .dropped) ∧
    (let s := clean0 (mapped (scanning wLine))
     let x := xAhead s wLine
     scanned s wLine .found ∧ s.spanOf 0 (xferOf x) = .open_ ∧ fetchOk s x = true ∧
     ∃ u, (s.updCore 0 fun c => { c with ahead := [] }).fetchAhead x = some u) := by
  refine ⟨?_, ⟨?_, ?_⟩, ?_, ?_, ?_, isSome' ?_⟩ <;> decide

def link0 : Push := { src := 0, srcQ := 10, dst := 1, dstQ := 10, origin := { slot := 0, opcode := 0x22, ptr := 0, loops := [] }, data := [{}] }
def tok0 : Tok := { src := some site0, target := 1, tc := 7, n := 3 }
def ack0 (st : Status) : StoreAck := { site := site0, va := 0, status := st, wid := 0 }
def sent (n : Net) : State := { live with net := n }
/-- The peer of core 0 is fenced. -/
def fenced (s : State) (k : Nat) : State := { s with cores := [(k, { fenced := true })] }

abbrev acked (st : Status) : Prop :=
  [ack0 st].find? (fun a => decide (a.site = site0) && !(([] : List Inval).any fun i =>
    decide ((i.wid = a.wid ∧ a.wid ≠ 0) ∨ (i.line = a.line ∧ i.seq < a.seq)))) = some (ack0 st)

theorem test_arrival_statement_met :
    (let s := sent { tokens := [tok0] }
     s.net.tokens.find? (fun t => decide (t.src = some site0 ∧ t.target = 1)) = some tok0 ∧ s.turnedTo (.core 0) 1 = none) ∧
    (let s := sent { pushes := [link0] }
     s.oldestPush 0 0 = some link0 ∧ s.turnedTo (.core 0) 1 = none) ∧
    (((sent { acks := [ack0 stOk] }).core 0).fenced = false ∧ acked stOk ∧ acked stImageLocked) := by
  refine ⟨?_, ?_, ?_, ?_, ?_⟩ <;> decide

/-- A seam side that is gated turns back what would cross. -/
def stilled (s : State) : State := { s with halves := [(0, { seamStilled := true }), (1, { seamStilled := true })] }
def far0 : Tok := { tok0 with target := 4095 }

theorem test_bounce_statement_met :
    (let s := fenced (sent { pushes := [link0], tokens := [tok0] }) 1
     s.oldestPush 0 0 = some link0 ∧ s.turnedTo (.core 0) 1 = some (.router 0) ∧ (s.core 0).fenced = false ∧
     s.net.tokens.find? (fun t => decide (t.src = some site0 ∧ t.target = 1)) = some tok0) ∧
    (let p : Push := { link0 with told := true }; let s := fenced (sent { pushes := [p] }) 1
     s.oldestPush 0 0 = some p ∧ p.told = true ∧ link0.told = false) ∧
    (let s := stilled (sent { tokens := [far0] })
     s.net.tokens.find? (fun t => decide (t.src = some site0 ∧ t.target = 4095)) = some far0 ∧ s.turnedTo (.core 0) 4095 = some (.seam 0)) ∧
    (let s := fenced (sent { acks := [ack0 0] }) 0
     s.fencedCore 0 = true ∧ s.net.acks.find? (fun a => decide (a.site.core = 0)) = some (ack0 0)) ∧
    (let s := sent { returning := [tok0] }
     (s.core 0).fenced = false ∧ s.net.returning.find? (fun t => decide (t.src = some site0 ∧ t.target = 1)) = some tok0) ∧
    live.hasCore 4095 = true ∧ (live.core 4095).fenced = false := by
  refine ⟨?_, ?_, ?_, ?_, ?_, ?_, ?_⟩ <;> decide

def pf0 : Stream := { start := 0, rows := [(0, 64)] }
def csu0 : Csu := { streams := [(0, some pf0)] }
def req0 : PfReq := { stream := 0, line := 0, sectors := 1, data := [] }
def leaf (s : State) : State := { s with xl := { tbs := [(4096, [{ base := 0, giant := false, pte := 0x3D }])] } }
def win0 : MWin := { line := 0, write := true, sectors := 3 }
def streaming (c : Csu) : State := { live with csus := [(0, c)] }

def isBad (r : Xl × State) : Bool :=
  match r.1 with
  | .bad _ => true
  | .ok _ _ => false

theorem bad {r : Xl × State} (h : isBad r = true) : ∃ a u, r = (.bad a, u) := by
  obtain ⟨a, b⟩ := r
  cases a
  · cases h
  · exact ⟨_, _, rfl⟩

theorem good {r : Xl × State} (h : isBad r = false) : ∃ a b u, r = (.ok a b, u) := by
  obtain ⟨a, b⟩ := r
  cases a
  · exact ⟨_, _, _, rfl⟩
  · cases h

/-- The root table's first entries lead to a leaf for the first 2 MiB: root at 4 KiB, each next table behind it. -/
def tables : State :=
  { live with
    mem := { bytes := [(0x1000, 0x01), (0x1001, 0x20), (0x2000, 0x01), (0x2001, 0x30), (0x3000, 0x3F)],
             clean := [(64, true), (128, true), (192, true)] }
    xl := { rootLo := 0x1001 } }

theorem test_stream_unit_statement_met :
    (∀ s ∈ [streaming csu0, leaf (streaming csu0)],
      SMap.get none (s.csu 0).streams 0 = some pf0 ∧ pf0.stopped = false ∧ bits (s.csu 0).cfg 27 16 ≠ 0) ∧
    (∃ c u, (streaming csu0).translate (.csu 0) 0 .r = (.bad c, u)) ∧
    (let c := (leaf (streaming csu0)).csu 0; let units := (leaf (streaming csu0)).csuUnits 0
     let secs := (lineSectors 0 64).filter fun i => !c.has 0 i
     secs ≠ [] ∧ c.held 0 + 64 * secs.length ≤ c.window units ∧ c.trackers + secs.length ≤ bits c.cfg 27 16 ∧
     (leaf (streaming csu0)).trackersIn 0 + (leaf (streaming csu0)).demandNeed 0 + secs.length ≤ 3072 ∧ (leaf (streaming csu0)).pfCan 0 0 = true ∧
     (leaf (streaming csu0)).pfNext 0 = some 0 ∧ (leaf (streaming csu0)).storePending 0 0 = false ∧
     (c.makeRoom units ((leaf (streaming csu0)).frameRoom 0) 0).isSome = true) ∧
    (∃ pa n u, (leaf (streaming csu0)).translate (.csu 0) 0 .r = (.ok pa n, u)) ∧
    (let s := leaf (streaming { streams := [(0, some pf0), (1, some { pf0 with start := 0x1000, rows := [(0x1000, 64)] })] })
     s.pfCan 0 1 = true ∧ s.pfNext 0 = some 0) ∧
    ((streaming { inflight := [req0] }).csu 0).inflight = [req0] ∧ req0.cancelled = false ∧ req0.stale = false ∧ req0.answer .data = .data ∧
    (streaming csu0).net.invals = [] ∧ ((streaming csu0).csu 0).win 0 false = none ∧
    ((streaming { wins := [win0] }).csu 0).win 0 true = some win0 ∧
    (let i : Inval := { csu := 0, line := 0, evict := false, wid := 0, seq := 0 }
     let s := sent { invals := [i] }
     s.net.invals.find? (fun i => decide (i.csu = 0 ∧ i.line = 0)) = some i ∧
     (s.csu 0).inflight.any (fun r => decide (r.line = 0 ∧ r.seq < i.seq ∧ r.status = stOk)) = false) ∧
    tables.hasRequester (.core 0) = true ∧ tables.mayWalk (.core 0) 0 = true ∧ tables.resident (.core 0) 0 = none ∧
    (∃ pa n u, tables.translate (.core 0) 0 .r = (.ok pa n, u)) := by
  refine ⟨?_, bad ?_, ?_, good ?_, ?_, ?_, ?_, ?_, ?_, ?_, ?_, ?_, ?_, ?_, ?_, ?_, good ?_⟩ <;> decide

/-! ### Memory, the seam, shaft time -/

def mc0 (c : Channel) (m : Mc := {}) : State := { live with mcs := [(0, { m with st := 1, chans := [(0, c)] })] }

theorem test_sector_statement_met :
    (let m : Mem := { bytes := [(3, 7)], clean := [(0, true)] }
     m.wf = true ∧ (m.writeSector 0 1 [⟨5, false⟩]).read 0 = 5 ∧ (m.writeSector 0 1 [⟨5, true⟩]).poisoned 0 = true ∧ m.poisoned 0 = false ∧
     (m.writeSector 0 1 [⟨5, false⟩]).read 3 = 0) ∧
    (let s := mc0 { st := 2 }
     0 < s.capacity ∧ s.mcShut 0 = none ∧ (s.mc 0).st = 1 ∧ ((s.mc 0).chan 0).st = 2 ∧ s.mem.poisoned 0 = true ∧
     (s.mc 0).held 0 0 = none) ∧
    ({ mc0 { st := 2 } with mem := { clean := [(0, true)] } } : State).mem.poisoned 0 = false ∧
    (∀ d ∈ [(0 : BitVec 4), 1], let s := mc0 { st := 2 } { msc := [(0, { ways := [(0, { line := 0, valid := 1, dirty := d })] })] }
     s.mcShut 0 = none ∧ (s.mc 0).held 0 0 = some 0 ∧ ((s.mc 0).lineOf 0).any (·.dirty.getLsbD 0) = decide (d = 1)) := by
  refine ⟨?_, ?_, ?_, ?_⟩ <;> decide

def st0 : StoreSec := { site := site0, va := 0, pa := 0, noalloc := false, mask := 1, data := [⟨5, false⟩], req := some 0 }

theorem test_controller_statement_met :
    (let s := { mc0 { st := 2 } with net := { stores := [st0] } }
     s.net.stores.find? (fun t => decide (t.site = site0) && t.req.isSome) = some st0 ∧ s.firstWrite st0 = some 0 ∧
     s.net.stores.filter (fun u => decide (u.req = some 0)) = [st0] ∧ s.mcShut (s.place 0).stack = none ∧ s.locked 0 64 = false ∧
     ((s.mc 0).chan (channelOf (s.place 0).off)).st ≠ 4) ∧
    (((mc0 { st := 4 }).mc 0).chan 0).st = 4 ∧ (mc0 { st := 4 }).mcShut 0 = none ∧
    (let s := { missing with ctl := { images := [(0, { valid := true, ranges := [(0, 64)] })] } }
     s.locked 0 64 = true) ∧
    (let c : Channel := { st := 2, run := 8 }
     (mc0 c).hasStack 0 = true ∧ c.needing [] = [] ∧ c.needing [0] ≠ [] ∧ (c.repair [0]).isSome = true) ∧
    (let c : Channel := { st := 2, run := 8, spares := [(0, 1), (1, 2), (2, 3), (3, 4)] }
     c.needing [0] ≠ [] ∧ c.repair [0] = none) ∧
    live.hasStack 0 = true ∧ live.dormant = false := by
  refine ⟨?_, ?_, ?_, ?_, ?_, ?_, ?_, ?_⟩ <;> decide

def seam0 (f : Nat) : State :=
  { live with halves := [(0, { seamUp := true, seamActive := 1, seamCh := [(0, { fails := f })] }), (1, { seamUp := true, seamActive := 1 })] }
/-- A flow check of the half mesh whose words differ by one, and one whose words agree. -/
def obs0 (last : Bool) (p : BitVec 16) : AuditObs := { link := 0x10000000, p := p, h := 0, o := 0, r := 0, last := last }

theorem test_seam_and_audit_statement_met :
    (∀ f ∈ [0, 7, 8], (seam0 f).hasSeam = true ∧ ((seam0 f).half 0).seamUp = true ∧ ((seam0 f).half 0).seamStilled = false ∧
      (seam0 f).seamChannel 0 1 2 = some 0) ∧
    (let s : State := { live with halves := [(0, { auditing := some 3 })] }
     (s.half 0).auditing = some 3 ∧ s.poolSize 0 (obs0 false 1) = 1 ∧ s.poolSize 0 (obs0 false 0) = 0 ∧ s.auditSkips 0 (obs0 false 1).link = false ∧ auKind (obs0 false 1).link = 1 ∧
     s.auditSum 0 (obs0 false 1) ≠ s.poolSize 0 (obs0 false 1) ∧ s.auditSum 0 (obs0 false 0) = s.poolSize 0 (obs0 false 0)) ∧
    (let s := linked { live with halves := [(0, { auditing := some 3 })] }; let o : AuditObs := { obs0 false 0 with link := 0x50000000, r := 1 }
     s.auditSkips 0 o.link = false ∧ auKind o.link = 5 ∧ s.auditSum 0 o ≠ s.poolSize 0 o) := by
  refine ⟨?_, ?_, ?_⟩ <;> decide

theorem test_tick_statement_met :
    live.dormant = false ∧ ({ live with pwr := { st := 4 } } : State).dormant = true ∧ (0 : W32) < 5 ∧
    live.sh.count.toNat % 2 ^ 20 = 0 ∧ live.sh.turnSeen ≠ some live.sh.count := by decide

/-! ### Ports and lasers -/

/-- Port `n` alone. -/
def port (n : Nat) (p : Port) : State := { live with ports := [(n, p)] }

theorem test_training_statement_met :
    (port 0 { st := psDark }).hasPort 0 = true ∧ (port 0 { st := psDark }).hasPort 17 = true ∧
    ({ st := psDark } : Port).stage = 1 ∧ ({ st := psAcquire } : Port).stage = 2 ∧ ({ st := psDeskew } : Port).stage = 3 ∧
    ({ st := psIdent } : Port).stage = 4 ∧ ({ st := psResume, phase := 2 } : Port).stage = 2 ∧ ({ st := psResume, phase := 5 } : Port).stage = 5 ∧
    minLanes 0 ≤ ((wavelengths 0).filter fun l => (0xFF : BitVec 9).getLsbD l).length ∧
    minLanes 16 ≤ ((wavelengths 16).filter fun l => (1 : BitVec 9).getLsbD l).length ∧
    minLanes 0 ≤ (chooseLanes 0 (lanePasses (List.replicate 9 0))).1.length ∧ minLanes 0 ≤ (chooseLanes 0 0x1FE).1.length ∧
    ((List.range 9).filter fun l => decide ((({} : Port).lane l).rxLogical ≠ 15) && !(0 : BitVec 9).getLsbD l).length < minLanes 0 := by
  refine ⟨?_, ?_, ?_, ?_, ?_, ?_, ?_, ?_, ?_, ?_, ?_, ?_, ?_⟩ <;> decide

def ident0 : IdentFrame :=
  { serial := 9, devId := 3, port := 1, nonceOwn := 6, nonceEcho := 5, sigOk := true, keyHash := 7, shaft := 0 }

theorem test_identity_statement_met :
    (port 0 { st := psIdent, nonce := some 5, helloIn := true }).inIdent 0 = true ∧
    (port 16 { st := psIdent, nonce := some 5, helloIn := true }).inIdent 16 = true ∧
    (port 0 { st := psResume, phase := 4, nonce := some 5, helloIn := true, serial := 9, keyHash := 7 }).inIdent 0 = true ∧
    ident0.sigOk = true ∧ some ident0.nonceEcho = some 5 ∧
    ((port 17 { st := psResume, phase := 5, before := psActive, sent := [{ seq := 0, pool := 0, gives := 0, credits := 0, body := none }] }).hasPort 17 = true) ∧
    covered 0 0 = false := by
  refine ⟨?_, ?_, ?_, ?_, ?_, ?_, ?_⟩ <;> decide

def frame0 (crc : Bool) (seq : W32) : Frame :=
  { seq := seq, ack := 0, pool := 0, credits := 0, crcOk := crc, packet := true, bodyPool := 0, bytes := 64 }

theorem test_frame_statement_met :
    live.hasPort 0 = true ∧ (live.port 0).st = psActive ∧ (frame0 false 0).crcOk = false ∧ (frame0 true 3).seq ≠ (live.port 0).rxSeq ∧
    (frame0 true 0).seq = (live.port 0).rxSeq ∧ (live.port 0).queue = [] ∧ (live.port 0).sent = [] ∧
    (let f : W32 → Sent := fun n => { seq := n, pool := 0, gives := 0, credits := 0, body := none }
     let p : Port := { st := psActive, sent := [f 0, f 1], replays := 32 }
     p.sent.filter (fun x => !covered x.seq 1) ≠ [] ∧ (p.sent.filter (fun x => !covered x.seq 1)).length < p.sent.length) ∧
    (live.port 0).retained + frameBytes none ≤ 2 ^ 20 ∧ ({ st := psHeld } : Port).framed = true ∧ psHeld ≠ psActive := by
  refine ⟨?_, ?_, ?_, ?_, ?_, ?_, ?_, ?_, ?_, ?_, ?_⟩ <;> decide

theorem test_heartbeat_statement_met :
    (port 0 { st := psHeld, missed := 15 }).holdsPartner 0 = true ∧ (port 0 { st := psHeld, missed := 15 }).hbWindow ≤ 15 ∧
    0 < (port 0 { st := psHeld }).hbWindow ∧ (port 0 { st := psHeld }).hasPort 0 = true := by decide

/-- Port 0 in service, with logical lane 0 on λ1 in both directions. -/
def lit (p : Port) : State :=
  port 0 { p with st := psActive, lanes := [(1, { txLogical := 0, rxLogical := 0 }), (2, { txLogical := 1, rxLogical := 1 }), (8, { txState := lnSpare, rxState := lnSpare })] }

theorem test_lane_and_laser_statement_met :
    (lit {}).inService 0 = true ∧ (wavelengths 0).contains 1 = true ∧ (wavelengths 0).contains 8 = true ∧
    (((lit {}).port 0).lane 1).rxLogical ≠ 15 ∧ (((lit {}).port 0).lane 8).rxLogical = 15 ∧ (((lit {}).port 0).lane 8).txLogical = 15 ∧
    (lit {}).spareFree 0 = true ∧ (lit { moving := some 1 }).spareFree 0 = false ∧ ((lit {}).port 0).rxOf 0 = some 1 ∧
    ((lit {}).port 0).txOf 0 = some 1 ∧ 24 * 2 ^ 24 < (0x1000 : BitVec 25).toNat * 100000 ∧
    (let s : State := { live with fab := { lasers := [(0, { lit := true, aOk := true, bOk := true })] } }
     s.dormant = false ∧ (s.laser 0).lit = true ∧ (s.laser 0).useB = false ∧ s.groupPorts 0 ≠ []) ∧
    (let l : Laser := { starting := true, bOk := true }
     l.starting = true ∧ (l.aOk = true ∨ l.bOk = true)) := by
  refine ⟨?_, ?_, ?_, ?_, ?_, ?_, ?_, ?_, ?_, ?_, ?_, ?_, ?_⟩ <;> decide

/-! ### Fabric packets and the engines -/

/-- Device 5 in service: port 0 and the CEs hold a leaf for the first 2 MiB, whose first two sectors are clean. -/
def inService : State :=
  { live with
    fab := { devId := 5 }
    mem := { clean := [(0, true), (1, true)] }
    xl := { tbs := [(4160, [{ base := 0, giant := false, pte := 0x3F }]), (4162, [{ base := 0, giant := false, pte := 0x3F }])] } }

def hdr (addr : VA) (len : BitVec 13) (cls : BitVec 3 := 0) : FabHdr := { dstDev := 5, srcDev := 9, addr := addr, len := len, cls := cls, hops := 1 }

theorem reaches0 {s : State} {p : Pkt} (h : decide (s.takesIn 0 p.pool = true ∧ p.h.dstDev = s.fab.devId ∧ s.heldBack 0 = false ∧ s.inOrder p.h = true ∧
    s.isDown p.h.srcDev = false) = true) : Reaches s 0 p := by
  simp only [decide_eq_true_eq] at h
  exact ⟨h.1, h.2.1, h.2.2.1, h.2.2.2.1, h.2.2.2.2⟩

theorem found {α : Type} {r : Status × α} (h : r.1 = stOk) : r = (stOk, r.2) := by rw [← h]
theorem found3 {α γ : Type} {r : α × Status × γ} (h : r.2.1 = stOk) : r = (r.1, stOk, r.2.2) := by rw [← h]

theorem test_request_check_statement_met :
    Reaches inService 0 (bare opRead (hdr 0 64)) ∧ (bare opRead (hdr 0 64)).okRequest = true ∧ (bare opRead (hdr 4 64)).okRequest = false ∧
    (let s := { inService with sec := { down := [9] } }
     s.takesIn 0 (bare opRead (hdr 0 64)).pool = true ∧ s.heldBack 0 = false ∧ s.inOrder (hdr 0 64) = true ∧ s.isDown 9 = true) ∧
    missing.takesIn 3 (bare opRead (hdr 0 64)).pool = false := by
  refine ⟨reaches0 ?_, ?_, ?_, ?_, ?_⟩ <;> decide

theorem test_read_write_ping_statement_met :
    let s := inService
    let d := List.replicate 8 (7 : Byte)
    let via : Via := .va (.port 0)
    let r := s.received 0 (bare opRead (hdr 0 8))
    let w := s.received 0 (laden opWrite (hdr 0 8) d)
    (bare opRead (hdr 0 8)).okRequest = true ∧ (laden opWrite (hdr 0 8) d).okRequest = true ∧ Reaches s 0 (laden opWrite (hdr 0 8) d) ∧
    (∃ u bs v, r.reach via .rFab 0 8 = (stOk, u) ∧ u.readMem via .rFab 0 8 = (bs, stOk, v)) ∧
    (∃ st u, st ≠ stOk ∧ r.reach via .rFab (2 ^ 21) 8 = (st, u)) ∧ (∃ st u, st ≠ stOk ∧ w.openRange via .wFab (2 ^ 21) 8 = (st, u)) ∧
    (∃ u st v, w.openRange via .wFab 0 8 = (stOk, u) ∧ u.writeMem via .wFab 0 (laden opWrite (hdr 0 8) d).payload = (st, v)) ∧
    Reaches s 0 (laden opPing (hdr 0 8 7) ((leBytes 8 3).map (·.b))) ∧ (laden opPing (hdr 0 8 7) ((leBytes 8 3).map (·.b))).okRequest = true := by
  refine ⟨?_, ?_, reaches0 ?_, ⟨_, _, _, found ?_, found3 ?_⟩, ⟨_, _, ?_, rfl⟩, ⟨_, _, ?_, rfl⟩, ⟨_, _, _, found ?_, rfl⟩, reaches0 ?_, ?_⟩ <;> decide

/-- A job of form BX16 under the name 4: its buffer of 2 blocks at 0, its counts at 512. -/
def job0 (st : BitVec 3) : Job := { cfg := 0x00010402, st := st, cntLo := 512, blocks := 2 }
def withJob (j : Job) : State := { inService with coll := { jobs := [(2, j)] } }
def jhdr (addr : VA) (len : BitVec 13) : FabHdr := { hdr addr len with job := 4 }

set_option maxRecDepth 8000 in
theorem test_racc_job_statement_met :
    (let s := withJob (job0 jobOpen)
     let p := laden (opRacc + 2) (jhdr 0 72) (List.replicate 72 0)
     let via : Via := .va (.port 0)
     Reaches s 0 p ∧ p.okRequest = true ∧ s.hasMsa = true ∧ s.jobFor 4 = some 2 ∧ (s.job 2).st = jobOpen ∧ (s.job 2).form = 2 ∧
     ∃ u v, (s.received 0 p).openRange via .wFab 0 72 = (stOk, u) ∧ u.openRange via .wFab 512 4 = (stOk, v)) ∧
    inService.jobFor 4 = none ∧ (withJob (job0 jobArming)).jobFor 4 = some 2 ∧ (withJob (job0 jobClosed)).jobFor 4 = some 2 ∧
    (withJob (job0 jobCommitting)).jobFor 4 = some 2 := by
  refine ⟨⟨reaches0 ?_, ?_, ?_, ?_, ?_, ?_, _, _, found ?_, found ?_⟩, ?_, ?_, ?_, ?_⟩
  · decide
  · decide
  · decide
  · decide
  · decide
  · decide
  · decide
  · decide
  · decide
  · decide
  · decide
  · decide

theorem test_counts_statement_met : ∀ x ∈ [(5 : W64)], x.toInt ≠ -(2 ^ 63) := by simp
theorem test_count_saturates : addCount 0x7FFFFFFF 1 = (0x7FFFFFFF, true) ∧ addCount 0x80000001 0xFFFFFFFF = (0x80000001, true) ∧
    addCount 2 0xFFFFFFFF = (1, false) := by decide

def chdr (cls : BitVec 3 := 0) : FabHdr := { jhdr 0 32 with cls := cls }
def body0 : CloseBody := { arg1 := 1, mark := 5 }

set_option maxRecDepth 4000 in
theorem test_close_statement_met :
    (let s := withJob (job0 jobOpen)
     s.ctl.fnReset.getLsbD 31 = false ∧ (∀ k ∈ [1, 2, 3, 4], Reaches s 0 (closing k (chdr) body0) ∧ (closing k (chdr) body0).okRequest = true) ∧
     body0.step = (s.job 2).step ∧ body0.step = s.coll.commit.step ∧ s.coll.commit.children.contains 9 = false ∧ s.coll.commit.st ≠ 2 ∧
     s.sh.count < body0.mark ∧
     ∃ u, (s.received 0 (closing 2 (chdr) body0)).writeWhole (viaCe 0) .w 512 (leBytes 4 voidCount.toNat) = (stOk, u)) ∧
    (let s := withJob { job0 jobOpen with cfg := 0x00010482 }
     Reaches s 0 (bare opGather (jhdr 0 8)) ∧ (bare opGather (jhdr 0 8)).okRequest = true ∧ (s.job 2).shard = true ∧
     ∃ u bs v, (s.received 0 (bare opGather (jhdr 0 8))).reach (.va (.port 0)) .rFab 0 8 = (stOk, u) ∧
       u.readMem (.va (.port 0)) .rFab 0 8 = (bs, stOk, v)) := by
  refine ⟨⟨?_, ?_, ?_, ?_, ?_, ?_, ?_, _, found ?_⟩, reaches0 ?_, ?_, ?_, _, _, _, found ?_, found3 ?_⟩
  · decide
  · intro k hk
    simp only [List.mem_cons, List.not_mem_nil, or_false] at hk
    obtain rfl | rfl | rfl | rfl := hk <;> exact ⟨reaches0 (by decide), by decide⟩
  all_goals decide

/-- Entry 0 of the securing table, at 4 KiB: a HOLDER of 64 bytes of device 9 by spore copies, or, with parity, in a group of K. -/
def holder (mirror : Bool) (k : Byte) : State :=
  { inService with
    mem := { bytes := [(0x1000, if mirror then 0x14 else 0x18), (0x1001, 1)] ++ (if k = 0 then [] else [(0x1002, k)]) ++
               [(0x1004, 9), (0x1020, 64)]
             clean := [(0, true), (1, true), (2, true), (64, true)] }
    sec := { count := 1, baseLo := 0x1000, aux := if mirror then [] else [(0, { group := [9, 10] })] } }

def head0 : PutHead := { entry := 0, gen := true, member := 0, epoch := 0 }
def okEntry (s : State) (parity : Bool) : Bool :=
  let f := secFields (s.entryAt 0).1
  f.valid && decide (f.role = 1) && (f.mirror == !parity) && s.sourceOk 0 f 9 && decide (f.workGen = 1 ∧ f.workEpoch = 0 ∧ f.len = 64 ∧ f.local_ = 0)

set_option maxRecDepth 8000 in
theorem test_put_statement_met :
    (let s := holder true 0
     let p := laden opMirror (hdr 64 16) ((putPrefix head0 false).map (·.b) ++ List.replicate 8 0)
     Reaches s 0 p ∧ p.okRequest = true ∧ okEntry (s.received 0 p) false = true ∧
     ∃ w, ((s.received 0 p).entryAt 0).2.putData (.va (.port 0)) .wFab false 64 (p.payload.drop 8) = (stOk, w)) ∧
    (let s := holder false 2
     let p := laden opParity (hdr 64 16) ((putPrefix head0 false).map (·.b) ++ List.replicate 8 0)
     Reaches s 0 p ∧ p.okRequest = true ∧ okEntry (s.received 0 p) true = true ∧
     ∃ w, ((s.received 0 p).entryAt 0).2.putData (.va (.port 0)) .wFab true 64 (p.payload.drop 8) = (stOk, w)) ∧
    (let s := holder true 0
     let p := laden opMirror (hdr 0 16) ((putPrefix head0 true).map (·.b) ++ (leBytes 8 0).map (·.b))
     let u := (s.received 0 p).entryAt 0
     Reaches s 0 p ∧ p.okRequest = true ∧ okEntry (s.received 0 p) false = true ∧ (u.2.secAux 0).acceptedFrom 9 = 0 ∧
     (u.2.acceptSeal 0 (secFields u.1) 0).1 = .now stOk) ∧
    (let s := holder false 2
     let p := laden opParity (hdr 0 16) ((putPrefix head0 true).map (·.b) ++ (leBytes 8 0).map (·.b))
     let u := (s.received 0 p).entryAt 0
     Reaches s 0 p ∧ okEntry (s.received 0 p) true = true ∧ (u.2.acceptSeal 0 (secFields u.1) 0).1 = .held) := by
  refine ⟨⟨reaches0 ?_, ?_, ?_, _, found ?_⟩, ⟨reaches0 ?_, ?_, ?_, _, found ?_⟩, ⟨reaches0 ?_, ?_, ?_, ?_, ?_⟩, reaches0 ?_, ?_, ?_⟩
  · decide
  · decide
  · decide
  · decide
  · decide
  · decide
  · decide
  · decide
  · decide
  · decide
  · decide
  · decide
  · decide
  · decide
  · decide
  · decide

/-- Port 0 waits for the answer to one request, and a route to devices 9 and 10 leaves by it. -/
def asked (op : Byte) (who : Issuer) : State :=
  { inService with
    mem := { bytes := [(0x1000, 4), (0x1001, 1), (0x1004, 9)], clean := [(0, true), (64, true)] }
    sec := { count := 1, baseLo := 0x1000, aux := [(0, { joined := true, left := 2 })] }
    ports := [(0, { st := psActive, tags := [(0, some { pkt := laden op { dstDev := 9 } (List.replicate 16 0), who := who })] })]
    fab := { devId := 5, routes := [(9, 0x10001), (10, 0x10001)] } }
/-- That port when the request no longer holds its tag. -/
def freed (s : State) : State := ((s.updPort 0 fun p => p.count 0x12C 1).rxRelease 0 (poolOf 0 true)).dropTag 0 0

set_option maxRecDepth 8000 in
theorem test_response_statement_met :
    (let s := asked opGather (.desc 0 0 1 0)
     s.takesIn 0 (poolOf 0 true) = true ∧ s.isDown 9 = false ∧ (SMap.get none (s.port 0).tags 0).isSome = true ∧ State.tagPort 0 = 0 ∧
     State.tagNum 0 = 0 ∧ State.retried opGather = true ∧ SMap.get none (s.port 0).tags 1 = none ∧
     ((freed s).settle (.desc 0 0 1 0) (bare opGather {}) stOk []).1 = none) ∧
    (let s := asked opMirror (.secData 0)
     ((freed s).settle (.secData 0) (laden opMirror {} (List.replicate 16 0)) stAborted []).1 = some .data) := by
  refine ⟨⟨?_, ?_, ?_, ?_, ?_, ?_, ?_, ?_⟩, ?_⟩ <;> decide

theorem test_transit_and_resend_statement_met :
    (let s := asked opGather .up
     (∀ resp : Bool, s.takesIn 0 (poolOf 0 resp) = true) ∧ s.heldBack 0 = false ∧ s.changesPort 9 10 6 0 = false ∧
     (s.updPort 0 fun p => p.count 0x12C 1).choosePort 9 10 6 false = some 0 ∧ (s.updPort 0 fun p => p.count 0x12C 1).choosePort 9 11 0 false = none) ∧
    (let s := { asked opGather .up with fab := { devId := 5, routes := [(10, 0x10001)], lastPort := [(State.pathKey 9 10 6, some 1)] } }
     (s.updPort 0 fun p => p.count 0x12C 1).choosePort 9 10 6 false = some 0 ∧ s.changesPort 9 10 6 0 = true) ∧
    live.turned (.port 0) (.port 1) = none ∧ (stilled live).turned (.port 8) (.port 0) = some (.seam 1) ∧
    ∀ why : Resend, let w : Waiting := { pkt := bare opGather {}, who := .up, hold := some why }
      let s := { inService with fab := { waiting := [w] } }
      s.fab.waiting = [] ++ w :: [] ∧ w.hold = some why ∧ w.pkt.h.dstDev = 0 ∧
        (([] : List Waiting).filter fun w => decide (w.hold = some why ∧ w.pkt.h.dstDev = 0)).length = 0 ∧
        (inService.fab.waiting.filter fun w => decide (w.hold = some why ∧ w.pkt.h.dstDev = 0)).length = 0 := by
  refine ⟨⟨?_, ?_, ?_, ?_, ?_⟩, ⟨?_, ?_⟩, ?_, ?_, fun why => ?_⟩
  · decide
  · decide
  · decide
  · decide
  · decide
  · decide
  · decide
  · decide
  · decide
  · exact ⟨rfl, rfl, rfl, rfl, rfl⟩

/-- `inService` with these bytes at 4 KiB. -/
def holdingBytes (l : List (Nat × Byte)) : State :=
  { inService with mem := { bytes := l.map fun e => ⟨0x1000 + e.1, e.2⟩, clean := [(0, true), (1, true), (64, true)] } }
/-- A move ring at 4 KiB with one descriptor owed, and a reduction list. -/
def ringed (s : State) : State :=
  let ring : MvRing := { ctrl := 0x80000000, baseLo := 0x1000, size := 4, tail := 1, owed := 1 }
  let list : RList := { ctrl := 0x80000000, baseLo := 0x1000, len := 4, owed := 1 }
  { s with coll := { cgs := [(0, { expect := 5 })], ces := [(0, { rings := [(0, ring)], lists := [(0, list)] })] } }

/-- The bytes of a descriptor: OP, LEN or the length field, and CCOUNT. -/
abbrev mvMet (s : State) : Prop :=
  let r := (s.ce 0).ring 0
  s.ceRuns 0 = true ∧ bit r.ctrl 31 = true ∧ r.owed ≠ 0 ∧ r.head ≠ r.tail ∧ r.run = none ∧ anyPoison (s.readMem (viaCe 0) .r 0x1000 32).1 = false ∧
  (s.readMem (viaCe 0) .r 0x1000 32).2.1 = stOk
abbrev mvOf (s : State) : MvFields := mvFields (bitsOf 256 (s.readMem (viaCe 0) .r 0x1000 32).1)
abbrev listMet (s : State) : Prop :=
  let l := (s.ce 0).list 0
  s.ceRuns 0 = true ∧ bit l.ctrl 31 = true ∧ l.owed ≠ 0 ∧ l.next < l.len ∧ l.runs.length < 8 ∧
  anyPoison (s.readMem (viaCe 0) .r 0x1000 64).1 = false ∧ (s.readMem (viaCe 0) .r 0x1000 64).2.1 = stOk
abbrev listOf (s : State) : DFields := dFields (bitsOf 512 (s.readMem (viaCe 0) .r 0x1000 64).1)

set_option maxRecDepth 8000 in
theorem test_move_statement_met :
    (let s := ringed (holdingBytes [(0, 1), (20, 64)])
     mvMet s ∧ (mvOf s).op = 1 ∧ (mvOf s).bad = false) ∧
    (let s := ringed (holdingBytes [(0, 2), (20, 64)])
     mvMet s ∧ (mvOf s).op = 2 ∧ (mvOf s).bad = false ∧ (mvOf s).lotEn = false) ∧
    (let s := ringed (holdingBytes [(0, 1), (20, 65)])
     mvMet s ∧ (mvOf s).op = 1 ∧ (mvOf s).bad = true) ∧
    (let s := ringed (holdingBytes [(0, 2), (20, 65)])
     mvMet s ∧ (mvOf s).op = 2 ∧ (mvOf s).bad = true) := by
  refine ⟨⟨?_, ?_, ?_⟩, ⟨?_, ?_, ?_, ?_⟩, ⟨?_, ?_, ?_⟩, ?_, ?_, ?_⟩ <;> decide

set_option maxRecDepth 8000 in
theorem test_reduction_statement_met :
    (let s := ringed (holdingBytes [(0, 1), (24, 128)])
     listMet s ∧ (listOf s).op = 1 ∧ (listOf s).bad = false) ∧
    (let s := ringed (holdingBytes [(0, 2), (24, 128)])
     listMet s ∧ (listOf s).op = 2 ∧ (listOf s).bad = false) ∧
    (let s := ringed (holdingBytes [(0, 3)])
     listMet s ∧ (listOf s).op = 3 ∧ (listOf s).bad = false ∧ (listOf s).hold = false) ∧
    (let s := ringed (holdingBytes [(0, 3), (1, 8)])
     listMet s ∧ (listOf s).op = 3 ∧ (listOf s).bad = false ∧ (listOf s).hold = true ∧ ((s.useGroup 0).cg 0).st ≠ 3) ∧
    (let s := ringed (holdingBytes [(0, 4), (25, 0x0A), (39, 0x40), (40, 0x20)])
     listMet s ∧ (listOf s).op = 4 ∧ (listOf s).bad = false ∧ (listOf s).len ≠ 0 ∧ s.csuUnits (listOf s).widenCl ≠ 0) := by
  refine ⟨⟨?_, ?_, ?_⟩, ⟨?_, ?_, ?_⟩, ⟨?_, ?_, ?_, ?_⟩, ⟨?_, ?_, ?_, ?_, ?_⟩, ?_, ?_, ?_, ?_, ?_⟩ <;> decide

theorem test_job_statement_met :
    (let s := withJob { job0 jobArming with blocks := 1 }
     s.ceRuns 0 = true ∧ (s.job 2).st = jobArming ∧ (s.job 2).armZero = false ∧
     ∃ u st v, s.reach (viaCe 0) .w 512 4 = (stOk, u) ∧ u.writeMem (viaCe 0) .w 512 (zeroBytes 4) = (st, v) ∧ st = stOk) ∧
    (∃ st u, st ≠ stOk ∧ ({ withJob (job0 jobArming) with xl := {} } : State).reach (viaCe 0) .w 512 8 = (st, u)) ∧
    ((withJob (job0 jobClosed)).job 2).scanned = false ∧ (let s := withJob (job0 jobClosed); s.ceRuns (s.bufHalf 2) = true) ∧
    ((withJob (job0 jobOpen)).job 2).st ≠ jobClosed ∧
    (let s := withJob { job0 jobCommitting with optRaised := true }
     (s.job 2).optRaised = true ∧ s.coll.heldJobs.contains 2 = false) := by
  refine ⟨⟨?_, ?_, ?_, _, _, _, found ?_, rfl, ?_⟩, ⟨_, _, ?_, rfl⟩, ?_, ?_, ?_, ?_⟩ <;> decide

theorem test_tree_statement_met :
    inService.ceRuns 0 = true ∧ inService.treeReady = true ∧ inService.treeParent = 0xFFFF ∧
    inService.sh.count.toNat + 17 * 2 ^ 20 < 2 ^ 64 ∧
    (let s := { inService with coll := { commit := { cfg := 0x00070002 } } }
     s.treeReady = true ∧ s.treeParent ≠ 0xFFFF) ∧
    (let s := { inService with coll := { commit := { st := 2, mark := 3 } }, sh := { count := 3 } }
     s.coll.commit.st = 2 ∧ s.coll.commit.mark ≤ s.sh.count) := by
  refine ⟨?_, ?_, ?_, ?_, ?_, ?_⟩ <;> decide

theorem test_epoch_statement_met :
    (let s := { inService with sec := { due := some 4 } }
     s.ceRuns 0 = true ∧ s.sec.due = some 4 ∧ s.shardCommitting = false) ∧
    (let s := { inService with sec := { open_ := true } }
     s.sec.open_ = true ∧ s.openEntries = 0) ∧
    inService.sec.due = none ∧ inService.sec.open_ = false ∧ 1024 ≤ inService.lm.free ∧ inService.dormant = false ∧
    ({ st := 4 } : Power).st = 4 := by
  refine ⟨?_, ?_, ?_, ?_, ?_, ?_, ?_⟩ <;> decide

theorem test_few_free_records (l : List (BitVec 128)) (h : l.length = 15000) :
    ({ live with flash := { a := { valid := true, recs := (List.range 15000).zip l } } } : State).lm.free < 1024 := by
  simp [State.lm, LmArea.free, lmRecords, h]

/-! ### Command packets -/

theorem admitted {s : State} {h : CpHdr} {op : BitVec 16} {p : List W32}
    (b : (s.hears h.port cpRequestPool && h.crcOk && State.headerOk h && decide (p.length ≤ 1024) && decide (∀ r ∈ s.ctl.inflight, r.tag ≠ h.tag) &&
      decide (s.ctl.inflight.length < 64) && decide ((s.taken h).admission h op p = none) && !(s.taken h).ahead op p) = true) : Admitted s h op p := by
  simp only [Bool.and_eq_true, decide_eq_true_eq, Bool.not_eq_true'] at b
  obtain ⟨⟨⟨⟨⟨⟨⟨b1, b2⟩, b3⟩, b4⟩, b5⟩, b6⟩, b7⟩, b8⟩ := b
  exact ⟨⟨b1, b2, b3, b4, b5, b6, b7⟩, b8⟩

def words (n : Nat) (l : List W32) : List W32 := l ++ List.replicate (n - l.length) 0

theorem test_packet_statement_met :
    live.hears 0 cpRequestPool = true ∧ live.hears 1 cpRequestPool = false ∧ State.headerOk {} = true ∧ State.headerOk { version := 2 } = false ∧
    Admitted live {} cpOwnClaim [0] ∧
    (let r : Inflight := { port := 0, tag := 0, opcode := cpMemTest, deadline := none, wait := .rebuild 0 }
     let s := { live with ctl := { live.ctl with inflight := [r] } }
     ¬∀ r ∈ s.ctl.inflight, r.tag ≠ ({} : CpHdr).tag) ∧
    (let s := { live with ctl := { live.ctl with owner := some 8 } }
     s.portOwner 16 = false ∧ s.ctl.inRecovery = false ∧ s.flash.fused ≠ 3 ∧ cpShaftSet ∉ [cpOwnClaim, cpAttest, cpRegRead]) := by
  refine ⟨?_, ?_, ?_, ?_, admitted ?_, ?_, ?_⟩ <;> decide

/-- A reset of half H0 is in flight, of whose core window a register is read: that request passes, and its reply waits. -/
theorem test_behind_statement_met :
    let r : Inflight := { port := 0, tag := 9, opcode := cpFnReset, deadline := none, wait := .fnReset [1] [] [], units := State.unitsOf cpFnReset [2, 0] }
    let s := { live with ctl := { live.ctl with inflight := [r] } }
    Passes s {} cpRegRead [0x10400, 1] ∧ (s.taken {}).ahead cpRegRead [0x10400, 1] = true ∧ burstBad [0x10400, 1] = false ∧
    (s.taken {}).burstCheck 0 ((State.burst [0x10400, 1]).map fun a => (a, none)) = stOk ∧
    ((s.taken {}).readBurst 0 (State.burst [0x10400, 1]) []).2.1 = stOk := by
  refine ⟨⟨?_, ?_, ?_, ?_, ?_, ?_, ?_⟩, ?_, ?_, ?_, ?_⟩ <;> decide

/-- In step 5 of the start-up. -/
def step5 : State := { live with ctl := { step := 5, owner := some 7 } }

/-- A GT2048-H, which has no H1. -/
def smaller : State := { live with part := .gt2048H }

theorem test_owner_statement_met :
    (let s := { live with ctl := { step := 5 } }
     Admitted s {} cpOwnClaim [0] ∧ (s.taken {}).ctl.owner = none) ∧
    (let s := { live with ctl := { live.ctl with owner := some 8, lapsed := 4096 } }
     Admitted s {} cpOwnClaim [1] ∧ (s.taken {}).ownerActive 16 = false ∧ (s.taken {}).ownerActive 17 = false ∧
     (s.taken {}).ctl.lapse ≤ (s.taken {}).ctl.lapsed) ∧
    Admitted live {} cpOwnClaim [1] ∧ live.ownerActive 16 = true ∧ Admitted live {} cpOwnRelease [] ∧
    Admitted step5 {} cpConfigDone [1] ∧ Admitted live {} cpModuleReset [] ∧
    Admitted live {} cpRegRead [0x1000, 1] ∧ burstBad [0x1000, 1] = false ∧
    (live.taken {}).burstCheck 0 ((State.burst [0x1000, 1]).map fun a => (a, none)) = stOk ∧
    (smaller.taken {}).burstCheck 0 ((State.burst [0x18108, 1]).map fun a => (a, none)) ≠ stOk ∧ Admitted smaller {} cpRegRead [0x18108, 1] ∧
    Admitted live {} cpRegWrite [0x8000, 1, 2] ∧ burstBad [0x8000, 1, 2] = false ∧
    (smaller.taken {}).burstCheck 0 [(0x18108, some 2)] ≠ stOk ∧ Admitted smaller {} cpRegWrite [0x18108, 1, 2] := by
  refine ⟨⟨admitted ?_, ?_⟩, ⟨admitted ?_, ?_, ?_, ?_⟩, admitted ?_, ?_, admitted ?_, admitted ?_, admitted ?_, admitted ?_, ?_, ?_, ?_,
    admitted ?_, admitted ?_, ?_, ?_, admitted ?_⟩ <;> decide

def bulkOne : List W32 := [0, 0, 64, 0]
def flying (op : BitVec 16) (w : Wait) (dl : Option W64 := none) : Inflight := { port := 0, tag := 3, opcode := op, deadline := dl, wait := w }
def holds (op : BitVec 16) (w : Wait) (dl : Option W64 := none) : State := { live with ctl := { live.ctl with inflight := [flying op w dl] } }

theorem test_bulk_statement_met :
    Admitted live {} cpBulkWrite bulkOne ∧ bulkMalformed bulkOne = false ∧ (live.taken {}).bulkShut 0 = false ∧
    Admitted live {} cpBulkWrite [1, 0, 64, 0] ∧ bulkMalformed [1, 0, 64, 0] = true ∧ Admitted live {} cpBulkRead bulkOne ∧
    (let s := { live with pwr := { st := 3 } }
     (s.taken {}).bulkShut 0 = true ∧ Admitted s {} cpBulkWrite bulkOne) ∧
    (let s := holds cpBulkWrite (.bulk 0 (bulkDescs bulkOne))
     s.hears 0 cpReplyPool = true ∧ (s.heard 16 cpReplyPool).ctl.inflight = [] ++ flying cpBulkWrite (.bulk 0 (bulkDescs bulkOne)) :: [] ∧
     0 + 64 = ((bulkDescs bulkOne).map (·.len)).sum ∧
     Admitted s { tag := 9 } cpAbort [3] ∧ abortable cpBulkWrite = true) ∧
    (let s := holds cpFnReset (.fnReset [] [] [])
     Admitted s { tag := 9 } cpAbort [3] ∧ abortable cpFnReset = false) ∧
    (let s : State := { live with ctl := { live.ctl with replied := [(3, true)] } }
     Admitted s { tag := 9 } cpAbort [3] ∧ SMap.get false (s.taken {}).ctl.replied 3 = true) ∧
    Admitted live { tag := 9 } cpAbort [3] ∧
    (let s := { holds cpBulkWrite (.bulk 0 []) (some 4) with sh := { count := 5 } }
     s.ctl.inflight = [] ++ flying cpBulkWrite (.bulk 0 []) (some 4) :: [] ∧ (4 : W64) < s.sh.count) := by
  refine ⟨admitted ?_, ?_, ?_, admitted ?_, ?_, admitted ?_, ⟨?_, admitted ?_⟩, ⟨?_, ?_, ?_, admitted ?_, ?_⟩, ⟨admitted ?_, ?_⟩,
    ⟨admitted ?_, ?_⟩, admitted ?_, ?_, ?_⟩ <;> decide

theorem test_shaft_statement_met :
    Admitted live {} cpShaftSet [0, 0] ∧ (live.taken {}).turnTaken = false ∧ (live.taken {}).schedMask = 0 ∧ (live.taken {}).secIdle = true ∧
    Admitted live {} cpShaftSync [1, 2] ∧ Admitted live {} cpShaftSlew [1, 2] ∧ Admitted live {} cpShaftSlew [0x00100001, 2] ∧
    (0x00100000 : W32).toInt.natAbs ≤ 2 ^ 20 ∧ Admitted live {} cpRegRead [0x1000, 1] ∧
    (let s : State := { live with sh := { sched := [(0, { valid := true })] } }
     Admitted s {} cpShaftSet [0, 0] ∧ (s.taken {}).schedMask ≠ 0) := by
  refine ⟨admitted ?_, ?_, ?_, ?_, admitted ?_, admitted ?_, admitted ?_, ?_, admitted ?_, admitted ?_, ?_⟩ <;> decide

theorem test_schedule_statement_met :
    Admitted live {} cpSchedSet [0x200, 0, 0, 0, 1, 0, 0] ∧ Admitted live {} cpSchedSet [0x001, 0, 0, 0, 1, 0, 0] ∧
    ((live.taken {}).sched 0).valid = false ∧ Admitted live {} cpSchedCancel [1] ∧ live.schedDue 0 = false ∧
    (let s : State := { live with sh := { sched := [(0, { valid := true, action := 1, arg0 := 0x40000 }), (3, { valid := true, at_ := 7 })], count := 90 } }
     s.schedDue 0 = true ∧ s.schedDue 3 = false ∧ ((s.taken {}).sched 0).valid = true ∧ Admitted s {} cpSchedSet [0x200, 0, 0, 0, 1, 0, 0] ∧
     (s.sched 3).valid = true) := by
  refine ⟨admitted ?_, admitted ?_, ?_, admitted ?_, ?_, ?_, ?_, ?_, admitted ?_, ?_⟩ <;> decide

/-! ### Register writes -/

/-- A write of one register is admitted on `live`. -/
abbrev writes (a : Nat) (v : W32) : Prop := Admitted live {} cpRegWrite [w32 a, 1, v]

theorem test_compute_register_statement_met :
    writes 0x1010C 1 ∧ writes 0x1010C 0x10 ∧ writes 0x10120 64 ∧ writes 0x10190 0x1000 ∧ writes 0x101CC 0 ∧ writes 0x101D0 0x80000041 ∧
    writes 0x10108 3 ∧ writes 0x10004 1 ∧ writes 0x10808 0x100 ∧ writes 0x10400 1 ∧ writes 0x10800 8 ∧ writes 0x60004 1 ∧
    (live.taken {}).windowOpen {} 0 ∧ (live.taken {}).halfOpen 0 ∧ (live.taken {}).hasCluster 0 = true ∧
    (live.taken {}).clusterRuns 0 = false ∧ ((live.taken {}).core 0).anyRunning = false ∧ ((live.taken {}).core 0).overlaps 0 2 0 = false ∧
    bit ((live.taken {}).half 0).netCtrl 0 = false ∧ (live.taken {}).hasCore (peerOf 0 0x80000041).1 = true ∧ peerOf 0 0x80000041 ≠ (0, 10) := by
  refine ⟨admitted ?_, admitted ?_, admitted ?_, admitted ?_, admitted ?_, admitted ?_, admitted ?_, admitted ?_, admitted ?_, admitted ?_,
    admitted ?_, admitted ?_, by unfold State.windowOpen; decide, by unfold State.halfOpen; decide, ?_, ?_, ?_, ?_, ?_, ?_, ?_⟩ <;> decide

theorem test_start_and_stop_values :
    let g : GroupRun := { id := 0, w := {}, ptr := 0, loops := [], members := [], total := 1, done := [] }
    let r : Run := { id := 0, slot := 3, op := 0x13, w := {}, ptr := 0, loops := [], ctr := [] }
    let c : Core := { slots := [(1, { st := 3, fault := 5, ptr := 64 }), (2, { st := 1, group := some g }), (3, { st := 1 })], runs := [r] }
    ((c.start 4 1).slot 1).st = 1 ∧ ((c.start 4 1).slot 1).fault = 0 ∧ ((c.start 4 1).slot 1).gen = 4 ∧ ((c.stopSlot 3).slot 3).stop = true ∧
    ((c.stopSlot 3).slot 3).st = 1 ∧ ((c.stopSlot 2).slot 2).st = 0 ∧ ((c.stopSlot 2).slot 2).group = none := by
  decide

/-- `live` with these other ports. -/
def ported (ps : SMap Port) (f : Fab := {}) : State :=
  { live with fab := f, ports := ps ++ [(16, { st := psActive, enable := true, keyHash := 7 })] }

theorem test_memory_register_statement_met :
    writes 0x20008 1 ∧ live.hasStack 0 = true ∧ live.pwr.gated.getLsbD 0 = false ∧ writes 0x2C000 1 ∧ (live.taken {}).part ≠ .gt2048H ∧
    (let s : State := { live with halves := [(0, { netCtrl := 3 }), (1, { netCtrl := 3 })], ports := [(16, { st := psActive, enable := true, keyHash := 7 })] }
     Admitted s {} cpRegWrite [0x2C000, 1, 1] ∧ (s.taken {}).allQuiesced = true) ∧
    writes 0x2C00C 1 ∧ Admitted smaller {} cpRegWrite [0x2C000, 1, 1] ∧ writes 0x2C020 1 ∧ (live.taken {}).invalBusy = false ∧
    (let t : StoreSec := { site := site0, pa := 0, va := 0, noalloc := false, mask := 1, data := [], inval := true }
     let s : State := { live with net := { stores := [t] } }
     Admitted s {} cpRegWrite [w32 0x2C020, 1, 1] ∧ (s.taken {}).invalBusy = true) := by
  refine ⟨admitted ?_, ?_, ?_, admitted ?_, ?_, ⟨admitted ?_, ?_⟩, admitted ?_, admitted ?_, admitted ?_, ?_, admitted ?_, ?_⟩ <;> decide

theorem test_fabric_register_statement_met :
    writes 0x3900C 1 ∧ writes 0x30000 1 ∧ writes 0x30000 5 ∧ writes 0x2814 1 ∧ (live.taken {}).hasPort 0 = true ∧ (live.taken {}).returned = false ∧
    live.pwr.gated.getLsbD 0 = false ∧ writes 0x39018 1 ∧ 2 ^ 18 ≤ (live.taken {}).capacity ∧
    (let s : State := { live with fab := { routeHi := 0xFF } }
     Admitted s {} cpRegWrite [0x39018, 1, 1] ∧ (s.taken {}).capacity < 0xFF * 2 ^ 32 + 2 ^ 18) ∧
    (live.taken {}).pwr.st ≠ 3 ∧
    (let s : State := { live with pwr := { st := 3 } }
     Admitted s {} cpRegWrite [0x39018, 1, 1] ∧ (s.taken {}).pwr.st = 3) := by
  refine ⟨admitted ?_, admitted ?_, admitted ?_, admitted ?_, ?_, ?_, ?_, admitted ?_, ?_, ⟨admitted ?_, ?_⟩, ?_, admitted ?_, ?_⟩ <;> decide

theorem test_route_scan_statement_met :
    let r := (live.taken {}).routeWords 0
    (∃ t, r.2.routeScan 0 r.1.reverse [] = .ok t) ∨ ∃ i, r.2.routeScan 0 r.1.reverse [] = .error i := by
  intro r
  cases r.2.routeScan 0 r.1.reverse [] with
  | ok t => exact .inl ⟨t, rfl⟩
  | error i => exact .inr ⟨i, rfl⟩

theorem test_admit_statement_met :
    let held : SMap Port := [(0, { st := psHeld, enable := true })]
    (Admitted live {} cpRegWrite [0x30000, 1, 3] ∧ ((live.taken {}).port 0).st ≠ psHeld) ∧
    (let s := ported held { devId := 5 }
     Admitted s {} cpRegWrite [0x30000, 1, 0x00010003] ∧ ((s.taken {}).port 0).st = psHeld ∧ ((s.taken {}).port 0).epoch ≠ 1 ∧
     Admitted s {} cpRegWrite [0x30000, 1, 3] ∧ ((s.taken {}).port 0).epoch = 0 ∧ (s.taken {}).fab.devId ≠ 0xFFFF ∧
     (s.taken {}).hasPort 0 = true ∧ (s.taken {}).returned = false ∧ (s.taken {}).pwr.gated.getLsbD 0 = false) ∧
    (let s := ported held { devId := 0xFFFF }
     Admitted s {} cpRegWrite [0x30000, 1, 3] ∧ ((s.taken {}).port 0).st = psHeld ∧ (s.taken {}).fab.devId = 0xFFFF) ∧
    Admitted live {} cpRegWrite [0x38000, 1, 3] ∧ (live.taken {}).hasPort 16 = true := by
  refine ⟨⟨admitted ?_, ?_⟩, ⟨admitted ?_, ?_, ?_, admitted ?_, ?_, ?_, ?_, ?_, ?_⟩, ⟨admitted ?_, ?_, ?_⟩, admitted ?_, ?_⟩ <;> decide

theorem test_collective_register_statement_met :
    writes 0x40C00 0x80000001 ∧ writes 0x40C10 1 ∧ writes 0x40400 0x80000001 ∧ writes 0x40024 1 ∧ writes 0x41004 1 ∧ writes 0x41004 2 ∧
    writes 0x41004 4 ∧ writes 0x40080 0x10000 ∧ writes 0x40004 1 ∧ writes 0x40004 2 ∧ writes 0x50000 2 ∧ writes 0x50000 4 ∧
    live.hasCe 0 = true ∧ (live.ce 0).ringBound 0 0 = false ∧ (live.ce 0).listBound 0 0 = false ∧ live.jobTaken 0 (live.job 0).id = false ∧
    (live.job 0).st = jobFree ∧ ((withJob (job0 jobOpen)).job 2).shard = false ∧
    (({ live with coll := { cgs := [(0, { expect := 5 })] } } : State).cg 0).st ≠ 3 := by
  refine ⟨admitted ?_, admitted ?_, admitted ?_, admitted ?_, admitted ?_, admitted ?_, admitted ?_, admitted ?_, admitted ?_, admitted ?_,
    admitted ?_, admitted ?_, ?_, ?_, ?_, ?_, ?_, ?_, ?_⟩ <;> decide

/-! ### Upkeep, power, trust and the module -/

theorem test_function_reset_statement_met :
    Admitted live {} cpFnReset [1, 0] ∧ (live.taken {}).fnPresent 0 = true ∧ (live.taken {}).fnBusy 0 = false ∧
    Admitted live {} cpFnReset [2, 0] ∧ (live.taken {}).fnPresent 1 = true ∧
    (let s : State := { live with ctl := { live.ctl with fnReset := 2 } }
     s.ctl.fnReset.getLsbD 1 = true) ∧
    (let s : State := { live with part := .gt2048H }
     Admitted s {} cpRemap [2] ∧ (s.taken {}).hasHalf 1 = false ∧ (s.taken {}).fnPresent 2 = false) ∧
    Admitted live {} cpRemap [0] ∧ Admitted live {} cpRemap [1] ∧ Admitted live {} cpRemap [3] ∧ bitList 2 3 = [0, 1] ∧
    live.quiesced 0 = false ∧ ({ live with halves := [(0, { netCtrl := 3 })] } : State).quiesced 0 = true ∧
    (let s : State := { live with pwr := { st := 2, gated := 2 } }
     Admitted s {} cpFnReset [4, 0] ∧ (s.taken {}).fnPresent 2 = true ∧ (s.taken {}).fnAsleep 2 = true ∧ (s.taken {}).fnAsleep 1 = false) ∧
    (({ live with halves := [(0, { netCtrl := 3, remap := true })] } : State).half 0).remap = true := by
  refine ⟨admitted ?_, ?_, ?_, admitted ?_, ?_, ?_, ⟨admitted ?_, ?_, ?_⟩, admitted ?_, admitted ?_, admitted ?_, ?_, ?_, ?_,
    ⟨admitted ?_, ?_, ?_, ?_⟩, ?_⟩ <;> decide

theorem absent {α γ : Type} {r : Option α × γ} (h : r.1 = none) : r = (none, r.2) := by rw [← h]

/-- The page tables' leaf lets the first 2 MiB be executed. -/
def swapWords : List W32 := [1, 0, 0, 64, 1]

theorem test_swap_statement_met :
    Admitted tables {} cpProgramSwap swapWords ∧ Admitted tables {} cpProgramSwap [0, 0, 0, 64, 1] ∧ (tables.taken {}).pwr.st ≠ 3 ∧
    Admitted { live with pwr := { st := 3 } } {} cpProgramSwap swapWords ∧
    (∃ l v, ((tables.taken {}).imageRanges 0 (pagesFrom (64 / 2 ^ 21 + 2) 0 64)) = (some l, v) ∧ (joinRanges l).length ≤ 16) ∧
    (∃ v, ((live.taken {}).imageRanges 0 (pagesFrom (64 / 2 ^ 21 + 2) 0 64)) = (none, v)) := by
  refine ⟨admitted (by decide), admitted (by decide), by decide, admitted (by decide), ?_, ⟨_, absent (by decide)⟩⟩
  have h : ((tables.taken {}).imageRanges 0 (pagesFrom (64 / 2 ^ 21 + 2) 0 64)).1.isSome = true ∧
      (joinRanges (((tables.taken {}).imageRanges 0 (pagesFrom (64 / 2 ^ 21 + 2) 0 64)).1.getD [])).length ≤ 16 := by decide
  revert h
  generalize (tables.taken {}).imageRanges 0 (pagesFrom (64 / 2 ^ 21 + 2) 0 64) = r
  obtain ⟨a, b⟩ := r
  cases a
  · exact fun h => absurd h.1 Bool.false_ne_true
  · exact fun h => ⟨_, _, rfl, h.2⟩

/-- In recovery, at a control port. -/
def recovering : State := { live with ctl := { step := 2, inRecovery := true } }

theorem test_firmware_statement_met :
    Admitted live {} cpFwUpdate [64] ∧ (live.taken {}).turnTaken = false ∧ Admitted live {} cpFwUpdate [0] ∧ Admitted live {} cpFwLoad [64] ∧
    Admitted recovering {} cpFwLoad [64] ∧ (recovering.taken {}).ctl.inRecovery = true ∧
    (let s := holds cpFwUpdate (.image 64 0)
     s.hears 0 cpReplyPool = true ∧ (s.heard 16 cpReplyPool).ctl.inflight = [] ++ flying cpFwUpdate (.image 64 0) :: []) ∧
    (∀ n ∈ [1, 2], let v : FwVerdict := { sigOk := true, version := 1, measure := 0 }; let s := holds cpFwUpdate (.flash v n)
     s.dormant = false ∧ s.ctl.step ≠ 7 ∧ s.ctl.inflight = [flying cpFwUpdate (.flash v n)]) := by
  refine ⟨admitted ?_, ?_, admitted ?_, admitted ?_, admitted ?_, ?_, ?_, ?_⟩ <;> decide

/-- A packet of an image at another OFFSET than the next one ends the request with BAD_PARAM (R372); one at the next one waits for the rest. -/
theorem test_image_offsets :
    let s := holds cpFwUpdate (.image 64 0); let v : FwVerdict := { sigOk := true, version := 1, measure := 0 }
    (s.bulkData { tag := 3 } cpFwUpdate 8 0 (List.replicate 8 0) v).ctl.inflight = [] ∧
    (s.bulkData { tag := 3 } cpFwUpdate 0 0 (List.replicate 8 0) v).ctl.inflight = [flying cpFwUpdate (.image 64 8)] := by
  refine ⟨?_, ?_⟩ <;> decide

/-- Stack 0 in MAINT. -/
def maint : State := { live with mcs := [(0, { st := 2 })] }

theorem test_maintenance_statement_met :
    Admitted live {} cpMemMaint [0x10001] ∧ live.hasStack 0 = true ∧ (live.taken {}).mcHeld 0 = false ∧
    Admitted maint {} cpMemPpr [0] ∧ Admitted maint {} cpMemPpr [0x80000000] ∧ ((maint.taken {}).mc 0).st = 2 ∧ Admitted live {} cpMemPpr [0] ∧
    (let s : State := { live with mcs := [(0, { st := 2, pprUsed := [(0, 2)] })] }
     Admitted s {} cpMemPpr [0] ∧ 2 ≤ SMap.get 0 ((s.taken {}).mc 0).pprUsed 0) ∧
    Admitted maint {} cpMemPpr [0x8F00] ∧ Admitted maint {} cpMemPpr [0x80000C00] ∧ 12 ≤ bits (0x80000C00 : W32) 11 8 ∧
    Admitted maint {} cpMemTest [1, 0] ∧ (maint.taken {}).mcHeld 0 = false ∧ Admitted maint {} cpMemRetrain [1] ∧
    Admitted { live with part := .gt2048H } {} cpMemMaint [0x10800] ∧ ({ live with part := .gt2048H } : State).hasStack 11 = false ∧
    Admitted live {} cpLichenRead [0x10000] ∧ Admitted live {} cpLichenRead [0x3FFF] ∧
    Admitted live {} cpLichenEdit [2, 0] ∧ live.lm.record 0 = lmErased ∧ Admitted live {} cpLichenEdit [0] ∧
    Admitted live {} cpLichenEdit [1, w32 lmCoreRetired, 0, 0, 0] ∧
    Admitted smaller {} cpLichenEdit [1, w32 (lmCoreRetired + 2 ^ 16), 0, 0, 0] ∧
    (let r : BitVec 128 := BitVec.ofNat 128 (lmCoreRetired + 2 ^ 16)
     lmType r = lmCoreRetired ∧ smaller.hasHalf (bits (lmLoc r) 0 0) = false) := by
  refine ⟨admitted ?_, ?_, ?_, admitted ?_, admitted ?_, ?_, admitted ?_, ⟨admitted ?_, ?_⟩, admitted ?_, admitted ?_, ?_, admitted ?_, ?_, admitted ?_, admitted ?_, ?_,
    admitted ?_, admitted ?_, admitted ?_, ?_, admitted ?_, admitted ?_, admitted ?_, ?_⟩ <;> decide

/-- The payload of SEC_PAIR for entry 0: its first word, METHOD to K, PARTNER, the low word of LOCAL, and LEN. -/
def pairing (w fields partner place len : W32) : List W32 :=
  [w, fields, partner, place] ++ List.replicate 5 0 ++ [len] ++ List.replicate 7 0
/-- `holder` with entry 0 not valid. -/
def unpaired : State := { inService with mem := { clean := [(0, true), (64, true)] }, sec := { count := 1, baseLo := 0x1000 } }
def pairFields (p : List W32) : SecFields :=
  secFields (BitVec.ofNat 512 (((List.range 16).map fun k => (word p (1 + k)).toNat * 2 ^ (32 * k)).sum))

set_option maxRecDepth 60000 in
theorem test_pair_statement_met :
    (let s := { holder true 0 with sec := { (holder true 0).sec with aux := [(0, { taking := true })] } }
     Admitted s {} cpSecPair (pairing 0 0 0 0 0) ∧ ((s.taken {}).secEntry 0).2.entryOpen 0 ((s.taken {}).secEntry 0).1 = true) ∧
    (let s := unpaired; let u := (s.taken {}).secEntry 0
     Admitted s {} cpSecPair (pairing 0 0 0 0 0) ∧ u.2.entryOpen 0 u.1 = false ∧ (pairFields (pairing 0 0 0 0 0)).valid = false ∧
     Admitted s {} cpSecPair (pairing 0 0x101 9 0 0) ∧ (pairFields (pairing 0 0x101 9 0 0)).valid = true ∧
     u.2.pairBad (pairFields (pairing 0 0x101 9 0 0)) false = true ∧
     Admitted s {} cpSecPair (pairing 0 0x101 9 0 4096) ∧ u.2.pairBad (pairFields (pairing 0 0x101 9 0 4096)) false = false ∧
     u.2.fateConflict true 9 [] = true ∧ Admitted s {} cpSecPair (pairing 0x10000 0x101 9 0 4096) ∧
     Admitted s {} cpSecPair (pairing 0 0x10121 9 0x200000 4096) ∧ (pairFields (pairing 0 0x10121 9 0x200000 4096)).role = 2 ∧
     u.2.pairBad (pairFields (pairing 0 0x10121 9 0x200000 4096)) false = false ∧
     (u.2.writeWhole (viaCe 0) .w 0x200000 (List.replicate 4096 {})).1 ≠ stOk) := by
  refine ⟨⟨admitted ?_, ?_⟩, admitted ?_, ?_, ?_, admitted ?_, ?_, ?_, admitted ?_, ?_, ?_, admitted ?_, admitted ?_, ?_, ?_, ?_⟩ <;> decide

theorem test_fate_and_device_statement_met :
    Admitted live {} cpFateSet [0] ∧ Admitted live {} cpFateSet [1, 9, 0, 0] ∧ Admitted unpaired {} cpSecRebuild [0, 0] ∧ (unpaired.taken {}).pwr.st ≠ 3 ∧
    (unpaired.taken {}).ceRuns 0 = true ∧ (∀ h ∈ unpaired.halfList, bit (unpaired.half h).netCtrl 0 = false) ∧
    Admitted { unpaired with pwr := { st := 3 } } {} cpSecPair (pairing 0 0 0 0 0) ∧
    (unpaired.secAux 0).rebuild = none ∧ Admitted live {} cpDevDown [1, 0, 0, 9] ∧ Admitted live {} cpDevUp [1, 9] := by
  refine ⟨admitted ?_, admitted ?_, admitted ?_, ?_, ?_, ?_, admitted ?_, ?_, admitted ?_, admitted ?_⟩ <;> decide

theorem test_power_statement_met :
    Admitted live {} cpPowerState [1] ∧ (live.taken {}).turnTaken = false ∧ Admitted live {} cpPowerState [5] ∧ Admitted live {} cpPowerState [2] ∧
    Admitted { live with part := .gt2048H } {} cpPowerState [2] ∧ ({ live with part := .gt2048H } : State).hasHalf 1 = false ∧
    Admitted { live with pwr := { st := 1 } } {} cpPowerState [0] ∧ Admitted { live with pwr := { st := 2, gated := 2 } } {} cpPowerState [0] ∧
    Admitted { live with pwr := { st := 3, gated := 3 } } {} cpPowerState [0] ∧ Admitted live {} cpPowerState [3] ∧ Admitted live {} cpPowerState [4] ∧
    (live.taken {}).timeFree = true := by
  refine ⟨admitted ?_, ?_, admitted ?_, admitted ?_, admitted ?_, ?_, admitted ?_, admitted ?_, admitted ?_, admitted ?_, admitted ?_, ?_⟩ <;> decide

theorem test_clock_statement_met :
    Admitted live {} cpClockStep [1, 0, 0] ∧ Admitted live {} cpClockStep [1, 9, 0] ∧ live.sh.count < 9 ∧
    Admitted { live with pwr := { gated := 2 } } {} cpClockStep [2, 0, 0] ∧
    (let s := holds cpClockStep (.clockStep 1 2 0)
     s.ctl.inflight = [] ++ flying cpClockStep (.clockStep 1 2 0) :: [] ∧ (0 : W64) ≤ s.sh.count) := by
  refine ⟨admitted ?_, admitted ?_, ?_, admitted ?_, ?_, ?_⟩ <;> decide

theorem test_trust_statement_met :
    Admitted live {} cpAttest (words 9 []) ∧ Admitted live {} cpDebugClose [] ∧ Admitted live {} cpRetire [0x52455449] ∧ Admitted live {} cpRetire [1] ∧
    Admitted live {} cpProvision (words 66 []) ∧ (live.taken {}).turnTaken = false ∧ (live.taken {}).portOwner 16 = true ∧
    (let s := { live with sh := { locked := true } }
     let p := words 58 [0x0101]
     Admitted s {} cpDebugOpen p ∧ (s.taken {}).flash.fused = 1 ∧ field (bytesOfWords p) 0 1 = 1 ∧ field (bytesOfWords p) 1 2 = 1) ∧
    (let s := { live with ctl := { live.ctl with inflight := [flying cpFwUpdate (.image 64 0)] } }
     (s.taken {}).turnTaken = true ∧ Admitted s {} cpRetire [0x52455449]) := by
  refine ⟨admitted ?_, admitted ?_, admitted ?_, admitted ?_, admitted ?_, ?_, ?_, ⟨admitted ?_, ?_, ?_, ?_⟩, ?_, admitted ?_⟩ <;> decide

/-- A certificate of the debug authority for this module, of SCOPE 1, until count 9; and one of the provisioner. -/
def rightCert : Cert := { keyHash := 0, sigOk := true }
def debugWords : List W32 := words 58 [0x0101, 0, 0, 0, 9]
def factory : State := { live with flash := { live.flash with fused := 0 } }
def atRest : State := { live with halves := [(0, { netCtrl := 3 }), (1, { netCtrl := 3 })] }

theorem test_security_state_statement_met :
    (Admitted live {} cpAttest (words 9 []) ∧ (live.taken {}).turnTaken = false ∧ bit (word (words 9 []) 8) 0 = false) ∧
    (let s := { live with sh := { locked := true } }; let b := bytesOfWords debugWords
     Admitted s {} cpDebugOpen debugWords ∧ (s.taken {}).turnTaken = false ∧ (s.taken {}).flash.fused = 1 ∧ (s.taken {}).pwr.st.toNat ≤ 2 ∧
     (s.taken {}).sh.locked = true ∧ field b 0 1 = 1 ∧ field b 1 2 = 1 ∧ field b 2 8 = 0 ∧ field b 24 32 = 0 ∧ field b 129 136 = 0 ∧
     field b 8 16 = (s.taken {}).flash.serial.toNat ∧ rightCert.keyHash = (s.taken {}).flash.dbgKey ∧ field b 16 24 = 9 ∧
     (s.taken {}).sh.count.toNat < 9) ∧
    (Admitted live {} cpDebugClose [] ∧ (live.taken {}).turnTaken = false) ∧
    (let s := { live with lock := { scope := 1, notAfter := 0 } }
     s.lock.scope ≠ 0 ∧ s.lock.notAfter ≤ s.sh.count) ∧
    live.lock.scope = 0 ∧
    (Admitted factory {} cpProvision (words 66 []) ∧ (factory.taken {}).turnTaken = false ∧ (factory.taken {}).flash.fused = 0 ∧
     field (bytesOfWords (words 66 [])) 0 8 = (factory.taken {}).flash.serial.toNat ∧ rightCert.keyHash = (factory.taken {}).flash.provKey ∧
     (factory.taken {}).flash.dbgKey = 0) ∧
    (Admitted atRest {} cpRetire [0x52455449] ∧ (atRest.taken {}).turnTaken = false ∧ (atRest.taken {}).pwr.st = 0 ∧ (atRest.taken {}).allQuiesced = true ∧
     ∀ k ∈ (atRest.taken {}).stackList, ((atRest.taken {}).mc k).st ≠ 2) := by
  refine ⟨⟨admitted ?_, ?_, ?_⟩, ⟨admitted ?_, ?_, ?_, ?_, ?_, ?_, ?_, ?_, ?_, ?_, ?_, ?_, ?_, ?_⟩, ⟨admitted ?_, ?_⟩, ?_, ?_,
    ⟨admitted ?_, ?_, ?_, ?_, ?_, ?_⟩, admitted ?_, ?_, ?_, ?_, ?_⟩ <;> decide

theorem test_start_up_statement_met :
    ({ ctl := { step := 6 } } : State).ctl.step = 6 ∧ ({ ctl := { step := 8 } } : State).ctl.step = 8 ∧
    ({ ctl := { step := 9 } } : State).ctl.step = 9 ∧ State.reset.ctl.step = 0 ∧ State.reset.pwr.st = 0 ∧
    ({ pwr := { st := 4, off := true, supply := 36000 } } : State).asleep = true ∧ live.asleep = false ∧ State.reset.asleep = true ∧
    (let s : State := { ctl := { step := 7 } }
     s.ctl.step = 7 ∧ s.dormant = false ∧ s.ctl.inflight = []) ∧
    ({ fwOk := false } : Flash).fwOk = false ∧ ({ fwOk := true } : Flash).fwOk = true ∧ (∀ k, (({ ctl := { step := 8 } } : State).mc k).msc = []) ∧
    (let f : TestResult := { stack := 0, failed := 1, firstOffset := 0, firstPlace := 0, failedChannels := 1 }
     live.hasStack f.stack.toNat = true ∧ f.failedChannels.getLsbD 0 = true) := by
  refine ⟨?_, ?_, ?_, ?_, ?_, ?_, ?_, ?_, ?_, ?_, ?_, fun _ => rfl, ?_⟩ <;> decide

/-- R421, R427: at reset WAKE starts nothing, since there is no input; with one of 36 V it does. -/
theorem test_wake_needs_input :
    (match exec .wake .reset with
      | .next t => decide (t = .reset)
      | _ => false) = true ∧
    (match exec .wake { State.reset with pwr := { supply := 36000 } } with
      | .next t => decide (t.ctl.step = if State.reset.flash.fwOk then 3 else 2)
      | _ => false) = true := by
  refine ⟨?_, ?_⟩ <;> decide

theorem test_input_statement_met :
    live.dormant = false ∧ live.hasHalf 0 = true ∧ live.pwr.gated.getLsbD 0 = false ∧ live.pwr.low ≠ 63 ∧ (live.clockOf 0).cool ≠ 63 ∧
    ({ low := 63 } : Power).low = 63 ∧ ({ live with pwr := { st := 4 } } : State).dormant = true ∧
    (({ live with pwr := { clocks := [(0, { cool := 63 })] } } : State).clockOf 0).cool = 63 ∧
    live.asleep = false ∧ State.reset.asleep = true ∧ State.reset.dormant = false ∧ State.reset.pwr.low5 = true ∧
    ({ live with pwr := { st := 4, low5 := false } } : State).asleep = true ∧
    ({ live with pwr := { st := 2, gated := 2 } } : State).pwr.gated.getLsbD 1 = true ∧ live.hasHalf 1 = true ∧
    smaller.hasHalf 1 = false := by decide

/-- R428, R434: the dies of a gated half's stacks assert THERM_N, and leave its ceiling. -/
theorem test_gated_half_drives_therm :
    (match exec (.thermalEvaluation 1 40 [96]) { live with pwr := { st := 2, gated := 2 } } with
      | .next t => t.pwr.thermN && decide ((t.mc 6).temp = 96 ∧ (t.clockOf 1).therm = 0 ∧ (t.clockOf 1).junction = 40)
      | _ => false) = true := by decide

theorem test_tap_statement_met :
    live.accessOpen 0 = false ∧
    (let s := { live with lock := { scope := 3 } }
     s.accessOpen 0 = true ∧ s.accessOpen 1 = true ∧ s.lock.memLock = false ∧ 0 < s.capacity ∧ s.pwr.gated.getLsbD ((s.place 0).stack / 6) = false) := by
  refine ⟨?_, ?_⟩ <;> decide

theorem test_cell_statement_met :
    let legal (c : ACell) : Prop := (c.st = 3 → c.bits = 0x7FC000007FC00000) ∧ (c.st = 2 → c.bits = 0x7FC000007FC00000) ∧
      (c.st = 1 → c.bits ∈ [(0x7F7FFFFF : W64), 0xFF7FFFFF])
    legal { st := 1, bits := 0x7F7FFFFF } ∧ legal { st := 2, bits := 0x7FC000007FC00000 } ∧ legal { st := 3, bits := 0x7FC000007FC00000 } ∧ legal {} := by
  decide

/-! ### Reset -/

/-- Reads a register as control port 0. -/
def reads (s : State) (a : Nat) : Nat × Nat := let r := s.regRead 0 a; (r.1.toNat, r.2.1.toNat)

theorem test_reset_values :
    reads .reset 0x1014 = (0, 4096) ∧ reads .reset 0x200C = (0, 4096) ∧ reads .reset 0x2818 = (0, 0xF) ∧ reads .reset 0x50000 = (0, 0x4000) ∧
    reads .reset 0x50028 = (0, 0x00274A48) ∧ reads .reset 0x50030 = (0, 0xFFFFFFFF) ∧ reads .reset 0x2080 = (0, 0) ∧ reads .reset 0x3004 = (0, 0) := by
  refine ⟨?_, ?_, ?_, ?_, ?_, ?_, ?_, ?_⟩ <;> decide

theorem test_reset_memory : State.reset.mem.wf = true ∧ State.reset.mem.poisoned 0 = true := by decide

/-! ### Worked cases of the manual -/

/-- R22: ID 0xA5B is core 27 of cluster 9 of H1. -/
theorem test_worked_decode : halfOf 0xA5B = 1 ∧ clusterOf 0xA5B = 41 ∧ bits (0xA5B : CoreId) 5 0 = 27 := by decide

/-- A value given as FP32 bits. -/
def f32 (c : Nat) : MV := { v := FpFmt.fp32.decode c }

set_option maxRecDepth 8000 in
/-- R40: 21.0, 3.0, -1.1 and 0.9 in BS4. -/
theorem test_worked_bs4 :
    let b := Fmt.encodeBlock .bs4 false ([f32 0x41A80000, f32 0x40400000, f32 0xBF8CCCCD, f32 0x3F666666] ++ List.replicate 28 (f32 0))
    b.scale.b = 0x81 ∧ (b.body.take 2).map (·.b) = [0x27, 0x09] := by decide

/-- R47: 3.0, -0.7 and 1.0e-6 in BX16. -/
theorem test_worked_bx16 :
    let b := Bx.ofValues false none ([f32 0x40400000, f32 0xBF333333, f32 0x358637BD] ++ List.replicate 29 (f32 0))
    b.exp = 0x81 ∧ b.mant.take 3 = [24576, -5734, 0] ∧ b.rescaled = false := by decide

/-- R302: the worked step of a block whose scale rises. -/
theorem test_worked_bx16_sum :
    let b := Bx.sum false { mant := 30000 :: 12345 :: List.replicate 30 0, exp := 0x81 } { mant := 4000 :: List.replicate 31 0, exp := 0x81 }
    b.exp = 0x82 ∧ b.mant.take 2 = [17000, 6172] ∧ b.rescaled = true := by decide

/-- A cell after addends, the first of which overwrites it. -/
def cellAfter (ps : List FVal) : ACell := (ps.drop 1).foldl (fun c p => c.step false false false p) (ACell.step false true false (ps.headD .zero) {})

/-- R69: 3.0e9, twice 0.25, and -3.0e9 leave 0.5. R71: 3.0e38, 1.0e38 and -3.0e38 leave the cell SATURATED. -/
theorem test_worked_cells :
    cellAfter [.ofNat 3000000000, .fin false 1 (-2), .fin false 1 (-2)] = { bits := 0x3F0000004F32D05E } ∧
    cellAfter [FpFmt.fp32.decode 0x7F61B1E6, FpFmt.fp32.decode 0x7E967699, FpFmt.fp32.decode 0xFF61B1E6] = { bits := 0x7F7FFFFF, st := 1 } := by
  decide

/-- R223: PA 0x09_2345_6F40 on GT4096-F with chunk 3 in mode ALL, and in HALF-LOCAL. -/
theorem test_worked_placement :
    (live.place 0x923456F40).stack = 2 ∧ (live.place 0x923456F40).off = 3270541120 ∧ channelOf 3270541120 = 8 ∧
    (let l := locOf { stack := 2, off := 3270541120 }
     l.rank = 10 ∧ l.bank = 4 ∧ l.row = 519 ∧ l.sector = 29) ∧
    (let p := ({ live with xl := { mode := 8 } } : State).place 0x923456F40
     p.stack = 2 ∧ p.off / 4096 = 786432 + 24078) := by
  refine ⟨?_, ?_, ?_, ⟨?_, ?_, ?_, ?_⟩, ?_, ?_⟩ <;> decide

/-- R119, R124: the worked encoding of an OPROD. -/
theorem test_worked_encoding :
    let d := CmdWord.decode 0x000000000000200004000034F2000010
    d.1 = 0x10 ∧ d.2.tile = true ∧ d.2.emask = 15 ∧ d.2.f 37 34 = 13 ∧ d.2.b 58 = true ∧ d.2.f 83 68 = 512 ∧
    d.2.encode d.1 = 0x000000000000200004000034F2000010 := by decide

/-- R129: the image of a bedstone of 512 rows by 16 columns. -/
theorem test_worked_image : imageBytes .fp8e4 1 512 16 true = 8704 := by decide

/-- A whole-module reset leaves the commands that wait. -/
theorem test_reset_keeps_the_queue : ({ live with pending := [.idcode, .wake] } : State).restart.pending = [.idcode, .wake] := by decide

end Sys2Proof.Tests
end

section
/-! PROOF. Sectors of memory: the bytes and marks that a write leaves (R53, R217, R219), and what a read of a sector from its stack does on
each outcome of its parities (R216, R217, R229). -/

namespace Sys2Proof

variable {α : Type}

/-! ### A map searched after one of its entries has changed -/

theorem SMap.lt_of_rising : ∀ {m : SMap α} {k : Nat}, SMap.rising (some k) m = true → ∀ e ∈ m, k < e.1
  | [], _, _, _, h => absurd h List.not_mem_nil
  | (j, v) :: t, k, hr, e, he => by
    simp only [SMap.rising, Bool.and_eq_true, decide_eq_true_eq] at hr
    obtain ⟨hkj, ht⟩ := hr
    rcases List.mem_cons.1 he with rfl | he
    · exact hkj
    · exact Nat.lt_trans hkj (SMap.lt_of_rising ht e he)

theorem SMap.drop_of_rising {m : SMap α} {k : Nat} (h : SMap.rising (some k) m = true) : SMap.drop m k = m :=
  List.filter_eq_self.2 fun e he => decide_eq_true (Nat.ne_of_gt (SMap.lt_of_rising h e he))

theorem SMap.insert_of_rising {k : Nat} (v : α) : ∀ {m : SMap α}, SMap.rising (some k) m = true → SMap.insert m k v = (k, v) :: m
  | [], _ => rfl
  | (j, _) :: _, h => by
    simp only [SMap.rising, Bool.and_eq_true, decide_eq_true_eq] at h
    rw [SMap.insert, if_pos h.1]

/-- A search finds the entry it found before, with the new value, where the keys rise and the new value still fits. -/
theorem SMap.find?_put {p : Nat × α → Bool} {w : Nat} {v v' : α} (hp : p (w, v') = true) :
    ∀ {m : SMap α} {lo : Option Nat}, SMap.rising lo m = true → m.find? p = some (w, v) → (SMap.put m w (some v')).find? p = some (w, v')
  | [], _, _, h => nomatch h
  | (j, x) :: t, lo, hr, h => by
    obtain ⟨-, ht⟩ := Bool.and_eq_true_iff.1 hr
    by_cases hj : p (j, x) = true
    · rw [List.find?_cons_of_pos hj] at h
      obtain ⟨rfl, rfl⟩ := Prod.mk.injEq _ _ _ _ ▸ Option.some.inj h
      have hd : SMap.drop ((j, x) :: t) j = t := by
        rw [SMap.drop, List.filter_cons_of_neg (by simp)]; exact SMap.drop_of_rising ht
      rw [SMap.put, hd, SMap.insert_of_rising v' ht, List.find?_cons_of_pos hp]
    · rw [List.find?_cons_of_neg hj] at h
      have hjw : j < w := SMap.lt_of_rising ht _ (List.mem_of_find?_eq_some h)
      have hd : SMap.drop ((j, x) :: t) w = (j, x) :: SMap.drop t w := by
        rw [SMap.drop, List.filter_cons_of_pos (by simpa using hjw.ne)]; rfl
      rw [SMap.put, hd, SMap.insert, if_neg hjw.asymm, List.find?_cons_of_neg hj]
      exact SMap.find?_put hp ht h

/-- What has just been put at a key stands in the map. -/
theorem SMap.mem_put (m : SMap α) (k : Nat) (v : α) : (k, v) ∈ SMap.put m k (some v) := by
  rw [SMap.put]
  induction SMap.drop m k with
  | nil => exact List.mem_singleton.2 rfl
  | cons e t ih =>
    rw [SMap.insert]
    split
    · exact List.mem_cons_self
    · exact List.mem_cons_of_mem _ ih

/-- What `put` writes into a map in order leaves it in order. -/
theorem SMap.rising_put {m : SMap α} (k : Nat) (v : α) (h : SMap.rising none m = true) : SMap.rising none (SMap.put m k (some v)) = true :=
  SMap.rising_insert k v _ none (SMap.rising_drop k m none h) (by simp [SMap.drop]) rfl

end Sys2Proof

namespace Sys2Proof.Machine

open Sys2Proof

namespace Mem

/-! ### A write into a sector (R53, R217, R219) -/

variable {base : Nat} {data : List QW}

/-- Byte `j` of a word, as the sector's write lays it down. -/
theorem nth_word_bytes (w : QW) {j : Nat} (h : j < 4) : nth 0 (w.bytes.map (·.b)) j = w.v.extractLsb' (8 * j) 8 := by
  interval_cases j <;> rfl

/-- Bytes outside the words written read as before. -/
theorem read_wordsIn_other {c : Nat} : ∀ {l : List Nat} {m : Mem}, (∀ i ∈ l, c < base + 4 * i ∨ base + 4 * i + 4 ≤ c) →
    (wordsIn base data m l).read c = m.read c
  | [], _, _ => rfl
  | i :: t, m, h => by
    show (wordsIn base data (m.writeBytes _ _) t).read c = m.read c
    rw [read_wordsIn_other fun k hk => h k (List.mem_cons_of_mem i hk)]
    exact read_writeBytes_other _ _ _ _ (h i List.mem_cons_self)

/-- The bytes of each word written read as its data. -/
theorem read_wordsIn {i j : Nat} (hj : j < 4) : ∀ {l : List Nat} {m : Mem}, l.Nodup → i ∈ l →
    (wordsIn base data m l).read (base + 4 * i + j) = (nth {} data i).v.extractLsb' (8 * j) 8
  | k :: t, m, hl, hi => by
    obtain ⟨hk, ht⟩ := List.nodup_cons.1 hl
    show (wordsIn base data (m.writeBytes _ _) t).read _ = _
    rcases List.mem_cons.1 hi with rfl | hi
    · rw [read_wordsIn_other fun n hn => by have : n ≠ i := fun e => hk (e ▸ hn); omega,
        read_writeBytes _ _ _ j (by exact hj), nth_word_bytes _ hj]
    · exact read_wordsIn hj ht hi

variable (m : Mem) (a : Nat) (mask : BitVec 16) (data : List QW)

theorem mem_written {i : Nat} : i ∈ ((List.range 16).filter fun i => mask.getLsbD i) ↔ i < 16 ∧ mask.getLsbD i = true := by
  rw [List.mem_filter, List.mem_range]

theorem read_writeSector {i j : Nat} (hi : i < 16) (hj : j < 4) (h : mask.getLsbD i = true) :
    (m.writeSector a mask data).read (a / 64 * 64 + 4 * i + j) = (nth {} data i).v.extractLsb' (8 * j) 8 := by
  rw [writeSector_eq, read_setWrong, read_setPoison]
  exact read_wordsIn hj (List.nodup_range.filter _) ((mem_written mask).2 ⟨hi, h⟩)

theorem read_writeSector_other {b : Nat} (h : ∀ i, i < 16 → mask.getLsbD i = true → b < a / 64 * 64 + 4 * i ∨ a / 64 * 64 + 4 * i + 4 ≤ b) :
    (m.writeSector a mask data).read b = m.read b := by
  rw [writeSector_eq, read_setWrong, read_setPoison]
  exact read_wordsIn_other fun i hi => h i ((mem_written mask).1 hi).1 ((mem_written mask).1 hi).2

@[simp] theorem wrongAt_writeSector_same : (m.writeSector a mask data).wrongAt a = 0 := by
  rw [writeSector_eq, wrongAt_setWrong_same]

/-- R219: a sector is poisoned by a poisoned word, and stays so unless all of it is written. -/
theorem poisoned_writeSector_same : (m.writeSector a mask data).poisoned a = true ↔
    (∃ i, i < 16 ∧ mask.getLsbD i = true ∧ (nth {} data i).p = true) ∨ (m.poisoned a = true ∧ mask ≠ 0xFFFF) := by
  rw [writeSector_eq, poisoned_setWrong, poisoned_setPoison_same, Bool.or_eq_true, List.any_eq_true, Bool.and_eq_true]
  simp only [mem_written, and_assoc, Bool.not_eq_true', decide_eq_false_iff_not, ne_eq]

end Mem

/-! ### A sector's line in the cache (R227, R228) -/

/-- A bit of a word of which a field has been replaced. -/
theorem getLsbD_setBits {n : Nat} (x : BitVec n) {hi lo : Nat} (v : Nat) {i : Nat} (h : i < n) :
    (setBits x hi lo v).getLsbD i = if lo ≤ i ∧ i < lo + (hi + 1 - lo) then v.testBit (i - lo) else x.getLsbD i := by
  simp only [setBits, BitVec.getLsbD_or, BitVec.getLsbD_and, BitVec.getLsbD_not, BitVec.getLsbD_ofNat, h, Nat.testBit_mul_two_pow,
    Nat.testBit_two_pow_sub_one, Nat.testBit_mod_two_pow, decide_true, Bool.true_and]
  by_cases hl : lo ≤ i
  · by_cases hu : i - lo < hi + 1 - lo
    · have : i < lo + (hi + 1 - lo) := by omega
      simp [hl, hu, this]
    · have : ¬ i < lo + (hi + 1 - lo) := by omega
      simp [hl, hu, this]
  · simp [hl]

namespace Mc

/-- The entry of a line, with its way: `wayOf` and `lineOf` are its parts. -/
def entryOf (m : Mc) (line : Nat) : Option (Nat × MLine) := (m.set line).ways.find? fun e => decide (e.2.line = line)

theorem wayOf_eq (m : Mc) (line : Nat) : m.wayOf line = (m.entryOf line).map (·.1) := rfl
theorem lineOf_eq (m : Mc) (line : Nat) : m.lineOf line = (m.entryOf line).map (·.2) := rfl

@[simp] theorem set_putSet (m : Mc) (line : Nat) (x : MSet) : (m.putSet line x).set line = x := SMap.get_set_same _ _ _ _
@[simp] theorem chan_putSet (m : Mc) (line : Nat) (x : MSet) (c : Nat) : (m.putSet line x).chan c = m.chan c := rfl
@[simp] theorem chan_count (m : Mc) (off n c : Nat) : (m.count off n).chan c = m.chan c := rfl
@[simp] theorem chan_updChan (m : Mc) (c : Nat) (f : Channel → Channel) : (m.updChan c f).chan c = f (m.chan c) := SMap.get_upd_same _ _ _ _
@[simp] theorem chan_allocate (m : Mc) (line c : Nat) : (m.allocate line).chan c = m.chan c := rfl
@[simp] theorem chan_logPoison (m : Mc) (pa : PA) (c : Nat) : (m.logPoison pa).chan c = m.chan c := rfl

/-- What a line that is entered becomes. -/
def entered (l : MLine) (sec : Nat) (dirty : Bool) (bad : BitVec 16) : MLine :=
  { l with valid := l.valid ||| BitVec.ofNat 4 (2 ^ sec), dirty := if dirty then l.dirty ||| BitVec.ofNat 4 (2 ^ sec) else l.dirty,
           bad := setBits l.bad (16 * sec + 15) (16 * sec) bad.toNat }

theorem enter_of_entry {m : Mc} {line sec w : Nat} {l : MLine} (h : m.entryOf line = some (w, l)) (dirty : Bool) (bad : BitVec 16) :
    m.enter line sec dirty bad = m.putSet line
      { ways := SMap.put (m.set line).ways w (some (entered l sec dirty bad)), tree := treeTouch (m.set line).tree w } := by
  simp only [enter, wayOf_eq, lineOf_eq, h, Option.map_some]; rfl

theorem enter_of_absent {m : Mc} {line : Nat} (h : m.entryOf line = none) (sec : Nat) (dirty : Bool) (bad : BitVec 16) :
    m.enter line sec dirty bad = m := by
  simp only [enter, wayOf_eq, h, Option.map_none]

@[simp] theorem chan_enter (m : Mc) (line sec : Nat) (dirty : Bool) (bad : BitVec 16) (c : Nat) :
    (m.enter line sec dirty bad).chan c = m.chan c := by
  cases h : m.entryOf line with
  | none => rw [enter_of_absent h]
  | some e => rw [enter_of_entry (w := e.1) (l := e.2) h, chan_putSet]

theorem line_of_entryOf {m : Mc} {line w : Nat} {l : MLine} (h : m.entryOf line = some (w, l)) : l.line = line := by
  simpa using List.find?_some h

theorem getLsbD_sectorBit {sec : Nat} (h : sec < 4) : (BitVec.ofNat 4 (2 ^ sec)).getLsbD sec = true := by
  interval_cases sec <;> rfl

theorem valid_entered (l : MLine) {sec : Nat} (h : sec < 4) (dirty : Bool) (bad : BitVec 16) :
    (entered l sec dirty bad).valid.getLsbD sec = true := by
  rw [entered, BitVec.getLsbD_or, getLsbD_sectorBit h, Bool.or_true]

/-- A sector that is entered is valid in its line, where its line is present. -/
theorem valid_enter {m : Mc} {line sec : Nat} (hs : sec < 4) (h : (m.wayOf line).isSome = true) (dirty : Bool) (bad : BitVec 16) :
    ∃ e ∈ ((m.enter line sec dirty bad).set line).ways, e.2.line = line ∧ e.2.valid.getLsbD sec = true := by
  rw [wayOf_eq, Option.isSome_map] at h
  obtain ⟨⟨w, l⟩, he⟩ := Option.isSome_iff_exists.1 h
  rw [enter_of_entry he, set_putSet]
  exact ⟨_, SMap.mem_put _ w (entered l sec dirty bad), (line_of_entryOf he :), valid_entered l hs dirty bad⟩

/-- A line for which room has been made is present. -/
theorem wayOf_allocate (m : Mc) (line : Nat) : ((m.allocate line).wayOf line).isSome = true := by
  rw [wayOf_eq, Option.isSome_map, entryOf, allocate, set_putSet, List.find?_isSome]
  exact ⟨_, SMap.mem_put _ _ _, decide_eq_true rfl⟩

/-- The words of a sector are the bits that were set for it. -/
theorem extractLsb'_setBits (x : BitVec 64) (bad : BitVec 16) {sec : Nat} (h : sec < 4) :
    (setBits x (16 * sec + 15) (16 * sec) bad.toNat).extractLsb' (16 * sec) 16 = bad := by
  ext i hi
  rw [← BitVec.getLsbD_eq_getElem, BitVec.getLsbD_extractLsb', getLsbD_setBits _ _ (by omega), if_pos (by omega), Nat.add_sub_cancel_left,
    decide_eq_true hi, Bool.true_and, BitVec.testBit_toNat, BitVec.getLsbD_eq_getElem]

/-- R229: the words of a sector that is entered are held as they were entered, in a set whose ways stand in order. -/
theorem held_enter {m : Mc} {line sec : Nat} (hs : sec < 4) (h : (m.wayOf line).isSome = true)
    (hr : SMap.rising none (m.set line).ways = true) (dirty : Bool) (bad : BitVec 16) :
    (m.enter line sec dirty bad).held line sec = some bad := by
  rw [wayOf_eq, Option.isSome_map] at h
  obtain ⟨⟨w, l⟩, he⟩ := Option.isSome_iff_exists.1 h
  have hl : (m.enter line sec dirty bad).lineOf line = some (entered l sec dirty bad) := by
    rw [enter_of_entry he, lineOf_eq, entryOf, set_putSet]
    exact congrArg (Option.map (·.2)) (SMap.find?_put (v' := entered l sec dirty bad) (decide_eq_true (line_of_entryOf he :)) hr he)
  simp only [held, hl, valid_entered l hs dirty bad, if_true]
  rw [entered, extractLsb'_setBits _ _ hs]

theorem wayOf_of_held {m : Mc} {line sec : Nat} {b : BitVec 16} (h : m.held line sec = some b) : (m.wayOf line).isSome = true := by
  rw [wayOf_eq, Option.isSome_map]
  cases he : m.entryOf line with
  | none => rw [held, lineOf_eq, he] at h; exact absurd h nofun
  | some _ => rfl

/-- R229: the words of a held sector that fail their parity join those that it holds poisoned. -/
theorem held_spoil {m : Mc} {line sec : Nat} {b : BitVec 16} (hs : sec < 4) (h : m.held line sec = some b)
    (hr : SMap.rising none (m.set line).ways = true) (words : BitVec 16) : (m.spoil line sec words).held line sec = some (b ||| words) := by
  rw [spoil, held_enter hs (wayOf_of_held h) hr, h, Option.getD_some]

end Mc

namespace State

/-! ### What sending and recording leave alone -/

/-- All of the Triat but its ports, what they have put out, and the miller: what no frame and no notification touches. -/
def besidePorts (s : State) : State := { s with ports := [], out := [], ctl := {} }

theorem besidePorts_identSent (s : State) (b : Option FBody) : (s.identSent b).besidePorts = s.besidePorts := by
  unfold identSent; split <;> rfl

theorem besidePorts_sendFrame (s : State) (n : Nat) (pool : BitVec 4) (b : Option FBody) : (s.sendFrame n pool b).besidePorts = s.besidePorts :=
  besidePorts_identSent _ _

theorem besidePorts_giveBack (s : State) (r : Option (Nat × BitVec 4 × Nat)) : (s.giveBack r).besidePorts = s.besidePorts := by
  cases r <;> rfl

theorem besidePorts_drainFrom (n : Nat) : ∀ (qs kept : List QItem) (s : State), (s.drainFrom n qs kept).besidePorts = s.besidePorts
  | [], _, _ => rfl
  | q :: qs, kept, s => by
    rw [drainFrom]
    split
    · rw [besidePorts_drainFrom n qs, besidePorts_giveBack, besidePorts_sendFrame]
    · exact besidePorts_drainFrom n qs _ s

theorem besidePorts_enqueue (s : State) (n : Nat) (q : QItem) : (s.enqueue n q).besidePorts = s.besidePorts :=
  besidePorts_drainFrom n _ _ _

theorem besidePorts_enqueueAll (n : Nat) (f : Note → QItem) : ∀ (ns : List Note) (s : State),
    (ns.foldl (fun s x => s.enqueue n (f x)) s).besidePorts = s.besidePorts
  | [], _ => rfl
  | x :: ns, s => (besidePorts_enqueueAll n f ns _).trans (besidePorts_enqueue s n (f x))

theorem besidePorts_pumpNotes (s : State) : s.pumpNotes.besidePorts = s.besidePorts := by
  unfold pumpNotes
  split
  · rfl
  · exact besidePorts_enqueueAll _ _ _ _

theorem besidePorts_notify (s : State) (code : BitVec 16) (ws : List W32) : (s.notify code ws).besidePorts = s.besidePorts := by
  unfold notify
  dsimp only
  split
  · rw [besidePorts_pumpNotes]; rfl
  · rfl

@[simp] theorem notify_mcs (s : State) (code : BitVec 16) (ws : List W32) : (s.notify code ws).mcs = s.mcs := by
  have h := congrArg mcs (besidePorts_notify s code ws); exact h

/-- A record in the lichen map touches the flash and securing only. -/
theorem lmAdd_beside (s : State) (type : Nat) (loc : BitVec 48) :
    { s.lmAdd type loc with flash := {}, sec := {} } = { s with flash := {}, sec := {} } := by
  unfold lmAdd lmCompact lmClearOldest updLm
  dsimp only
  split
  · rfl
  · split
    · rfl
    · split
      · rfl
      · split <;> rfl

@[simp] theorem lmAdd_mcs (s : State) (type : Nat) (loc : BitVec 48) : (s.lmAdd type loc).mcs = s.mcs := by
  have h := congrArg mcs (lmAdd_beside s type loc); exact h

/-! ### A persistent mismatch (R216, R217) -/

/-- The same Triat over other memory. -/
def setMem (s : State) (m : Mem) : State := { s with mem := m }

@[simp] theorem setMem_mem (s : State) (m : Mem) : (s.setMem m).mem = m := rfl

/-- A persistent mismatch as it stands in the cells and in the channel, before it is recorded. -/
def mismatchSeen (s : State) (pa : PA) (g : Option (BitVec 2)) : State :=
  (s.setMem (s.mem.setWrong pa.toNat (wrongMark g))).updMc (s.place pa.toNat).stack
    (·.updChan (channelOf (s.place pa.toNat).off) (·.mismatch pa g))

/-- What is seen stays, whether its location is held or is recorded and reported now. -/
theorem mismatch_eq (s : State) (pa : PA) (g : Option (BitVec 2)) : s.mismatch pa g = s.mismatchSeen pa g ∨
    ∃ loc ws, s.mismatch pa g =
      (((s.mismatchSeen pa g).lmAdd lmPoison loc).updMc (s.place pa.toNat).stack (·.logPoison pa)).notify 0x0007 ws := by
  unfold mismatch
  dsimp only
  split
  · exact .inl rfl
  · exact .inr ⟨_, _, rfl⟩

@[simp] theorem mismatch_mem (s : State) (pa : PA) (g : Option (BitVec 2)) : (s.mismatch pa g).mem = s.mem.setWrong pa.toNat (wrongMark g) := by
  rcases s.mismatch_eq pa g with h | ⟨loc, ws, h⟩
  · rw [h, mismatchSeen, updMc_mem, setMem_mem]
  · rw [h, notify_mem, updMc_mem, lmAdd_mem, mismatchSeen, updMc_mem, setMem_mem]

/-- The channel of a place. -/
def chanAt (s : State) (p : Place) : Channel := (s.mc p.stack).chan (channelOf p.off)

@[simp] theorem place_updMc (s : State) (k : Nat) (f : Mc → Mc) (a : Nat) : (s.updMc k f).place a = s.place a := rfl

@[simp] theorem chanAt_updChan (s : State) (p : Place) (f : Channel → Channel) :
    (s.updMc p.stack (·.updChan (channelOf p.off) f)).chanAt p = f (s.chanAt p) := by
  rw [chanAt, updMc_mc_same, Mc.chan_updChan]; rfl

theorem chanAt_updMc (s : State) (p : Place) {f : Mc → Mc} (hf : ∀ m c, (f m).chan c = m.chan c) :
    (s.updMc p.stack f).chanAt p = s.chanAt p := by
  rw [chanAt, updMc_mc_same, hf]; rfl

@[simp] theorem chanAt_setMem (s : State) (m : Mem) (p : Place) : (s.setMem m).chanAt p = s.chanAt p := rfl

theorem chanAt_of_mcs {s t : State} (h : t.mcs = s.mcs) (p : Place) : t.chanAt p = s.chanAt p :=
  congrArg (fun ms => (SMap.get ({} : Mc) ms p.stack).chan (channelOf p.off)) h

/-- A mismatch is counted in its channel whether or not its location is new. -/
theorem mismatch_chanAt (s : State) (pa : PA) (g : Option (BitVec 2)) :
    (s.mismatch pa g).chanAt (s.place pa.toNat) = (s.chanAt (s.place pa.toNat)).mismatch pa g := by
  have hseen : (s.mismatchSeen pa g).chanAt (s.place pa.toNat) = (s.chanAt (s.place pa.toNat)).mismatch pa g := chanAt_updChan _ _ _
  rcases s.mismatch_eq pa g with h | ⟨loc, ws, h⟩
  · rw [h, hseen]
  · rw [h, chanAt_of_mcs (notify_mcs _ _ _), chanAt_updMc _ _ fun m c => Mc.chan_logPoison m pa c, chanAt_of_mcs (lmAdd_mcs _ _ _), hseen]

theorem wrongMark_ne_zero (g : Option (BitVec 2)) : wrongMark g ≠ 0 := by
  cases g with
  | none => decide
  | some k => revert k; decide

end State

/-- A count goes up by one, modulo 2^32. -/
theorem get_bump_one (m : SMap W32) (off : Nat) : SMap.get 0 (bump m off 1) off = SMap.get 0 m off + 1 := by
  rw [bump, if_neg (by decide), SMap.get_upd_same]; rfl

theorem Channel.mismatch_counts (c : Channel) (pa : PA) (g : Option (BitVec 2)) : (c.mismatch pa g).counts = (c.count 0x10 1).counts := by
  cases g with
  | none => rfl
  | some k => unfold Channel.mismatch; dsimp only; split <;> rfl

theorem Channel.noteLane_counts (c : Channel) (g : Option (BitVec 2)) : (c.noteLane g).counts = c.counts := by cases g <;> rfl

/-! ### A sector that has been read enters the cache (R227 to R229) -/

theorem Mem.wrongAt_foldl_setPoison (p : Bool) (c : Nat) : ∀ (l : List Nat) (m : Mem),
    (l.foldl (fun m a => m.setPoison a p) m).wrongAt c = m.wrongAt c
  | [], _ => rfl
  | _ :: t, _ => Mem.wrongAt_foldl_setPoison p c t _

theorem Mem.poisoned_setPoison_true (m : Mem) (a : Nat) {c : Nat} (h : m.poisoned c = true) : (m.setPoison a true).poisoned c = true := by
  by_cases hc : c / 64 = a / 64
  · rw [Mem.poisoned, hc]; exact Mem.poisoned_setPoison_same m a true
  · rw [Mem.poisoned_setPoison_other m true hc, h]

theorem Mem.poisoned_foldl_setPoison_true {c : Nat} : ∀ (l : List Nat) {m : Mem}, m.poisoned c = true →
    (l.foldl (fun m a => m.setPoison a true) m).poisoned c = true
  | [], _, h => h
  | a :: t, m, h => Mem.poisoned_foldl_setPoison_true t (Mem.poisoned_setPoison_true m a h)

/-- Between `s` and `t` only caches, counts of controllers and marks have moved, as a write-back moves them: no byte, no sign of a mismatch and
no channel has changed, and no mark has gone. -/
structure CacheMoved (s t : State) : Prop where
  read : ∀ a, t.mem.read a = s.mem.read a
  wrongAt : ∀ a, t.mem.wrongAt a = s.mem.wrongAt a
  poisoned : ∀ a, s.mem.poisoned a = true → t.mem.poisoned a = true
  chan : ∀ k c, (t.mc k).chan c = (s.mc k).chan c
  rest : { t with mcs := [], mem := {} } = { s with mcs := [], mem := {} }

namespace CacheMoved

theorem refl (s : State) : CacheMoved s s := ⟨fun _ => rfl, fun _ => rfl, fun _ h => h, fun _ _ => rfl, rfl⟩

theorem trans {s u t : State} (h : CacheMoved s u) (h' : CacheMoved u t) : CacheMoved s t :=
  ⟨fun a => (h'.read a).trans (h.read a), fun a => (h'.wrongAt a).trans (h.wrongAt a), fun a hp => h'.poisoned a (h.poisoned a hp),
    fun k c => (h'.chan k c).trans (h.chan k c), h'.rest.trans h.rest⟩

theorem updMc (s : State) (k : Nat) {f : Mc → Mc} (hf : ∀ m c, (f m).chan c = m.chan c) : CacheMoved s (s.updMc k f) where
  read _ := rfl
  wrongAt _ := rfl
  poisoned _ h := h
  chan j c := by
    rw [State.updMc_mc]
    split
    · next h => rw [hf, h]
    · rfl
  rest := rfl

theorem backMarks (s : State) (stack : Nat) (ls : List MLine) : CacheMoved s (s.backMarks stack ls) where
  read a := Mem.read_foldl_setPoison true a _ _
  wrongAt a := Mem.wrongAt_foldl_setPoison true a _ _
  poisoned _ h := Mem.poisoned_foldl_setPoison_true _ h
  chan _ _ := rfl
  rest := rfl

theorem mscAllocate (s : State) (stack line : Nat) : CacheMoved s (s.mscAllocate stack line) :=
  (backMarks s stack _).trans (updMc _ stack fun m c => Mc.chan_allocate m line c)

theorem fillSector (s : State) (p : Place) (noalloc : Bool) (bad : BitVec 16) : CacheMoved s (s.fillSector p noalloc bad) := by
  have henter (u : State) : CacheMoved u (u.updMc p.stack (·.enter (p.off / 256) (p.off / 64 % 4) false bad)) :=
    updMc u _ fun m c => Mc.chan_enter m _ _ _ _ c
  unfold State.fillSector
  dsimp only
  split
  · exact henter s
  · split
    · exact refl s
    · exact (mscAllocate s p.stack _).trans (henter _)

theorem of_fillSector {u t : State} {p : Place} {noalloc : Bool} {bad : BitVec 16} (h : t = u.fillSector p noalloc bad) : CacheMoved u t :=
  h ▸ fillSector u p noalloc bad

end CacheMoved

/-- R228: a sector that has been read is valid in the cache, unless its page is NOALLOC. -/
theorem State.valid_fillSector (s : State) (p : Place) (bad : BitVec 16) : ∃ e ∈ (((s.fillSector p false bad).mc p.stack).set (p.off / 256)).ways,
    e.2.line = p.off / 256 ∧ e.2.valid.getLsbD (p.off / 64 % 4) = true := by
  have hs : p.off / 64 % 4 < 4 := Nat.mod_lt _ (by decide)
  unfold State.fillSector
  dsimp only
  split
  · next h => rw [State.updMc_mc_same]; exact Mc.valid_enter hs h false bad
  · rw [if_neg Bool.false_ne_true, State.updMc_mc_same]
    refine Mc.valid_enter hs ?_ false bad
    rw [State.mscAllocate, State.updMc_mc_same]; exact Mc.wayOf_allocate _ _

theorem State.valid_of_fillSector {u t : State} {p : Place} {bad : BitVec 16} (h : t = u.fillSector p false bad) :
    ∃ e ∈ ((t.mc p.stack).set (p.off / 256)).ways, e.2.line = p.off / 256 ∧ e.2.valid.getLsbD (p.off / 64 % 4) = true :=
  h ▸ State.valid_fillSector u p bad

/-! ### A sector read from its stack (R216, R217) -/

/-- Every byte is as it was, and so is all of the Triat but memory and its controllers. -/
structure OnlyRead (s t : State) : Prop where
  read : ∀ a, t.mem.read a = s.mem.read a
  rest : { t with mcs := [], mem := {} } = { s with mcs := [], mem := {} }

namespace OnlyRead

variable {s u : State}

theorem refl (s : State) : OnlyRead s s := ⟨fun _ => rfl, rfl⟩

theorem updMc (h : OnlyRead s u) (k : Nat) (f : Mc → Mc) : OnlyRead s (u.updMc k f) := ⟨h.read, h.rest⟩

theorem setMem (h : OnlyRead s u) {m : Mem} (hm : ∀ a, m.read a = s.mem.read a) : OnlyRead s (u.setMem m) := ⟨hm, h.rest⟩

end OnlyRead

/-- One more has been counted at `off` in the channel of a place. -/
def Counted (s t : State) (p : Place) (off : Nat) : Prop :=
  SMap.get 0 (t.chanAt p).counts off = SMap.get 0 (s.chanAt p).counts off + 1

namespace CacheMoved

variable {s u t : State}

theorem onlyRead (h : CacheMoved u t) (hu : OnlyRead s u) : OnlyRead s t :=
  ⟨fun a => (h.read a).trans (hu.read a), h.rest.trans hu.rest⟩

theorem counted (h : CacheMoved u t) {p : Place} {off : Nat} (hu : Counted s u p off) : Counted s t p off := by
  rw [Counted, State.chanAt, h.chan]; exact hu

end CacheMoved

namespace State

variable (s : State) (pa : PA) (noalloc : Bool) {first replay : ParityCheck}

/-- A stack of which a sector has been asked: the reads counted. -/
def asked (k : Nat) : State := s.updMc k fun m => (m.count 0x100 1).count 0x10C 1

/-- A stack of which a sector has been asked again, with the group of the bytes that failed. -/
def askedAgain (p : Place) (g : Option (BitVec 2)) : State :=
  (s.asked p.stack).updMc p.stack fun m => (m.count 0x100 1).updChan (channelOf p.off) (·.noteLane g)

theorem chanAt_asked (p : Place) : (s.asked p.stack).chanAt p = s.chanAt p := chanAt_updMc s p fun _ _ => rfl

@[simp] theorem place_askedAgain (p : Place) (g : Option (BitVec 2)) (a : Nat) : (s.askedAgain p g).place a = s.place a := rfl

@[simp] theorem askedAgain_mem (p : Place) (g : Option (BitVec 2)) : (s.askedAgain p g).mem = s.mem := rfl

theorem counts_askedAgain (p : Place) (g : Option (BitVec 2)) : ((s.askedAgain p g).chanAt p).counts = (s.chanAt p).counts := by
  rw [askedAgain, chanAt, updMc_mc_same, Mc.chan_updChan, Channel.noteLane_counts, Mc.chan_count]
  exact congrArg Channel.counts (s.chanAt_asked p)

/-- One more counted at `off` in the channel of a place. -/
def counting (p : Place) (off : Nat) : State := s.updMc p.stack (·.updChan (channelOf p.off) (·.count off 1))

theorem counted_counting {u : State} {p : Place} (off : Nat) (h : (u.chanAt p).counts = (s.chanAt p).counts) :
    Counted s (u.counting p off) p off := by
  rw [Counted, counting, chanAt_updChan, Channel.count, get_bump_one, h]

theorem stackRead_eq_stored (h : first = .allInverted ∨ (s.mem.poisoned pa.toNat = true ∧ first = .correct)) :
    s.stackRead pa noalloc first replay =
      (((s.asked (s.place pa.toNat).stack).setMem (s.mem.setPoison pa.toNat true)).counting (s.place pa.toNat) 0x14).fillSector
        (s.place pa.toNat) noalloc 0 := if_pos h

theorem stackRead_eq_correct (h : s.mem.poisoned pa.toNat = false) : s.stackRead pa noalloc .correct replay =
    ((s.asked (s.place pa.toNat).stack).setMem (s.mem.setWrong pa.toNat 0)).fillSector (s.place pa.toNat) noalloc 0 :=
  (if_neg (by simp [h])).trans (if_pos rfl)

theorem stackRead_eq_replayed (h : s.mem.poisoned pa.toNat = false) (h1 : first ≠ .correct) (h2 : first ≠ .allInverted) :
    s.stackRead pa noalloc first .correct =
      (((s.askedAgain (s.place pa.toNat) (failingGroup first)).setMem (s.mem.setWrong pa.toNat 0)).counting (s.place pa.toNat) 0x0C).fillSector
        (s.place pa.toNat) noalloc 0 :=
  (if_neg (by simp [h1, h2])).trans ((if_neg h1).trans (if_pos (by simp [h])))

theorem stackRead_eq_failed (h : s.mem.poisoned pa.toNat = true ∨ replay ≠ .correct) (h1 : first ≠ .correct) (h2 : first ≠ .allInverted) :
    ∃ g, s.stackRead pa noalloc first replay =
      ((s.askedAgain (s.place pa.toNat) (failingGroup first)).mismatch pa g).fillSector (s.place pa.toNat) noalloc 0xFFFF :=
  ⟨_, (if_neg (by simp [h1, h2])).trans ((if_neg h1).trans (if_neg (by simpa [imp_iff_not_or, or_comm] using h)))⟩

/-- R216: a sector that shows its mark, or reads inverted, is stored poison: counted, and poisoned after. -/
theorem stackRead_stored (h : first = .allInverted ∨ (s.mem.poisoned pa.toNat = true ∧ first = .correct)) :
    let t := s.stackRead pa noalloc first replay
    OnlyRead s t ∧ t.mem.poisoned pa.toNat = true ∧ Counted s t (s.place pa.toNat) 0x14 := by
  intro t
  have hm := CacheMoved.of_fillSector (stackRead_eq_stored s pa noalloc (replay := replay) h)
  exact ⟨hm.onlyRead ((((OnlyRead.refl s).updMc _ _).setMem (Mem.read_setPoison s.mem _ true)).updMc _ _),
    hm.poisoned _ (Mem.poisoned_setPoison_same s.mem _ true), hm.counted (s.counted_counting _ (by rw [chanAt_setMem, chanAt_asked]))⟩

/-- R216, R228: a sector whose parity is right is delivered, and enters the cache unless its page is NOALLOC. -/
theorem stackRead_correct (h : s.mem.poisoned pa.toNat = false) :
    let t := s.stackRead pa noalloc .correct replay; let p := s.place pa.toNat
    OnlyRead s t ∧ t.mem.wrongAt pa.toNat = 0 ∧ (noalloc = false →
      ∃ e ∈ ((t.mc p.stack).set (p.off / 256)).ways, e.2.line = p.off / 256 ∧ e.2.valid.getLsbD (p.off / 64 % 4) = true) := by
  intro t p
  have ht := stackRead_eq_correct s pa noalloc (replay := replay) h
  have hm := CacheMoved.of_fillSector ht
  exact ⟨hm.onlyRead (((OnlyRead.refl s).updMc _ _).setMem (Mem.read_setWrong s.mem _ 0)),
    (hm.wrongAt _).trans (Mem.wrongAt_setWrong_same s.mem _ 0),
    fun hn => by subst hn; exact State.valid_of_fillSector ht⟩

/-- R216, R217: a sector that is right when it is replayed is delivered, and its correction counted. -/
theorem stackRead_replayed (h : s.mem.poisoned pa.toNat = false) (h1 : first ≠ .correct) (h2 : first ≠ .allInverted) :
    let t := s.stackRead pa noalloc first .correct
    OnlyRead s t ∧ t.mem.wrongAt pa.toNat = 0 ∧ Counted s t (s.place pa.toNat) 0x0C := by
  intro t
  have hm := CacheMoved.of_fillSector (stackRead_eq_replayed s pa noalloc h h1 h2)
  exact ⟨hm.onlyRead (((((OnlyRead.refl s).updMc _ _).updMc _ _).setMem (Mem.read_setWrong s.mem _ 0)).updMc _ _),
    (hm.wrongAt _).trans (Mem.wrongAt_setWrong_same s.mem _ 0),
    hm.counted (s.counted_counting _ (by rw [chanAt_setMem, counts_askedAgain]))⟩

/-- R216, R217: a sector that fails again leaves its cells known as wrong, and its mismatch counted. -/
theorem stackRead_failed (h : s.mem.poisoned pa.toNat = true ∨ replay ≠ .correct) (h1 : first ≠ .correct) (h2 : first ≠ .allInverted) :
    let t := s.stackRead pa noalloc first replay
    (∀ a, t.mem.read a = s.mem.read a) ∧ t.mem.wrongAt pa.toNat ≠ 0 ∧ Counted s t (s.place pa.toNat) 0x10 := by
  intro t
  obtain ⟨g, ht⟩ := stackRead_eq_failed s pa noalloc h h1 h2
  have hm := CacheMoved.of_fillSector ht
  refine ⟨fun a => ?_, ?_, hm.counted ?_⟩
  · rw [hm.read, mismatch_mem, Mem.read_setWrong, askedAgain_mem]
  · rw [hm.wrongAt, mismatch_mem, Mem.wrongAt_setWrong_same]; exact wrongMark_ne_zero g
  · have hc := (s.askedAgain (s.place pa.toNat) (failingGroup first)).mismatch_chanAt pa g
    rw [place_askedAgain] at hc
    rw [Counted, hc, Channel.mismatch_counts, Channel.count, get_bump_one, counts_askedAgain]

end State

/-! ### MC_SECTOR_READ (R216, R217, R229) -/

/-- The stack that holds `pa` serves reads, and so does its channel. -/
structure StackOpen (s : State) (pa : PA) : Prop where
  installed : pa.toNat < s.capacity
  notShut : s.mcShut (s.place pa.toNat).stack = none
  ready : (s.mc (s.place pa.toNat).stack).st = 1
  channel : (s.chanAt (s.place pa.toNat)).st = 2

/-- The words of the sector of a place that its stack's cache holds poisoned; none: the cache does not hold it. -/
def State.heldAt (s : State) (p : Place) : Option (BitVec 16) := (s.mc p.stack).held (p.off / 256) (p.off / 64 % 4)

/-- The cache holds the sector of a place dirty. -/
def State.heldDirty (s : State) (p : Place) : Bool := ((s.mc p.stack).lineOf (p.off / 256)).any (·.dirty.getLsbD (p.off / 64 % 4))

section
variable {s : State} {pa : PA} (noalloc : Bool) {words : BitVec 16} (first replay : ParityCheck) {b : BitVec 16}

/-- The read of a sector that the cache holds, of whose words some have failed. -/
def State.reread (s : State) (pa : PA) (noalloc : Bool) (words : BitVec 16) (first replay : ParityCheck) : State :=
  let p := s.place pa.toNat
  let u := s.updMc p.stack (·.count 0x114 (popcount 16 words.toNat))
  if s.heldDirty p then u.updMc p.stack (·.spoil (p.off / 256) (p.off / 64 % 4) words)
  else (u.updMc p.stack (·.dropSector (p.off / 256) (p.off / 64 % 4))).stackRead pa noalloc first replay

theorem exec_mcSectorRead (read : SectorRead) (first replay : ParityCheck) (s : State) :
    exec (.mcSectorRead read first replay) s = execMcSectorRead read first replay s := rfl

/-- Nothing turns the read away: it goes to the stack where the cache does not hold the sector, and else ends at once unless words have
failed. -/
theorem exec_sectorRead_open (h : StackOpen s pa) : exec (.mcSectorRead { pa := pa, noalloc := noalloc, words := words } first replay) s =
    .next (if (s.heldAt (s.place pa.toNat)).isNone then s.stackRead pa noalloc first replay
      else if words = 0 then s else s.reread pa noalloc words first replay) := by
  obtain ⟨hcap, hshut, hready, hchan⟩ := h
  rw [State.chanAt] at hchan
  rw [exec_mcSectorRead]
  unfold execMcSectorRead State.heldAt State.reread State.heldDirty
  dsimp only
  rw [if_neg (Nat.not_le.2 hcap), if_neg (by simp [hshut, hready]), if_neg (by rw [hchan]; decide), if_neg (by simp [hchan])]
  split
  · rfl
  · split
    · rfl
    · cases (s.mc (s.place pa.toNat).stack).lineOf ((s.place pa.toNat).off / 256) with
      | none => rfl
      | some l => rw [Option.any_some]

theorem exec_sectorRead_absent (h : StackOpen s pa) (hn : s.heldAt (s.place pa.toNat) = none) :
    exec (.mcSectorRead { pa := pa, noalloc := noalloc, words := words } first replay) s = .next (s.stackRead pa noalloc first replay) := by
  rw [exec_sectorRead_open noalloc first replay h, hn]; rfl

theorem exec_sectorRead_held (h : StackOpen s pa) (hb : s.heldAt (s.place pa.toNat) = some b) :
    exec (.mcSectorRead { pa := pa, noalloc := noalloc, words := words } first replay) s =
      .next (if words = 0 then s else s.reread pa noalloc words first replay) := by
  rw [exec_sectorRead_open noalloc first replay h, hb]; rfl

end

theorem State.updMc_rest (s : State) (k : Nat) (f : Mc → Mc) : { s.updMc k f with mcs := [] } = { s with mcs := [] } := rfl

section
variable {s : State} {pa : PA} {noalloc : Bool} {words : BitVec 16} {first replay : ParityCheck} {b : BitVec 16} (h : StackOpen s pa)
include h

theorem sectorRead_stored (hn : s.heldAt (s.place pa.toNat) = none)
    (hp : first = .allInverted ∨ (s.mem.poisoned pa.toNat = true ∧ first = .correct)) :
    Completes (.mcSectorRead { pa := pa, noalloc := noalloc, words := words } first replay) s fun t =>
      OnlyRead s t ∧ t.mem.poisoned pa.toNat = true ∧ Counted s t (s.place pa.toNat) 0x14 :=
  ⟨_, exec_sectorRead_absent noalloc first replay h hn, s.stackRead_stored pa noalloc hp⟩

theorem sectorRead_correct (hn : s.heldAt (s.place pa.toNat) = none) (hp : s.mem.poisoned pa.toNat = false) :
    Completes (.mcSectorRead { pa := pa, noalloc := noalloc, words := words } .correct replay) s fun t => let p := s.place pa.toNat
      OnlyRead s t ∧ t.mem.wrongAt pa.toNat = 0 ∧ (noalloc = false →
        ∃ e ∈ ((t.mc p.stack).set (p.off / 256)).ways, e.2.line = p.off / 256 ∧ e.2.valid.getLsbD (p.off / 64 % 4) = true) :=
  ⟨_, exec_sectorRead_absent noalloc .correct replay h hn, s.stackRead_correct pa noalloc hp⟩

theorem sectorRead_replayed (hn : s.heldAt (s.place pa.toNat) = none) (hp : s.mem.poisoned pa.toNat = false) (h1 : first ≠ .correct)
    (h2 : first ≠ .allInverted) :
    Completes (.mcSectorRead { pa := pa, noalloc := noalloc, words := words } first .correct) s fun t =>
      OnlyRead s t ∧ t.mem.wrongAt pa.toNat = 0 ∧ Counted s t (s.place pa.toNat) 0x0C :=
  ⟨_, exec_sectorRead_absent noalloc first .correct h hn, s.stackRead_replayed pa noalloc hp h1 h2⟩

theorem sectorRead_failed (hn : s.heldAt (s.place pa.toNat) = none) (hp : s.mem.poisoned pa.toNat = true ∨ replay ≠ .correct)
    (h1 : first ≠ .correct) (h2 : first ≠ .allInverted) :
    Completes (.mcSectorRead { pa := pa, noalloc := noalloc, words := words } first replay) s fun t =>
      (∀ a, t.mem.read a = s.mem.read a) ∧ t.mem.wrongAt pa.toNat ≠ 0 ∧ Counted s t (s.place pa.toNat) 0x10 :=
  ⟨_, exec_sectorRead_absent noalloc first replay h hn, s.stackRead_failed pa noalloc hp h1 h2⟩

theorem exec_sectorRead_dirty (hb : s.heldAt (s.place pa.toNat) = some b) (hw : words ≠ 0) (hd : s.heldDirty (s.place pa.toNat) = true) :
    exec (.mcSectorRead { pa := pa, noalloc := noalloc, words := words } first replay) s =
      let p := s.place pa.toNat
      .next ((s.updMc p.stack (·.count 0x114 (popcount 16 words.toNat))).updMc p.stack (·.spoil (p.off / 256) (p.off / 64 % 4) words)) := by
  rw [exec_sectorRead_held noalloc first replay h hb, if_neg hw, State.reread, if_pos hd]

theorem exec_sectorRead_clean (hb : s.heldAt (s.place pa.toNat) = some b) (hw : words ≠ 0) (hd : s.heldDirty (s.place pa.toNat) = false) :
    exec (.mcSectorRead { pa := pa, noalloc := noalloc, words := words } first replay) s =
      let p := s.place pa.toNat
      .next (((s.updMc p.stack (·.count 0x114 (popcount 16 words.toNat))).updMc p.stack
        (·.dropSector (p.off / 256) (p.off / 64 % 4))).stackRead pa noalloc first replay) := by
  rw [exec_sectorRead_held noalloc first replay h hb, if_neg hw, State.reread, if_neg (by rw [hd]; exact Bool.false_ne_true)]

/-- R229: the words of a dirty sector whose parity fails are poisoned. The ways of its set stand in order, which every `put` keeps
(`SMap.rising_put`): where they do not, the entry that is found after the change may be another (`crossed`). -/
theorem sectorRead_spoils (hb : s.heldAt (s.place pa.toNat) = some b) (hw : words ≠ 0) (hd : s.heldDirty (s.place pa.toNat) = true)
    (hr : SMap.rising none ((s.mc (s.place pa.toNat).stack).set ((s.place pa.toNat).off / 256)).ways = true) :
    Completes (.mcSectorRead { pa := pa, noalloc := noalloc, words := words } first replay) s fun t =>
      { t with mcs := [] } = { s with mcs := [] } ∧ t.heldAt (s.place pa.toNat) = some (b ||| words) := by
  refine ⟨_, exec_sectorRead_dirty h hb hw hd, (State.updMc_rest (s.updMc _ _) _ _).trans (State.updMc_rest s _ _), ?_⟩
  rw [State.heldAt, State.updMc_mc_same, State.updMc_mc_same]
  exact Mc.held_spoil (m := (s.mc _).count 0x114 _) (Nat.mod_lt _ (by decide)) hb hr words

end

/-! ### The obligation -/

/-- A cache set whose ways stand out of order and both hold line 0: way 5 with sector 0 valid and dirty, then way 3 with nothing. -/
def crossedSet : MSet := { ways := [(5, { line := 0, valid := 1, dirty := 1 }), (3, { line := 0, valid := 0, dirty := 0 })] }

/-- Stack 0 and its channel 0 serve reads, and the cache of the stack has the crossed set. -/
def crossed : State := { mcs := [(0, { st := 1, chans := [(0, { st := 2 })], msc := [(0, crossedSet)] })] }

theorem crossed_open : StackOpen crossed 0 where
  installed := by decide
  notShut := by decide
  ready := by decide
  channel := by decide

/-- Word 0 of sector 0 fails its parity. Way 5 is put back behind way 3, which is found first and does not hold the sector: the cache has
lost it, dirty data and all. -/
theorem crossed_loses_sector : Completes (.mcSectorRead { pa := 0, noalloc := false, words := 1 } .correct .correct) crossed fun t =>
    (t.mc 0).held 0 0 = none :=
  ⟨_, exec_sectorRead_dirty crossed_open (b := 0) (by decide) (by decide) (by decide), by decide⟩

/-- Refutes O16: it speaks of every state, and of a dirty sector of which a word has failed it says that the cache still holds it. That takes a
set whose ways stand in the order of their numbers (`sectorRead_spoils`); in `crossed` they do not, and the sector is lost. What the other
clauses say holds of every state: `Mem.read_writeSector` and its neighbours, `sectorRead_stored`, `sectorRead_correct`, `sectorRead_replayed`,
`sectorRead_failed`, `exec_sectorRead_held` and `exec_sectorRead_clean`. -/
theorem not_sectorsAreWrittenAndReadWithTheirMarks : ¬ Obligations.SectorsAreWrittenAndReadWithTheirMarks := by
  unfold Obligations.SectorsAreWrittenAndReadWithTheirMarks
  rintro ⟨-, hread⟩
  obtain ⟨-, hheld⟩ := hread crossed 0 false 1 .correct .correct 0 crossed_open.installed crossed_open.notShut crossed_open.ready
    crossed_open.channel
  obtain ⟨-, hdirty, -⟩ := hheld (by decide)
  obtain ⟨t, ht, -, hkept⟩ := hdirty (by decide) (by decide)
  obtain ⟨u, hu, hlost⟩ := crossed_loses_sector
  obtain rfl : t = u := Host.Outcome.next.inj (ht.symm.trans hu)
  exact Option.some_ne_none _ (hkept.symm.trans hlost)

end Sys2Proof.Machine
end

section
/-! PROOF. Accumulator cells (R66, R69 to R71): what the states above NORMAL hold, and the row of R71 that a step of a cell takes. -/

namespace Sys2Proof.Machine

open Sys2Proof

namespace ACell

/-! ### What a cell of each state holds (R70) -/

/-- A cell of a state above NORMAL holds the value that R70 gives that state, and only a float cell is NONFINITE. -/
structure Legal (int : Bool) (c : ACell) : Prop where
  poisoned : c.st = 3 → c.bits = if int then 0x8000000000000000 else 0x7FC000007FC00000
  nonfinite : c.st = 2 → int = false ∧ c.bits = 0x7FC000007FC00000
  saturated : c.st = 1 → c.bits ∈ if int then [0x7FFFFFFFFFFFFFFF, 0x8000000000000000] else [(0x7F7FFFFF : W64), 0xFF7FFFFF]

@[simp] theorem st_poisoned (int : Bool) : (poisoned int).st = 3 := by cases int <;> rfl

@[simp] theorem st_nonfinite : nonfinite.st = 2 := rfl

@[simp] theorem st_saturated (int neg : Bool) : (saturated int neg).st = 1 := by cases int <;> rfl

/-- R70 gives a NORMAL cell no value of its own. -/
theorem legal_of_normal (int : Bool) {c : ACell} (h : c.st = 0) : c.Legal int where
  poisoned h3 := absurd (h.symm.trans h3) (by decide)
  nonfinite h2 := absurd (h.symm.trans h2) (by decide)
  saturated h1 := absurd (h.symm.trans h1) (by decide)

theorem legal_poisoned (int : Bool) : (poisoned int).Legal int where
  poisoned _ := by cases int <;> decide
  nonfinite h2 := absurd ((st_poisoned int).symm.trans h2) (by decide)
  saturated h1 := absurd ((st_poisoned int).symm.trans h1) (by decide)

theorem legal_nonfinite : nonfinite.Legal false where
  poisoned h3 := absurd h3 (by decide)
  nonfinite _ := by decide
  saturated h1 := absurd h1 (by decide)

theorem legal_saturated (int neg : Bool) : (saturated int neg).Legal int where
  poisoned h3 := absurd ((st_saturated int neg).symm.trans h3) (by decide)
  nonfinite h2 := absurd ((st_saturated int neg).symm.trans h2) (by decide)
  saturated _ := by cases int <;> cases neg <;> decide

/-! ### The sum of a NORMAL cell (R69, R74) -/

theorem addInt_cases (p : Int) (c : ACell) : (∃ neg, c.addInt p = saturated true neg) ∨ (c.addInt p).st = 0 := by
  simp only [addInt]
  split
  · exact .inl ⟨false, rfl⟩
  · split
    · exact .inl ⟨true, rfl⟩
    · exact .inr rfl

theorem addFloat_cases (first : Bool) (p : FVal) (c : ACell) :
    (∃ neg, c.addFloat first p = saturated false neg) ∨ (c.addFloat first p).st = 0 := by
  unfold addFloat
  cases first with
  | true =>
    by_cases h : tooLarge (product p) = true
    · exact .inl ⟨p.isNeg, by simp [h]⟩
    · exact .inr (by simp [h, ofPair])
  | false =>
    simp only [Bool.false_eq_true, if_false]
    split
    · exact .inl ⟨_, rfl⟩
    · exact .inr rfl

/-! ### The rows of R71 -/

/-- The cell that a step adds to: a fresh one in the first step of a command with ACC = 0 (R67). -/
def start (first : Bool) (c : ACell) : ACell := if first then {} else c

theorem step_start (int first poison : Bool) (p : FVal) (c : ACell) : step int first poison p c =
    if poison then poisoned int
    else if (c.start first).st = 3 then c.start first
    else if int then if (c.start first).st = 1 then c.start first else (c.start first).addInt (p.toInt true)
    else if !p.isFin then nonfinite
    else if (c.start first).st = 2 then c.start first
    else if (c.start first).st = 1 then c.start first
    else (c.start first).addFloat first p := rfl

theorem Legal.start {int : Bool} {c : ACell} (h : c.Legal int) (first : Bool) : (c.start first).Legal int := by
  cases first with
  | true => exact legal_of_normal int rfl
  | false => exact h

/-- The rows of R71: what a step on the product `p` makes of the cell `c`. A sum keeps a NORMAL cell NORMAL or saturates it. -/
inductive Row (int poison : Bool) (p : FVal) (c : ACell) : ACell → Prop
  | poisons (hp : poison = true) : Row int poison p c (poisoned int)
  | stays (hp : poison = false) (hs : int = false → p.isFin = false → c.st = 3) : Row int poison p c c
  | nonfinite (hp : poison = false) (hi : int = false) (hs : c.st ≠ 3) : Row int poison p c nonfinite
  | adds {d : ACell} (hp : poison = false) (hf : int = false → p.isFin = true) (hs : c.st = 0)
      (hd : (∃ neg, d = saturated int neg) ∨ d.st = 0) : Row int poison p c d

/-- A step of a legal cell takes a row of R71. An integer cell is never NONFINITE, so one that is neither POISONED nor SATURATED is NORMAL. -/
theorem step_row (int first poison : Bool) (p : FVal) {c : ACell} (h : c.Legal int) :
    Row int poison p (c.start first) (step int first poison p c) := by
  replace h := h.start first
  rw [step_start]
  generalize c.start first = c at h ⊢
  have normal (h1 : c.st ≠ 1) (h2 : c.st ≠ 2) (h3 : c.st ≠ 3) : c.st = 0 := by bv_omega
  cases poison with
  | true => exact .poisons rfl
  | false =>
    by_cases h3 : c.st = 3
    · rw [if_neg Bool.false_ne_true, if_pos h3]
      exact .stays rfl fun _ _ => h3
    · rw [if_neg Bool.false_ne_true, if_neg h3]
      cases int with
      | true =>
        by_cases h1 : c.st = 1
        · rw [if_pos rfl, if_pos h1]
          exact .stays rfl nofun
        · rw [if_pos rfl, if_neg h1]
          have h0 := normal h1 (fun h2 => absurd (h.nonfinite h2).1 (by decide)) h3
          exact .adds rfl nofun h0 (c.addInt_cases _)
      | false =>
        cases hf : p.isFin with
        | false => exact .nonfinite rfl rfl h3
        | true =>
          rw [if_neg Bool.false_ne_true, if_neg (by decide)]
          have stays : Row false false p c c := .stays rfl fun _ hn => absurd (hf.symm.trans hn) (by decide)
          by_cases h2 : c.st = 2
          · rwa [if_pos h2]
          · rw [if_neg h2]
            by_cases h1 : c.st = 1
            · rwa [if_pos h1]
            · rw [if_neg h1]
              exact .adds rfl (fun _ => hf) (normal h1 h2 h3) (c.addFloat_cases first p)

namespace Row

variable {int poison : Bool} {p : FVal} {c d : ACell}

theorem legal (h : Row int poison p c d) (hc : c.Legal int) : d.Legal int := by
  cases h with
  | poisons => exact legal_poisoned int
  | stays => exact hc
  | nonfinite hp hi => exact hi ▸ legal_nonfinite
  | adds hp hf hs hd =>
    rcases hd with ⟨neg, rfl⟩ | hd
    · exact legal_saturated int neg
    · exact legal_of_normal int hd

theorem st_le (h : Row int poison p c d) : c.st.toNat ≤ d.st.toNat := by
  cases h with
  | poisons => rw [st_poisoned]; exact Nat.le_of_lt_succ c.st.isLt
  | stays => exact Nat.le_refl _
  | nonfinite hp hi hs => rw [st_nonfinite]; bv_omega
  | adds hp hf hs => rw [hs]; exact Nat.zero_le _

theorem st_of_poison (h : Row int true p c d) : d.st = 3 := by
  cases h with
  | poisons => exact st_poisoned int
  | stays hp | nonfinite hp | adds hp => cases hp

theorem st_of_not_finite (h : Row false false p c d) (hp : p.isFin = false) (hc : c.st ≠ 3) : d.st = 2 := by
  cases h with
  | poisons hp => cases hp
  | stays _ hs => exact absurd (hs rfl hp) hc
  | nonfinite => rfl
  | adds _ hf => exact absurd (hp.symm.trans (hf rfl)) (by decide)

end Row

end ACell

/-- Settles O58: a step of a legal cell takes a row of R71, and each row keeps R70's values and never lowers the state. -/
theorem cellStatesOnlyRise : Obligations.CellStatesOnlyRise := by
  unfold Obligations.CellStatesOnlyRise
  rintro int first poison p c d legal ⟨h3, h2, h1⟩
  have hc : c.Legal int := ⟨h3, h2, h1⟩
  have row : ACell.Row int poison p (c.start first) d := ACell.step_row int first poison p hc
  obtain ⟨d3, d2, d1⟩ := row.legal (hc.start first)
  refine ⟨⟨d3, d2, d1⟩, ?rises, ?poison, ?notFinite⟩
  case rises =>
    rintro rfl
    exact row.st_le
  case poison =>
    rintro rfl
    exact row.st_of_poison
  case notFinite =>
    rintro rfl rfl hp hs
    refine row.st_of_not_finite hp ?_
    cases first with
    | true => exact (by decide : ({} : ACell).st ≠ 3)
    | false => exact hs.resolve_left Bool.false_ne_true

end Sys2Proof.Machine
end

section
/-! PROOF. What a report and a failure leave alone: a notification concerns the ports and the miller (R363, R364), and a slot that fails
(R102) concerns its own core and what a notification does. -/

namespace Sys2Proof.Machine

open Sys2Proof

namespace State

/-! ### Notifications (R363, R364) -/

@[simp] theorem notify_cores (s : State) (code : BitVec 16) (ws : List W32) : (s.notify code ws).cores = s.cores := by
  have h := congrArg cores (besidePorts_notify s code ws); exact h

@[simp] theorem notify_core (s : State) (code : BitVec 16) (ws : List W32) (k : Nat) : (s.notify code ws).core k = s.core k := by
  rw [core, notify_cores]; rfl

/-! A notification takes the next number (R363), and what carries it out of its port takes none. -/

@[simp] theorem identSent_noteSeq (s : State) (b : Option FBody) : (s.identSent b).ctl.noteSeq = s.ctl.noteSeq := by
  unfold identSent; split <;> rfl

@[simp] theorem sendFrame_noteSeq (s : State) (n : Nat) (pool : BitVec 4) (b : Option FBody) :
    (s.sendFrame n pool b).ctl.noteSeq = s.ctl.noteSeq := identSent_noteSeq _ _

theorem drainFrom_noteSeq (n : Nat) : ∀ (qs kept : List QItem) (s : State), (s.drainFrom n qs kept).ctl.noteSeq = s.ctl.noteSeq
  | [], _, _ => rfl
  | q :: qs, kept, s => by
    rw [drainFrom]
    split
    · rw [drainFrom_noteSeq n qs, giveBack_ctl, sendFrame_noteSeq]
    · exact drainFrom_noteSeq n qs _ s

theorem enqueueAll_noteSeq (n : Nat) (f : Note → QItem) : ∀ (ns : List Note) (s : State),
    (ns.foldl (fun s x => s.enqueue n (f x)) s).ctl.noteSeq = s.ctl.noteSeq
  | [], _ => rfl
  | _ :: ns, _ => (enqueueAll_noteSeq n f ns _).trans (drainFrom_noteSeq n _ _ _)

@[simp] theorem pumpNotes_noteSeq (s : State) : s.pumpNotes.ctl.noteSeq = s.ctl.noteSeq := by
  unfold pumpNotes
  split
  · rfl
  · exact enqueueAll_noteSeq _ _ _ _

@[simp] theorem notify_noteSeq (s : State) (code : BitVec 16) (ws : List W32) : (s.notify code ws).ctl.noteSeq = s.ctl.noteSeq + 1 := by
  unfold notify
  dsimp only
  split
  · rw [pumpNotes_noteSeq]
  · rfl

end State

/-! ### Run-ahead is cancelled (R109) -/

/-- What cancelling run-ahead may change of a core, blanked. -/
def Core.besideAhead (c : Core) : Core := { c with rings := [], ahead := [], raStop := none, counts := [] }

theorem Core.besideAhead_count (c : Core) (off n : Nat) : (c.count off n).besideAhead = c.besideAhead := by
  unfold Core.count; split <;> rfl

theorem Core.besideAhead_trimRings : ∀ (as : List Ahead) (c : Core),
    (as.foldl (fun c a => c.updRing a.q.toNat fun r => { r with data := r.data.take (r.data.length - a.words) }) c).besideAhead = c.besideAhead
  | [], _ => rfl
  | _ :: as, _ => (Core.besideAhead_trimRings as _).trans rfl

@[simp] theorem Core.besideAhead_cancelAhead (c : Core) : c.cancelAhead.besideAhead = c.besideAhead := by
  unfold Core.cancelAhead
  dsimp only
  rw [Core.besideAhead_count]
  exact Core.besideAhead_trimRings c.ahead c

section
variable (c : Core)

@[simp] theorem Core.cancelAhead_slots : c.cancelAhead.slots = c.slots := by have h := congrArg Core.slots c.besideAhead_cancelAhead; exact h
@[simp] theorem Core.cancelAhead_runs : c.cancelAhead.runs = c.runs := by have h := congrArg Core.runs c.besideAhead_cancelAhead; exact h
@[simp] theorem Core.cancelAhead_backlog : c.cancelAhead.backlog = c.backlog := by
  have h := congrArg Core.backlog c.besideAhead_cancelAhead; exact h
@[simp] theorem Core.cancelAhead_tiles : c.cancelAhead.tiles = c.tiles := by have h := congrArg Core.tiles c.besideAhead_cancelAhead; exact h
@[simp] theorem Core.cancelAhead_beds : c.cancelAhead.beds = c.beds := by have h := congrArg Core.beds c.besideAhead_cancelAhead; exact h
@[simp] theorem Core.cancelAhead_held : c.cancelAhead.held = c.held := by have h := congrArg Core.held c.besideAhead_cancelAhead; exact h
@[simp] theorem Core.cancelAhead_slot (n : Nat) : c.cancelAhead.slot n = c.slot n := by rw [Core.slot, Core.cancelAhead_slots]; rfl
@[simp] theorem Core.cancelAhead_ahead : c.cancelAhead.ahead = [] := by unfold Core.cancelAhead; rw [Core.count_ahead]

end

/-! ### A slot fails (R102) -/

/-- The slot as a failure leaves it that finds it not FAULTED. -/
def Slot.failed (sl : Slot) (opcode : Byte) (st : Status) : Slot :=
  { sl with st := 3, fault := w32 (opcode.toNat * 2 ^ 16 + st.toNat), stop := false, swap := none, group := none }

/-- What a slot's failure may change of the Triat besides the cores, blanked. -/
def State.besideFault (s : State) : State := { s.besidePorts with cores := [] }

namespace State

variable (s : State) (site : Site) (op : Byte) (i : FaultInfo)

theorem failSlot_of_faulted (hf : (s.core site.core.toNat).fenced = false) (h : (s.slotAt site).st = 3) :
    s.failSlot site op i = s.coreFault site.core site.slot op (s.slotAt site).ptr i := by
  unfold slotAt at h
  unfold failSlot
  simp only [hf, h, Bool.false_eq_true, if_false, if_true]; rfl

theorem failSlot_of_sound (hf : (s.core site.core.toNat).fenced = false) (h : (s.slotAt site).st ≠ 3) :
    s.failSlot site op i = (s.setCore site.core.toNat
        ((s.core site.core.toNat).setSlot site.slot.toNat ((s.slotAt site).failed op i.status)).cancelAhead).coreFault
      site.core site.slot op (s.slotAt site).ptr i := by
  unfold slotAt at h
  unfold failSlot
  simp only [hf, h, Bool.false_eq_true, if_false]; rfl

theorem besideFault_failSlot : (s.failSlot site op i).besideFault = s.besideFault := by
  unfold failSlot
  dsimp only
  split
  · rfl
  · rw [coreFault, besideFault, besidePorts_notify]
    split <;> rfl

@[simp] theorem failSlot_net : (s.failSlot site op i).net = s.net := by have h := congrArg net (s.besideFault_failSlot site op i); exact h
@[simp] theorem failSlot_cluster (k : Nat) : (s.failSlot site op i).cluster k = s.cluster k := by
  have h := congrArg (cluster · k) (s.besideFault_failSlot site op i); exact h
@[simp] theorem failSlot_half (k : Nat) : (s.failSlot site op i).half k = s.half k := by
  have h := congrArg (half · k) (s.besideFault_failSlot site op i); exact h


/-- Of its own core it concerns the slot, and what run-ahead has issued. -/
theorem failSlot_core : { ((s.failSlot site op i).core site.core.toNat).besideAhead with slots := [] } =
    { (s.core site.core.toNat).besideAhead with slots := [] } := by
  unfold failSlot
  dsimp only
  split
  · rfl
  · rw [coreFault, notify_core]
    split
    · rfl
    · rw [setCore_core_same, Core.besideAhead_cancelAhead]; rfl

@[simp] theorem failSlot_runs : ((s.failSlot site op i).core site.core.toNat).runs = (s.core site.core.toNat).runs := by
  have h := congrArg Core.runs (s.failSlot_core site op i); exact h
@[simp] theorem failSlot_backlog : ((s.failSlot site op i).core site.core.toNat).backlog = (s.core site.core.toNat).backlog := by
  have h := congrArg Core.backlog (s.failSlot_core site op i); exact h

/-- The slot keeps its first failure. -/
theorem failSlot_slotAt (hf : (s.core site.core.toNat).fenced = false) :
    (s.failSlot site op i).slotAt site = if (s.slotAt site).st = 3 then s.slotAt site else (s.slotAt site).failed op i.status := by
  split
  next h => rw [failSlot_of_faulted s site op i hf h, slotAt, coreFault, notify_core]; rfl
  next h =>
    rw [failSlot_of_sound s site op i hf h, slotAt, coreFault, notify_core, setCore_core_same, Core.cancelAhead_slot,
      Core.setSlot_slot_same]

theorem failSlot_noteSeq (hf : (s.core site.core.toNat).fenced = false) : (s.failSlot site op i).ctl.noteSeq = s.ctl.noteSeq + 1 := by
  by_cases h : (s.slotAt site).st = 3
  · rw [failSlot_of_faulted s site op i hf h, coreFault, notify_noteSeq]
  · rw [failSlot_of_sound s site op i hf h, coreFault, notify_noteSeq]; rfl

theorem failSlot_ptr (hf : (s.core site.core.toNat).fenced = false) : ((s.failSlot site op i).slotAt site).ptr = (s.slotAt site).ptr := by
  rw [failSlot_slotAt s site op i hf]; split <;> rfl

theorem failSlot_loops (hf : (s.core site.core.toNat).fenced = false) :
    ((s.failSlot site op i).slotAt site).loops = (s.slotAt site).loops := by
  rw [failSlot_slotAt s site op i hf]; split <;> rfl

/-- A command's failure is what `SlotFailed` says of it. -/
theorem slotFailed_failSlot (hf : (s.core site.core.toNat).fenced = false) : SlotFailed s (s.failSlot site op i) site op.toNat i.status where
  st := by rw [failSlot_slotAt s site op i hf]; split <;> [assumption; rfl]
  fault h := by rw [failSlot_slotAt s site op i hf, if_neg h]; rfl
  kept h := by rw [failSlot_slotAt s site op i hf, if_pos h]
  reported := s.failSlot_noteSeq site op i hf

end State

/-- A failure is one of an earlier state too, from which neither the slot's state and fault nor the count of reports have changed. -/
theorem SlotFailed.of_before {s u t : State} {site : Site} {opcode : Nat} {status : Status} (h : SlotFailed u t site opcode status)
    (st : (u.slotAt site).st = (s.slotAt site).st) (fault : (u.slotAt site).fault = (s.slotAt site).fault)
    (seq : u.ctl.noteSeq = s.ctl.noteSeq) : SlotFailed s t site opcode status where
  st := h.st
  fault hs := h.fault (st ▸ hs)
  kept hs := (h.kept (st.trans hs)).trans fault
  reported := seq ▸ h.reported

end Sys2Proof.Machine
end

section
/-! PROOF. What arrives at a core (R96, R160, R221): tokens at a counter, a push at the ring of its peer, and the acknowledgement of a
STORE. -/

namespace Sys2Proof.Machine

open Sys2Proof

/-! ### Tokens (R160) -/

/-- The tokens of counter `n` that the core has, counted or held back. -/
def Core.tokensFor (c : Core) (n : Nat) : Nat := (c.tc n).toNat + c.heldFor n

theorem Core.heldFor_append (c : Core) (t : Tok) (n : Nat) :
    ({ c with held := c.held ++ [t] } : Core).heldFor n = c.heldFor n + if n = t.tc.toNat then t.n.toNat else 0 := by
  simp only [Core.heldFor, List.filter_append, List.map_append, List.sum_append]
  by_cases h : n = t.tc.toNat
  · rw [if_pos h, List.filter_cons_of_pos (by simpa using h.symm)]; rfl
  · rw [if_neg h, List.filter_cons_of_neg (by simpa using Ne.symm h)]; rfl

theorem Core.tc_counted (c : Core) {t : Tok} (h : (c.tc t.tc.toNat).toNat + t.n.toNat ≤ 65535) (n : Nat) :
    (({ c with tcs := SMap.set 0 c.tcs t.tc.toNat (c.tc t.tc.toNat + t.n) } : Core).tc n).toNat =
      (c.tc n).toNat + if n = t.tc.toNat then t.n.toNat else 0 := by
  simp only [Core.tc, SMap.get_set] at h ⊢
  by_cases hn : n = t.tc.toNat
  · subst hn; rw [if_pos rfl, if_pos rfl]; bv_omega
  · rw [if_neg hn, if_neg hn]; rfl

/-- Tokens that are taken in are counted or held back, and none is lost. -/
theorem Core.tokensFor_takeToken (c : Core) (t : Tok) (n : Nat) :
    (c.takeTokens [t]).tokensFor n = c.tokensFor n + if n = t.tc.toNat then t.n.toNat else 0 := by
  unfold Core.takeTokens Core.takeTokens Core.tokensFor
  dsimp only
  split
  next h => rw [Core.tc_counted c h, Nat.add_right_comm]; rfl
  next => rw [Core.heldFor_append, Nat.add_assoc]; rfl

/-- Tokens that are taken in touch the counters and what is held back. -/
theorem Core.takeToken_beside (c : Core) (t : Tok) :
    { c.takeTokens [t] with tcs := [], held := [] } = { c with tcs := [], held := [] } := by
  unfold Core.takeTokens Core.takeTokens
  dsimp only
  split <;> rfl

/-! ### Arrivals -/

/-- A change of one core behind a change of what is in flight. -/
theorem coreMoved_updCore {s u : State} {core : CoreId} {f : Core → Core} {cB : Core → Core} (hc : u.cores = s.cores)
    (hu : { u with net := {} } = { s with net := {} }) (hf : cB (f (s.core core.toNat)) = cB (s.core core.toNat)) :
    CoreMoved s (u.updCore core.toNat f) core (fun s => { s with net := {} }) cB := by
  have h : ∀ j, u.core j = s.core j := fun j => by rw [State.core, hc]; rfl
  refine ⟨congrArg (fun v : State => { v with cores := [] }) hu, fun j hj => ?_, ?_⟩
  · rw [State.updCore_core_other _ _ hj, h]
  · rw [State.updCore_core_same, h, hf]

/-- A token that nothing turns back arrives. -/
theorem exec_tokenArrival {s : State} {src : Site} {target : CoreId} {t : Tok}
    (ht : s.net.tokens.find? (fun t => decide (t.src = some src ∧ t.target = target)) = some t)
    (way : s.turnedTo (.core src.core) target = none) :
    exec (.tokenArrival src target) s = .next
      (({ s with net := { s.net with tokens := s.net.tokens.erase t } } : State).updCore target.toNat fun c => c.takeTokens [t]) := by
  show execTokenArrival src target s = _
  simp only [execTokenArrival, ht, way, Option.isSome_none, Bool.false_eq_true, if_false]

/-- A push that nothing turns back arrives. -/
theorem exec_linkQueuePush {s : State} {core : CoreId} {q : BitVec 2} {p : Push} (hp : s.oldestPush core q = some p)
    (way : s.turnedTo (.core p.src) p.dst = none) :
    exec (.linkQueuePush core q) s = .next ((s.dropPush p).append p.dst.toNat p.dstQ.toNat p.data) := by
  show execLinkQueuePush core q s = _
  simp only [execLinkQueuePush, hp, State.pushTurned, way, Option.isSome_none, Bool.false_eq_true, if_false]

/-- An acknowledgement for which no invalidation is awaited any more reaches its core. -/
theorem exec_storeAck {s : State} {site : Site} {a : StoreAck} (hf : (s.core site.core.toNat).fenced = false)
    (ha : s.net.acks.find? (fun a => decide (a.site = site) && !(s.net.invals.any fun i =>
      decide ((i.wid = a.wid ∧ a.wid ≠ 0) ∨ (i.line = a.line ∧ i.seq < a.seq)))) = some a) :
    exec (.storeAck site) s = .next
      (let u : State := { s with net := { s.net with acks := s.net.acks.erase a } }
       if a.status = stOk then u else u.failSlot site 0x21 { status := a.status, va := a.va }) := by
  show execStoreAck site s = _
  simp only [execStoreAck, hf, ha, Bool.false_eq_true, if_false]

theorem Core.ring_append (c : Core) (q : Nat) (ws : List QW) (n : Nat) :
    ((c.updRing q fun r => { r with data := r.data ++ ws }).ring n).data = (c.ring n).data ++ if n = q then ws else [] := by
  by_cases h : n = q
  · subst h; rw [Core.updRing_ring_same, if_pos rfl]
  · rw [Core.updRing_ring_other _ _ h, if_neg h, List.append_nil]

/-- Settles O13: each arrival takes the oldest of its kind off the network, and its core takes it in. -/
theorem tokensPushesAndAcknowledgementsArrive : Obligations.TokensPushesAndAcknowledgementsArrive := by
  unfold Obligations.TokensPushesAndAcknowledgementsArrive
  intro s
  refine ⟨?tokens, ?pushes, ?acks⟩
  case tokens =>
    intro src target t0 k ht way
    refine ⟨_, exec_tokenArrival ht way, rfl, coreMoved_updCore rfl rfl (Core.takeToken_beside _ _), fun n => ?_⟩
    rw [State.updCore_core_same]
    exact Core.tokensFor_takeToken (s.core k) t0 n
  case pushes =>
    intro core q p hp way
    refine ⟨_, exec_linkQueuePush hp way, rfl, coreMoved_updCore rfl rfl rfl, fun n => ?_⟩
    rw [State.append, State.updCore_core_same]
    exact Core.ring_append _ _ _ n
  case acks =>
    intro site a hf ha rest
    refine ⟨fun ok => ⟨_, exec_storeAck hf ha, if_pos ok⟩, fun bad => ⟨_, exec_storeAck hf ha, ?_⟩⟩
    dsimp only
    rw [if_neg bad]
    exact ⟨State.failSlot_net _ _ _ _,
      (State.slotFailed_failSlot { s with net := rest } site 0x21 _ hf).of_before rfl rfl rfl⟩

end Sys2Proof.Machine
end

section
/-! PROOF. Bounces and fences (R64, R73, R97, R161, R194 to R196, R204, R208): where what is turned back is counted, how the command of a
push that comes back ends, and what a fence leaves of its core. -/

namespace Sys2Proof.Machine

open Sys2Proof

/-! ### Folds -/

section
variable {α β : Type} {P : β → Prop} {f : β → α → β}

/-- What every step keeps, a fold keeps. -/
theorem foldl_keeps (keeps : ∀ b a, P b → P (f b a)) : ∀ (l : List α) {b : β}, P b → P (l.foldl f b)
  | [], _, h => h
  | a :: l, b, h => foldl_keeps keeps l (keeps b a h)

/-- What one step makes so and every step keeps, holds behind a fold that has that step. -/
theorem foldl_makes (keeps : ∀ b a, P b → P (f b a)) {a : α} (makes : ∀ b, P (f b a)) : ∀ {l : List α} (b : β), a ∈ l → P (l.foldl f b)
  | x :: l, b, h => by
    rcases List.mem_cons.1 h with rfl | h
    · exact foldl_keeps keeps l (makes b)
    · exact foldl_makes keeps makes (l := l) _ h

end

/-- A fold over slots that changes each on its own changes those of its list. -/
theorem Core.slot_foldl {P : Core → Prop} {h : Core → Nat → Core} {f : Nat → Slot → Slot} (keeps : ∀ c n, P c → P (h c n))
    (acts : ∀ c n j, P c → (h c n).slot j = if j = n then f n (c.slot n) else c.slot j) :
    ∀ {l : List Nat} {c : Core}, l.Nodup → P c → ∀ j, (l.foldl h c).slot j = if j ∈ l then f j (c.slot j) else c.slot j
  | [], c, _, _, j => rfl
  | n :: l, c, hl, hc, j => by
    obtain ⟨hn, hl⟩ := List.nodup_cons.1 hl
    rw [List.foldl_cons, Core.slot_foldl keeps acts hl (keeps c n hc) j, acts c n j hc]
    by_cases hj : j = n
    · subst hj; simp [hn]
    · simp [hj]

/-! ### Where a bounce is counted (R204, R208) -/

theorem get_bump_one_at (m : SMap W32) (off j : Nat) : SMap.get 0 (bump m off 1) j = SMap.get 0 m j + if j = off then 1 else 0 := by
  by_cases h : j = off
  · subst h; rw [get_bump_one, if_pos rfl]
  · rw [bump, if_neg Nat.one_ne_zero, SMap.get_upd, if_neg h, if_neg h]; exact (BitVec.add_zero _).symm

/-- From `s` to `t` one bounce is counted, at the router or the side of the seam `w`, and no other count of a cluster or a half has
changed. -/
def TurnCounted (s t : State) (w : Turned) : Prop :=
  match w with
  | .router k => (∀ j, t.half j = s.half j) ∧ ∀ j off,
      SMap.get 0 (t.cluster j).counts off = SMap.get 0 (s.cluster j).counts off + (if j = k ∧ off = 0x3C then 1 else 0)
  | .seam h => (∀ j, t.cluster j = s.cluster j) ∧ ∀ j off,
      SMap.get 0 (t.half j).counts off = SMap.get 0 (s.half j).counts off + (if j = h ∧ off = 0x4020 then 1 else 0)

theorem turnCounted_countTurn (s : State) (w : Turned) : TurnCounted s (s.countTurn w) w := by
  cases w with
  | router k =>
    refine ⟨fun _ => rfl, fun j off => ?_⟩
    by_cases h : j = k
    · subst h; simp only [State.countTurn, Cluster.count, State.updCluster_cluster_same, get_bump_one_at, true_and]
    · simp [State.countTurn, State.updCluster_cluster_other _ _ h, h]
  | seam k =>
    refine ⟨fun _ => rfl, fun j off => ?_⟩
    by_cases h : j = k
    · subst h; simp only [State.countTurn, Half.count, State.updHalf_half_same, get_bump_one_at, true_and]
    · simp [State.countTurn, State.updHalf_half_other _ _ h, h]

/-- What else happens to a Triat does not change where the bounce is counted. -/
theorem TurnCounted.of_after {s u t : State} {w : Turned} (h : TurnCounted s u w) (hc : ∀ j, t.cluster j = u.cluster j)
    (hh : ∀ j, t.half j = u.half j) : TurnCounted s t w := by
  cases w with
  | router k => exact ⟨fun j => (hh j).trans (h.1 j), fun j off => by rw [hc]; exact h.2 j off⟩
  | seam k => exact ⟨fun j => (hc j).trans (h.1 j), fun j off => by rw [hh]; exact h.2 j off⟩

/-- Counting a bounce touches the counts of a cluster or a half. -/
theorem State.countTurn_beside (s : State) (w : Turned) :
    { s.countTurn w with clusters := [], halves := [] } = { s with clusters := [], halves := [] } := by cases w <;> rfl

@[simp] theorem State.countTurn_net (s : State) (w : Turned) : (s.countTurn w).net = s.net := by cases w <;> rfl
@[simp] theorem State.countTurn_cores (s : State) (w : Turned) : (s.countTurn w).cores = s.cores := by cases w <;> rfl
@[simp] theorem State.countTurn_core (s : State) (w : Turned) (k : Nat) : (s.countTurn w).core k = s.core k := by cases w <;> rfl
@[simp] theorem State.countTurn_ctl (s : State) (w : Turned) : (s.countTurn w).ctl = s.ctl := by cases w <;> rfl

/-! ### A push that comes back (R97) -/

theorem Core.dropRun_runs (c : Core) (id : Nat) : (c.dropRun id).runs = c.runs.filter fun r => decide (r.id ≠ id) := by
  unfold Core.dropRun; dsimp only; split <;> rfl

/-- A command that is in execution no longer leaves its core but for `runs` and what stood staged in the rings. -/
theorem Core.dropRun_beside (c : Core) (id : Nat) : { c.dropRun id with runs := [], rings := [] } = { c with runs := [], rings := [] } := by
  unfold Core.dropRun; dsimp only; split <;> rfl

theorem Core.mem_runs_dropRuns {r : Run} : ∀ {ids : List Nat} {c : Core},
    r ∈ (ids.foldl (fun c id => c.dropRun id) c).runs ↔ r ∈ c.runs ∧ r.id ∉ ids
  | [], c => by simp
  | id :: ids, c => by
    rw [List.foldl_cons, Core.mem_runs_dropRuns, Core.dropRun_runs, List.mem_filter, decide_eq_true_iff, List.mem_cons, not_or, and_assoc]

theorem Core.dropRuns_beside : ∀ (ids : List Nat) (c : Core),
    { ids.foldl (fun c id => c.dropRun id) c with runs := [], rings := [] } = { c with runs := [], rings := [] }
  | [], _ => rfl
  | id :: ids, c => (Core.dropRuns_beside ids (c.dropRun id)).trans (c.dropRun_beside id)

/-- The command that pushed is in execution no longer. -/
theorem Core.endPusher_runs (c : Core) (o : From) {r : Run} (h : r ∈ (c.endPusher o).runs) :
    ¬(r.slot = o.slot ∧ r.op = o.opcode ∧ r.ptr = o.ptr) := by
  obtain ⟨hr, hid⟩ := Core.mem_runs_dropRuns.1 h
  exact fun own => hid (List.mem_map.2 ⟨r, List.mem_filter.2 ⟨hr, decide_eq_true own⟩, rfl⟩)

/-- Nothing of what it had to push waits any more. -/
theorem Core.endPusher_backlog (c : Core) (o : From) {b : Backlog} (h : b ∈ (c.endPusher o).backlog) : b.src ≠ o :=
  of_decide_eq_true (List.mem_filter.1 h).2

theorem Core.endPusher_beside (c : Core) (o : From) :
    { c.endPusher o with runs := [], rings := [], backlog := [] } = { c with runs := [], rings := [], backlog := [] } :=
  congrArg (fun d : Core => { d with backlog := [] }) (Core.dropRuns_beside _ c)

@[simp] theorem Core.endPusher_slot (c : Core) (o : From) (n : Nat) : (c.endPusher o).slot n = c.slot n := by
  have h := congrArg (Core.slot · n) (c.endPusher_beside o); exact h
@[simp] theorem Core.endPusher_fenced (c : Core) (o : From) : (c.endPusher o).fenced = c.fenced := by
  have h := congrArg Core.fenced (c.endPusher_beside o); exact h

/-- The slot stands at the command that pushed again, unless it has failed before. -/
def Slot.backTo (o : From) (sl : Slot) : Slot := if sl.st = 3 then sl else { sl with ptr := o.ptr, loops := o.loops }

theorem Slot.backTo_st (o : From) (sl : Slot) : (sl.backTo o).st = sl.st := by unfold Slot.backTo; split <;> rfl
theorem Slot.backTo_fault (o : From) (sl : Slot) : (sl.backTo o).fault = sl.fault := by unfold Slot.backTo; split <;> rfl

/-- A push that comes back, before its slot fails: it is counted where it turned, the others of its command are told, and the command has
ended. -/
def State.pusherEnded (s : State) (p : Push) (w : Turned) : State :=
  ({ (s.dropPush p).countTurn w with net := (s.dropPush p).net.tell p } : State).updCore p.src.toNat fun c =>
    (c.endPusher p.origin).updSlot p.origin.slot.toNat (Slot.backTo p.origin)

section
variable {s : State} {p : Push} {w : Turned}

theorem State.bouncePush_told (way : s.pushTurned p = some w) (told : p.told = true) : s.bouncePush p = (s.dropPush p).countTurn w := by
  simp only [State.bouncePush, way, told, if_true, State.noteTurn]

theorem State.bouncePush_untold (way : s.pushTurned p = some w) (told : p.told = false) :
    s.bouncePush p = (s.pusherEnded p w).failSlot { core := p.src, slot := p.origin.slot } p.origin.opcode { status := stFenced } := by
  simp only [State.bouncePush, way, told, Bool.false_eq_true, if_false, State.noteTurn, State.countTurn_net]; rfl

theorem State.pusherEnded_core : (s.pusherEnded p w).core p.src.toNat =
    ((s.core p.src.toNat).endPusher p.origin).updSlot p.origin.slot.toNat (Slot.backTo p.origin) := by
  rw [State.pusherEnded, State.updCore_core_same]; cases w <;> rfl

theorem State.pusherEnded_slotAt : (s.pusherEnded p w).slotAt { core := p.src, slot := p.origin.slot } =
    (s.slotAt { core := p.src, slot := p.origin.slot }).backTo p.origin := by
  rw [State.slotAt, State.pusherEnded_core, Core.updSlot_slot_same, Core.endPusher_slot]; rfl

theorem exec_fencedBounce_push {core : CoreId} {q : BitVec 2} (hp : s.oldestPush core q = some p)
    (way : s.pushTurned p = some w) : exec (.fencedBounce (.push core q)) s = .next (s.bouncePush p) := by
  show execFencedBounce (.push core q) s = _
  simp only [execFencedBounce, hp, way, Option.isSome_some, if_true]

theorem State.src_of_oldestPush {core : CoreId} {q : BitVec 2} (hp : s.oldestPush core q = some p) : p.src = core := by
  unfold State.oldestPush at hp
  have own := List.find?_some hp
  exact (of_decide_eq_true own).1

/-- The failure of a slot whose push has come back. -/
theorem State.slotFailed_bouncePush (way : s.pushTurned p = some w) (told : p.told = false) (hf : (s.core p.src.toNat).fenced = false) :
    SlotFailed s (s.bouncePush p) { core := p.src, slot := p.origin.slot } p.origin.opcode.toNat stFenced := by
  rw [State.bouncePush_untold way told]
  refine (State.slotFailed_failSlot (s.pusherEnded p w) _ _ _ ?_).of_before ?_ ?_ (congrArg Ctl.noteSeq ((s.dropPush p).countTurn_ctl w))
  · rw [State.pusherEnded_core]; exact (Core.endPusher_fenced _ _).trans hf
  · rw [State.pusherEnded_slotAt, Slot.backTo_st]
  · rw [State.pusherEnded_slotAt, Slot.backTo_fault]

/-- It stands at the command that pushed. -/
theorem State.slotAt_bouncePush (way : s.pushTurned p = some w) (told : p.told = false) (hf : (s.core p.src.toNat).fenced = false)
    (hs : (s.slotAt { core := p.src, slot := p.origin.slot }).st ≠ 3) :
    ((s.bouncePush p).slotAt { core := p.src, slot := p.origin.slot }).ptr = p.origin.ptr ∧
      ((s.bouncePush p).slotAt { core := p.src, slot := p.origin.slot }).loops = p.origin.loops := by
  have hf' : ((s.pusherEnded p w).core p.src.toNat).fenced = false := by
    rw [State.pusherEnded_core]; exact (Core.endPusher_fenced _ _).trans hf
  rw [State.bouncePush_untold way told, State.failSlot_ptr _ _ _ _ hf', State.failSlot_loops _ _ _ _ hf', State.pusherEnded_slotAt,
    Slot.backTo, if_neg hs]
  exact ⟨rfl, rfl⟩

end

/-! ### Tokens and responses that are turned back (R161, R196) -/

theorem exec_fencedBounce_token {s : State} {src : Site} {target : CoreId} {t : Tok} {w : Turned}
    (ht : s.net.tokens.find? (fun t => decide (t.src = some src ∧ t.target = target)) = some t)
    (way : s.turnedTo (.core src.core) target = some w) : exec (.fencedBounce (.token src target)) s = .next
      { s.countTurn w with net := { s.net with tokens := s.net.tokens.erase t, returning := s.net.returning ++ [t] } } := by
  show execFencedBounce (.token src target) s = _
  simp only [execFencedBounce, ht, way]

theorem exec_fencedBounce_response {s : State} {core : CoreId} {a : StoreAck} (hf : s.fencedCore core.toNat = true)
    (ha : s.net.acks.find? (fun a => decide (a.site.core = core)) = some a) : exec (.fencedBounce (.response core)) s = .next
      { s.countTurn (.router (clusterOf core)) with net := { s.net with acks := s.net.acks.erase a } } := by
  show execFencedBounce (.response core) s = _
  simp only [execFencedBounce, hf, ha, Bool.not_true, Bool.false_eq_true, if_false]

theorem exec_tokenReturn {s : State} {src : Site} {target : CoreId} {t : Tok}
    (ht : s.net.returning.find? (fun t => decide (t.src = some src ∧ t.target = target)) = some t) :
    exec (.tokenReturn src target) s = .next
      (({ s with net := { s.net with returning := s.net.returning.erase t } } : State).failSlot src 0x03
        { status := stFenced, tok := w32 (target.toNat + t.tc.toNat * 2 ^ 12 + t.n.toNat * 2 ^ 16) }) := by
  show execTokenReturn src target s = _
  simp only [execTokenReturn, ht]

/-! ### What a fence stops (R64, R73) -/

theorem SMap.get_of_const {α : Type} (d v : α) {k : Nat} : ∀ {m : SMap α}, (∀ e ∈ m, e.2 = v) → (∃ e ∈ m, e.1 = k) → SMap.get d m k = v
  | [], _, h => by obtain ⟨e, he, -⟩ := h; exact absurd he List.not_mem_nil
  | (j, x) :: m, hv, h => by
    rw [SMap.get]
    split
    · exact hv (j, x) List.mem_cons_self
    next hj =>
      obtain ⟨e, he, hk⟩ := h
      rcases List.mem_cons.1 he with rfl | he
      · exact absurd hk hj
      · exact SMap.get_of_const d v (fun e he => hv e (List.mem_cons_of_mem _ he)) ⟨e, he, hk⟩

/-- Every cell of the tile is POISONED. -/
def Tile.AllPoisoned (t : Tile) : Prop := ∀ e ∈ t.list, e.st = 3

/-- A row of equal cells reads as them. -/
theorem Tile.get_ofList_replicate {n i : Nat} {v : ACell} (hv : v ≠ {}) (hi : i < n) :
    SMap.get {} (Tile.ofList (List.replicate n v)) i = v := by
  refine SMap.get_of_const _ _ (fun e he => ?_) ⟨(i, v), ?_, rfl⟩
  · exact List.eq_of_mem_replicate (List.of_mem_zip (List.mem_of_mem_filter he)).2
  · refine List.mem_filter.2 ⟨List.mem_iff_getElem.2 ⟨i, ?_, ?_⟩, decide_eq_true hv⟩
    · simpa using hi
    · simp

theorem Tile.allPoisoned_poisonAll (t : Tile) : t.poisonAll.AllPoisoned := by
  intro e he
  obtain ⟨i, hi, rfl⟩ := List.mem_map.1 he
  have hp : ACell.poisoned t.int ≠ {} := fun h => absurd ((ACell.st_poisoned t.int).symm.trans (congrArg ACell.st h)) (by decide)
  rw [Tile.poisonAll, Tile.get_ofList_replicate hp (List.mem_range.1 hi)]
  exact ACell.st_poisoned _

/-- A target tile of a product command that a fence or a reset stops is poisoned, in the command's own mode where it overwrites. -/
def Core.poisonTarget (r : Run) (c : Core) (k : Nat) : Core :=
  let t : Tile := if r.w.acc ∨ 0 < r.unit then c.tile k else { int := productInt r.op r.w }
  { c.setTile k t.poisonAll with pseen := true }

theorem Core.poisonTarget_tile (r : Run) (c : Core) (k key : Nat) (h : k = key ∨ (c.tile key).AllPoisoned) :
    ((c.poisonTarget r k).tile key).AllPoisoned := by
  show (SMap.get {} (SMap.set {} c.tiles k _) key).AllPoisoned
  by_cases hk : key = k
  · subst hk; rw [SMap.get_set_same]; exact Tile.allPoisoned_poisonAll _
  · rw [SMap.get_set_other _ _ _ hk]; exact h.resolve_left (Ne.symm hk)

/-- The bedstones of a BEDLOAD are not loaded. -/
def Core.unload (r : Run) (c : Core) : Core :=
  if r.op = 0x13 then { c with beds := (bitList 4 r.w.emask.toNat).foldl (fun m e => SMap.set {} m e {}) c.beds } else c

theorem Core.stopRun_eq (c : Core) (r : Run) : c.stopRun r = ((targetTiles r.op r.w).foldl (Core.poisonTarget r) c).unload r := rfl

theorem Core.unload_tile (r : Run) (c : Core) (k : Nat) : (c.unload r).tile k = c.tile k := by unfold Core.unload; split <;> rfl

/-- What stopping a command may change of its core, blanked. -/
def Core.besideStop (c : Core) : Core := { c with tiles := [], beds := [], pseen := false }

theorem Core.besideStop_poisonTargets (r : Run) : ∀ (ks : List Nat) (c : Core), (ks.foldl (Core.poisonTarget r) c).besideStop = c.besideStop
  | [], _ => rfl
  | k :: ks, c => Core.besideStop_poisonTargets r ks (c.poisonTarget r k)

theorem Core.besideStop_stopRun (c : Core) (r : Run) : (c.stopRun r).besideStop = c.besideStop := by
  rw [Core.stopRun_eq, ← Core.besideStop_poisonTargets r (targetTiles r.op r.w) c, Core.unload]; split <;> rfl

theorem Core.besideStop_stopAll (rs : List Run) (c : Core) : (rs.foldl Core.stopRun c).besideStop = c.besideStop :=
  foldl_keeps (P := fun d : Core => d.besideStop = c.besideStop) (fun d r h => (d.besideStop_stopRun r).trans h) rs rfl

/-- What is poisoned stays so. -/
theorem Core.stopRun_keeps_tile (key : Nat) (c : Core) (r : Run) (h : (c.tile key).AllPoisoned) : ((c.stopRun r).tile key).AllPoisoned := by
  rw [Core.stopRun_eq, Core.unload_tile]
  exact foldl_keeps (fun d k hd => Core.poisonTarget_tile r d k key (.inr hd)) _ h

theorem Core.stopRun_tile {key : Nat} {r : Run} (h : key ∈ targetTiles r.op r.w) (c : Core) : ((c.stopRun r).tile key).AllPoisoned := by
  rw [Core.stopRun_eq, Core.unload_tile]
  exact foldl_makes (P := fun d : Core => (d.tile key).AllPoisoned) (fun d k hd => Core.poisonTarget_tile r d k key (.inr hd))
    (fun d => Core.poisonTarget_tile r d key key (.inl rfl)) c h

/-- A bedstone that is not loaded stays so. -/
theorem unloaded_set {m : SMap Bed} (j : Nat) {e : Nat} (h : (SMap.get {} m e).loaded = false) :
    (SMap.get {} (SMap.set {} m j {}) e).loaded = false := by
  rw [SMap.get_set]; split
  · rfl
  · exact h

theorem Core.besideTiles_poisonTargets (r : Run) : ∀ (ks : List Nat) (c : Core), (ks.foldl (Core.poisonTarget r) c).beds = c.beds
  | [], _ => rfl
  | k :: ks, c => Core.besideTiles_poisonTargets r ks (c.poisonTarget r k)

theorem Core.stopRun_keeps_bed (e : Nat) (c : Core) (r : Run) (h : (c.bed e).loaded = false) : ((c.stopRun r).bed e).loaded = false := by
  have hb : (((targetTiles r.op r.w).foldl (Core.poisonTarget r) c).bed e).loaded = false := by
    rw [Core.bed, Core.besideTiles_poisonTargets]; exact h
  rw [Core.stopRun_eq, Core.unload]
  split
  · exact foldl_keeps (P := fun m : SMap Bed => (SMap.get {} m e).loaded = false) (fun m j => unloaded_set j) _ hb
  · exact hb

theorem mem_bitList {n x i : Nat} : i ∈ bitList n x ↔ i < n ∧ x.testBit i = true := by
  rw [bitList, List.mem_filter, List.mem_range]

theorem Core.stopRun_bed {e : Nat} {r : Run} (hop : r.op = 0x13) (he : e < 4) (hm : r.w.emask.getLsbD e = true) (c : Core) :
    ((c.stopRun r).bed e).loaded = false := by
  rw [Core.stopRun_eq, Core.unload, if_pos hop]
  exact foldl_makes (P := fun m : SMap Bed => (SMap.get {} m e).loaded = false) (fun m j => unloaded_set j)
    (fun m => by rw [SMap.get_set_same]) _ (mem_bitList.2 ⟨he, hm⟩)

/-! ### A fence (R73, R102, R195) -/

/-- The slot as a fence leaves it: FAULTED with FENCED, unless it was so before. -/
def Slot.fenced (sl : Slot) : Slot :=
  if sl.st = 3 then sl else { sl with st := 3, fault := w32 stFenced.toNat, stop := false, swap := none, group := none }

theorem Slot.fenced_st (sl : Slot) : sl.fenced.st = 3 := by unfold Slot.fenced; split <;> [assumption; rfl]

theorem Slot.fenced_fault (sl : Slot) : sl.fenced.fault = if sl.st = 3 then sl.fault else w32 stFenced.toNat := by
  unfold Slot.fenced; split <;> rfl

/-- Every slot as a fence leaves it. -/
def Core.fenceSlots (c : Core) : Core := (List.range 4).foldl (fun c n => c.updSlot n Slot.fenced) c

theorem Core.fence_eq (c : Core) : c.fence = { c.stopRuns.cancelAhead.fenceSlots with fenced := true } := rfl

theorem Core.slot_fenced (c : Core) (b : Bool) (n : Nat) : ({ c with fenced := b } : Core).slot n = c.slot n := rfl

theorem Core.fenceSlots_slot (c : Core) {n : Nat} (hn : n < 4) : c.fenceSlots.slot n = (c.slot n).fenced := by
  unfold Core.fenceSlots
  rw [Core.slot_foldl (P := fun _ => True) (f := fun _ => Slot.fenced) (fun _ _ h => h) (fun d m j _ => Core.slot_updSlot d m j _)
    List.nodup_range trivial n, if_pos (List.mem_range.2 hn)]

section
variable (c : Core)

/-- A fence leaves of its core, but for the slots, what stopping every command and cancelling run-ahead leave. -/
theorem Core.fence_field {α : Type} (f : Core → α) (hf : ∀ (d : Core) sl b, f { d with slots := sl, fenced := b } = f d) :
    f c.fence = f c.stopRuns.cancelAhead :=
  (hf _ _ true).trans (foldl_keeps (P := fun d : Core => f d = f c.stopRuns.cancelAhead) (fun d _ h => (hf d _ d.fenced).trans h) _ rfl)

theorem Core.stopRuns_slot (n : Nat) : c.stopRuns.slot n = c.slot n := by
  have h := congrArg (Core.slot · n) (Core.besideStop_stopAll c.runs c); exact h
theorem Core.stopRuns_held : c.stopRuns.held = c.held := by have h := congrArg Core.held (Core.besideStop_stopAll c.runs c); exact h

theorem Core.fence_held : c.fence.held = c.held := by
  rw [c.fence_field Core.held fun _ _ _ => rfl, Core.cancelAhead_held, Core.stopRuns_held]
theorem Core.fence_runs : c.fence.runs = [] := by rw [c.fence_field Core.runs fun _ _ _ => rfl, Core.cancelAhead_runs]; rfl
theorem Core.fence_backlog : c.fence.backlog = [] := by rw [c.fence_field Core.backlog fun _ _ _ => rfl, Core.cancelAhead_backlog]; rfl
theorem Core.fence_ahead : c.fence.ahead = [] := by rw [c.fence_field Core.ahead fun _ _ _ => rfl, Core.cancelAhead_ahead]
theorem Core.fence_tile_eq (k : Nat) : c.fence.tile k = (c.runs.foldl Core.stopRun c).tile k := by
  rw [Core.tile, c.fence_field Core.tiles fun _ _ _ => rfl, Core.cancelAhead_tiles]; rfl
theorem Core.fence_bed_eq (e : Nat) : c.fence.bed e = (c.runs.foldl Core.stopRun c).bed e := by
  rw [Core.bed, c.fence_field Core.beds fun _ _ _ => rfl, Core.cancelAhead_beds]; rfl

theorem Core.fence_slot {n : Nat} (hn : n < 4) : c.fence.slot n = (c.slot n).fenced := by
  rw [Core.fence_eq, Core.slot_fenced, Core.fenceSlots_slot _ hn, Core.cancelAhead_slot, Core.stopRuns_slot]

/-- The target tiles of a product command in execution are poisoned. -/
theorem Core.fence_tile {r : Run} (hr : r ∈ c.runs) {key : Nat} (hk : key ∈ targetTiles r.op r.w) : (c.fence.tile key).AllPoisoned := by
  rw [Core.fence_tile_eq]
  exact foldl_makes (P := fun d : Core => (d.tile key).AllPoisoned) (fun d r => Core.stopRun_keeps_tile key d r)
    (fun d => Core.stopRun_tile hk d) c hr

/-- The bedstones of a BEDLOAD in execution are not loaded. -/
theorem Core.fence_bed {r : Run} (hr : r ∈ c.runs) (hop : r.op = 0x13) {e : Nat} (he : e < 4) (hm : r.w.emask.getLsbD e = true) :
    (c.fence.bed e).loaded = false := by
  rw [Core.fence_bed_eq]
  exact foldl_makes (P := fun d : Core => (d.bed e).loaded = false) (fun d r => Core.stopRun_keeps_bed e d r)
    (fun d => Core.stopRun_bed hop he hm d) c hr

end

/-- The reads that a core waits for (R196). -/
def Core.awaited (c : Core) : Nat := (c.runs.map fun r => (r.pieces.filter Piece.waiting).length).sum

/-- A core that is fenced, before the fence is reported: its held tokens on their way home, and the reads that it waits for counted. -/
def State.fenced (s : State) (core : CoreId) : State :=
  ((s.returnHeld core.toNat).updCluster (clusterOf core) (·.count 0x3C (s.core core.toNat).awaited)).updCore core.toNat Core.fence

section
variable (s : State) (core : CoreId)

theorem State.fenceCore_eq (cause : Nat) (hc : s.hasCore core = true) (hf : (s.core core.toNat).fenced = false) :
    s.fenceCore core cause = (s.fenced core).notify 0x0004 [w32 core.toNat, w32 cause] := by
  simp only [State.fenceCore, hc, hf, Bool.not_true, Bool.or_false, Bool.false_eq_true, if_false]; rfl

theorem State.fenced_core : (s.fenced core).core core.toNat = ({ s.core core.toNat with held := [] } : Core).fence := by
  rw [State.fenced, State.updCore_core_same, State.updCluster_core, State.returnHeld, State.updCore_core_same]; rfl

theorem State.fenced_core_other {j : Nat} (h : j ≠ core.toNat) : (s.fenced core).core j = s.core j := by
  rw [State.fenced, State.updCore_core_other _ _ h, State.updCluster_core, State.returnHeld, State.updCore_core_other _ _ h]; rfl

end

/-! ### The obligation -/

/-- R97, R194, R196: a push that is turned back ends its command, and the others of that command only go. -/
theorem fencedBounce_push_completes (s : State) :
    (∀ (core : CoreId) (q : BitVec 2) (p : Push) (w : Turned), s.oldestPush core q = some p → s.turnedTo (.core p.src) p.dst = some w →
      (s.core core.toNat).fenced = false → let from_ : Site := { core := core, slot := p.origin.slot }
      let rest : Net := { s.net with pushes := s.net.pushes.erase p }
      (p.told = true → Completes (.fencedBounce (.push core q)) s fun t =>
        t.net = rest ∧ TurnCounted s t w ∧ t.cores = s.cores ∧ t.ctl = s.ctl) ∧
      (p.told = false → Completes (.fencedBounce (.push core q)) s fun t =>
        t.net = rest.tell p ∧ TurnCounted s t w ∧ SlotFailed s t from_ p.origin.opcode.toNat stFenced ∧
        ((s.slotAt from_).st ≠ 3 → (t.slotAt from_).ptr = p.origin.ptr ∧ (t.slotAt from_).loops = p.origin.loops) ∧
        (∀ b ∈ (t.core core.toNat).backlog, b.src ≠ p.origin) ∧
        ∀ r ∈ (t.core core.toNat).runs, ¬(r.slot = p.origin.slot ∧ r.op = p.origin.opcode ∧ r.ptr = p.origin.ptr))) := by
  intro core q p w hp way hf from_ rest
  obtain rfl := State.src_of_oldestPush hp
  have run := exec_fencedBounce_push hp way
  have counted : TurnCounted s ((s.dropPush p).countTurn w) w := turnCounted_countTurn (s.dropPush p) w
  refine ⟨fun told => ⟨_, run, ?_⟩, fun told => ⟨_, run, ?_⟩⟩
  · rw [State.bouncePush_told way told]
    exact ⟨State.countTurn_net _ _, counted, State.countTurn_cores _ _, State.countTurn_ctl _ _⟩
  · have eq := State.bouncePush_untold way told
    refine ⟨?_, counted.of_after (fun j => ?_) (fun j => ?_), State.slotFailed_bouncePush way told hf, State.slotAt_bouncePush way told hf,
      fun b hb => ?_, fun r hr => ?_⟩
    · rw [eq, State.failSlot_net]; rfl
    · rw [eq, State.failSlot_cluster]; rfl
    · rw [eq, State.failSlot_half]; rfl
    · rw [eq, State.failSlot_backlog, State.pusherEnded_core] at hb
      exact Core.endPusher_backlog _ _ hb
    · rw [eq, State.failSlot_runs, State.pusherEnded_core] at hr
      exact Core.endPusher_runs _ _ hr

/-- Settles O14: what is turned back is counted once where it turns, a bounced push or token fails its slot, and a fence leaves of its core
what `Core.fence` leaves. -/
theorem fencedCoresAndPathsBounce : Obligations.FencedCoresAndPathsBounce := by
  unfold Obligations.FencedCoresAndPathsBounce
  refine ⟨fun s => ⟨fencedBounce_push_completes s, ?tokens, ?responses, ?returns⟩, ?parity⟩
  case tokens =>
    intro src target t0 w ht way
    exact ⟨_, exec_fencedBounce_token ht way, rfl, turnCounted_countTurn s w, congrArg (fun v : State => { v with net := {} })
      (s.countTurn_beside w)⟩
  case responses =>
    intro core a hf ha
    exact ⟨_, exec_fencedBounce_response hf ha, rfl, turnCounted_countTurn s (.router (clusterOf core)), rfl⟩
  case returns =>
    intro src target t0 hf ht
    exact ⟨_, exec_tokenReturn ht, State.failSlot_net _ _ _ _, (State.slotFailed_failSlot
      ({ s with net := { s.net with returning := s.net.returning.erase t0 } } : State) src 0x03 _ hf).of_before rfl rfl rfl⟩
  case parity =>
    intro s core k c hc hf
    refine ⟨_, congrArg Host.Outcome.next (s.fenceCore_eq core 1 hc hf), ?_⟩
    let d : Core := { c with held := [] }
    have own : ((s.fenced core).notify 0x0004 [w32 core.toNat, w32 1]).core k = d.fence :=
      (State.notify_core _ _ _ _).trans (s.fenced_core core)
    dsimp only
    rw [own]
    refine ⟨rfl, d.fence_held, d.fence_runs, d.fence_backlog, d.fence_ahead, fun n hn => ?_,
      fun r hr => ⟨fun _ hk => d.fence_tile hr hk, fun hop _ he hm => d.fence_bed hr hop he hm⟩, fun j hj => ?_, ?_⟩
    · rw [d.fence_slot hn]; exact ⟨Slot.fenced_st _, Slot.fenced_fault _⟩
    · rw [State.notify_core, State.fenced_core_other _ _ hj]
    · rw [State.notify_cores]; rfl

end Sys2Proof.Machine
end

section
/-! PROOF. The register commands of the compute block (R94 to R116, R195, R198, R250, R253): where the write of one register comes to, what
each register does, and what START and STOP do slot by slot (R101, R104, R380). -/

namespace Sys2Proof.Machine

open Sys2Proof

/-! ### The write of one register (R369) -/

theorem State.regCheck_of_regWrite {s u : State} {who a : Nat} {v : W32} (h : s.regWrite who a v = (stOk, u)) :
    s.regCheck who a (some v) = stOk := by
  by_contra bad
  simp only [State.regWrite, ne_eq, bad, not_false_eq_true, if_true, State.refuse, Prod.mk.injEq, false_and] at h

/-- A burst of one word that is written answers OK. -/
theorem regWriteBody_one {s u : State} {who a : Nat} {v : W32} (aligned : a % 4 = 0) (small : a < 2 ^ 32)
    (h : s.regWrite who a v = (stOk, u)) : regWriteBody who [w32 a, 1, v] s = say stOk [] u := by
  have ha : (w32 a).toNat = a := Nat.mod_eq_of_lt small
  have first : word [w32 a, 1, v] 0 = w32 a := rfl
  have count : bits (word [w32 a, 1, v] 1) 8 0 = 1 := by show bits (1 : W32) 8 0 = 1; decide
  have burst : State.burst [w32 a, 1, v] = [a] := by rw [State.burst, count, first, ha]; rfl
  have good : burstBad [w32 a, 1, v] = false := by rw [burstBad, count, first, ha, aligned]; rfl
  have len : ¬(false = true ∨ [w32 a, 1, v].length ≠ 2 + 1) := by simp
  have zip : [a].zip ([w32 a, 1, v].drop 2) = [(a, v)] := rfl
  have check : s.burstCheck who ([(a, v)].map fun e => (e.1, some e.2)) = stOk := by
    simp only [List.map_cons, List.map_nil, State.burstCheck, State.regCheck_of_regWrite h, ne_eq, not_true_eq_false, if_false]
  have write : s.writeBurst who [(a, v)] 0 = (1, stOk, u) := by simp only [State.writeBurst, h, if_true]
  unfold regWriteBody
  rw [good, count, if_neg len, burst, zip]
  dsimp only
  rw [check, if_neg (not_not.2 rfl), write]
  rfl

/-- A command that is the write of one register takes effect as the register's write does. -/
theorem RegRow.Holds.of_regWrite {r : RegRow} {s : State} {h : CpHdr} {a : Nat} {v : W32} (cmd : exec r.cmd s = writeOne h a v s)
    (addr : a = r.addr) (value : v = r.value) (aligned : r.addr % 4 = 0) (small : r.addr < 2 ^ 32)
    (write : r.ok (s.taken h) → (s.taken h).regWrite h.port.toNat r.addr r.value = (stOk, r.f (s.taken h))) : r.Holds s h := by
  subst addr value
  intro admitted ok
  exact cmd.trans (request_replies admitted (regWriteBody_one aligned small (write ok)))

/-- The same, of a register of the compute block of a half. -/
theorem RegRow.Holds.of_computeAt {r : RegRow} {s : State} {h : CpHdr} {half : BitVec 1} {off : Nat} {v : W32}
    (cmd : exec r.cmd s = writeOne h (computeAt half off) v s) (addr : computeAt half off = r.addr) (value : v = r.value)
    (aligned : off % 4 = 0) (small : off < 0x8000)
    (write : r.ok (s.taken h) → (s.taken h).regWrite h.port.toNat (computeAt half off) v = (stOk, r.f (s.taken h))) : r.Holds s h := by
  have hh := half.isLt
  refine RegRow.Holds.of_regWrite cmd addr value ?_ ?_ (by rw [← addr, ← value]; exact write)
  · rw [← addr, computeAt]; omega
  · rw [← addr, computeAt]; omega

/-! ### Addresses (R370) -/

theorem regBlock_computeAt (half : BitVec 1) {off : Nat} (h : off < 0x8000) :
    regBlock (computeAt half off) = some (.compute half.toNat off) := by
  have hh := half.isLt
  unfold regBlock computeAt
  rw [if_neg (by omega), if_neg (by omega), if_neg (by omega), if_neg (by omega), if_neg (by omega), if_neg (by omega), if_pos (by omega)]
  congr 2 <;> omega

theorem regBlock_csuCmd (half : BitVec 1) (cl : BitVec 5) :
    regBlock (0x60004 + 0x1000 * half.toNat + 0x80 * cl.toNat) = some (.csu (32 * half.toNat + cl.toNat) 4) := by
  have hh := half.isLt
  have hc := cl.isLt
  unfold regBlock
  iterate 17 rw [if_neg (by omega)]
  rw [if_pos (by omega)]
  congr 2 <;> omega

namespace State

variable {s : State} {h : CpHdr} {half : BitVec 1} {off : Nat} {v : W32}

/-! ### The compute block (R29, R114, R397) -/

theorem regWrite_compute {who : Nat} (hoff : off < 0x8000) (check : s.computeCheck half.toNat who off (some v) = stOk)
    (gated : s.pwr.gated.getLsbD half.toNat = false) (idle : s.pwr.st = 1 → ¬(0x100 ≤ off ∧ off < 0x400)) :
    s.regWrite who (computeAt half off) v = s.computeWrite half.toNat who off v := by
  have awake : s.regAsleep (.compute half.toNat off) = false := by
    simp only [regAsleep, gated, Bool.false_or, Bool.and_eq_false_iff, decide_eq_false_iff_not]
    exact Classical.or_iff_not_imp_left.2 fun hst => idle (not_not.1 hst)
  simp only [regWrite, regCheck, regBlock_computeAt half hoff, check, ne_eq, not_true_eq_false, if_false, awake, Bool.false_eq_true]

/-- A register outside the window and the clusters. -/
theorem regWrite_half {who : Nat} (open_ : s.halfOpen half) (hoff : off < 0x100 ∨ 0x400 ≤ off ∧ off < 0x800) :
    s.regWrite who (computeAt half off) v = s.computeWrite half.toNat who off v := by
  obtain ⟨present, gated⟩ := open_
  refine regWrite_compute (by omega) ?_ gated (by omega)
  unfold computeCheck
  rw [if_neg (by rw [present]; decide), if_neg (by omega), if_neg (by omega), if_neg (by omega)]

/-- A register of a cluster. -/
theorem regWrite_cluster {who : Nat} {cl : BitVec 5} (open_ : s.halfOpen half) (present : s.hasCluster (32 * half.toNat + cl.toNat) = true)
    (hoff : off < 0x100) : s.regWrite who (computeAt half (0x800 + 0x100 * cl.toNat + off)) v =
      s.clusterWrite (32 * half.toNat + cl.toNat) off v := by
  obtain ⟨hasHalf, gated⟩ := open_
  have hc := cl.isLt
  have n : (0x800 + 0x100 * cl.toNat + off - 0x800) / 0x100 = cl.toNat := by omega
  have m : (0x800 + 0x100 * cl.toNat + off) % 0x100 = off := by omega
  have check : s.computeCheck half.toNat who (0x800 + 0x100 * cl.toNat + off) (some v) = stOk := by
    unfold computeCheck
    rw [if_neg (by rw [hasHalf]; decide), if_neg (by omega), if_pos (by omega), n, if_pos present]
  rw [regWrite_compute (by omega) check gated (by omega)]
  unfold computeWrite netWrite
  rw [if_neg (by omega), if_neg (by omega), if_neg (by omega), if_neg (by omega), if_pos (by omega), n, m]

/-- A register of the window of a core, which takes a STOP where the core is fenced. -/
theorem regWrite_window (present : s.hasHalf half.toNat = true) (core : s.hasCore (s.selected half.toNat h.port.toNat) = true)
    (fence : s.fencedCore (s.selected half.toNat h.port.toNat).toNat = true → isStop off v = true)
    (gated : s.pwr.gated.getLsbD half.toNat = false) (running : s.pwr.st ≠ 1) (hoff : 0x100 ≤ off ∧ off < 0x400) :
    s.regWrite h.port.toNat (computeAt half off) v = s.coreWrite (s.selected half.toNat h.port.toNat) off v := by
  have check : s.computeCheck half.toNat h.port.toNat off (some v) = stOk := by
    unfold computeCheck
    rw [if_neg (by rw [present]; decide), if_pos hoff]
    dsimp only
    rw [if_neg (by rw [core]; decide), if_neg (fun bad => by rw [fence bad.1] at bad; exact Bool.false_ne_true bad.2)]
  rw [regWrite_compute (by omega) check gated fun hst => absurd hst running]
  unfold computeWrite
  rw [if_neg (by omega), if_neg (by omega), if_pos hoff]

theorem regWrite_windowOpen (open_ : s.windowOpen h half) (hoff : 0x100 ≤ off ∧ off < 0x400) :
    s.regWrite h.port.toNat (computeAt half off) v = s.coreWrite (s.selected half.toNat h.port.toNat) off v := by
  obtain ⟨present, core, fence, gated, running⟩ := open_
  exact regWrite_window present core (fun bad => absurd (fence.symm.trans bad) Bool.false_ne_true) gated running hoff

/-- The selected core lies in its half. -/
theorem halfOf_selected (who : Nat) : halfOf (s.selected half.toNat who) = half.toNat := by
  have hh := half.isLt
  have hs := (SMap.get 0 (s.half half.toNat).sel (who % 2)).isLt
  rw [halfOf, selected, BitVec.toNat_ofNat]
  omega

/-! ### The window of a core (R94, R96, R101, R107, R113, R114, R155) -/

section
variable {core : CoreId}

theorem coreWrite_slotCmd (fence : s.fencedCore core.toNat = true → isStop 0x10C v = true) :
    s.coreWrite core 0x10C v = s.slotCmd core (bits v 3 0) (bits v 7 4) := by
  unfold coreWrite
  dsimp only
  rw [if_neg (fun bad => by rw [fence bad.1] at bad; exact Bool.false_ne_true bad.2), if_neg (by omega), if_neg (by omega), if_pos rfl]

variable (sound : s.fencedCore core.toNat = false)
include sound

theorem coreWrite_seen : s.coreWrite core 0x108 v = s.clearSeen core v := by
  unfold coreWrite
  dsimp only
  rw [if_neg (fun bad => Bool.false_ne_true (sound.symm.trans bad.1)), if_neg (by omega), if_pos rfl]

theorem coreWrite_slotPtr (n : BitVec 2) (hi : Bool) :
    s.coreWrite core (0x120 + 8 * n.toNat + if hi then 4 else 0) v = s.slotPtr core n.toNat hi v := by
  have hn := n.isLt
  unfold coreWrite
  dsimp only
  rw [if_neg (fun bad => Bool.false_ne_true (sound.symm.trans bad.1))]
  cases hi with
  | false =>
    simp only [Bool.false_eq_true, if_false]
    iterate 4 rw [if_neg (by omega)]
    rw [if_pos (by omega), decide_eq_false (by omega)]
    congr 1; omega
  | true =>
    simp only [if_true]
    iterate 4 rw [if_neg (by omega)]
    rw [if_pos (by omega), decide_eq_true (by omega)]
    congr 1; omega

theorem coreWrite_qcfg {q : BitVec 4} (hq : q ≠ 15) : s.coreWrite core (0x190 + 4 * q.toNat) v = s.setQcfg core q.toNat v := by
  have hn : q.toNat < 15 := by bv_omega
  unfold coreWrite
  dsimp only
  rw [if_neg (fun bad => Bool.false_ne_true (sound.symm.trans bad.1))]
  iterate 7 rw [if_neg (by omega)]
  rw [if_pos (by omega)]
  congr 1; omega

/-- There is no ring of Q15 (R93). -/
theorem coreWrite_qcfg15 : s.coreWrite core 0x1CC v = s.wrote := by
  unfold coreWrite
  dsimp only
  rw [if_neg (fun bad => Bool.false_ne_true (sound.symm.trans bad.1))]
  iterate 10 rw [if_neg (by omega)]

theorem coreWrite_qbind (n : BitVec 2) : s.coreWrite core (0x1D0 + 4 * n.toNat) v = s.setQbind core n.toNat v := by
  have hn := n.isLt
  unfold coreWrite
  dsimp only
  rw [if_neg (fun bad => Bool.false_ne_true (sound.symm.trans bad.1))]
  iterate 8 rw [if_neg (by omega)]
  rw [if_pos (by omega)]
  congr 1; omega

end

/-! ### SLOT_CMD (R101, R107, R198) -/

theorem bits_start (m : BitVec 4) : bits (m.setWidth 32 : W32) 3 0 = m.toNat ∧ bits (m.setWidth 32 : W32) 7 4 = 0 := by
  have hm := m.isLt
  simp only [bits, BitVec.toNat_setWidth]; omega

theorem bits_stop (m : BitVec 4) : bits (w32 (16 * m.toNat)) 3 0 = 0 ∧ bits (w32 (16 * m.toNat)) 7 4 = m.toNat := by
  have hm := m.isLt
  simp only [bits, w32, BitVec.toNat_ofNat]; omega

theorem bitList_zero (n : Nat) : bitList n 0 = [] := by simp [bitList]

theorem slotCmd_start {core : CoreId} {start : Nat} (quiet : bit (s.half (halfOf core)).netCtrl 0 = false) (running : s.pwr.st ≠ 1)
    (alone : bit (s.core core.toNat).ctrl 0 = true → start ≤ 1) : s.slotCmd core start 0 =
      (stOk, s.setCore core.toNat ((bitList 4 start).foldl (Core.start (s.half (halfOf core)).gen) (s.core core.toNat))) := by
  unfold slotCmd
  dsimp only
  rw [if_neg (by rw [Nat.and_zero]; decide), if_neg (by rw [quiet]; simpa using fun _ => running),
    if_neg (fun bad => bad.2 (Nat.div_eq_of_lt (Nat.lt_succ_of_le (alone bad.1)))), bitList_zero]
  rfl

theorem slotCmd_stop (core : CoreId) (stop : Nat) : s.slotCmd core 0 stop =
    (stOk, s.setCore core.toNat ((bitList 4 stop).foldl Core.stopSlot (s.core core.toNat))) := by
  unfold slotCmd
  dsimp only
  rw [if_neg (by rw [Nat.zero_and]; decide), if_neg (fun bad => bad.1 rfl), if_neg (fun bad => bad.2 rfl), bitList_zero]
  rfl

/-- A STOP of some slot is one. -/
theorem isStop_stop {m : BitVec 4} (hm : m ≠ 0) : isStop 0x10C (w32 (16 * m.toNat)) = true := by
  obtain ⟨starts, stops⟩ := bits_stop m
  exact decide_eq_true ⟨rfl, starts, by rw [stops]; bv_omega⟩

/-! ### What the other registers do -/

theorem slotPtr_stopped {core : CoreId} {n : Nat} (hi : Bool) (stopped : ((s.core core.toNat).slot n).st = 0) :
    s.slotPtr core n hi v = (stOk, s.setCore core.toNat ((s.core core.toNat).setSlot n
      { (s.core core.toNat).slot n with
        loops := [], group := none
        ptr := if hi then setBits ((s.core core.toNat).slot n).ptr 47 32 (bits v 15 0)
               else setBits ((s.core core.toNat).slot n).ptr 31 0 (v.toNat / 16 * 16) })) := by
  unfold slotPtr
  dsimp only
  rw [if_neg (not_not.2 stopped)]
  rfl

theorem setQcfg_ok {core : CoreId} {n : Nat} (idle : (s.core core.toNat).anyRunning = false) (fits : bits v 10 0 + bits v 21 11 ≤ 1536)
    (apart : (s.core core.toNat).overlaps n (bits v 21 11) (bits v 10 0) = false) (large : n = 14 → bits v 21 11 = 0 ∨ 32 < bits v 21 11) :
    s.setQcfg core n v = (stOk, s.setCore core.toNat { s.core core.toNat with
      rings := SMap.set {} (s.core core.toNat).rings n ({ size := BitVec.ofNat 11 (bits v 21 11), base := BitVec.ofNat 11 (bits v 10 0),
                                                          staged := ((s.core core.toNat).ring n).staged } : Ring) }) := by
  unfold setQcfg
  dsimp only
  rw [if_neg (by rw [idle]; decide), if_neg (by rw [apart]; rintro (h | h | ⟨h, h1, h2⟩) <;> [omega; exact Bool.false_ne_true h; (have := large h; omega)])]
  rfl

theorem setQbind_ok {core : CoreId} {n : Nat} (idle : (s.core core.toNat).anyRunning = false)
    (present : s.hasCore (peerOf core (v &&& 0x800037FF)).1 = true)
    (other : ¬(bit (v &&& 0x800037FF) 31 = true ∧ peerOf core (v &&& 0x800037FF) = (core, 10 + n))) :
    s.setQbind core n v = (stOk, s.setCore core.toNat
      { s.core core.toNat with
        binds := SMap.set 0 (s.core core.toNat).binds (10 + n) (v &&& 0x800037FF)
        bindFenced := SMap.set false (s.core core.toNat).bindFenced (10 + n) false }) := by
  unfold setQbind
  dsimp only
  rw [if_neg (by rw [idle]; decide), if_neg (by rw [present]; decide), if_neg other]
  rfl

theorem setCsmCfg_ok {k : Nat} (idle : s.clusterRuns k = false) (fits : bits v 5 0 ≤ 32) :
    s.setCsmCfg k v = (stOk, (s.updCluster k fun c => { c with cfg := w32 (bits v 5 0) }).updCsu k Csu.discard) := by
  unfold setCsmCfg
  dsimp only
  rw [if_neg (by rw [idle]; decide), if_neg (Nat.not_lt.2 fits)]
  rfl

/-! ### The commands' writes -/

theorem regWrite_slotStart {m : BitVec 4} (open_ : s.windowOpen h half) (quiet : bit (s.half half.toNat).netCtrl 0 = false)
    (alone : bit (s.core (s.selected half.toNat h.port.toNat).toNat).ctrl 0 = true → m.toNat ≤ 1) :
    s.regWrite h.port.toNat (computeAt half 0x10C) (m.setWidth 32) = (stOk, s.setCore (s.selected half.toNat h.port.toNat).toNat
      ((bitList 4 m.toNat).foldl (Core.start (s.half half.toNat).gen) (s.core (s.selected half.toNat h.port.toNat).toNat))) := by
  obtain ⟨-, -, sound, -, running⟩ := id open_
  obtain ⟨starts, stops⟩ := bits_start m
  rw [regWrite_windowOpen open_ (by omega), coreWrite_slotCmd (fun bad => absurd (sound.symm.trans bad) Bool.false_ne_true), starts, stops,
    slotCmd_start (by rw [halfOf_selected]; exact quiet) running alone, halfOf_selected]

theorem regWrite_slotStop {m : BitVec 4} (present : s.hasHalf half.toNat = true)
    (core : s.hasCore (s.selected half.toNat h.port.toNat) = true)
    (fence : s.fencedCore (s.selected half.toNat h.port.toNat).toNat = true → m ≠ 0) (gated : s.pwr.gated.getLsbD half.toNat = false)
    (running : s.pwr.st ≠ 1) : s.regWrite h.port.toNat (computeAt half 0x10C) (w32 (16 * m.toNat)) =
      (stOk, s.setCore (s.selected half.toNat h.port.toNat).toNat
        ((bitList 4 m.toNat).foldl Core.stopSlot (s.core (s.selected half.toNat h.port.toNat).toNat))) := by
  obtain ⟨starts, stops⟩ := bits_stop m
  have stop := fun bad => isStop_stop (fence bad)
  rw [regWrite_window present core stop gated running (by omega), coreWrite_slotCmd stop, starts, stops, slotCmd_stop]

theorem regWrite_slotPtr {n : BitVec 2} {hi : Bool} (open_ : s.windowOpen h half) :
    s.regWrite h.port.toNat (computeAt half (0x120 + 8 * n.toNat + if hi then 4 else 0)) v =
      s.slotPtr (s.selected half.toNat h.port.toNat) n.toNat hi v := by
  obtain ⟨-, -, sound, -, -⟩ := id open_
  have hn := n.isLt
  rw [regWrite_windowOpen open_ (by split <;> omega), coreWrite_slotPtr sound]

theorem regWrite_qcfg {q : BitVec 4} (open_ : s.windowOpen h half) (hq : q ≠ 15) :
    s.regWrite h.port.toNat (computeAt half (0x190 + 4 * q.toNat)) v = s.setQcfg (s.selected half.toNat h.port.toNat) q.toNat v := by
  obtain ⟨-, -, sound, -, -⟩ := id open_
  have hn := q.isLt
  rw [regWrite_windowOpen open_ (by omega), coreWrite_qcfg sound hq]

theorem regWrite_qcfg15 (open_ : s.windowOpen h half) : s.regWrite h.port.toNat (computeAt half 0x1CC) v = (stOk, s) := by
  obtain ⟨-, -, sound, -, -⟩ := id open_
  rw [regWrite_windowOpen open_ (by omega), coreWrite_qcfg15 sound]; rfl

theorem regWrite_qbind {n : BitVec 2} (open_ : s.windowOpen h half) : s.regWrite h.port.toNat (computeAt half (0x1D0 + 4 * n.toNat)) v =
    s.setQbind (s.selected half.toNat h.port.toNat) n.toNat v := by
  obtain ⟨-, -, sound, -, -⟩ := id open_
  have hn := n.isLt
  rw [regWrite_windowOpen open_ (by omega), coreWrite_qbind sound]

theorem regWrite_coreSeen (open_ : s.windowOpen h half) :
    s.regWrite h.port.toNat (computeAt half 0x108) v = s.clearSeen (s.selected half.toNat h.port.toNat) v := by
  obtain ⟨-, -, sound, -, -⟩ := id open_
  rw [regWrite_windowOpen open_ (by omega), coreWrite_seen sound]

theorem regWrite_pipePolicy {who : Nat} (open_ : s.halfOpen half) :
    s.regWrite who (computeAt half 4) v = (stOk, s.setPolicy half.toNat v) := by
  rw [regWrite_half open_ (by omega)]; rfl

theorem regWrite_netCtrl {who : Nat} (open_ : s.halfOpen half) : s.regWrite who (computeAt half 0x400) v = s.setNetCtrl half.toNat v := by
  rw [regWrite_half open_ (by omega)]; rfl

theorem regWrite_csuCmd {who : Nat} {cl : BitVec 5} (open_ : s.halfOpen half) (present : s.hasCluster (32 * half.toNat + cl.toNat) = true) :
    s.regWrite who (0x60004 + 0x1000 * half.toNat + 0x80 * cl.toNat) v = (stOk, s.cancelStreams (32 * half.toNat + cl.toNat) v) := by
  have hc := cl.isLt
  have awake : s.regAsleep (.csu (32 * half.toNat + cl.toNat) 4) = false := by
    show s.pwr.gated.getLsbD ((32 * half.toNat + cl.toNat) / 32) = false
    rw [show (32 * half.toNat + cl.toNat) / 32 = half.toNat by omega]; exact open_.2
  simp only [regWrite, regCheck, regBlock_csuCmd, present, if_true, ne_eq, not_true_eq_false, if_false, awake, Bool.false_eq_true]
  rfl

end State

/-! ### START and STOP, slot by slot (R101, R104, R380) -/

theorem Core.slot_setSlot (c : Core) (k j : Nat) (v : Slot) : (c.setSlot k v).slot j = if j = k then v else c.slot j :=
  SMap.get_set _ _ _ _ _

/-- A slot that START finds not RUNNING runs, under the generation that is current, and waits for the issue logic from now on. -/
def Slot.started (gen : BitVec 16) (clock : Nat) (sl : Slot) : Slot :=
  if sl.st = 1 then sl
  else { sl with st := 1, fault := 0, marked := false, gen := gen, swap := none, stop := false, last := clock,
                 group := if sl.st = 3 then none else sl.group }

/-- What START may change of a core, blanked. -/
def Core.besideStart (c : Core) : Core := { c with slots := [], lag := none, lastGen := 0 }

theorem Core.besideStart_start (g : BitVec 16) (c : Core) (n : Nat) : (c.start g n).besideStart = c.besideStart := by
  unfold Core.start
  dsimp only
  split
  · rfl
  · split <;> rfl

theorem Core.start_of_running (g : BitVec 16) {c : Core} {n : Nat} (h : (c.slot n).st = 1) : c.start g n = c := by
  rw [Core.start, h]; rfl

theorem Core.start_slots (g : BitVec 16) {c : Core} {n : Nat} (h : (c.slot n).st ≠ 1) :
    (c.start g n).slots = SMap.set {} c.slots n ((c.slot n).started g c.clock) := by
  unfold Core.start Slot.started
  dsimp only
  rw [if_neg h, if_neg h]
  split <;> rfl

theorem Core.start_slot (g : BitVec 16) (c : Core) (n j : Nat) :
    (c.start g n).slot j = if j = n then (c.slot n).started g c.clock else c.slot j := by
  by_cases h : (c.slot n).st = 1
  · rw [Core.start_of_running g h, Slot.started, if_pos h]
    split <;> [(rename_i hj; rw [hj]); rfl]
  · rw [Core.slot, Core.start_slots g h, SMap.get_set]; rfl

theorem Core.besideStart_startAll (g : BitVec 16) (l : List Nat) (c : Core) : (l.foldl (Core.start g) c).besideStart = c.besideStart :=
  foldl_keeps (P := fun d : Core => d.besideStart = c.besideStart) (fun d n h => (Core.besideStart_start g d n).trans h) l rfl

theorem Core.startAll_slot (g : BitVec 16) (c : Core) {l : List Nat} (hl : l.Nodup) (j : Nat) :
    (l.foldl (Core.start g) c).slot j = if j ∈ l then (c.slot j).started g c.clock else c.slot j :=
  Core.slot_foldl (h := Core.start g) (P := fun d => d.clock = c.clock) (f := fun _ sl => sl.started g c.clock)
    (fun d n h => (congrArg Core.clock (Core.besideStart_start g d n)).trans h)
    (fun d n j h => by rw [Core.start_slot, h]) hl rfl j

/-- A RUNNING slot that STOP finds stops at once, or with the completion of the command that it has in execution. -/
def Slot.stopped (works : Bool) (sl : Slot) : Slot :=
  if sl.st ≠ 1 then sl else if works then { sl with stop := true } else { sl with st := 0, swap := none, group := none }

/-- A command of slot `n` is in execution. -/
def Core.works (c : Core) (n : Nat) : Bool := c.runs.any fun r => decide (r.slot.toNat = n)

/-- What STOP may change of a core, blanked. -/
def Core.besideSlotStop (c : Core) : Core := { c.besideAhead with slots := [] }

theorem Core.besideSlotStop_stopSlot (c : Core) (n : Nat) : (c.stopSlot n).besideSlotStop = c.besideSlotStop := by
  unfold Core.stopSlot
  dsimp only
  split
  · rfl
  · split
    · rfl
    · rw [Core.besideSlotStop, Core.besideAhead_cancelAhead]; rfl

theorem Core.stopSlot_slot (c : Core) (n j : Nat) : (c.stopSlot n).slot j = if j = n then (c.slot n).stopped (c.works n) else c.slot j := by
  unfold Core.stopSlot Slot.stopped Core.works
  dsimp only
  split
  · split <;> [(rename_i h; rw [h]); rfl]
  · split
    · exact Core.slot_setSlot c n j _
    · rw [Core.cancelAhead_slot]; exact Core.slot_setSlot c n j _

theorem Core.besideSlotStop_stopAll (l : List Nat) (c : Core) : (l.foldl Core.stopSlot c).besideSlotStop = c.besideSlotStop :=
  foldl_keeps (P := fun d : Core => d.besideSlotStop = c.besideSlotStop) (fun d n h => (d.besideSlotStop_stopSlot n).trans h) l rfl

theorem Core.stopAll_slot (c : Core) {l : List Nat} (hl : l.Nodup) (j : Nat) :
    (l.foldl Core.stopSlot c).slot j = if j ∈ l then (c.slot j).stopped (c.works j) else c.slot j :=
  Core.slot_foldl (h := Core.stopSlot) (P := fun d => d.runs = c.runs) (f := fun n sl => sl.stopped (c.works n))
    (fun d n h => (congrArg Core.runs (d.besideSlotStop_stopSlot n)).trans h)
    (fun d n j h => by rw [Core.stopSlot_slot, Core.works, h]; rfl) hl rfl j

/-! ### The obligation -/

theorem mem_maskList {m : BitVec 4} {n : Nat} (hn : n < 4) : n ∈ bitList 4 m.toNat ↔ m.getLsbD n = true :=
  mem_bitList.trans (and_iff_right hn)

theorem nodup_bitList (n x : Nat) : (bitList n x).Nodup := List.nodup_range.filter _

/-- What START and STOP of the slots of a mask do, slot by slot. -/
theorem Core.started_stopped (c : Core) (g : BitVec 16) (m : BitVec 4) (n : Nat) (hn : n < 4) :
    let a := (bitList 4 m.toNat).foldl (Core.start g) c; let b := (bitList 4 m.toNat).foldl Core.stopSlot c
    (a.slot n = if m.getLsbD n = true then (c.slot n).started g c.clock else c.slot n) ∧
    (b.slot n = if m.getLsbD n = true then (c.slot n).stopped (c.works n) else c.slot n) ∧
    a.rings = c.rings ∧ a.runs = c.runs ∧ b.runs = c.runs ∧ a.ctr = c.ctr ∧ b.ctr = c.ctr := by
  have start {α : Type} (f : Core → α) := congrArg f (Core.besideStart_startAll g (bitList 4 m.toNat) c)
  have stop {α : Type} (f : Core → α) := congrArg f (Core.besideSlotStop_stopAll (bitList 4 m.toNat) c)
  refine ⟨?_, ?_, start Core.rings, start Core.runs, stop Core.runs, start Core.ctr, stop Core.ctr⟩
  · rw [Core.startAll_slot g c (nodup_bitList _ _)]; simp only [mem_maskList hn]
  · rw [Core.stopAll_slot c (nodup_bitList _ _)]; simp only [mem_maskList hn]

theorem Core.works_iff (c : Core) (n : Nat) : c.works n = true ↔ ∃ r ∈ c.runs, r.slot.toNat = n := by
  simp only [Core.works, List.any_eq_true, decide_eq_true_eq]

/-- Settles O39: each command is the write of one register (`RegRow.Holds.of_regWrite`), and START and STOP change each slot of the mask on
its own. -/
theorem computeRegistersTakeEffect : Obligations.ComputeRegistersTakeEffect := by
  unfold Obligations.ComputeRegistersTakeEffect
  refine ⟨fun s h half m n hi v q cl => ?rows, fun c g m n hn => ?slots⟩
  case rows =>
    have hh := half.isLt
    have hc := cl.isLt
    have hq := q.isLt
    have hn := n.isLt
    dsimp only
    simp only [List.forall_mem_cons, List.not_mem_nil, false_imp_iff, implies_true, and_true]
    refine ⟨?start, ?stop, ?ptr, ?qcfg, ?qcfg15, ?qbind, ?seen, ?policy, ?fence, ?quiesce, ?csm, ?csu⟩
    case start => exact .of_computeAt rfl rfl rfl (by omega) (by omega) fun ⟨o, quiet, alone⟩ => State.regWrite_slotStart o quiet alone
    case stop =>
      refine .of_computeAt (congrArg (writeOne h _ · s) (congrArg w32 (Nat.mul_comm _ _))) rfl rfl (by omega) (by omega) ?_
      exact fun ⟨present, core, fence, gated, running⟩ => State.regWrite_slotStop present core fence gated running
    case ptr =>
      refine .of_computeAt (off := 0x120 + 8 * n.toNat + if hi then 4 else 0) rfl ?_ rfl (by split <;> omega) (by split <;> omega) ?_
      · simp only [computeAt, Nat.add_assoc]
      · exact fun ⟨o, stopped⟩ => (State.regWrite_slotPtr o).trans (State.slotPtr_stopped hi stopped)
    case qcfg =>
      refine .of_computeAt (off := 0x190 + 4 * q.toNat) rfl ?_ rfl (by omega) (by omega) ?_
      · simp only [computeAt, Nat.add_assoc]
      · rintro ⟨hq, o, idle, fits, apart, large⟩
        refine (State.regWrite_qcfg o hq).trans (State.setQcfg_ok idle fits apart fun h14 => large (BitVec.eq_of_toNat_eq h14))
    case qcfg15 =>
      refine .of_computeAt (off := 0x190 + 4 * q.toNat) rfl ?_ rfl (by omega) (by omega) ?_
      · simp only [computeAt, Nat.add_assoc]
      · rintro ⟨rfl, o⟩
        exact State.regWrite_qcfg15 o
    case qbind =>
      refine .of_computeAt (off := 0x1D0 + 4 * n.toNat) rfl ?_ rfl (by omega) (by omega) ?_
      · simp only [computeAt, Nat.add_assoc]
      · exact fun ⟨o, idle, present, other⟩ => (State.regWrite_qbind o).trans (State.setQbind_ok idle present other)
    case seen => exact .of_computeAt rfl rfl rfl (by omega) (by omega) fun o => State.regWrite_coreSeen o
    case policy => exact .of_computeAt rfl rfl rfl (by omega) (by omega) fun o => State.regWrite_pipePolicy o
    case fence =>
      refine .of_computeAt (half := half) (off := 0x800 + 0x100 * cl.toNat + 8) ?_ ?_ rfl (by omega) (by omega) ?_
      · exact congrArg (writeOne h · v s) (by simp only [computeAt]; omega)
      · simp only [computeAt]; omega
      · exact fun ⟨o, present⟩ => State.regWrite_cluster o present (by omega)
    case quiesce => exact .of_computeAt rfl rfl rfl (by omega) (by omega) fun o => State.regWrite_netCtrl o
    case csm =>
      refine .of_computeAt (off := 0x800 + 0x100 * cl.toNat + 0) rfl ?_ rfl (by omega) (by omega) ?_
      · simp only [computeAt, Nat.add_assoc, Nat.add_zero]
      · exact fun ⟨⟨o, present⟩, idle, fits⟩ => (State.regWrite_cluster o present (by omega)).trans (State.setCsmCfg_ok idle fits)
    case csu =>
      refine .of_regWrite (a := 0x60004 + 0x1000 * half.toNat + 0x80 * cl.toNat) ?_ rfl rfl (by dsimp only; omega) (by dsimp only; omega) ?_
      · exact congrArg (writeOne h · v s) (by omega)
      · exact fun ⟨o, present⟩ => State.regWrite_csuCmd o present
  case slots =>
    intro a b sl works
    obtain ⟨ha, hb, rings, runsA, runsB, ctrA, ctrB⟩ := Core.started_stopped c g m n hn
    refine ⟨fun bit st => ?_, fun out => ?_, fun bit st none => ?_, fun bit st some => ?_, fun out => ?_, rings, runsA, runsB, ctrA, ctrB⟩
    · rw [ha, if_pos bit, Slot.started, if_neg st]
    · rw [ha, Slot.started, ite_eq_right_iff]; exact fun bit => if_pos (out.resolve_left (by rw [bit]; decide))
    · have idle : c.works n = false := Bool.eq_false_iff.2 fun w => none ((c.works_iff n).1 w)
      rw [hb, if_pos bit, Slot.stopped, if_neg (not_not.2 st), idle]; rfl
    · rw [hb, if_pos bit, Slot.stopped, if_neg (not_not.2 st), (c.works_iff n).2 some]; rfl
    · rw [hb, Slot.stopped, ite_eq_right_iff]; exact fun bit => if_pos (out.resolve_left (by rw [bit]; decide))

end Sys2Proof.Machine
end

section
/-! PROOF. Instruction lines (R99, R100, R102): the state in which a line that does not come is reported twice, once by the slot that it
fails, and once before by the read that shows its sector's mismatch again (R217). -/

namespace Sys2Proof.Machine

open Sys2Proof

/-- Slot 0 of core 0 is RUNNING at address 0, its line is not in the instruction cache, and its translation is resident. The cells of the
sector at address 0 show their mismatch again, and the lichen map does not hold it. -/
def shownAgain : State :=
  { cores := [(0, { slots := [(0, { st := 1 })] })]
    mem := { clean := [(0, true)], wrong := [(0, 1)] }
    xl := { tbs := [(0, [{ base := 0, giant := false, pte := 0x15 }])] } }

/-- The site that misses. -/
abbrev firstSite : Site := { core := 0, slot := 0 }

/-- The miss is counted. -/
abbrev missCounted : State := shownAgain.updCore 0 (·.count 0x310 1)

/-- The slot has failed, and the next line does not come either. -/
abbrev lineFailed : State := (missCounted.demandLine firstSite).specLine 0 0 64

theorem shownAgain_quiet : Quiet shownAgain 0 where
  runs := by decide
  backlog := by decide
  staged := by decide
  known := by
    have none_left : ∀ n, n < 4 → (shownAgain.core 0).nextWord n = none := by decide
    intro n hn y hy
    exact absurd (hy.symm.trans (none_left n hn)) (Option.some_ne_none y)

theorem lineFailed_known : ∀ n, n < 4 → ∀ y, (lineFailed.core 0).nextWord n = some y → (cmdOf y.1).isSome = true := by
  have none_left : ∀ n, n < 4 → (lineFailed.core 0).nextWord n = none := by decide
  intro n hn y hy
  exact absurd (hy.symm.trans (none_left n hn)) (Option.some_ne_none y)

theorem shownAgain_fetch_fails : ∃ i, (missCounted.fetchLine 0 0).1 = .error i := by
  cases h : (missCounted.fetchLine 0 0).1 with
  | ok ws =>
    have comes : (missCounted.fetchLine 0 0).1.isOk = true := congrArg Except.isOk h
    exact absurd comes (by decide)
  | error i => exact ⟨i, rfl⟩

/-- The miss leaves two reports, of the sector and of the slot. -/
theorem shownAgain_reports_twice :
    Completes (.icacheFill firstSite .miss) shownAgain fun t => t.ctl.noteSeq = shownAgain.ctl.noteSeq + 2 :=
  ⟨_, rfl, by decide⟩

/-- Refutes O12: of a line whose fetch fails it says that one report is made, the slot's. That leaves out the report of the read itself: in
`shownAgain` the sector of the line has shown its mismatch again, which the read reports as well, and the miss makes two. -/
theorem not_instructionLinesAndRunAhead : ¬ Obligations.InstructionLinesAndRunAhead := by
  unfold Obligations.InstructionLinesAndRunAhead
  rintro ⟨hlines, -⟩
  obtain ⟨i, hi⟩ := shownAgain_fetch_fails
  obtain ⟨hmiss, -⟩ := hlines shownAgain (missCounted.fetchLine 0 0).2 firstSite [] i shownAgain_quiet (by decide) (by decide) (by decide)
  obtain ⟨-, hfails⟩ := hmiss (by decide) lineFailed_known
  obtain ⟨t, ht, hslot, -⟩ := hfails (Prod.ext hi rfl)
  obtain ⟨u, hu, htwice⟩ := shownAgain_reports_twice
  obtain rfl : t = u := Host.Outcome.next.inj (ht.symm.trans hu)
  exact absurd (hslot.reported.symm.trans htwice) (by decide)

end Sys2Proof.Machine
end

section
/-! PROOF. What a core command in execution changes (R88, R95): its work from issue to end, unit by unit. -/

namespace Sys2Proof

/-- What holds of every value of a map, and of the value of a key that is not listed, holds of what a key reads as. -/
theorem SMap.get_induction {α : Type} {P : α → Prop} {d : α} (hd : P d) : ∀ {m : SMap α}, (∀ e ∈ m, P e.2) → ∀ k, P (SMap.get d m k)
  | [], _, _ => hd
  | (j, v) :: m, h, k => by
    by_cases hj : j = k
    · rw [SMap.get, if_pos hj]; exact h (j, v) List.mem_cons_self
    · rw [SMap.get, if_neg hj]; exact SMap.get_induction hd (fun e he => h e (List.mem_cons_of_mem _ he)) k

theorem SMap.mem_set {α : Type} [DecidableEq α] {d : α} {m : SMap α} {k : Nat} {v : α} {e : Nat × α} (h : e ∈ SMap.set d m k v) :
    e = (k, v) ∨ e ∈ m := by
  unfold SMap.set at h
  split at h
  · exact .inr (List.mem_of_mem_filter h)
  · exact (SMap.mem_insert _ _ _ _ h).imp_right List.mem_of_mem_filter

end Sys2Proof

namespace Sys2Proof.Machine

open Sys2Proof

/-! ### Nothing that was popped stands unused (R95) -/

/-- No command in execution has popped words of this core's rings that it has not used. -/
def Core.Settled (c : Core) : Prop := ∀ e ∈ c.rings, e.2.staged = []

theorem Core.Settled.ring {c : Core} (h : c.Settled) (q : Nat) : (c.ring q).staged = [] :=
  SMap.get_induction (P := fun r : Ring => r.staged = []) rfl h q

theorem Core.Settled.own {c : Core} (h : c.Settled) (q id : Nat) : (c.ring q).own id = [] := by rw [Ring.own, h.ring]; rfl

theorem Core.Settled.updRing {c : Core} (h : c.Settled) {q : Nat} {f : Ring → Ring} (hf : (f (c.ring q)).staged = []) :
    (c.updRing q f).Settled := by
  intro e he
  rcases SMap.mem_set he with rfl | he
  · exact hf
  · exact h e he

theorem Core.Settled.dropRun {c : Core} (h : c.Settled) (hr : c.runs = []) (id : Nat) : c.dropRun id = c :=
  Core.dropRun_none c id hr fun e he => by rw [Ring.own, h e he]; rfl

/-! ### What work changes -/

/-- A blanking of a core that keeps what an issue speaks of: slots, instruction cache, the picker's count, and the commands in execution. -/
structure Spares (cB : Core → Core) : Prop where
  slots : ∀ c, (cB c).slots = c.slots := by exact fun _ => rfl
  icache : ∀ c, (cB c).icache = c.icache := by exact fun _ => rfl
  clock : ∀ c, (cB c).clock = c.clock := by exact fun _ => rfl
  runs : ∀ c, (cB c).runs = c.runs := by exact fun _ => rfl
  issued : ∀ c, cB c.issued = (cB c).issued := by exact fun _ => rfl

/-- From `s` to `u` a command has changed nothing but what `dB` blanks of the die and what `cB` blanks of core `k`, and what waits there to
be pushed; what it has popped it has used. -/
structure Works (k : Nat) (dB : State → State) (cB : Core → Core) (s u : State) : Prop where
  die : dB { u with cores := [] } = dB { s with cores := [] }
  cores : ∀ j, j ≠ k → u.core j = s.core j
  core : cB { u.core k with backlog := [] } = cB { s.core k with backlog := [] }
  settled : (s.core k).Settled → (u.core k).Settled

namespace Works

variable {k : Nat} {dB : State → State} {cB : Core → Core} {s u v : State}

theorem refl (s : State) : Works k dB cB s s := ⟨rfl, fun _ _ => rfl, rfl, id⟩

theorem trans (h : Works k dB cB s u) (h' : Works k dB cB u v) : Works k dB cB s v :=
  ⟨h'.die.trans h.die, fun j hj => (h'.cores j hj).trans (h.cores j hj), h'.core.trans h.core, h'.settled ∘ h.settled⟩

theorem slots (h : Works k dB cB s u) (hc : Spares cB) : (u.core k).slots = (s.core k).slots := by
  have e := congrArg Core.slots h.core; rwa [hc.slots, hc.slots] at e
theorem icache (h : Works k dB cB s u) (hc : Spares cB) : (u.core k).icache = (s.core k).icache := by
  have e := congrArg Core.icache h.core; rwa [hc.icache, hc.icache] at e
theorem clock (h : Works k dB cB s u) (hc : Spares cB) : (u.core k).clock = (s.core k).clock := by
  have e := congrArg Core.clock h.core; rwa [hc.clock, hc.clock] at e
theorem runs (h : Works k dB cB s u) (hc : Spares cB) : (u.core k).runs = (s.core k).runs := by
  have e := congrArg Core.runs h.core; rwa [hc.runs, hc.runs] at e

theorem slotAt {site : Site} (h : Works site.core.toNat dB cB s u) (hc : Spares cB) : u.slotAt site = s.slotAt site := by
  simp only [State.slotAt, Core.slot, h.slots hc]

/-- A change of one core that leaves its rings. -/
theorem updCore (s : State) {f : Core → Core} (hf : cB { f (s.core k) with backlog := [] } = cB { s.core k with backlog := [] })
    (hr : (f (s.core k)).rings = (s.core k).rings) : Works k dB cB s (s.updCore k f) where
  die := rfl
  cores _ hj := State.updCore_core_other _ _ hj
  core := by rw [State.updCore_core_same]; exact hf
  settled h := by rw [State.updCore_core_same]; unfold Core.Settled; rw [hr]; exact h

/-- A change of the die beside the cores. -/
theorem of_die (hu : u.cores = s.cores) (hd : dB { u with cores := [] } = dB { s with cores := [] }) : Works k dB cB s u := by
  have hc : ∀ j, u.core j = s.core j := fun j => by unfold State.core; rw [hu]
  exact ⟨hd, fun j _ => hc j, by rw [hc], by rw [hc]; exact id⟩

/-- A change of a core's rings, within what is blanked. -/
theorem of_rings (h : RingsOnly k s u) (hs : (s.core k).Settled → (u.core k).Settled) (hc : ∀ c, cB { c with rings := [] } = cB c) :
    Works k dB cB s u where
  die := congrArg dB h.die
  cores := h.cores
  core := by
    rw [← hc { u.core k with backlog := [] }, ← hc { s.core k with backlog := [] }]
    exact congrArg (fun c : Core => cB { c with backlog := [] }) h.core
  settled := hs

end Works

/-! ### Input that is taken -/

/-- A property of states that taking input of queues for the command `x` keeps. -/
def KeptByTake (x : Ctx) (P : State → Prop) : Prop := ∀ {s q n bs u}, P s → take s x q n = .got bs u → P u

/-- What is taken, if it is, leaves a state that `P` holds of. -/
def Taken.Keeps {α : Type} (P : State → Prop) (t : Taken α) : Prop := ∀ {a u}, t = .got a u → P u

theorem Taken.keeps_got {α : Type} {P : State → Prop} {a : α} {s : State} (h : P s) : (Taken.got a s).Keeps P := by
  rintro _ _ ⟨⟩; exact h

theorem Taken.keeps_more {α β : Type} {P : State → Prop} {t : Taken α} {f : α → State → Taken β} (ht : t.Keeps P)
    (hf : ∀ a s, P s → (f a s).Keeps P) : (t.more f).Keeps P := by
  intro b u h
  obtain ⟨a, v, h1, h2⟩ := Taken.more_got h
  exact hf a v (ht h1) h2

section
variable {x : Ctx} {P : State → Prop} (hP : KeptByTake x P)
include hP

theorem take_keeps {s : State} (hs : P s) (q : BitVec 4) (n : Nat) : (take s x q n).Keeps P := hP hs

theorem takeRecs_keeps (q : BitVec 4) (ok : Nat → Bool) (f : FpFmt) : ∀ (n : Nat) (acc : List (List MV)) (e : Eff) {s : State}, P s →
    (takeRecs x q ok f n acc e s).Keeps P
  | 0, _, _, _, hs => Taken.keeps_got hs
  | n + 1, acc, e, s, hs => by
    unfold takeRecs
    refine Taken.keeps_more (take_keeps hP hs _ _) fun h s hs => ?_
    dsimp only
    split
    · intro _ _ h; cases h
    · exact Taken.keeps_more (take_keeps hP hs _ _) fun d s hs => takeRecs_keeps q ok f n _ _ hs

theorem takeRows_keeps {s : State} (hs : P s) (q : BitVec 4) (f : Fmt) (n len : Nat) : (takeRows s x q f n len).Keeps P :=
  Taken.keeps_more (take_keeps hP hs _ _) fun _ _ hs => Taken.keeps_got hs

theorem takeA_keeps {s : State} (hs : P s) (v : Vop) : (takeA s x v).Keeps P := by
  unfold takeA
  split
  · exact Taken.keeps_more (takeRecs_keeps hP _ _ _ _ _ _ hs) fun _ _ hs => Taken.keeps_got hs
  · exact Taken.keeps_more (takeRows_keeps hP hs _ _ _ _) fun _ _ hs => Taken.keeps_got hs

theorem takePass_keeps (v : Vop) (inl second : Bool) (len : Nat) : ∀ (n : Nat) (acc : List PassRow) {s : State}, P s →
    (takePass x v inl second len n acc s).Keeps P
  | 0, _, _, hs => Taken.keeps_got hs
  | n + 1, acc, s, hs => by
    unfold takePass
    refine Taken.keeps_more (take_keeps hP hs _ _) fun _ _ hs => ?_
    refine Taken.keeps_more (take_keeps hP hs _ _) fun _ _ hs => ?_
    exact Taken.keeps_more (take_keeps hP hs _ _) fun _ _ hs => takePass_keeps v inl second len n _ hs

theorem takePassA_keeps {s : State} (hs : P s) (v : Vop) (inl second : Bool) (len : Nat) : (takePassA s x v inl second len).Keeps P := by
  unfold takePassA
  split
  · refine Taken.keeps_more (takeA_keeps hP hs v) fun _ _ hs => ?_
    refine Taken.keeps_more (take_keeps hP hs _ _) fun _ _ hs => ?_
    exact Taken.keeps_more (takeRows_keeps hP hs _ _ _ _) fun _ _ hs => Taken.keeps_got hs
  · exact Taken.keeps_more (takePass_keeps hP v inl second len _ _ hs) fun _ _ hs => Taken.keeps_got hs

theorem takeTiles_keeps (n : Nat) : ∀ (t : Nat) (acc : List (List (Calc × Bool))) (e : Eff) {s : State}, P s →
    (takeTiles x n t acc e s).Keeps P
  | 0, _, _, _, hs => Taken.keeps_got hs
  | t + 1, acc, e, s, hs => by
    unfold takeTiles
    refine Taken.keeps_more (takeRecs_keeps hP _ _ _ _ _ _ hs) fun _ _ hs => ?_
    exact Taken.keeps_more (take_keeps hP hs _ _) fun _ _ hs => takeTiles_keeps n t _ _ hs

theorem takeOnce_keeps {s : State} (hs : P s) (q : BitVec 4) (n : Nat) : (takeOnce s x q n).Keeps P := by
  unfold takeOnce
  split
  · exact take_keeps hP hs q n
  · exact Taken.keeps_got hs

theorem takeCols_keeps {s : State} (hs : P s) (f : Fmt) : (takeCols x f s).Keeps P := by
  unfold takeCols
  split
  · exact Taken.keeps_more (take_keeps hP hs _ _) fun _ _ hs => Taken.keeps_got hs
  · refine Taken.keeps_more (take_keeps hP hs _ _) fun _ _ hs => ?_
    exact Taken.keeps_more (take_keeps hP hs _ _) fun _ _ hs => Taken.keeps_got hs

theorem diagColumn_keeps {s : State} (hs : P s) : (diagColumn x s).Keeps P := by
  unfold diagColumn
  dsimp only
  split
  · exact Taken.keeps_more (take_keeps hP hs _ _) fun _ _ hs => Taken.keeps_got hs
  · refine Taken.keeps_more (take_keeps hP hs _ _) fun _ _ hs => ?_
    exact Taken.keeps_more (take_keeps hP hs _ _) fun _ _ hs => Taken.keeps_got hs

end

/-- Input is taken from words that have not been popped before: none stand unused behind it. -/
theorem take_settled {s u : State} {x : Ctx} {q : BitVec 4} {n : Nat} {bs : List MB} (h : take s x q n = .got bs u)
    (hs : (s.core x.c).Settled) : (u.core x.c).Settled := by
  unfold take State.pop at h
  split at h
  · cases h; exact hs
  · split at h
    · cases h
    · rename_i e
      cases h
      split at e
      · cases e; exact hs
      · dsimp only at e
        split at e
        · cases e
        · cases e
          rw [Ctx.c, State.updCore_core_same]
          refine hs.updRing ?_
          dsimp only
          rw [hs.own, hs.ring, List.drop_nil]; rfl

theorem keptByTake_works {k : Nat} {dB : State → State} {cB : Core → Core} (hc : ∀ c, cB { c with rings := [] } = cB c) (s : State) {x : Ctx}
    (hx : x.c = k) : KeptByTake x (Works k dB cB s) := by
  subst hx
  intro p q n bs u hp h
  exact hp.trans (.of_rings (take_rings h) (take_settled h) hc)

/-! ### Output that is pushed -/

theorem State.deliver_settled {s : State} {core : CoreId} {b : Backlog} (h : (s.core core.toNat).Settled) :
    ((s.deliver core b).core core.toNat).Settled := by
  unfold State.deliver
  dsimp only
  split
  · exact h
  · split
    · exact h
    · rw [State.append, State.updCore_core_same]; exact h.updRing (h.ring _)

theorem State.deliverSome_settled {s : State} {core : CoreId} {b : Backlog} (h : (s.core core.toNat).Settled) :
    ((s.deliverSome core b).core core.toNat).Settled := by
  unfold State.deliverSome
  dsimp only
  split
  · exact State.deliver_settled h
  · rw [State.updCore_core_same]; exact State.deliver_settled (b := { b with data := _ }) h

theorem State.push_settled {s : State} {x : Ctx} (q : BitVec 4) (bs : List MB) (h : (s.core x.c).Settled) :
    ((s.push x q bs).core x.c).Settled := by
  unfold State.push
  dsimp only
  split
  · exact h
  · split
    · rw [State.updCore_core_same]; exact h
    · split
      · exact State.deliver_settled h
      · exact State.deliverSome_settled h

/-- A push changes what is in flight, and its core's rings and backlog. -/
theorem works_push {dB : State → State} {cB : Core → Core} (hd : ∀ s, dB { s with net := {} } = dB s)
    (hc : ∀ c, cB { c with rings := [] } = cB c) (s : State) (x : Ctx) (q : BitVec 4) (bs : List MB) :
    Works x.c dB cB s (s.push x q bs) where
  die := by
    rw [← hd { s.push x q bs with cores := [] }, ← hd { s with cores := [] }]
    exact congrArg dB (s.push_frame x q bs).die
  cores := (s.push_frame x q bs).cores
  core := by
    rw [← hc { (s.push x q bs).core x.c with backlog := [] }, ← hc { s.core x.c with backlog := [] }]
    exact congrArg cB (s.push_frame x q bs).core
  settled := State.push_settled q bs

/-! ### Units one after the other -/

/-- One unit of a command is done: from `p` to `q`, with the bytes `o` that the command keeps. -/
def UnitDone (one : Ctx → State → Body) (x : Ctx) (p q : State) (o : List MB) : Prop :=
  (one x p = .done q ∧ o = x.once) ∨ one x p = .unit q { x with once := o }

/-- A unit that is done is followed by the next. -/
theorem UnitDone.units {one : Ctx → State → Body} {x : Ctx} {p q : State} {o : List MB} (h : UnitDone one x p q o) (k : Nat) :
    units one (k + 1) x p = Machine.units one k { x with unit := x.unit + 1, once := o } q := by
  rw [Machine.units]
  obtain ⟨h, rfl⟩ | h := h <;> rw [h]

/-- A command whose units are all done has done all its work. -/
theorem InUnits.stream {n : Nat} {x : Ctx} {unit : Ctx → State → State → List MB → Prop} {one : Ctx → State → Body} {s u : State}
    (h : InUnits n x unit s u) (h0 : x.unit = 0)
    (hu : ∀ i o p q o', unit { x with unit := i, once := o } p q o' → UnitDone one { x with unit := i, once := o } p q o') :
    stream n one x s = .done u := by
  obtain ⟨us, hs, rfl, h⟩ := h
  suffices ∀ k i, i + k = n → units one k { x with unit := i, once := (us i).2 } (us i).1 = .done (us n).1 by
    have first : ∀ m, x.unit = m → ({ x with unit := m, once := x.once } : Ctx) = x := by rintro _ rfl; rfl
    have e := this n 0 (Nat.zero_add n)
    rw [hs, first 0 h0] at e
    rw [Machine.stream, h0, Nat.sub_zero, e]
  intro k
  induction k with
  | zero => rintro i rfl; rfl
  | succ k ih =>
    intro i hi
    rw [(hu _ _ _ _ _ (h i (by omega))).units]
    exact ih (i + 1) (by omega)

/-- What every unit keeps, the command keeps. -/
theorem InUnits.keeps {n : Nat} {x : Ctx} {unit : Ctx → State → State → List MB → Prop} {s u : State} {P : State → Prop}
    (h : InUnits n x unit s u) (hs : P s) (hu : ∀ i o p q o', P p → unit { x with unit := i, once := o } p q o' → P q) : P u := by
  obtain ⟨us, h0, rfl, h⟩ := h
  suffices ∀ i, i ≤ n → P (us i).1 from this n le_rfl
  intro i
  induction i with
  | zero => intro _; rw [h0]; exact hs
  | succ i ih => intro hi; exact hu _ _ _ _ _ (ih (by omega)) (h i hi)

end Sys2Proof.Machine
end

section
/-! PROOF. From issue to end (R88, R95, R101): where a command that is ready comes to, once its work is known. -/

namespace Sys2Proof.Machine

open Sys2Proof

/-! ### Moves of a slot -/

/-- A change of the slot that issued, behind its issue. -/
theorem Moved.updSlot {s u : State} {site : Site} {new new' : Slot} {dB : State → State} {cB : Core → Core} (h : Moved s u site new dB cB)
    {f : Slot → Slot} (hf : f { new with last := (s.core site.core.toNat).clock + 1 } = { new' with last := (s.core site.core.toNat).clock + 1 }) :
    Moved s (u.updCore site.core.toNat fun c => c.updSlot site.slot.toNat f) site new' dB cB where
  die := h.die
  cores j hj := (State.updCore_core_other _ _ hj).trans (h.cores j hj)
  slot := by rw [State.slotAt_updCore, Core.updSlot_slot_same, ← State.slotAt, h.slot, hf]
  slots k hk := by rw [State.updCore_core_same, Core.updSlot_slot_other _ _ hk, h.slots k hk]
  words g va := by rw [State.updCore_core_same, Core.iword_updSlot, h.words g va]
  clock := by rw [State.updCore_core_same, Core.updSlot_clock, h.clock]
  core := by rw [State.updCore_core_same, Core.updSlot_issued, h.core]

/-- Work behind an issue, after which nothing waits to be pushed. -/
theorem Moved.works {s u t : State} {site : Site} {new : Slot} {dB : State → State} {cB : Core → Core} (h : Moved s u site new id id)
    (hw : Works site.core.toNat dB cB u t) (hc : Spares cB) (hu : (u.core site.core.toNat).backlog = [])
    (ht : (t.core site.core.toNat).backlog = []) : Moved s t site new dB cB := by
  have core : cB (t.core site.core.toNat) = cB (u.core site.core.toNat) := by
    have e := hw.core
    rw [← hu] at e
    conv at e => lhs; rw [show (u.core site.core.toNat).backlog = (t.core site.core.toNat).backlog from hu.trans ht.symm]
    exact e
  exact h.before hw.die hw.cores (hw.slots hc) (hw.icache hc) (hw.clock hc) (by rw [hc.issued, hc.issued, core])

/-- The two states read the same: each core, and the die beside the cores. -/
structure ReadsAs (t u : State) : Prop where
  die : { t with cores := [] } = { u with cores := [] }
  core : ∀ j, t.core j = u.core j

theorem Moved.of_readsAs {s u t : State} {site : Site} {new : Slot} {dB : State → State} {cB : Core → Core} (h : Moved s u site new dB cB)
    (e : ReadsAs t u) : Moved s t site new dB cB where
  die := by rw [e.die, h.die]
  cores j hj := by rw [e.core, h.cores j hj]
  slot := by rw [State.slotAt, e.core]; exact h.slot
  slots k hk := by rw [e.core, h.slots k hk]
  words g va := by rw [e.core, h.words g va]
  clock := by rw [e.core, h.clock]
  core := by rw [e.core, h.core]

/-! ### Work that is done (R95, R101, R157) -/

/-- Neither a STOP nor a generation change waits for the slot's next boundary, and a group that it executes has iterations left. -/
structure GoesOn (sl : Slot) : Prop where
  stop : sl.stop = false
  swap : sl.swap = none
  group : ∀ g, sl.group = some g → (g.done.all fun n => decide (n = g.total)) = false

theorem GoesOn.of_none {sl : Slot} (h1 : sl.stop = false) (h2 : sl.swap = none) (h3 : sl.group = none) : GoesOn sl :=
  ⟨h1, h2, fun g hg => by rw [h3] at hg; cases hg⟩

theorem State.released_goesOn {s : State} {site : Site} (hr : (s.core site.core.toNat).runs = []) (h : GoesOn (s.slotAt site)) :
    s.released site = s := by
  cases hg : (s.slotAt site).group with
  | none => exact s.released_none site hr hg h.stop h.swap
  | some g =>
    have hg' : ((s.core site.core.toNat).slot site.slot.toNat).group = some g := hg
    have hs : ((s.core site.core.toNat).slot site.slot.toNat).stop = false := h.stop
    simp only [State.released, hr, List.any_nil, Bool.false_eq_true, if_false, hg', h.group g hg, hs]

/-- The only command in execution of a core that had none. -/
theorem State.putRun_runs {s : State} (x : Ctx) (h : (s.core x.c).runs = []) : ((s.putRun x).core x.site.core.toNat).runs = [x.toRun] := by
  have h' : (s.core x.site.core.toNat).runs = [] := h
  rw [State.putRun, Ctx.c, State.updCore_core_same, Core.putRun, h']; rfl

section
variable {u : State} {x : Ctx}

theorem State.complete_none (u : State) (x : Ctx) : u.complete x none = (u.updCore x.c (·.dropRun x.id)).released x.site := rfl

/-- A command that leaves nothing to push and nothing unused completes, and all reads as its work has left it. -/
theorem State.ended_readsAs (hr : (u.core x.c).runs = []) (hs : (u.core x.c).Settled) (hg : GoesOn (u.slotAt x.site))
    (hb : (u.core x.c).backlog = []) : ReadsAs (u.ended x none) u := by
  have hd : (u.core x.c).dropRun x.id = u.core x.c := hs.dropRun hr x.id
  rw [u.ended_complete x none (by rw [hb]; intro b hb; cases hb), u.complete_none, State.released_goesOn]
  · refine ⟨rfl, fun j => ?_⟩
    rw [State.updCore_core, hd]
    split
    · rename_i e; rw [e]
    · rfl
  · rw [Ctx.c, State.updCore_core_same, ← Ctx.c, hd, hr]
  · rw [Ctx.c, State.slotAt_updCore, ← Ctx.c, hd]; exact hg

/-- A command that is none of RACC leaves no request to send. -/
theorem State.flushRacc_ended (hr : (u.core x.c).runs = []) (hg : GoesOn (u.slotAt x.site)) (hx : x.op ≠ 0x24) :
    (u.ended x none).flushRacc x.site.core = u.ended x none := by
  refine State.flushRacc_none _ _ ?_
  unfold State.ended
  split
  · intro r h
    have only := State.putRun_runs { x with ended := true, fault := none } hr
    obtain rfl := List.mem_singleton.1 (only ▸ h)
    exact hx
  · have hr' : ((u.updCore x.c (·.dropRun x.id)).core x.site.core.toNat).runs = [] := by
      rw [Ctx.c, State.updCore_core_same, Core.dropRun_runs, ← Ctx.c, hr]; rfl
    rw [u.complete_none, State.released_goesOn hr', hr']
    · intro r h; cases h
    · have e := congrArg Core.slots ((u.core x.c).dropRun_beside x.id)
      have e : ((u.core x.c).dropRun x.id).slots = (u.core x.c).slots := e
      rw [Ctx.c, State.slotAt_updCore, ← Ctx.c, Core.slot, e]; exact hg

end

/-! ### What a ready command comes to -/

section
variable {s u : State} {site : Site} {op : Byte} {w : CmdWord} {c : Cmd} {i : Instr} {n : Nat}

/-- The state in which a command starts its work. -/
def State.begun (s : State) (site : Site) (op : Byte) (w : CmdWord) (n : Nat) : State := s.mark (s.ctx site op w) n

theorem Ready.goesOn (h : Ready s site op w) : GoesOn (s.slotAt site) := .of_none h.stop h.swap (State.gate_group h.gate)

theorem GoesOn.behind {sl : Slot} (h : GoesOn sl) (n : Nat) : GoesOn (sl.behind n) := ⟨h.stop, h.swap, h.group⟩

theorem GoesOn.issuedAt {sl : Slot} (h : GoesOn sl) (n : Nat) : GoesOn { sl with last := n } := ⟨h.stop, h.swap, h.group⟩

theorem Ready.begun_slotAt (n : Nat) : (s.begun site op w n).slotAt site =
    { (if n = 0 then s.slotAt site else (s.slotAt site).behind n) with last := (s.core site.core.toNat).clock + 1 } :=
  (s.mark_moved (s.ctx site op w) n).slot

theorem Ready.begun_goesOn (h : Ready s site op w) (n : Nat) : GoesOn ((s.begun site op w n).slotAt site) := by
  rw [begun_slotAt]
  split
  · exact h.goesOn.issuedAt _
  · exact (h.goesOn.behind n).issuedAt _

theorem Ready.begun_runs (h : Ready s site op w) (n : Nat) : ((s.begun site op w n).core site.core.toNat).runs = [] :=
  (s.mark_runs (s.ctx site op w) n).trans h.quiet.runs

theorem Ready.begun_backlog (h : Ready s site op w) (n : Nat) : ((s.begun site op w n).core site.core.toNat).backlog = [] :=
  (s.mark_backlog (s.ctx site op w) n).trans h.quiet.backlog

theorem Ready.begun_settled (h : Ready s site op w) (n : Nat) : ((s.begun site op w n).core site.core.toNat).Settled := by
  have e := s.mark_rings (s.ctx site op w) n
  unfold Core.Settled
  rw [State.begun, show site.core.toNat = (s.ctx site op w).c from rfl, e]
  exact h.quiet.staged

variable (hi : exec i s = issue op site w s) (h : Ready s site op w) (hc : cmdOf op = some c) (hk : c.check (s.ctx site op w) s = none)
include hi h hc hk

/-- A command that passes its check does what its body does, from the state that its issue leaves. -/
theorem Ready.exec_after (hn : (if c.moves = true then 0 else c.words w) = n) :
    exec i s = .next (((s.begun site op w n).after (s.ctx site op w) (c.body (s.ctx site op w) (s.begun site op w n))).flushRacc site.core) := by
  have e : (if c.moves ∨ (s.ctx site op w).member.isSome then 0 else c.words (s.ctx site op w).w) = n := by
    rw [← hn]; simp [State.ctx]
  rw [hi, issue_start h hc hk, State.start, e]; rfl

variable (hn : (if c.moves = true then 0 else c.words w) = n) (hb : c.body (s.ctx site op w) (s.begun site op w n) = .done u)
include hn hb

/-- One whose work is all done ends. -/
theorem Ready.exec_done : exec i s = .next ((u.ended (s.ctx site op w) none).flushRacc site.core) := by
  rw [h.exec_after hi hc hk hn, hb]; rfl

/-- One that leaves nothing to push, nothing unused, and a slot that goes on, completes with what its work has left. -/
theorem Ready.completes (hop : op ≠ 0x24) (hr : (u.core site.core.toNat).runs = []) (hs : (u.core site.core.toNat).Settled)
    (hg : GoesOn (u.slotAt site)) (hl : (u.core site.core.toNat).backlog = []) {P : State → Prop} (hP : ∀ t, ReadsAs t u → P t) :
    Completes i s P :=
  have flushed : (u.ended (s.ctx site op w) none).flushRacc site.core = _ := State.flushRacc_ended (x := s.ctx site op w) hr hg hop
  ⟨u.ended (s.ctx site op w) none, by rw [h.exec_done hi hc hk hn hb, flushed], hP _ (State.ended_readsAs hr hs hg hl)⟩

end

section
variable {s u : State} {site : Site} {op : Byte} {w : CmdWord} {c : Cmd} {i : Instr} {dB : State → State} {cB : Core → Core}
  (hi : exec i s = issue op site w s) (h : Ready s site op w) (hc : cmdOf op = some c) (hk : c.check (s.ctx site op w) s = none)
  (hn : (if c.moves = true then 0 else c.words w) = 1) (hb : c.body (s.ctx site op w) (s.begun site op w 1) = .done u)
  (hop : op ≠ 0x24) (hw : Works site.core.toNat dB cB (s.begun site op w 1) u) (hB : Spares cB)
include hi h hc hk hn hb hop hw hB

/-- A command of one word whose work is all done ends. -/
theorem Ready.ends : Ends i s (s.ctx site op w) u dB cB := by
  have hr : (u.core site.core.toNat).runs = [] := (hw.runs hB).trans (h.begun_runs 1)
  have hg : GoesOn (u.slotAt site) := by rw [hw.slotAt hB]; exact h.begun_goesOn 1
  refine ⟨?_, fun hl => ?_⟩
  · rw [h.exec_done hi hc hk hn hb]
    exact congrArg Host.Outcome.next (State.flushRacc_ended (x := s.ctx site op w) hr hg hop)
  · have e := State.ended_readsAs (x := s.ctx site op w) hr (hw.settled (h.begun_settled 1)) hg hl
    have hm : Moved s u site ((s.slotAt site).behind 1) dB cB :=
      (s.mark_moved (s.ctx site op w) 1).works hw hB (h.begun_backlog 1) hl
    exact ⟨hm.of_readsAs e, e.core _, e.die⟩

/-- A command of one word that pushes nothing completes. -/
theorem Ready.completes_passed (hl : (u.core site.core.toNat).backlog = []) {P : State → Prop}
    (hP : ∀ t, Passed s t site 1 dB cB → ReadsAs t u → P t) : Completes i s P := by
  have hr : (u.core site.core.toNat).runs = [] := (hw.runs hB).trans (h.begun_runs 1)
  have hg : GoesOn (u.slotAt site) := by rw [hw.slotAt hB]; exact h.begun_goesOn 1
  refine h.completes hi hc hk hn hb hop hr (hw.settled (h.begun_settled 1)) hg hl fun t e => hP t ?_ e
  exact ((s.mark_moved (s.ctx site op w) 1).works hw hB (h.begun_backlog 1) hl).of_readsAs e

end

end Sys2Proof.Machine
end

section
/-! PROOF. The vector commands (R139 to R152): each unit takes its rows, computes, and pushes the result; unit by unit the command ends. -/

namespace Sys2Proof.Machine

open Sys2Proof

/-! ### A unit's result (R37, R95, R113) -/

theorem spares_vopCore : Spares vopCore := {}

theorem vopDie_net (s : State) : vopDie { s with net := {} } = vopDie s := rfl
theorem vopCore_rings (c : Core) : vopCore { c with rings := [] } = vopCore c := rfl

theorem vopCore_effect (c : Core) (e : Eff) : vopCore { c.effect e with backlog := [] } = vopCore { c with backlog := [] } := by
  unfold Core.effect Core.count
  split <;> rfl

/-- The effects of a conversion or a result on a core. -/
theorem works_effect (k : Nat) (dB : State → State) (s : State) (e : Eff) : Works k dB vopCore s (s.updCore k (·.effect e)) :=
  .updCore s (vopCore_effect _ e) (Core.effect_rings _ e)

/-- What a vector command's unit may change of the die and of its core, and what waits to be pushed. -/
abbrev VopWorks (x : Ctx) (s u : State) : Prop := Works x.c vopDie vopCore s u

theorem vopWorks_push (s : State) (x : Ctx) (q : BitVec 4) (bs : List MB) : VopWorks x s (s.push x q bs) :=
  works_push vopDie_net vopCore_rings s x q bs

section
variable {s t : State} {x : Ctx} {q : BitVec 4} {out : List MB × Eff} {e : Eff} {used : Nat}

/-- A unit that gives its result is done. -/
theorem Gives.finish (h : Gives x q out e used s t) : finish s x q out e used = .done t := by
  obtain ⟨room, rfl⟩ := h
  unfold Machine.finish pushThen
  rw [if_pos room]

theorem Gives.works (h : Gives x q out e used s t) : VopWorks x s t := by
  obtain ⟨-, rfl⟩ := h
  refine (vopWorks_push s x q out.1).trans ((works_effect x.c vopDie (s.push x q out.1) (e.add out.2)).trans ?_)
  exact .of_die rfl rfl

/-- A unit that pushes records ahead of its result. -/
theorem pushThen_room {f : State → Body} {bs : List MB} (room : s.room x q bs.length = true) : pushThen s x q bs f = f (s.push x q bs) :=
  if_pos room

end

/-! ### Taking a unit's input (R140, R143) -/

section
variable {α : Type} {s u : State} {x : Ctx}

theorem vopWorks_kept (s : State) (x : Ctx) : KeptByTake x (VopWorks x s) := keptByTake_works vopCore_rings s rfl

theorem vopWorks_take {q : BitVec 4} {n : Nat} {a : List MB} (h : take s x q n = .got a u) : VopWorks x s u :=
  take_keeps (vopWorks_kept s x) (.refl s) q n h
theorem vopWorks_takeOnce {q : BitVec 4} {n : Nat} {a : List MB} (h : takeOnce s x q n = .got a u) : VopWorks x s u :=
  takeOnce_keeps (vopWorks_kept s x) (.refl s) q n h
theorem vopWorks_takeRows {q : BitVec 4} {f : Fmt} {n len : Nat} {a : List (List MV)} (h : takeRows s x q f n len = .got a u) : VopWorks x s u :=
  takeRows_keeps (vopWorks_kept s x) (.refl s) q f n len h
theorem vopWorks_takeA {v : Vop} {a : List (List MV) × Eff} (h : takeA s x v = .got a u) : VopWorks x s u :=
  takeA_keeps (vopWorks_kept s x) (.refl s) v h
theorem vopWorks_takePassA {v : Vop} {inl second : Bool} {len : Nat} {a : List PassRow × Eff} (h : takePassA s x v inl second len = .got a u) :
    VopWorks x s u :=
  takePassA_keeps (vopWorks_kept s x) (.refl s) v inl second len h
theorem vopWorks_takeTiles {n t : Nat} {a : List (List (Calc × Bool)) × Eff} (h : takeTiles x n t [] {} s = .got a u) : VopWorks x s u :=
  takeTiles_keeps (vopWorks_kept s x) n t [] {} (.refl s) h

theorem Taken.body_got {t : Taken α} {a : α} (f : α → State → Body) (h : t = .got a u) : t.body f = f a u := by rw [h]; rfl

end

/-! ### From units to the command -/

/-- A unit of a vector command has come from `p` to `q`: it is done, within what a vector command may change. -/
structure VopUnitDone (one : Ctx → State → Body) (x : Ctx) (p q : State) (o : List MB) : Prop where
  done : UnitDone one x p q o
  works : VopWorks x p q

theorem VopUnitDone.of_done {one : Ctx → State → Body} {x : Ctx} {p q : State} {o : List MB} (ho : o = x.once) (h : one x p = .done q)
    (hw : VopWorks x p q) : VopUnitDone one x p q o := ⟨.inl ⟨h, ho⟩, hw⟩

/-- Units that are done so, one after the other. -/
theorem InUnits.vopUnits {n : Nat} {x : Ctx} {unit : Ctx → State → State → List MB → Prop} {one : Ctx → State → Body} {s u : State}
    (h : InUnits n x unit s u) (h0 : x.unit = 0)
    (hu : ∀ i o p q o', unit { x with unit := i, once := o } p q o' → VopUnitDone one { x with unit := i, once := o } p q o') :
    Machine.stream n one x s = .done u ∧ VopWorks x s u :=
  ⟨h.stream h0 fun _ _ _ _ _ hd => (hu _ _ _ _ _ hd).done, h.keeps (.refl s) fun _ _ _ _ _ hp hd => hp.trans (hu _ _ _ _ _ hd).works⟩

/-- A vector command each unit of which is done as `unit` says ends. -/
theorem VopEnds.of_units {i : Instr} {op : Byte} {n : Vop → Nat} {ok : State → Ctx → Bool} {needs : Vop → Ctx → State → Needs} {one : VopUnit}
    {unit : Vop → Nat → Ctx → State → State → List MB → Prop} {s u : State} {site : Site} {w : CmdWord}
    (hi : exec i s = issue op site w s) (hc : cmdOf op = some (cmdVop n ok needs one)) (hop : op ≠ 0x24)
    (hu : ∀ v r x p q o, x.w = w → unit v r x p q o → VopUnitDone (one v r) x p q o) : VopEnds i op n ok unit s u site w := by
  intro h hok units
  have hk : (cmdVop n ok needs one).check (s.ctx site op w) s = none := by simp only [cmdVop, hok, orBad, if_true]
  have work := units.vopUnits (one := fun x s => one ((vopOf w).part (n (vopOf w)) x.unit) (x.unit * n (vopOf w)) x s) rfl
    fun _ _ _ _ _ hd => ⟨(hu _ _ _ _ _ _ rfl hd).done, (hu _ _ _ _ _ _ rfl hd).works⟩
  exact h.ends hi hc hk rfl work.1 hop work.2 spares_vopCore

/-! ### Each unit (R141 to R152) -/

/-- Settles O9: each unit takes its rows, records and second rows in turn, and gives its result. -/
theorem elementwiseAndNormCommandsComplete : Obligations.ElementwiseAndNormCommandsComplete := by
  refine ⟨fun s u site w => ⟨?_, ?_, ?_, ?_⟩, fun s u site w => ⟨?_, ?_⟩⟩
  · refine .of_units rfl rfl (by decide) ?_
    rintro v r x p q o rfl ⟨a, p1, bb, p2, ha, hb, rfl, hg⟩
    have hb' : VopWorks x p1 p2 := by
      split at hb
      · exact vopWorks_takeOnce hb
      · exact vopWorks_take hb
    refine ⟨.inr ?_, (vopWorks_takeA ha).trans (hb'.trans hg.works)⟩
    rw [vewUnit, Taken.body_got _ ha, Taken.body_got _ hb]
    dsimp only
    rw [hg.finish]; rfl
  · refine .of_units rfl rfl (by decide) ?_
    rintro v r x p q o rfl ⟨ho, a, p1, ha, hg⟩
    refine .of_done ho ?_ ((vopWorks_takeA ha).trans hg.works)
    rw [vunUnit, Taken.body_got _ ha, hg.finish]
  · refine .of_units rfl rfl (by decide) ?_
    rintro v r x p q o rfl ⟨ho, a, p1, bs, p2, ha, hb, hg⟩
    refine .of_done ho ?_ ((vopWorks_takeA ha).trans ((vopWorks_takeRows hb).trans hg.works))
    rw [vredUnit, Taken.body_got _ ha, Taken.body_got _ hb, hg.finish]
  · refine .of_units rfl rfl (by decide) ?_
    rintro v r x p q o rfl ⟨ho, a, p1, ha, hg⟩
    refine .of_done ho ?_ ((vopWorks_takeA ha).trans hg.works)
    rw [vcvtUnit, Taken.body_got _ ha, hg.finish]
  · refine .of_units rfl rfl (by decide) ?_
    rintro v r x p q o rfl ⟨apply, reduce⟩
    by_cases h : v.sb 0 = true
    · obtain ⟨gb, p1, a, p2, hb, rfl, ha, hg⟩ := apply h
      refine ⟨.inr ?_, (vopWorks_takeOnce hb).trans ((vopWorks_takePassA ha).trans hg.works)⟩
      rw [vnormUnit, if_pos h, Taken.body_got _ hb, Taken.body_got _ ha, hg.finish]; rfl
    · obtain ⟨ho, a, p1, ha, room, hg⟩ := reduce (Bool.eq_false_iff.2 h)
      refine .of_done ho ?_ ((vopWorks_takePassA ha).trans ((vopWorks_push _ _ _ _).trans hg.works))
      rw [vnormUnit, if_neg h, Taken.body_got _ ha, pushThen_room room, hg.finish]
  · refine .of_units rfl rfl (by decide) ?_
    rintro v r x p q o rfl ⟨ho, apply, reduce⟩
    by_cases h : v.sb 0 = true
    · obtain ⟨a, p1, ha, hg⟩ := apply h
      refine .of_done ho ?_ ((vopWorks_takePassA ha).trans hg.works)
      rw [vnormbUnit, if_pos h, Taken.body_got _ ha, hg.finish]
    · obtain ⟨a, p1, ha, hg⟩ := reduce (Bool.eq_false_iff.2 h)
      refine .of_done ho ?_ ((vopWorks_takePassA ha).trans hg.works)
      rw [vnormbUnit, if_neg h, Taken.body_got _ ha, hg.finish]

/-- Settles O10. -/
theorem softmaxCommandsComplete : Obligations.SoftmaxCommandsComplete := by
  intro s u site w
  refine ⟨?_, ?_, ?_⟩
  · refine .of_units rfl rfl (by decide) ?_
    rintro v r x p q o rfl ⟨ho, apply, reduce⟩
    by_cases h : v.sb 0 = true
    · obtain ⟨a, p1, ha, hg⟩ := apply h
      refine .of_done ho ?_ ((vopWorks_takePassA ha).trans hg.works)
      rw [vsmaxUnit, if_pos h, Taken.body_got _ ha, hg.finish]
    · obtain ⟨a, p1, ha, room, hg⟩ := reduce (Bool.eq_false_iff.2 h)
      refine .of_done ho ?_ ((vopWorks_takePassA ha).trans ((vopWorks_push _ _ _ _).trans hg.works))
      rw [vsmaxUnit, if_neg h, Taken.body_got _ ha, pushThen_room room, hg.finish]
  · refine .of_units rfl rfl (by decide) ?_
    rintro v r x p q o rfl ⟨ho, apply, reduce⟩
    by_cases h : v.sb 0 = true
    · obtain ⟨a, p1, ha, hg⟩ := apply h
      refine .of_done ho ?_ ((vopWorks_takePassA ha).trans hg.works)
      rw [vsmaxbUnit, if_pos h, Taken.body_got _ ha, hg.finish]
    · obtain ⟨a, p1, ha, hg⟩ := reduce (Bool.eq_false_iff.2 h)
      refine .of_done ho ?_ ((vopWorks_takePassA ha).trans hg.works)
      rw [vsmaxbUnit, if_neg h, Taken.body_got _ ha, hg.finish]
  · refine .of_units rfl rfl (by decide) ?_
    rintro v r x p q o rfl ⟨ho, a, p1, b, p2, ha, hb, room, hg⟩
    refine .of_done ho ?_ ((vopWorks_take ha).trans ((vopWorks_take hb).trans ((vopWorks_push _ _ _ _).trans hg.works)))
    rw [vstatmUnit, popThen, Taken.body_got _ ha, popThen, Taken.body_got _ hb, pushThen_room room, hg.finish]

/-- Settles O11. -/
theorem rotateDropSplitCommandsComplete : Obligations.RotateDropSplitCommandsComplete := by
  intro s u site w
  refine ⟨?_, ?_, ?_, ?_, ?_⟩
  · refine .of_units rfl rfl (by decide) ?_
    rintro v r x p q o rfl ⟨ho, a, p1, ha, hg⟩
    refine .of_done ho ?_ ((vopWorks_takeA ha).trans hg.works)
    rw [vropeUnit, Taken.body_got _ ha, hg.finish]
  · refine .of_units rfl rfl (by decide) ?_
    rintro v r x p q o rfl ⟨ho, a, p1, ha, hg⟩
    refine .of_done ho ?_ ((vopWorks_takeA ha).trans hg.works)
    rw [vdropUnit, Taken.body_got _ ha, hg.finish]
  · refine .of_units rfl rfl (by decide) ?_
    rintro v r x p q o rfl ⟨ho, a, p1, ha, room, hg⟩
    refine .of_done ho ?_ ((vopWorks_takeA ha).trans ((vopWorks_push _ _ _ _).trans hg.works))
    rw [vsplitUnit, Taken.body_got _ ha, pushThen_room room, hg.finish]
  · refine .of_units rfl rfl (by decide) ?_
    rintro v r x p q o rfl ⟨ho, ts, p1, ht, hg⟩
    refine .of_done ho ?_ ((vopWorks_takeTiles ht).trans hg.works)
    rw [vslrecUnit, Taken.body_got _ ht, hg.finish]
  · refine .of_units rfl rfl (by decide) ?_
    rintro v r x p q o rfl ⟨ho, a, p1, b, p2, ha, hb, hg⟩
    refine .of_done ho ?_ ((vopWorks_take ha).trans ((vopWorks_take hb).trans hg.works))
    rw [vbxaddUnit, popThen, Taken.body_got _ ha, popThen, Taken.body_got _ hb, hg.finish]

end Sys2Proof.Machine
end

section
/-! PROOF. The matrix commands (R124 to R130): products into tiles, diagonals, bedstones and tile records, unit by unit. -/

namespace Sys2Proof.Machine

open Sys2Proof

/-! ### What a product command changes of its core (R67, R72) -/

/-- A core but its tiles, with the sources and counts that products set. -/
def Core.besideProducts (c : Core) : Core := { c with tiles := [], pseen := false, nfseen := false, counts := [] }

theorem Core.besideProducts_count (c : Core) (off n : Nat) : (c.count off n).besideProducts = c.besideProducts := by
  unfold Core.count; split <;> rfl

/-- Setting one tile after the other, with the sources, changes nothing beside them. -/
theorem Core.besideProducts_foldl {α : Type} {f : Core → α → Core} (hf : ∀ c a, (f c a).besideProducts = c.besideProducts) (l : List α) (c : Core) :
    (l.foldl f c).besideProducts = c.besideProducts :=
  foldl_keeps (P := fun d => d.besideProducts = c.besideProducts) (fun d a hd => (hf d a).trans hd) l rfl

theorem Core.besideProducts_runTiles (c : Core) (acc int : Bool) (opes : List Nat) (pair : Nat) (tile : Bool)
    (prods : Bed → List (List (FVal × Bool))) : (c.runTiles acc int opes pair tile prods).besideProducts = c.besideProducts := by
  unfold Core.runTiles
  refine Core.besideProducts_foldl ?_ _ c
  intro _ _; rfl

theorem Core.besideProducts_oprod (x : Ctx) (cols : List (List MV)) (c : Core) : (c.oprod x cols).besideProducts = c.besideProducts :=
  (Core.besideProducts_count _ _ _).trans (c.besideProducts_runTiles _ _ _ _ _ _)

theorem Core.besideProducts_opslice (x : Ctx) (cols : List (List MV)) (c : Core) : (c.opslice x cols).besideProducts = c.besideProducts :=
  (Core.besideProducts_count _ _ _).trans (c.besideProducts_runTiles _ _ _ _ _ _)

theorem Core.besideProducts_diagMac (x : Ctx) (cols : List (List MV)) (c : Core) : (c.diagMac x cols).besideProducts = c.besideProducts := by
  unfold Core.diagMac
  refine Core.besideProducts_foldl ?_ _ c
  intro _ _; rfl

/-- What a product command blanks of its core: what it takes, its tiles, and what they set. -/
def productCore (c : Core) : Core := { c with rings := [], tiles := [], pseen := false, nfseen := false, counts := [] }

theorem spares_productCore : Spares productCore := {}

theorem works_products {k : Nat} (s : State) {f : Core → Core} (hf : (f (s.core k)).besideProducts = (s.core k).besideProducts) :
    Works k id productCore s (s.updCore k f) := by
  have core := congrArg (fun c : Core => productCore { c with backlog := [] }) hf
  have rings := congrArg Core.rings hf
  exact .updCore s core rings

/-! ### A stream of columns (R60, R65) -/

theorem works_takeCols {x : Ctx} {fmt : Fmt} {s u : State} {r : List MB × List (List MV)} (h : takeCols x fmt s = .got r u) :
    Works x.c id productCore s u :=
  takeCols_keeps (keptByTake_works (fun _ => rfl) s rfl) (.refl s) fmt h

section
variable {n : Nat} {fmt : Fmt} {f : Ctx → List (List MV) → Core → Core} {x : Ctx} {s u : State}

/-- A product command that has run its products has done all its work. -/
theorem ProductRuns.done (h : ProductRuns n fmt f x s u) (h0 : x.unit = 0) : productUnits n fmt f x s = .done u := by
  unfold productUnits
  split
  next hn => rw [← h.1 hn]
  next hn =>
    refine (h.2 hn).stream h0 ?_
    rintro i o p q o' ⟨r, p1, taken, rfl, rfl⟩
    exact .inr (Taken.body_got _ taken)

/-- It has changed its core's tiles, with what they set, and has taken its columns. -/
theorem ProductRuns.works (h : ProductRuns n fmt f x s u) (hf : ∀ x cols c, (f x cols c).besideProducts = c.besideProducts) :
    Works x.c id productCore s u := by
  by_cases hn : n = 0
  · rw [h.1 hn]
    split
    · exact .refl s
    · exact works_products s (hf _ _ _)
  · refine (h.2 hn).keeps (.refl s) ?_
    rintro i o p q o' hp ⟨r, p1, taken, rfl, rfl⟩
    exact hp.trans ((works_takeCols taken).trans (works_products p1 (hf _ _ _)))

end

theorem orBad_true {ok : Bool} (h : ok = true) : orBad ok = none := if_pos h

theorem bodyOprod_done {x : Ctx} {s u : State} (h : ProductRuns (oprodSlice x.w).units (oprodSlice x.w).fa Core.oprod x s u) (h0 : x.unit = 0) :
    bodyOprod x s = .done (if x.w.last && !x.fused then u.layerEvent (halfOf x.site.core) (x.w.f 95 84) else u) := by
  unfold bodyOprod
  dsimp only
  rw [h.done h0]

/-! ### Diagonals and records that are pushed (R78, R85, R130) -/

theorem vopWorks_diagColumn {x : Ctx} {s u : State} {r : List MB × List MV} (h : diagColumn x s = .got r u) : VopWorks x s u :=
  diagColumn_keeps (vopWorks_kept s x) (.refl s) h

/-- A result that is pushed, with its effects. -/
theorem vopWorks_pushed (s : State) (x : Ctx) (q : BitVec 4) (out : List MB × Eff) :
    VopWorks x s ((s.push x q out.1).updCore x.c (·.effect out.2)) :=
  (vopWorks_push s x q out.1).trans (works_effect x.c vopDie _ out.2)

/-- A record is pushed whole. -/
theorem treadUnit_done {x : Ctx} {p q : State} (room : p.room x 14 (treadRec x (p.core x.c) (nth 0 x.opes x.unit)).1.length = true)
    (hq : q = (p.push x 14 (treadRec x (p.core x.c) (nth 0 x.opes x.unit)).1).updCore x.c
      (·.effect (treadRec x (p.core x.c) (nth 0 x.opes x.unit)).2)) : VopUnitDone treadUnit x p q x.once := by
  subst hq
  refine .of_done rfl ?_ (vopWorks_pushed p x 14 _)
  rw [treadUnit, pushThen_room room]

/-- A step of OPDIAG takes its column and pushes its diagonals. -/
theorem diagUnit_done {x : Ctx} {p p1 q : State} {r : List MB × List MV} (taken : diagColumn x p = .got r p1) {out : List MB × Eff}
    (hout : out = diagOut x (x.opes.map (p1.core x.c).bed) r.2 (nth 0 (opdiagSlice x.w).lines x.unit))
    (room : p1.room x x.w.qo out.1.length = true) (hq : q = (p1.push x x.w.qo out.1).updCore x.c (·.effect out.2)) :
    VopUnitDone diagUnit x p q r.1 := by
  subst hout hq
  refine ⟨.inr ?_, (vopWorks_diagColumn taken).trans (vopWorks_pushed p1 x x.w.qo _)⟩
  rw [diagUnit, Taken.body_got _ taken, pushThen_room room]

/-- Settles O4: a product command's units are those of `ProductRuns`, and OPDIAG's other operations push a diagonal each. -/
theorem productCommandsComplete : Obligations.ProductCommandsComplete := by
  intro s u site w
  refine ⟨fun h ok runs => ⟨fun last => ?_, fun last => ?_⟩, fun h slice ok runs => ?_, fun h ok => ⟨fun mac runs => ?_, fun other units => ?_⟩⟩
  · have work : cmdOprod.body (s.ctx site 0x10 w) (s.begun site 0x10 w 1) = _ := bodyOprod_done runs rfl
    have unraised : ((s.ctx site 0x10 w).w.last && !(s.ctx site 0x10 w).fused) = false := congrArg (· && true) last
    rw [unraised, if_neg Bool.false_ne_true] at work
    exact h.ends rfl rfl (orBad_true ok) rfl work (by decide) (runs.works Core.besideProducts_oprod) spares_productCore
  · have work : cmdOprod.body (s.ctx site 0x10 w) (s.begun site 0x10 w 1) = _ := bodyOprod_done runs rfl
    have raised : ((s.ctx site 0x10 w).w.last && !(s.ctx site 0x10 w).fused) = true := congrArg (· && true) last
    rw [raised, if_pos rfl] at work
    exact h.exec_done rfl rfl (orBad_true ok) rfl work
  · refine h.ends (c := cmdOpslice) rfl rfl ?_ rfl (runs.done rfl) (by decide) (runs.works Core.besideProducts_opslice) spares_productCore
    exact (if_pos slice).trans (orBad_true ok)
  · exact h.ends (c := cmdOpdiag) rfl rfl (orBad_true ok) rfl ((if_pos mac).trans (runs.done rfl)) (by decide)
      (runs.works Core.besideProducts_diagMac) spares_productCore
  · have steps := units.vopUnits (one := diagUnit) rfl ?_
    · exact h.ends (c := cmdOpdiag) rfl rfl (orBad_true ok) rfl ((if_neg other).trans steps.1) (by decide) steps.2 spares_vopCore
    · rintro i o p q o' ⟨r, p1, taken, rfl, room, hq⟩
      exact diagUnit_done taken rfl room hq

/-! ### Bedstones (R128, R129) -/

/-- A BEDLOAD fills the bedstones of its OPEs, and changes nothing beside them. -/
theorem Core.bedload_besides (f : BedF) (opes : List Nat) (bs : List MB) (c : Core) :
    { c.bedload f opes bs with beds := [] } = { c with beds := [] } := by
  unfold Core.bedload
  refine foldl_keeps (P := fun d : Core => { d with beds := [] } = { c with beds := [] }) ?_ _ rfl
  intro d i hd; exact hd

theorem Core.bedload_bed_other (f : BedF) (opes : List Nat) (bs : List MB) (c : Core) {e : Nat} (he : e ∉ opes) :
    (c.bedload f opes bs).bed e = c.bed e := by
  unfold Core.bedload
  suffices ∀ l : List Nat, (∀ i ∈ l, i < opes.length) → ∀ d : Core, (l.foldl _ d).bed e = d.bed e from
    this _ (fun i hi => List.mem_range.1 hi) c
  intro l
  induction l with
  | nil => intro _ _; rfl
  | cons i l ih =>
    intro hl d
    rw [List.foldl_cons, ih fun j hj => hl j (List.mem_cons_of_mem _ hj)]
    refine SMap.get_set_other _ _ _ ?_
    rintro rfl
    refine he ?_
    have hi := hl i List.mem_cons_self
    rw [nth, List.headD_eq_head?_getD, List.head?_drop, List.getElem?_eq_getElem hi]
    exact List.getElem_mem hi

def bedCore (c : Core) : Core := { c with rings := [], beds := [] }

theorem spares_bedCore : Spares bedCore := {}

theorem works_bedload (k : Nat) (s : State) (f : BedF) (opes : List Nat) (bs : List MB) :
    Works k id bedCore s (s.updCore k (·.bedload f opes bs)) := by
  have besides := (s.core k).bedload_besides f opes bs
  have core := congrArg (fun c : Core => bedCore { c with backlog := [] }) besides
  have rings := congrArg Core.rings besides
  exact .updCore s core rings

/-- Settles O5. -/
theorem bedloadAndTreadComplete : Obligations.BedloadAndTreadComplete := by
  intro s u site w bs
  refine ⟨fun h ok taken => ?_, fun h ok units => ?_⟩
  · have took : Works site.core.toNat id bedCore (s.begun site 0x13 w 1) u := .of_rings (take_rings taken) (take_settled taken) fun _ => rfl
    refine ⟨?_, fun e he => ?_⟩
    · exact h.ends (c := cmdBedload) rfl rfl (orBad_true ok) rfl (Taken.body_got _ taken) (by decide)
        (took.trans (works_bedload _ u _ _ bs)) spares_bedCore
    · rw [State.updCore_core_same, Core.bedload_bed_other _ _ _ _ he]
      have taken_beds := congrArg Core.beds (take_rings taken).core
      have begun_beds := congrArg Core.beds (s.mark_moved (s.ctx site 0x13 w) 1).core
      exact congrArg (SMap.get {} · e) (taken_beds.trans begun_beds)
  · have records := units.vopUnits (one := treadUnit) rfl ?_
    · exact h.ends (c := cmdTread) rfl rfl (orBad_true ok) rfl records.1 (by decide) records.2 spares_vopCore
    · rintro i o p q o' ⟨rfl, room, hq⟩
      exact treadUnit_done room hq

end Sys2Proof.Machine
end

section
/-! PROOF. RACC (R137, R138): it hands its packets to the fabric as its data come, and stands until they have been acknowledged. -/

namespace Sys2Proof.Machine

open Sys2Proof

/-- A change of the issuing core that leaves its slots, its instruction cache and the picker's count. -/
theorem Moved.updCore {s u : State} {site : Site} {new : Slot} {dB : State → State} {cB cB' : Core → Core} (h : Moved s u site new dB cB)
    {f : Core → Core} (hs : ∀ c, (f c).slots = c.slots) (hi : ∀ c, (f c).icache = c.icache) (hk : ∀ c, (f c).clock = c.clock)
    (hf : ∀ c, cB' (f c).issued = cB' c.issued) (hB : ∀ {c d}, cB c = cB d → cB' c = cB' d) :
    Moved s (u.updCore site.core.toNat f) site new dB cB' where
  die := h.die
  cores j hj := (State.updCore_core_other _ _ hj).trans (h.cores j hj)
  slot := by rw [State.slotAt_updCore, Core.slot, hs]; exact h.slot
  slots k hk := by rw [State.updCore_core_same, Core.slot, hs]; exact h.slots k hk
  words g va := by rw [State.updCore_core_same, Core.iword, Core.iline, hi]; exact h.words g va
  clock := by rw [State.updCore_core_same, hk]; exact h.clock
  core := by rw [State.updCore_core_same, hf]; exact hB h.core

/-- What a RACC may change of the die while it hands its packets out. -/
def raccDie (s : State) : State := { s with fab := {} }

/-- What a RACC has done, packet by packet: it has changed the fabric's requests, its input rings and what its data set, and has pushed
nothing. -/
structure Handed (k : Nat) (s u : State) : Prop where
  works : Works k raccDie vopCore s u
  backlog : (u.core k).backlog = (s.core k).backlog

/-- One packet: its data are taken, and it is handed to the fabric with their effects. -/
theorem Handed.packet {x : Ctx} {s p p1 : State} {q : BitVec 4} {n : Nat} {bs : List MB} (h : Handed x.c s p) (taken : take p x q n = .got bs p1)
    (pkt : Pkt) (who : Issuer) (e : Eff) : Handed x.c s ((p1.want pkt who).updCore x.c (·.effect e)) where
  works :=
    have took : Works x.c raccDie vopCore p p1 := keptByTake_works vopCore_rings p rfl (.refl p) taken
    have wanted : Works x.c raccDie vopCore p1 (p1.want pkt who) := .of_die rfl rfl
    h.works.trans (took.trans (wanted.trans (works_effect _ _ _ e)))
  backlog := by
    rw [State.updCore_core_same, Core.effect_backlog, ← h.backlog, ← (take_rings taken).backlog]; rfl

/-- A RACC whose packets have all been handed out stands in execution, and what it wants sent goes on its way. -/
theorem State.flushRacc_racc {s : State} (x : Ctx) (hx : x.op = 0x24) (h : (s.core x.c).runs = []) :
    (s.putRun x).flushRacc x.site.core = (s.putRun x).flush := by
  have stands : ((s.putRun x).core x.site.core.toNat).runs.any (fun r => decide (r.op = 0x24)) = true := by
    rw [State.putRun_runs x h, List.any_cons, decide_eq_true hx]; rfl
  rw [State.flushRacc, if_pos stands]

/-- A RACC whose packets have all been handed out waits for as many acknowledgements. -/
theorem bodyRacc_held {x : Ctx} {s u : State} (h0 : x.unit = 0)
    (h : stream (raccF x).pieces.length raccUnit { x with acks := (raccF x).pieces.length } s = .done u) :
    bodyRacc x s = .held u { x with acks := (raccF x).pieces.length } := by
  unfold bodyRacc
  dsimp only
  rw [if_pos h0, h]

/-- Settles O8: the units hand the packets out (`Handed`), and the command then stands as the only one in execution. -/
theorem raccSendsItsPackets : Obligations.RaccSendsItsPackets := by
  intro s u site w k x f n y h ok units
  have handed : Handed k (s.begun site 0x24 w 1) u := by
    refine units.keeps ⟨.refl _, rfl⟩ ?_
    rintro i o p q o' hp ⟨rfl, bs, p1, taken, rfl⟩
    exact hp.packet (x := { y with unit := i, once := o' }) taken _ _ _
  have sent : stream n raccUnit y (s.begun site 0x24 w 1) = .done u := by
    refine units.stream rfl ?_
    rintro i o p q o' ⟨rfl, bs, p1, taken, rfl⟩
    refine .inl ⟨?_, rfl⟩
    rw [raccUnit, popThen]
    exact Taken.body_got _ taken
  have work : cmdRacc.body x (s.begun site 0x24 w 1) = .held u y := bodyRacc_held rfl sent
  have idle : (u.core k).runs = [] := (handed.works.runs spares_vopCore).trans (h.begun_runs 1)
  refine ⟨?_, ?_⟩
  · rw [h.exec_after (i := .racc site w) (c := cmdRacc) (n := 1) rfl rfl (orBad_true ok) rfl, work]
    exact congrArg Host.Outcome.next (State.flushRacc_racc { y with ended := true } rfl idle)
  · have moved : Moved s u site ((s.slotAt site).behind 1) raccDie vopCore :=
      (s.mark_moved x 1).works handed.works spares_vopCore (h.begun_backlog 1) (handed.backlog.trans (h.begun_backlog 1))
    exact moved.updCore (fun _ => rfl) (fun _ => rfl) (fun _ => rfl) (fun _ => rfl)
      fun e => congrArg (fun c : Core => { c with runs := [] }) e

end Sys2Proof.Machine
end

section
/-! PROOF. FETCH and STORE of cluster shared memory by a core whose port of the crossbar the auditor has fenced (R135, R194): they are turned
back, and end FAILED with status FENCED. -/

namespace Sys2Proof.Machine

open Sys2Proof

/-- FETCH of the first granule of shared memory to Q0. -/
def fetchShared : CmdWord := { params := 0x100000000000001 }

/-- STORE of a granule of Q15 to the start of shared memory. -/
def storeShared : CmdWord := { qa := 15, params := 0x100000000000001 }

/-- Slot 0 of core 0 is RUNNING with this command next, Q0 has a ring, and the core's port of its cluster's crossbar (KIND 2) is fenced. -/
def portFencedAt (op : Byte) (w : CmdWord) : State :=
  { backed := [(0, 1)]
    cores := [(0, { slots := [(0, { st := 1 })], rings := [(0, { size := 1 })],
                    icache := [(0, [{ va := 0, gen := 0, words := [w.encode op] }])] })]
    halves := [(0, { meshFenced := [0x20000000] })] }

theorem portFencedAt_quiet {op : Byte} {w : CmdWord}
    (h : ∀ n, n < 4 → ((portFencedAt op w).core 0).nextWord n = none ∨ ((portFencedAt op w).core 0).nextWord n = some (op, w))
    (hop : (cmdOf op).isSome = true) : Quiet (portFencedAt op w) 0 where
  runs := rfl
  backlog := rfl
  staged := fun e he => by obtain rfl := List.mem_singleton.1 he; rfl
  known n hn y hy := by
    obtain e | e := h n hn
    · exact absurd (hy.symm.trans e) (Option.some_ne_none y)
    · obtain rfl := Option.some.inj (hy.symm.trans e); exact hop

theorem fetchShared_ready : Ready (portFencedAt 0x20 fetchShared) firstSite 0x20 fetchShared where
  quiet := portFencedAt_quiet (by decide) rfl
  gate := by decide
  picked := by decide
  stop := rfl
  swap := rfl

theorem storeShared_ready : Ready (portFencedAt 0x21 storeShared) firstSite 0x21 storeShared where
  quiet := portFencedAt_quiet (by decide) rfl
  gate := by decide
  picked := by decide
  stop := rfl
  swap := rfl

theorem fetchShared_fails :
    Completes (.fetch firstSite fetchShared) (portFencedAt 0x20 fetchShared) fun t => (t.slotAt firstSite).st = 3 :=
  ⟨_, rfl, by decide⟩

theorem storeShared_fails :
    Completes (.store firstSite storeShared) (portFencedAt 0x21 storeShared) fun t => (t.slotAt firstSite).st = 3 :=
  ⟨_, rfl, by decide⟩

/-- A read, or a write, that stays below the boundary of the CSU area. -/
theorem rows_below {r : List (List MB) × Bool × Cluster} (h : r.2.1 = false) : r = (r.1, false, r.2.2) := by rw [← h]
theorem line_below {r : Bool × Cluster} (h : r.1 = false) : r = (false, r.2) := by rw [← h]

/-- Refutes O6: of a FETCH of shared memory it says that it pushes its rows where every device sector that it asks for is served, and it asks
for none. That leaves out the core's own way there: in `portFencedAt` its port of the crossbar is fenced, and the FETCH fails. -/
theorem not_fetchCompletes : ¬ Obligations.FetchCompletes := by
  intro h
  obtain ⟨-, -, -, reads⟩ := h (portFencedAt 0x20 fetchShared) firstSite fetchShared fetchShared_ready (by decide)
  obtain ⟨-, shared⟩ := reads (by decide) (by decide) (by decide) fun p hp => absurd (show p ∈ [] from hp) List.not_mem_nil
  have pushes := shared (by decide) _ _ (rows_below (by decide))
  obtain ⟨t, ht, failed⟩ := fetchShared_fails
  obtain rfl := Host.Outcome.next.inj (ht.symm.trans pushes)
  exact absurd failed (by decide)

/-- The STORE as it issues, and the one stretch of its span. -/
abbrev storeIssued : State := (portFencedAt 0x21 storeShared).begun firstSite 0x21 storeShared 1
abbrev storeStretch : Nat × Nat := nth (0, 0) (xferOf ((portFencedAt 0x21 storeShared).ctx firstSite 0x21 storeShared)).lines 0

/-- The state that the statement takes for its outcome: the stretch is written. -/
abbrev storeWritten : State :=
  storeIssued.updCluster (clusterOf firstSite.core) fun _ =>
    ((storeIssued.cluster (clusterOf firstSite.core)).writeLine storeStretch.1 storeStretch.2 (wordsOf (zeroBytes storeStretch.2))).2

/-- Refutes O7: of a STORE to shared memory it says that it completes where its data are there and its span stays below the CSU area. In
`portFencedAt` they are, and the STORE fails, for the core's port of the crossbar is fenced. -/
theorem not_storeSendRecvComplete : ¬ Obligations.StoreSendRecvComplete := by
  intro h
  obtain ⟨stores, -⟩ := h (portFencedAt 0x21 storeShared) storeWritten firstSite storeShared []
  have written := stores storeShared_ready (by decide) ?_
  · obtain ⟨t, ht, failed⟩ := storeShared_fails
    obtain rfl := Host.Outcome.next.inj (ht.symm.trans written)
    exact absurd failed (by decide)
  · refine ⟨fun i => (if i = 0 then storeIssued else storeWritten, []), rfl, rfl, ?_⟩
    intro i hi
    have one : (xferOf ((portFencedAt 0x21 storeShared).ctx firstSite 0x21 storeShared)).lines.length = 1 := by decide
    obtain rfl : i = 0 := by omega
    exact ⟨rfl, _, _, rfl, fun _ => ⟨_, line_below (by decide), rfl⟩, fun device => absurd device (by decide)⟩

end Sys2Proof.Machine
end

section
/-! PROOF. Commands that complete as they issue, or fail their check (R88, R120), and those of counters and comparators (R153). -/

namespace Sys2Proof.Machine

open Sys2Proof

/-! ### A command that completes as it issues (R88, R120) -/

theorem orBad_false {ok : Bool} (h : ok = false) : orBad ok = some stBadParam := if_neg (by rw [h]; exact Bool.false_ne_true)

section
variable {s : State} {site : Site} {op : Byte} {w : CmdWord} {i : Instr}

/-- An issue changes of its core the slots, the cached lines' order, and what the picker counts. -/
theorem State.begun_issued (s : State) (site : Site) (op : Byte) (w : CmdWord) (n : Nat) :
    ((s.begun site op w n).core site.core.toNat).issued = (s.core site.core.toNat).issued :=
  (s.mark_moved (s.ctx site op w) n).core

/-- What of a core is none of these stands as it stood. -/
theorem State.begun_field {α : Type} (f : Core → α) (hf : ∀ c : Core, f c.issued = f c) (s : State) (site : Site) (op : Byte) (w : CmdWord)
    (n : Nat) : f ((s.begun site op w n).core site.core.toNat) = f (s.core site.core.toNat) := by
  rw [← hf, s.begun_issued, hf]

theorem State.begun_cnt (s : State) (site : Site) (op : Byte) (w : CmdWord) (n k : Nat) :
    ((s.begun site op w n).core site.core.toNat).cnt k = (s.core site.core.toNat).cnt k :=
  State.begun_field (·.cnt k) (fun _ => rfl) s site op w n

/-- A scalar command without LAST whose fields pass, passes its check (R120, R125). -/
theorem lastOk_passes {x : Ctx} {ok : Bool} (last : x.w.last = false) (h : ok = true) : orBad (lastOk x && ok) = none := by
  refine orBad_true ?_
  rw [h, Bool.and_true, lastOk, last, Bool.not_false, Bool.or_true]

/-- A command that changes its core, beside slots, rings and backlog, completes. -/
theorem Ready.completes_updCore {c : Cmd} {g : Core → Core} {cB : Core → Core} (hi : exec i s = issue op site w s) (h : Ready s site op w)
    (hc : cmdOf op = some c) (hk : c.check (s.ctx site op w) s = none) (hn : (if c.moves = true then 0 else c.words w) = 1)
    (hb : c.body (s.ctx site op w) (s.begun site op w 1) = .done ((s.begun site op w 1).updCore site.core.toNat g)) (hop : op ≠ 0x24)
    (hB : Spares cB) (hg : ∀ c, cB (g c) = cB c) (hr : ∀ c, (g c).rings = c.rings) (hl : ∀ c, (g c).backlog = c.backlog) {P : State → Prop}
    (hP : ∀ t, Passed s t site 1 id cB → t.core site.core.toNat = g ((s.begun site op w 1).core site.core.toNat) → P t) : Completes i s P := by
  have empty := h.begun_backlog 1
  have works : Works site.core.toNat id cB (s.begun site op w 1) ((s.begun site op w 1).updCore site.core.toNat g) := by
    refine .updCore _ ?_ (hr _)
    have same : ∀ d : Core, d.backlog = [] → { d with backlog := [] } = d := fun d hd => by rw [← hd]
    rw [same _ ((hl _).trans empty), same _ empty, hg]
  refine h.completes_passed hi hc hk hn hb hop works hB ?_ fun t moved reads => hP t moved ?_
  · rw [State.updCore_core_same, hl, empty]
  · rw [reads.core, State.updCore_core_same]

/-- A command whose check fails leaves its slot FAULTED, its pointer at it, and the counters as they were. -/
theorem Ready.fails {c : Cmd} {st : Status} (hi : exec i s = issue op site w s) (h : Ready s site op w) (hc : cmdOf op = some c)
    (hk : c.check (s.ctx site op w) s = some st) : Completes i s fun t => SlotFailed s t site op.toNat st ∧
      (t.slotAt site).ptr = (s.slotAt site).ptr ∧ ∀ n, (t.core site.core.toNat).cnt n = (s.core site.core.toNat).cnt n := by
  obtain ⟨-, sound, -, -⟩ := State.gate_go h.gate
  have open_ : ((s.begun site op w 0).core site.core.toNat).fenced = false :=
    (State.begun_field Core.fenced (fun _ => rfl) s site op w 0).trans sound
  have slot : (s.begun site op w 0).slotAt site = { s.slotAt site with last := (s.core site.core.toNat).clock + 1 } := Ready.begun_slotAt 0
  refine ⟨_, ?_, (State.slotFailed_failSlot (s.begun site op w 0) site op { status := st } open_).of_before ?_ ?_ rfl, ?_, fun n => ?_⟩
  · rw [hi, issue_bad h hc hk, State.flushRacc_none]
    · rfl
    · intro r hr
      have idle := ((s.begun site op w 0).failSlot_runs site op { status := st }).trans (h.begun_runs 0)
      exact absurd (idle ▸ hr) List.not_mem_nil
  · rw [slot]
  · rw [slot]
  · rw [State.failSlot_ptr _ _ _ _ open_, slot]
  · have ctr := congrArg (fun c : Core => c.cnt n) ((s.begun site op w 0).failSlot_core site op { status := st })
    exact ctr.trans (s.begun_cnt site op w 0 n)

end

/-! ### Counters, comparators and sources (R153) -/

section
variable {s : State} {site : Site} {op : Byte} {w : CmdWord} {i : Instr}

/-- A command that writes counter `d` completes, and nothing but the counters has changed. -/
theorem Ready.completes_counter {c : Cmd} {d : Nat} {v : Core → W32} (hi : exec i s = issue op site w s) (h : Ready s site op w)
    (hc : cmdOf op = some c) (hk : c.check (s.ctx site op w) s = none) (hn : (if c.moves = true then 0 else c.words w) = 1)
    (hb : c.body (s.ctx site op w) (s.begun site op w 1) = .done ((s.begun site op w 1).updCore site.core.toNat fun c => c.setCnt d (v c)))
    (hop : op ≠ 0x24) (hv : v ((s.begun site op w 1).core site.core.toNat) = v (s.core site.core.toNat)) :
    Completes i s fun t => Passed s t site 1 id (fun c => { c with ctr := [] }) ∧
      ∀ n, (t.core site.core.toNat).cnt n = if n = d then v (s.core site.core.toNat) else (s.core site.core.toNat).cnt n := by
  refine h.completes_updCore hi hc hk hn hb hop {} (fun _ => rfl) (fun _ => rfl) (fun _ => rfl) fun t moved core =>
    ⟨moved, fun n => ?_⟩
  rw [core, hv, Core.cnt, Core.setCnt, SMap.get_set, ← s.begun_cnt site op w 1 n]; rfl

end

/-- Settles O1: each command writes its one field of the core as it issues, or fails its check. -/
theorem counterCommandsTakeEffect : Obligations.CounterCommandsTakeEffect := by
  intro s site w k c d counter
  refine ⟨fun last => ⟨fun h z1 z2 => ?_, fun h z1 z2 => ?_, fun h z1 z2 => ?_, fun h z1 z2 rel => ?_, fun h z => ?_⟩, ?_⟩
  · have reserved : (w.z 63 35 && w.z 127 96) = true := Bool.and_eq_true_iff.2 ⟨z1, z2⟩
    exact h.completes_counter (c := cmdCset) (d := d) (v := fun _ => w32 (w.f 95 64)) rfl rfl (lastOk_passes last reserved) rfl rfl
      (by decide) rfl
  · have reserved : (w.z 63 35 && w.z 127 96) = true := Bool.and_eq_true_iff.2 ⟨z1, z2⟩
    refine h.completes_counter (c := cmdCadd) (d := d) (v := fun c => c.cnt d + w32 (w.f 95 64)) rfl rfl (lastOk_passes last reserved) rfl rfl
      (by decide) ?_
    rw [State.begun_cnt]
  · have reserved : (w.z 35 35 && w.z 127 39) = true := Bool.and_eq_true_iff.2 ⟨z1, z2⟩
    refine h.completes_counter (c := cmdCaddc) (d := d) (v := fun c => c.cnt d + c.cnt (w.f 38 36)) rfl rfl
      (lastOk_passes last reserved) rfl rfl (by decide) ?_
    rw [State.begun_cnt, State.begun_cnt]
  · have reserved : (w.z 63 45 && w.z 127 96 && decide (w.f 44 42 ≤ 5)) = true := by rw [z1, z2, decide_eq_true rel]; rfl
    refine h.completes_updCore (c := cmdCmpset) rfl rfl (lastOk_passes last reserved) rfl rfl (by decide) {} (fun _ => rfl) (fun _ => rfl)
      (fun _ => rfl) fun t moved core => ⟨moved, fun n => ?_⟩
    rw [core, SMap.get_set, State.begun_field Core.cmps fun _ => rfl]; rfl
  · refine h.completes_updCore (c := cmdClrseen) rfl rfl (lastOk_passes last z) rfl rfl (by decide) {} (fun _ => rfl) (fun _ => rfl)
      (fun _ => rfl) fun t moved core => ⟨moved, ?_, ?_⟩
    · rw [core, ← State.begun_field Core.pseen (fun _ => rfl) s site 0x0D w 1]; rfl
    · rw [core, ← State.begun_field Core.nfseen (fun _ => rfl) s site 0x0D w 1]; rfl
  · intro x hx h bad
    simp only [List.mem_cons, List.not_mem_nil, or_false] at hx
    rcases hx with rfl | rfl | rfl | rfl | rfl
    · exact h.fails (c := cmdCset) rfl rfl (orBad_false bad)
    · exact h.fails (c := cmdCadd) rfl rfl (orBad_false bad)
    · exact h.fails (c := cmdCaddc) rfl rfl (orBad_false bad)
    · exact h.fails (c := cmdCmpset) rfl rfl (orBad_false bad)
    · exact h.fails (c := cmdClrseen) rfl rfl (orBad_false bad)

end Sys2Proof.Machine
end

section
/-! PROOF. HALT, FENCE, the tokens (R158 to R162) and the phase change (R105, R106). -/

namespace Sys2Proof

theorem SMap.get_mapValues {α : Type} {d : α} {f : α → α} (hf : f d = d) : ∀ (m : SMap α) (k : Nat),
    SMap.get d (m.map fun e => (e.1, f e.2)) k = f (SMap.get d m k)
  | [], _ => hf.symm
  | (j, v) :: m, k => by
    rw [List.map_cons, SMap.get, SMap.get, SMap.get_mapValues hf m k]
    split <;> rfl

end Sys2Proof

namespace Sys2Proof.Machine

open Sys2Proof

/-! ### Tokens that are taken in (R160) -/

/-- Tokens are taken in one by one. -/
theorem Core.takeTokens_cons (c : Core) (t : Tok) (rest : List Tok) : c.takeTokens (t :: rest) = (c.takeTokens [t]).takeTokens rest := by
  simp only [Core.takeTokens]
  split <;> rfl

theorem Core.takeTokens_beside : ∀ (ts : List Tok) (c : Core),
    { c.takeTokens ts with tcs := [], held := [] } = { c with tcs := [], held := [] }
  | [], _ => rfl
  | t :: rest, c => by
    rw [Core.takeTokens_cons]
    exact (Core.takeTokens_beside rest _).trans (c.takeToken_beside t)

/-- What each takes in is counted or held back, and none is lost. -/
theorem Core.tokensFor_takeTokens (n : Nat) : ∀ (ts : List Tok) (c : Core),
    (c.takeTokens ts).tokensFor n = c.tokensFor n + ((ts.filter fun t => decide (t.tc.toNat = n)).map (·.n.toNat)).sum
  | [], _ => rfl
  | t :: rest, c => by
    rw [Core.takeTokens_cons, Core.tokensFor_takeTokens n rest, Core.tokensFor_takeToken, Nat.add_assoc]
    congr 1
    by_cases h : n = t.tc.toNat
    · rw [if_pos h, List.filter_cons_of_pos (by simpa using h.symm)]; rfl
    · rw [if_neg h, List.filter_cons_of_neg (by simpa using Ne.symm h), Nat.zero_add]

theorem Core.release_beside (c : Core) : { c.release with tcs := [], held := [] } = { c with tcs := [], held := [] } :=
  Core.takeTokens_beside c.held _

/-- Held-back tokens that are released stay with their counter. -/
theorem Core.tokensFor_release (c : Core) (n : Nat) : c.release.tokensFor n = c.tokensFor n := by
  rw [Core.release, Core.tokensFor_takeTokens]; rfl

/-- A core that has subtracted `n` tokens of counter `k`. -/
def Core.subTokens (c : Core) (k n : Nat) : Core := { c with tcs := SMap.set 0 c.tcs k (c.tc k - BitVec.ofNat 16 n) }

theorem Core.tokensFor_subTokens {c : Core} {k m : Nat} (h : m ≤ (c.tc k).toNat) (n : Nat) :
    (c.subTokens k m).tokensFor n + (if n = k then m else 0) = c.tokensFor n := by
  have held : (c.subTokens k m).heldFor n = c.heldFor n := rfl
  rw [Core.tokensFor, held, Core.tokensFor, Core.subTokens, Core.tc, SMap.get_set]
  by_cases hn : n = k
  · subst hn
    have small : (BitVec.ofNat 16 m).toNat = m := by
      rw [BitVec.toNat_ofNat]; exact Nat.mod_eq_of_lt (h.trans_lt (c.tc n).isLt)
    rw [if_pos rfl, if_pos rfl, BitVec.toNat_sub_of_le (by rw [BitVec.le_def, small]; exact h), small]
    omega
  · rw [if_neg hn, if_neg hn]; rfl

/-! ### The phase change -/

/-- No slot has marked the new phase. -/
theorem Core.changePhase_slot (c : Core) (n : Nat) : c.changePhase.slot n = { c.slot n with marked := false } :=
  SMap.get_mapValues (f := fun sl : Slot => { sl with marked := false }) rfl c.slots n

/-! ### Commands that change their slot -/

section
variable {s : State} {site : Site} {op : Byte} {w : CmdWord} {i : Instr} {c : Cmd}

/-- A command that changes its slot and nothing else completes, where that slot goes on. -/
theorem Ready.completes_updSlot {f : Slot → Slot} {n : Nat} {new : Slot} (hi : exec i s = issue op site w s) (h : Ready s site op w)
    (hc : cmdOf op = some c) (hk : c.check (s.ctx site op w) s = none) (hn : (if c.moves = true then 0 else c.words w) = n)
    (hb : c.body (s.ctx site op w) (s.begun site op w n) =
      .done ((s.begun site op w n).updCore site.core.toNat fun c => c.updSlot site.slot.toNat f)) (hop : op ≠ 0x24)
    (hf : f ((s.begun site op w n).slotAt site) = { new with last := (s.core site.core.toNat).clock + 1 }) (hg : GoesOn new) :
    Completes i s fun t => Moved s t site new id id := by
  have moved : Moved s ((s.begun site op w n).updCore site.core.toNat fun c => c.updSlot site.slot.toNat f) site new id id :=
    (s.mark_moved (s.ctx site op w) n).updSlot ((congrArg f (Ready.begun_slotAt n)).symm.trans hf)
  have beside (c : Core) : c.updSlot site.slot.toNat f = { c with slots := (c.updSlot site.slot.toNat f).slots } := rfl
  refine h.completes hi hc hk hn hb hop ?_ ?_ ?_ ?_ fun t e => moved.of_readsAs e
  · rw [State.updCore_core_same, beside]; exact h.begun_runs n
  · rw [State.updCore_core_same, beside]; exact h.begun_settled n
  · rw [moved.slot]; exact hg.issuedAt _
  · rw [State.updCore_core_same, beside]; exact h.begun_backlog n

end

theorem State.begun_readyFirst (s : State) (site : Site) (op : Byte) (w : CmdWord) (n : Nat) :
    (s.begun site op w n).readyFirst site.core = s.readyFirst site.core := by
  rw [State.readyFirst, State.begun_field Core.lag fun _ => rfl]; rfl

/-- NOP and HALT (R162). -/
theorem nop_halt_complete {s : State} {site : Site} {w : CmdWord} (last : w.last = false) (z : w.z 127 32) :
    (Ready s site 0x00 w → Completes (.nop site w) s fun t => Passed s t site 1 id id) ∧
    (Ready s site 0x01 w → Completes (.halt site w) s fun t => Moved s t site { (s.slotAt site).behind 1 with st := 2 } id id) := by
  refine ⟨fun h => ?_, fun h => ?_⟩
  · exact h.completes_passed (c := cmdNop) rfl rfl (lastOk_passes last z) rfl rfl (by decide) (.refl _) {} (h.begun_backlog 1)
      fun t moved _ => moved
  · obtain ⟨stop, swap, group⟩ := h.goesOn.behind 1
    exact h.completes_updSlot (c := cmdHalt) (f := fun sl => { sl with st := 2 }) rfl rfl (lastOk_passes last z) rfl rfl (by decide)
      (by rw [Ready.begun_slotAt]; rfl) ⟨stop, swap, group⟩

/-- FENCE (R159). -/
theorem fence_completes {s : State} {site : Site} {w : CmdWord} (last : w.last = false) (h : Ready s site 0x02 w) (z : w.z 127 37)
    (scope : w.f 34 32 ≤ 3) (mark : w.f 36 35 ≤ 2) : let sl := s.slotAt site
    Completes (.fence site w) s fun t =>
      Moved s t site (if w.f 36 35 ≠ 0 ∧ sl.tag.toNat = w.f 36 35 ∧ s.readyFirst site.core = false then
        { sl.behind 1 with marked := true } else sl.behind 1) id id := by
  intro sl
  have ok : (w.z 127 37 && decide (w.f 34 32 ≤ 3 ∧ w.f 36 35 ≤ 2)) = true := by rw [z, decide_eq_true ⟨scope, mark⟩]; rfl
  refine h.completes_updSlot (c := cmdFence) (n := 1) (f := fun d => if w.f 36 35 ≠ 0 ∧ d.tag.toNat = w.f 36 35 ∧
    !(s.begun site 0x02 w 1).readyFirst site.core then { d with marked := true } else d) rfl rfl (lastOk_passes last ok) rfl rfl (by decide)
    ?_ ?_
  · rw [Ready.begun_slotAt, State.begun_readyFirst]
    by_cases marks : w.f 36 35 ≠ 0 ∧ sl.tag.toNat = w.f 36 35 ∧ s.readyFirst site.core = false
    · rw [if_pos marks]; exact if_pos ⟨marks.1, marks.2.1, by rw [marks.2.2]; rfl⟩
    · rw [if_neg marks]
      exact if_neg fun ⟨some_, tag, policy⟩ => marks ⟨some_, tag, by simpa using policy⟩
  · obtain ⟨stop, swap, group⟩ := h.goesOn.behind 1
    split
    · exact ⟨stop, swap, group⟩
    · exact ⟨stop, swap, group⟩

/-- TOKEN (R160). -/
theorem token_completes {s : State} {site : Site} {w : CmdWord} (last : w.last = false) (h : Ready s site 0x03 w) (z1 : w.z 35 35)
    (z2 : w.z 127 67) (scope : w.f 34 32 ≤ 3) (some_ : w.f 66 51 ≠ 0) (present : s.hasCore (BitVec.ofNat 12 (w.f 47 36)) = true)
    (open_ : s.stilledCross (halfOf site.core) (halfOf (BitVec.ofNat 12 (w.f 47 36))) = false) :
    Completes (.token site w) s fun t => Passed s t site 1 (fun s => { s with net := {} }) id ∧
      t.net = { s.net with tokens := s.net.tokens ++ [tokenOf (s.ctx site 0x03 w)] } := by
  let b := s.begun site 0x03 w 1
  let u : State := { b with net := { b.net with tokens := b.net.tokens ++ [tokenOf (s.ctx site 0x03 w)] } }
  have check : cmdToken.check (s.ctx site 0x03 w) s = none := by
    have ok : (lastOk (s.ctx site 0x03 w) && w.z 35 35 && w.z 127 67 && decide (w.f 34 32 ≤ 3 ∧ w.f 66 51 ≠ 0)) = true := by
      rw [lastOk, show (s.ctx site 0x03 w).w.last = false from last, z1, z2, decide_eq_true ⟨scope, some_⟩, Bool.not_false, Bool.or_true]; rfl
    have there : s.hasCore (tokenOf (s.ctx site 0x03 w)).target = true := present
    simp only [cmdToken, there]
    rw [show ((s.ctx site 0x03 w).w) = w from rfl, ok]; rfl
  have body : cmdToken.body (s.ctx site 0x03 w) b = .done u := by
    have way : b.stilledCross (halfOf (s.ctx site 0x03 w).site.core) (halfOf (tokenOf (s.ctx site 0x03 w)).target) = false := open_
    simp only [cmdToken, State.sendToken, way]; rfl
  refine h.completes_passed (c := cmdToken) (u := u) rfl rfl check rfl body (by decide) (.of_die rfl rfl) {} (h.begun_backlog 1)
    fun t moved reads => ⟨moved, ?_⟩
  have net := congrArg State.net reads.die
  exact net

/-- WAITTOKEN (R160). -/
theorem waittoken_completes {s : State} {site : Site} {w : CmdWord} (last : w.last = false) (h : Ready s site 0x04 w) (z : w.z 127 51)
    (some_ : w.f 50 35 ≠ 0) (enough : w.f 50 35 ≤ ((s.core site.core.toNat).tc (w.f 34 32)).toNat) :
    Completes (.waittoken site w) s fun t => Passed s t site 1 id (fun c => { c with tcs := [], held := [] }) ∧
      ∀ n, (t.core site.core.toNat).tokensFor n + (if n = w.f 34 32 then w.f 50 35 else 0) = (s.core site.core.toNat).tokensFor n := by
  have ok : (w.z 127 51 && decide (w.f 50 35 ≠ 0)) = true := by rw [z, decide_eq_true some_]; rfl
  have beside (c : Core) : { (c.subTokens (w.f 34 32) (w.f 50 35)).release with tcs := [], held := [] } = { c with tcs := [], held := [] } :=
    Core.release_beside _
  refine h.completes_updCore (c := cmdWaitToken) (g := fun c => (c.subTokens (w.f 34 32) (w.f 50 35)).release)
    (cB := fun c => { c with tcs := [], held := [] }) rfl rfl (lastOk_passes last ok) rfl rfl (by decide) {} beside
    (fun c => ?_) (fun c => ?_) fun t moved core => ⟨moved, fun n => ?_⟩
  · have e := congrArg Core.rings (beside c); exact e
  · have e := congrArg Core.backlog (beside c); exact e
  · have same := State.begun_field (·.tc (w.f 34 32)) (fun _ => rfl) s site 0x04 w 1
    rw [core, Core.tokensFor_release, Core.tokensFor_subTokens (by rw [same]; exact enough)]
    exact State.begun_field (·.tokensFor n) (fun _ => rfl) s site 0x04 w 1

/-- PHASE_CHANGE (R105, R106). -/
theorem phaseChange_completes {s : State} {core : CoreId} (due : s.phaseDue core = true) : let c := s.core core.toNat
    Completes (.phaseChange core) s fun t =>
      CoreMoved s t core id (fun c => { c with slots := [], tailrace := false, lag := none }) ∧
      (t.core core.toNat).tailrace = (!c.tailrace) ∧ (∀ n, (t.core core.toNat).slot n = { c.slot n with marked := false }) ∧
      (t.core core.toNat).lag = if c.tailrace then none else c.lag := by
  intro c
  refine ⟨s.updCore core.toNat Core.changePhase, congrArg Host.Outcome.next (if_pos due), ⟨rfl, fun j hj => ?_, ?_⟩, ?_⟩
  · exact State.updCore_core_other _ _ hj
  · rw [State.updCore_core_same]; rfl
  · rw [State.updCore_core_same]
    exact ⟨rfl, c.changePhase_slot, rfl⟩

/-- Settles O2: each command completes as it issues, and the phase change is one update of its core. -/
theorem synchronisationCommandsComplete : Obligations.SynchronisationCommandsComplete := by
  refine ⟨fun s site w last z => nop_halt_complete last z, ?_, fun s core => ⟨fun due => ?_, ?_⟩⟩
  · intro s site w k sl last
    refine ⟨?_, ?_, ?_⟩
    · exact fun h z scope mark _ => fence_completes last h z scope mark
    · exact fun h z1 z2 scope some_ _ present open_ => token_completes last h z1 z2 scope some_ present open_
    · exact fun h z some_ enough => waittoken_completes last h z some_ enough
  · exact congrArg Host.Outcome.next (if_neg (by rw [due]; exact Bool.false_ne_true))
  · exact phaseChange_completes

end Sys2Proof.Machine
end

section
/-! PROOF. LOOP (R154, R155) and fused groups (R156, R157). -/

namespace Sys2Proof

theorem nth_getElem {α : Type} (d : α) {l : List α} {i : Nat} (h : i < l.length) : nth d l i = l[i] := by
  rw [nth, List.drop_eq_getElem_cons h]; rfl

end Sys2Proof

namespace Sys2Proof.Machine

open Sys2Proof

/-! ### LOOP -/

/-- The slot's innermost loop level, if it has one, ends no earlier than a body of `n` words from its next command would (R155). -/
def Slot.nests (sl : Slot) (n : Nat) : Prop :=
  ∀ l, sl.loops.head? = some l → (nextPtr sl.ptr (1 + n) - sl.ptr).toNat ≤ (l.past - sl.ptr).toNat

section
variable {s : State} {site : Site} {w : CmdWord}

theorem loopOk_of {x : Ctx} (last : x.w.last = false) (z : x.w.z 127 72) (some_ : loopWords x.w ≠ 0) (room : (s.slotAt x.site).loops.length < 4)
    (nests : (s.slotAt x.site).nests (loopWords x.w))
    (body : loopCount x s = 0 ∨ s.bodyOk x.site.core (s.slotAt x.site).gen (loopWords x.w) 0 (nextPtr (s.slotAt x.site).ptr 1) = true) :
    loopOk x s = true := by
  simp only [State.slotAt] at room nests body
  simp only [loopOk, Ctx.c, Bool.and_eq_true, Bool.or_eq_true, decide_eq_true_eq]
  refine ⟨⟨⟨⟨?_, z⟩, decide_eq_true ⟨some_, room⟩⟩, ?_⟩, body⟩
  · rw [lastOk, last, Bool.not_false, Bool.or_true]
  · split
    · rfl
    · rename_i l ls e
      exact decide_eq_true (nests l (by rw [e]; rfl))

/-- The count that a LOOP or a FUSE takes is the same before and behind its issue. -/
theorem State.countOf_begun (s : State) (site : Site) (op : Byte) (w : CmdWord) (n : Nat) (imm : Bool) (v k : Nat) :
    countOf ((s.begun site op w n).core site.core.toNat) imm v k = countOf (s.core site.core.toNat) imm v k := by
  rw [countOf, countOf, State.begun_cnt]

/-- A LOOP that passes its check passes its body with a count of 0, and else takes a level. -/
theorem loop_completes (h : Ready s site 0x05 w) (ok : loopOk (s.ctx site 0x05 w) s = true) :
    Completes (.loop site w) s fun t => Moved s t site (if loopCount (s.ctx site 0x05 w) s = 0 then (s.slotAt site).behind (1 + loopWords w) else
      (s.slotAt site).enter (loopWords w) (loopCount (s.ctx site 0x05 w) s)) id id := by
  have same : loopCount (s.ctx site 0x05 w) (s.begun site 0x05 w 0) = loopCount (s.ctx site 0x05 w) s := s.countOf_begun ..
  obtain ⟨stop, swap, group⟩ := h.goesOn
  refine h.completes_updSlot (c := cmdLoop) (n := 0) rfl rfl (orBad_true ok) rfl rfl (by decide) ?_ ?_
  · rw [Ready.begun_slotAt, same]
    split
    · rfl
    · rfl
  · split
    · exact h.goesOn.behind _
    · exact ⟨stop, swap, group⟩

end

/-! ### FUSE takes its group up -/

section
variable {s : State} {site : Site} {w : CmdWord}

/-- The count of a group, as its FUSE takes it (R156). -/
theorem State.groupOf_total (s : State) (site : Site) (w : CmdWord) (n : Nat) :
    ((s.begun site 0x06 w n).groupOf (s.ctx site 0x06 w)).total = countOf (s.core site.core.toNat) (w.b 39) (w.f 63 40) (w.f 38 36) :=
  s.countOf_begun ..

/-- Members of which none has done an iteration have iterations left. -/
theorem replicate_zero_not_done {n total : Nat} (hn : n ≠ 0) (ht : total ≠ 0) :
    ((List.replicate n 0).all fun d => decide (d = total)) = false := by
  obtain ⟨n, rfl⟩ := Nat.exists_eq_succ_of_ne_zero hn
  rw [List.replicate_succ, List.all_cons, decide_eq_false (Ne.symm ht), Bool.false_and]

/-- The slot as a command that goes on behind `n` words leaves it at issue. -/
theorem State.begun_passed (s : State) (site : Site) (op : Byte) (w : CmdWord) {n : Nat} (hn : n ≠ 0) :
    Passed s (s.begun site op w n) site n id id := by
  have moved := s.mark_moved (s.ctx site op w) n
  rw [if_neg hn] at moved
  exact moved

theorem fuse_completes (h : Ready s site 0x06 w) (ok : fuseOk s (s.ctx site 0x06 w) = true) : let n := w.f 34 32
    let group := (s.begun site 0x06 w (1 + n)).groupOf (s.ctx site 0x06 w)
    (group.total = 0 → Completes (.fuse site w) s fun t => Passed s t site (1 + n) id id) ∧
    (group.total ≠ 0 → Completes (.fuse site w) s fun t => Moved s t site { (s.slotAt site).behind (1 + n) with group := some group } id id) := by
  intro n group
  have members : w.f 34 32 ≠ 0 := by
    unfold fuseOk at ok
    simp only [Bool.and_eq_true, decide_eq_true_eq] at ok
    obtain ⟨⟨⟨-, two, -⟩, -⟩, -⟩ := ok
    exact Nat.ne_of_gt (Nat.lt_of_lt_of_le Nat.two_pos two)
  refine ⟨fun none_ => ?_, fun some_ => ?_⟩
  · have body : cmdFuse.body (s.ctx site 0x06 w) (s.begun site 0x06 w (1 + n)) = .done (s.begun site 0x06 w (1 + n)) :=
      congrArg Body.done (if_pos none_)
    exact h.completes (c := cmdFuse) rfl rfl (orBad_true ok) rfl body (by decide) (h.begun_runs _) (h.begun_settled _) (h.begun_goesOn _)
      (h.begun_backlog _) fun t e => (State.begun_passed s site 0x06 w (by omega)).of_readsAs e
  · have body : cmdFuse.body (s.ctx site 0x06 w) (s.begun site 0x06 w (1 + n)) = .done ((s.begun site 0x06 w (1 + n)).updCore site.core.toNat
        fun c => c.updSlot site.slot.toNat fun sl => { sl with group := some group }) := congrArg Body.done (if_neg some_)
    obtain ⟨stop, swap, -⟩ := h.goesOn.behind (1 + n)
    refine h.completes_updSlot (c := cmdFuse) (n := 1 + n) rfl rfl (orBad_true ok) rfl body (by decide) ?_ ⟨stop, swap, ?_⟩
    · rw [Ready.begun_slotAt, if_neg (by omega)]
    · rintro g ⟨⟩
      exact replicate_zero_not_done members some_

end

/-! ### A group in execution -/

/-- The group once member `m` has issued its next iteration. -/
def GroupRun.advanced (g : GroupRun) (m : Nat) : GroupRun := { g with done := g.done.set m (nth 0 g.done m + 1) }

/-- The state with the slot's group. -/
def State.withGroup (s : State) (site : Site) (g : Option GroupRun) : State :=
  s.updCore site.core.toNat fun c => c.updSlot site.slot.toNat fun sl => { sl with group := g }

theorem State.slotAt_withGroup (s : State) (site : Site) (g : Option GroupRun) :
    (s.withGroup site g).slotAt site = { s.slotAt site with group := g } := by
  rw [State.withGroup, State.slotAt_updCore, Core.updSlot_slot_same]; rfl

section
variable {s : State} {site : Site} {w : CmdWord} {g : GroupRun} {m : Nat} {c : Cmd}

/-- A command that does not wait, and passes its check, issues. -/
theorem State.verdictOf_go {x : Ctx} (hc : cmdOf x.op = some c) (hk : c.check x s = none) (h : (s.verdictOf x).waits = false) :
    s.verdictOf x = .go c x := by
  unfold State.verdictOf at h ⊢
  simp only [hc, hk] at h ⊢
  split at h
  · cases h
  · rename_i free
    rw [if_neg free]
    split at h
    · rfl
    · cases h

/-- The member whose turn it is has an iteration that can issue. -/
theorem State.nextMember_turn (next : s.nextMember site = some (g, m)) : (s.memberVerdict site g m).waits = false := by
  unfold State.nextMember at next
  dsimp only at next
  split at next
  · cases next
  · split at next
    · cases next
    · obtain ⟨m', found, e⟩ := Option.map_eq_some_iff.1 next
      cases e
      simpa using List.find?_some found

/-- Its verdict is that of its command. -/
theorem State.memberVerdict_go (hc : cmdOf (s.memberCtx site g m).op = some c) (hk : c.check (s.memberCtx site g m) s = none)
    (turn : (s.memberVerdict site g m).waits = false) : s.memberVerdict site g m = .go c (s.memberCtx site g m) := by
  unfold State.memberVerdict at turn ⊢
  dsimp only at turn ⊢
  split at turn
  · cases turn
  · rename_i ordered
    rw [if_neg ordered, State.verdictOf_go hc hk turn]

/-- A FUSE that is presented again issues the next iteration of the member whose turn it is (R157). -/
theorem issue_member (quiet : Quiet s site.core) (hg : (s.slotAt site).group = some g) (hw : g.w = w) (picked : s.picked site = true)
    (next : s.nextMember site = some (g, m)) (hc : cmdOf (s.memberCtx site g m).op = some c)
    (hk : c.check (s.memberCtx site g m) s = none) :
    issue 0x06 site w s =
      .next (((s.withGroup site (some (g.advanced m))).start c (s.memberCtx site g m)).flushRacc site.core) := by
  have hg' : ((s.core site.core.toNat).slot site.slot.toNat).group = some g := hg
  have verdict := State.memberVerdict_go hc hk (State.nextMember_turn next)
  have same : ¬((0x06 : Byte) ≠ 0x06 ∨ w ≠ g.w) := by rw [hw]; simp
  simp only [issue, State.prelude_quiet quiet, State.present, picked, hg', next, if_neg same, verdict, Bool.not_true, Bool.false_eq_true,
    if_false]
  rfl

end

/-! ### A member's iteration -/

section
variable {s u : State} {site : Site} {w : CmdWord} {g : GroupRun} {m : Nat} {c : Cmd}

/-- An iteration that has done all its work comes to its release. -/
theorem exec_member (quiet : Quiet s site.core) (hg : (s.slotAt site).group = some g) (hw : g.w = w) (picked : s.picked site = true)
    (next : s.nextMember site = some (g, m)) (hc : cmdOf (s.memberCtx site g m).op = some c)
    (hk : c.check (s.memberCtx site g m) s = none)
    (hb : c.body (s.memberCtx site g m) ((s.withGroup site (some (g.advanced m))).mark (s.memberCtx site g m) 0) = .done u)
    (hl : (u.core site.core.toNat).backlog = []) :
    exec (.fuse site w) s =
      .next (((u.updCore site.core.toNat (·.dropRun (s.memberCtx site g m).id)).released site).flushRacc site.core) := by
  have start : (s.withGroup site (some (g.advanced m))).start c (s.memberCtx site g m) = u.ended (s.memberCtx site g m) none := by
    have stays : (if c.moves = true ∨ (s.memberCtx site g m).member.isSome = true then 0 else c.words (s.memberCtx site g m).w) = 0 :=
      if_pos (.inr rfl)
    rw [State.start, stays, hb]; rfl
  have pushed : ∀ b ∈ (u.core (s.memberCtx site g m).c).backlog, b.id ≠ (s.memberCtx site g m).id := by
    intro b mem
    have none_ : (u.core (s.memberCtx site g m).c).backlog = [] := hl
    rw [none_] at mem; cases mem
  refine (issue_member quiet hg hw picked next hc hk).trans (congrArg (fun t : State => Host.Outcome.next (t.flushRacc site.core)) ?_)
  exact start.trans ((u.ended_complete _ none pushed).trans (u.complete_none _))

/-- What the end of an iteration leaves of its slot, which it has not touched beside the count of what the group has done. -/
theorem member_slotAt {x : Ctx} (hx : x.site = site)
    (hu : u.slotAt site = ((s.withGroup site (some (g.advanced m))).mark x 0).slotAt site) (id : Nat) : ∃ n,
    (u.updCore site.core.toNat (·.dropRun id)).slotAt site = { s.slotAt site with group := some (g.advanced m), last := n } := by
  subst hx
  have slots := congrArg Core.slots ((u.core x.site.core.toNat).dropRun_beside id)
  have slots : ((u.core x.site.core.toNat).dropRun id).slots = (u.core x.site.core.toNat).slots := slots
  have marked := ((s.withGroup x.site (some (g.advanced m))).mark_moved x 0).slot
  rw [if_pos rfl, State.slotAt_withGroup] at marked
  refine ⟨((s.withGroup x.site (some (g.advanced m))).core x.site.core.toNat).clock + 1, ?_⟩
  rw [State.slotAt_updCore, Core.slot, slots]
  exact hu.trans marked

end

/-! ### Its end (R157) -/

/-- All iterations of the group have been done. -/
theorem GroupRun.all_done_iff (g : GroupRun) :
    (g.done.all fun n => decide (n = g.total)) = true ↔ ∀ i, i < g.done.length → nth 0 g.done i = g.total := by
  rw [List.all_eq_true]
  refine ⟨fun h i hi => ?_, fun h d mem => ?_⟩
  · rw [nth_getElem 0 hi]; exact of_decide_eq_true (h _ (List.getElem_mem hi))
  · obtain ⟨i, hi, rfl⟩ := List.mem_iff_getElem.1 mem
    rw [← nth_getElem 0 hi]; exact decide_eq_true (h i hi)

section
variable {v : State} {site : Site} {h : GroupRun} (runs : (v.core site.core.toNat).runs = []) (group : (v.slotAt site).group = some h)
  (stop : (v.slotAt site).stop = false) (swap : (v.slotAt site).swap = none)
include runs

theorem State.flushRacc_idle : v.flushRacc site.core = v :=
  State.flushRacc_none _ _ fun r mem => by rw [runs] at mem; cases mem

include group

/-- A group whose members have done all their iterations releases its slot and raises its event. -/
theorem State.released_done (all : ∀ i, i < h.done.length → nth 0 h.done i = h.total) :
    v.released site = (if h.w.b 100 then (v.withGroup site none).layerEvent (halfOf site.core) (h.w.f 99 88) else
      v.withGroup site none).boundary site := by
  have group' : ((v.core site.core.toNat).slot site.slot.toNat).group = some h := group
  simp only [State.released, runs, List.any_nil, Bool.false_eq_true, if_false, group', h.all_done_iff.2 all, if_true]
  rfl

include stop swap

/-- One that has iterations left goes on. -/
theorem State.released_left (left : ∃ i, i < h.done.length ∧ nth 0 h.done i ≠ h.total) : v.released site = v := by
  refine State.released_goesOn runs ⟨stop, swap, fun g hg => ?_⟩
  obtain rfl := Option.some.inj (group.symm.trans hg)
  obtain ⟨i, hi, left⟩ := left
  exact Bool.eq_false_iff.2 fun all => left (h.all_done_iff.1 all i hi)

/-- One without an event leaves its slot at a command boundary at which nothing waits. -/
theorem State.released_silent (all : ∀ i, i < h.done.length → nth 0 h.done i = h.total) (silent : h.w.b 100 = false) :
    v.released site = v.withGroup site none := by
  have slot := v.slotAt_withGroup site none
  rw [State.released_done runs group all, if_neg (by rw [silent]; exact Bool.false_ne_true), State.boundary_none]
  · rw [slot]; exact stop
  · rw [slot]; exact swap

end

/-- Settles O3: LOOP and FUSE change their slot alone; an iteration of a member comes to the release of its group or leaves it in execution. -/
theorem loopsAndFusedGroupsRun : Obligations.LoopsAndFusedGroupsRun := by
  refine ⟨?_, fun s site w => ⟨?_, ?_⟩⟩
  · intro s site w sl n count h last z some_ room nests
    refine ⟨fun none_ => ?_, ?_⟩
    · have zero : loopCount (s.ctx site 0x05 w) s = 0 := none_
      have done := loop_completes h (loopOk_of last z some_ room nests (.inl zero))
      rw [if_pos zero] at done
      exact done
    · intro level count_ body
      have positive : ¬loopCount (s.ctx site 0x05 w) s = 0 := count_
      have done := loop_completes h (loopOk_of last z some_ room nests (.inr body))
      rw [if_neg positive] at done
      exact done
  · intro h ok
    exact ⟨s.groupOf_total site w _, rfl, rfl, fuse_completes h ok⟩
  · intro g m c u x h t quiet hg hw picked next stop swap hc hk hb hr hl hu v
    have exec := exec_member quiet hg hw picked next hc hk hb hl
    obtain ⟨n, slot⟩ := member_slotAt (x := x) rfl hu x.id
    have runs : (v.core site.core.toNat).runs = [] := by
      rw [State.updCore_core_same, Core.dropRun_runs, hr]; rfl
    have group : (v.slotAt site).group = some h := congrArg Slot.group slot
    have stop : (v.slotAt site).stop = false := (congrArg Slot.stop slot).trans stop
    have swap : (v.slotAt site).swap = none := (congrArg Slot.swap slot).trans swap
    have word : h.w = w := hw
    refine ⟨fun left => ⟨v, ?_, rfl⟩, fun all => ⟨fun silent => ⟨v.withGroup site none, ?_, rfl⟩, fun event => ⟨_, ?_, rfl⟩⟩⟩
    · rw [exec, State.released_left runs group stop swap left, State.flushRacc_idle runs]
    · have idle : ((v.withGroup site none).core site.core.toNat).runs = [] := by
        rw [State.withGroup, State.updCore_core_same]; exact runs
      rw [exec, State.released_silent runs group stop swap all (by rw [word]; exact silent), State.flushRacc_idle idle]
    · rw [exec, State.released_done runs group all, word, if_pos event]
      rfl

end Sys2Proof.Machine
end

section
/-! PROOF. The register commands of the collective and the resilience block (R176, R179, R293, R295, R298, R299, R306, R316, R321, R328, R338,
R340): where the write of each register comes to, and what it does. -/

namespace Sys2Proof.Machine

open Sys2Proof

/-! ### Addresses (R370) -/

theorem regBlock_coll {off : Nat} (h : off < 0x2000) : regBlock (0x40000 + off) = some (.coll off) := by
  unfold regBlock
  iterate 13 rw [if_neg (by omega)]
  rw [if_pos (by omega), Nat.add_sub_cancel_left]

theorem regWrite_coll {s : State} {who off : Nat} {v : W32} (h : off < 0x2000) (present : s.collCheck off = stOk) :
    s.regWrite who (0x40000 + off) v = s.collWrite off v := by
  simp only [State.regWrite, State.regCheck, regBlock_coll h, present, ne_eq, not_true_eq_false, if_false, State.regAsleep, Bool.false_eq_true]

/-- A register of the collective block that no absent engine keeps takes effect as the block's write does. -/
theorem RegRow.Holds.of_coll {r : RegRow} {s : State} {h : CpHdr} {a off : Nat} {v : W32} (cmd : exec r.cmd s = writeOne h a v s)
    (addr : a = r.addr) (value : v = r.value) (place : a = 0x40000 + off) (aligned : off % 4 = 0) (small : off < 0x2000)
    (write : r.ok (s.taken h) → (s.taken h).collCheck off = stOk ∧ (s.taken h).collWrite off v = (stOk, r.f (s.taken h))) : r.Holds s h := by
  refine RegRow.Holds.of_regWrite cmd addr value (by omega) (by omega) fun ok => ?_
  obtain ⟨present, effect⟩ := write ok
  rw [← addr, ← value, place, regWrite_coll small present, effect]

namespace State

variable {s : State} {v : W32}

/-! ### Which register an offset is -/

/-- Only rings and lists need their engine (R29). -/
theorem collCheck_shared {off : Nat} (h : off < 0x400 ∨ 0x1000 ≤ off) : s.collCheck off = stOk := by
  unfold collCheck
  rw [if_neg (by omega), if_neg (by omega)]

section
variable {half : BitVec 1} {k : BitVec 4} {off : Nat}

theorem unitOf_at (base : Nat) (h : off < 0x20) : unitOf (base + 0x200 * half.toNat + 0x20 * k.toNat + off) base = (half.toNat, k.toNat, off) := by
  have hk := k.isLt
  unfold unitOf
  rw [Prod.mk.injEq, Prod.mk.injEq]
  omega

variable (present : s.hasCe half.toNat = true) (h : off < 0x20)
include h

theorem collWrite_list : s.collWrite (0x400 + 0x200 * half.toNat + 0x20 * k.toNat + off) v = s.rlWrite half.toNat k.toNat off v := by
  have hk := k.isLt
  have hh := half.isLt
  unfold collWrite
  iterate 8 rw [if_neg (by omega)]
  rw [if_pos (by omega), unitOf_at 0x400 h]

theorem collWrite_ring : s.collWrite (0xC00 + 0x200 * half.toNat + 0x20 * k.toNat + off) v = s.mvWrite half.toNat k.toNat off v := by
  have hk := k.isLt
  have hh := half.isLt
  unfold collWrite
  iterate 9 rw [if_neg (by omega)]
  rw [if_pos (by omega), unitOf_at 0xC00 h]

include present

theorem collCheck_list : s.collCheck (0x400 + 0x200 * half.toNat + 0x20 * k.toNat + off) = stOk := by
  have hk := k.isLt
  have hh := half.isLt
  unfold collCheck
  rw [if_neg (by rw [unitOf_at 0x400 h, present]; simp), if_neg (by omega)]

theorem collCheck_ring : s.collCheck (0xC00 + 0x200 * half.toNat + 0x20 * k.toNat + off) = stOk := by
  have hk := k.isLt
  have hh := half.isLt
  unfold collCheck
  rw [if_neg (by omega), if_neg (by rw [unitOf_at 0xC00 h, present]; simp)]

end

theorem collWrite_jobCmd (j : BitVec 6) :
    s.collWrite (0x1004 + 0x40 * j.toNat) v = s.jobCmd j.toNat (bit v 0) (bit v 1) (bit v 2) (bits v 31 16) := by
  have hj := j.isLt
  unfold collWrite
  iterate 10 rw [if_neg (by omega)]
  rw [if_pos (by omega), show (0x1004 + 0x40 * j.toNat - 0x1000) / 0x40 = j.toNat by omega, show (0x1004 + 0x40 * j.toNat) % 0x40 = 4 by omega]
  rfl

theorem collWrite_cg (g : BitVec 3) : s.collWrite (0x80 + 4 * g.toNat) v = s.setCg g.toNat (bit v 16) (v.setWidth 16) := by
  have hg := g.isLt
  unfold collWrite
  iterate 6 rw [if_neg (by omega)]
  rw [if_pos (by omega), show (0x80 + 4 * g.toNat - 0x80) / 4 = g.toNat by omega]

theorem collWrite_commitCmd : s.collWrite 0x04 v = (stOk, s.commitCmd (bit v 0) (bit v 1) (bits v 31 16)) := rfl

theorem collWrite_eventRaise : s.collWrite 0x24 v = s.supplyRaises v := rfl

/-! ### Rings, lists and raises (R176, R179, R293, R295) -/

/-- A ring or list can be disabled, and enabled where it is not, its half is not quiesced, and its word and size are good (R179). -/
theorem ctrlCheck_ok {h : Nat} {old : W32} {size : BitVec 16} {bound : Bool} (on : bit v 31 = true → bit old 31 = false ∧
    bit (s.half h).netCtrl 0 = false ∧ 1 ≤ bits v 12 0 ∧ bits v 12 0 ≤ 4096 ∧ size ≠ 0 ∧ bound = false) :
    s.ctrlCheck h old v size bound = stOk := by
  unfold ctrlCheck
  by_cases enables : bit v 31 = true
  · obtain ⟨off, quiet, low, high, sized, free⟩ := on enables
    rw [if_neg (by simp [off]), if_neg (by simp [quiet]), if_neg]
    rintro ⟨-, bad | bad | bad | bad⟩
    · omega
    · omega
    · exact sized bad
    · exact Bool.false_ne_true (free.symm.trans bad)
  · rw [if_neg (fun bad => enables bad.2), if_neg (fun bad => enables bad.1), if_neg (fun bad => enables bad.1)]

theorem setMvCtrl_ok {h k : Nat} (good : let c := v &&& w32 0x8FFF1FFF
      s.ctrlCheck h ((s.ce h).ring k).ctrl c ((s.ce h).ring k).size ((s.ce h).ringBound k (bits c 27 16)) = stOk) :
    s.setMvCtrl h k v = (stOk, s.updCe h fun c => c.updRing k (·.withCtrl (v &&& w32 0x8FFF1FFF))) :=
  if_neg (not_not.2 good)

theorem setRlCtrl_ok {h k : Nat} (good : let c := v &&& w32 0x8FFF1FFF
      s.ctrlCheck h ((s.ce h).list k).ctrl c ((s.ce h).list k).len ((s.ce h).listBound k (bits c 27 16)) = stOk) :
    s.setRlCtrl h k v = (stOk, s.updCe h fun c => c.updList k (·.withCtrl (v &&& w32 0x8FFF1FFF))) :=
  if_neg (not_not.2 good)

theorem supplyRaises_ok (quiet : bit (s.half (bits v 28 28)).netCtrl 0 = false) (low : 1 ≤ bits v 12 0) (high : bits v 12 0 ≤ 4096)
    (present : s.hasCe (bits v 28 28) = true) : s.supplyRaises v = (stOk, s.raiseAt (bits v 28 28) (bits v 27 16) (bits v 12 0)) := by
  unfold supplyRaises
  dsimp only
  rw [if_neg (by rw [quiet]; exact Bool.false_ne_true), if_neg (by omega), if_neg (by rw [present]; decide)]
  rfl

/-! ### Jobs (R298, R299, R316) -/

/-- The word of a job's command, or of the commit tree's: its command bits, and the waiver above them. -/
theorem bits_command (c : BitVec 3) (n : BitVec 16) : let v := w32 (c.toNat + n.toNat * 2 ^ 16)
    bit v 0 = c.getLsbD 0 ∧ bit v 1 = c.getLsbD 1 ∧ bit v 2 = c.getLsbD 2 ∧ bits v 31 16 = n.toNat := by
  have hc := c.isLt
  have hn := n.isLt
  have hv : (w32 (c.toNat + n.toNat * 2 ^ 16)).toNat = c.toNat + n.toNat * 2 ^ 16 := Nat.mod_eq_of_lt (by omega)
  simp only [bit, bits, BitVec.getLsbD, hv, Nat.testBit_eq_decide_div_mod_eq, decide_eq_decide]
  omega

variable {j n : Nat}

/-- A job's one command that is carried out is followed by the waiver of the same write (log entry 51). -/
theorem jobCmd_arm (free : (s.job j).st = jobFree) (own : s.jobTaken j (s.job j).id = false) :
    s.jobCmd j true false false n = (stOk, (s.armJob j (bit (s.job j).cfg 6)).waiveJob j n) := by
  have arms : s.armCmd j = (stOk, s.armJob j (bit (s.job j).cfg 6)) :=
    (if_neg (not_not.2 free)).trans (if_neg (by rw [own]; exact Bool.false_ne_true))
  rw [jobCmd, arms]; rfl

theorem jobCmd_rearm (busy : (s.job j).st = jobOpen ∨ (s.job j).st = jobClosed) (local_ : (s.job j).shard = false) :
    s.jobCmd j false true false n = (stOk, (s.armJob j (bit (s.job j).cfg 6)).waiveJob j n) := by
  have arms : s.rearmCmd j = (stOk, s.armJob j (bit (s.job j).cfg 6)) :=
    (if_neg (by rwa [← not_or, not_not])).trans (if_neg (by rw [local_]; exact Bool.false_ne_true))
  rw [jobCmd, arms]; rfl

/-- A waiver counts for a job in ARMING or OPEN only (R316). -/
theorem waiveJob_free (free : (s.job j).st = jobFree) : s.waiveJob j n = s :=
  if_neg (by rw [free]; decide)

theorem jobCmd_release (settled : (s.job j).st ≠ jobCommitting) :
    s.jobCmd j false false true n = (stOk, s.updJob j fun e => { e with st := jobFree }) := by
  have frees : s.releaseCmd j = (stOk, s.updJob j fun e => { e with st := jobFree }) := if_neg settled
  rw [jobCmd, frees]
  dsimp only
  rw [if_pos rfl, waiveJob_free (by rw [updJob_job_same])]
  rfl

/-! ### Close groups and the commit tree (R306, R316, R321) -/

theorem setCg_drop {g : Nat} {expect : BitVec 16} (unreleased : (s.cg g).st ≠ 3) : s.setCg g true expect =
    (stOk, let d := (s.updCg g fun c => { c with expect := expect }).dropGroup g
      if (d.cg g).used ∧ (d.cg g).st ≠ 3 then d.checkGroup g else d) :=
  if_neg fun bad => unreleased bad.2

/-- A word of CG_CTRL that drops its group: DROP, and EXPECT below it. -/
theorem bits_cgDrop (n : BitVec 16) : bit (w32 (2 ^ 16 + n.toNat)) 16 = true ∧ (w32 (2 ^ 16 + n.toNat)).setWidth 16 = n := by
  have hn := n.isLt
  have hv : (w32 (2 ^ 16 + n.toNat)).toNat = 2 ^ 16 + n.toNat := Nat.mod_eq_of_lt (by omega)
  constructor
  · rw [bit, BitVec.getLsbD, hv, Nat.testBit_eq_decide_div_mod_eq, decide_eq_true]
    omega
  · apply BitVec.eq_of_toNat_eq
    rw [BitVec.toNat_setWidth, hv]
    omega

theorem commitCmd_abort : s.commitCmd true false 0 = s.updCommit fun c => { c with abortOwn := true } := by
  unfold commitCmd
  simp only [Bool.or_true, Nat.add_zero, Bool.false_eq_true, if_false]

theorem commitCmd_waive : s.commitCmd false false n = s.updCommit fun c => { c with waived := c.waived + n } := by
  unfold commitCmd
  simp only [Bool.or_false, Bool.false_eq_true, if_false]

theorem commitCmd_resend : s.commitCmd false true 0 = s.resendUp := by
  unfold commitCmd
  simp only [Bool.or_false, Nat.add_zero, if_true]
  rfl

/-- RESEND sends the step's UP to the parent again (R321). -/
theorem resendUp_sent (sent : (s.coll.commit.st = 1 ∨ s.coll.commit.st = 2) ∧ s.treeParent ≠ 0xFFFF) :
    s.resendUp = match s.coll.commit.upOut with
      | some x => s.sendUp x
      | none => s := by
  unfold resendUp
  dsimp only
  rw [if_pos sent]
  cases s.coll.commit.upOut <;> rfl

theorem resendUp_none (unsent : (s.coll.commit.st ≠ 1 ∧ s.coll.commit.st ≠ 2) ∨ s.treeParent = 0xFFFF) : s.resendUp = s := by
  unfold resendUp
  dsimp only
  rw [if_neg]
  rintro ⟨here, parent⟩
  rcases unsent with ⟨one, two⟩ | root
  · exact here.elim one two
  · exact parent root

end State

/-! ### SEC_CTRL (R338, R340) -/

namespace State

/-- The securing registers as a SEC_CTRL word without ABANDON leaves them. -/
def secWord (s : State) (v : W32) : State :=
  { s with sec := { s.sec with weight := v.extractLsb' 8 8, enable := bit v 0, start := s.sec.start || bit v 1 } }

/-- ABANDON at every entry of the securing table. -/
def abandonAll (s : State) : State := (List.range s.sec.count.toNat).foldl (fun u i => u.abandonEntry i) s

theorem secCtrl_eq (s : State) (v : W32) : s.secCtrl v = if bit v 2 then (s.secWord v).abandonAll else s.secWord v := rfl

/-- A word with START also abandons where it has ABANDON too, after START (log entry 53). -/
theorem secCtrl_start (s : State) (v : W32) :
    s.secCtrl (v ||| 2) = if bit v 2 then (s.secWord (v ||| 2)).abandonAll else s.secWord (v ||| 2) := by
  have abandon : bit (v ||| 2) 2 = bit v 2 := by
    rw [bit, BitVec.getLsbD_or, show (2 : W32).getLsbD 2 = false by decide, Bool.or_false, bit]
  rw [secCtrl_eq, abandon]

theorem secWord_or_abandon (s : State) (v : W32) : s.secWord (v ||| 4) = s.secWord v := by
  have weight : (v ||| 4).extractLsb' 8 8 = v.extractLsb' 8 8 := by
    rw [BitVec.extractLsb'_or, show (4 : W32).extractLsb' 8 8 = 0#8 by decide, BitVec.or_zero]
  have other (i : Nat) (h : (4 : W32).getLsbD i = false) : bit (v ||| 4) i = bit v i := by
    rw [bit, BitVec.getLsbD_or, h, Bool.or_false, bit]
  rw [secWord, weight, other 0 (by decide), other 1 (by decide)]
  rfl

theorem secCtrl_abandon (s : State) (v : W32) : s.secCtrl (v ||| 4) = (s.secWord v).abandonAll := by
  have abandon : bit (v ||| 4) 2 = true := by
    rw [bit, BitVec.getLsbD_or, show (4 : W32).getLsbD 2 = true by decide, Bool.or_true]
  rw [secCtrl_eq, if_pos abandon, secWord_or_abandon]

theorem regWrite_secCtrl (s : State) (who : Nat) (v : W32) : s.regWrite who 0x50000 v = (stOk, s.secCtrl v) := rfl

end State

/-! ### The obligation -/

/-- A JOB_CMD word of command bits `c` and a waiver. -/
theorem RegRow.Holds.of_jobCmd {r : RegRow} {s : State} {h : CpHdr} {job : BitVec 6} {waive : BitVec 16} (c : BitVec 3)
    (cmd : exec r.cmd s = writeOne h (jobCmdAt job) (w32 (c.toNat + waive.toNat * 2 ^ 16)) s) (addr : jobCmdAt job = r.addr)
    (value : w32 (c.toNat + waive.toNat * 2 ^ 16) = r.value) (write : r.ok (s.taken h) → (s.taken h).jobCmd job.toNat
      (c.getLsbD 0) (c.getLsbD 1) (c.getLsbD 2) waive.toNat = (stOk, r.f (s.taken h))) : r.Holds s h := by
  have hj := job.isLt
  obtain ⟨arm, rearm, release, waived⟩ := State.bits_command c waive
  refine .of_coll (off := 0x1004 + 0x40 * job.toNat) cmd addr value (by simp only [jobCmdAt]; omega) (by omega) (by omega) fun ok =>
    ⟨State.collCheck_shared (.inr (by omega)), ?_⟩
  rw [State.collWrite_jobCmd, arm, rearm, release, waived, write ok]

/-- A COMMIT_CMD word of command bits `c` and a waiver. -/
theorem RegRow.Holds.of_commitCmd {r : RegRow} {s : State} {h : CpHdr} (c : BitVec 3) (waive : BitVec 16)
    (cmd : exec r.cmd s = writeOne h 0x40004 (w32 (c.toNat + waive.toNat * 2 ^ 16)) s) (addr : 0x40004 = r.addr)
    (value : w32 (c.toNat + waive.toNat * 2 ^ 16) = r.value) (write : r.ok (s.taken h) → (s.taken h).commitCmd
      (c.getLsbD 0) (c.getLsbD 1) waive.toNat = r.f (s.taken h)) : r.Holds s h := by
  obtain ⟨abort, resend, -, waived⟩ := State.bits_command c waive
  refine .of_coll (off := 0x04) cmd addr value rfl rfl (by decide) fun ok => ⟨State.collCheck_shared (.inl (by decide)), ?_⟩
  rw [State.collWrite_commitCmd, abort, resend, waived, write ok]

/-- Settles O42: each command is the write of one register (`RegRow.Holds.of_regWrite`), which takes effect where its conditions hold. -/
theorem collectiveRegistersTakeEffect : Obligations.CollectiveRegistersTakeEffect := by
  intro s h half ring v job waive g
  have hh := half.isLt
  have hr := ring.isLt
  have hg := g.isLt
  dsimp only
  simp only [List.forall_mem_cons, List.not_mem_nil, false_imp_iff, implies_true, and_true]
  refine ⟨?mvEnable, ?mvTail, ?rlEnable, ?eventRaise, ?arm, ?rearm, ?release, ?jobWaive, ?cgDrop, ?commitAbort, ?commitResend, ?rootResend,
    ?commitWaive, ?secStart, ?secAbandon⟩
  case mvEnable =>
    refine .of_coll (off := 0xC00 + 0x200 * half.toNat + 0x20 * ring.toNat + 0) rfl rfl rfl (by simp only [ringAt]; omega) (by omega) (by omega)
      fun ⟨present, on⟩ => ⟨State.collCheck_ring present (by omega), (State.collWrite_ring (by omega)).trans ?_⟩
    exact State.setMvCtrl_ok (State.ctrlCheck_ok on)
  case mvTail =>
    exact .of_coll (off := 0xC00 + 0x200 * half.toNat + 0x20 * ring.toNat + 0x10) rfl rfl rfl (by simp only [ringAt]; omega) (by omega) (by omega)
      fun present => ⟨State.collCheck_ring present (by omega), State.collWrite_ring (by omega)⟩
  case rlEnable =>
    refine .of_coll (off := 0x400 + 0x200 * half.toNat + 0x20 * ring.toNat + 0) rfl rfl rfl (by simp only [listAt]; omega) (by omega) (by omega)
      fun ⟨present, on⟩ => ⟨State.collCheck_list present (by omega), (State.collWrite_list (by omega)).trans ?_⟩
    exact State.setRlCtrl_ok (State.ctrlCheck_ok on)
  case eventRaise =>
    exact .of_coll (off := 0x24) rfl rfl rfl rfl rfl (by decide) fun ⟨quiet, low, high, present⟩ =>
      ⟨State.collCheck_shared (.inl (by decide)), State.supplyRaises_ok quiet low high present⟩
  case arm =>
    refine .of_jobCmd 1 rfl rfl rfl fun ⟨free, own⟩ => ?_
    dsimp only
    exact State.jobCmd_arm free own
  case rearm =>
    refine .of_jobCmd 2 rfl rfl rfl fun ⟨busy, local_⟩ => ?_
    dsimp only
    exact State.jobCmd_rearm busy local_
  case release => exact .of_jobCmd 4 rfl rfl rfl fun settled => State.jobCmd_release settled
  case jobWaive =>
    have word : w32 ((0 : BitVec 3).toNat + waive.toNat * 2 ^ 16) = w32 (waive.toNat * 2 ^ 16) := congrArg w32 (Nat.zero_add _)
    exact .of_jobCmd 0 (congrArg (writeOne h (jobCmdAt job) · s) word.symm) rfl word fun _ => rfl
  case cgDrop =>
    obtain ⟨drop, expect⟩ := State.bits_cgDrop waive
    refine .of_coll (off := 0x80 + 4 * g.toNat) rfl rfl rfl (by omega) (by omega) (by omega) fun unreleased =>
      ⟨State.collCheck_shared (.inl (by omega)), ?_⟩
    rw [State.collWrite_cg, drop, expect, State.setCg_drop unreleased]
  case commitAbort => exact .of_commitCmd 1 0 rfl rfl rfl fun _ => State.commitCmd_abort
  case commitResend => exact .of_commitCmd 2 0 rfl rfl rfl fun sent => State.commitCmd_resend.trans (State.resendUp_sent sent)
  case rootResend => exact .of_commitCmd 2 0 rfl rfl rfl fun unsent => State.commitCmd_resend.trans (State.resendUp_none unsent)
  case commitWaive =>
    have word : w32 ((0 : BitVec 3).toNat + waive.toNat * 2 ^ 16) = w32 (waive.toNat * 2 ^ 16) := congrArg w32 (Nat.zero_add _)
    exact .of_commitCmd 0 waive (congrArg (writeOne h 0x40004 · s) word.symm) rfl word fun _ => State.commitCmd_waive
  case secStart =>
    refine .of_regWrite (a := 0x50000) rfl rfl rfl (by dsimp only) (by dsimp only; omega) fun _ => (State.regWrite_secCtrl _ _ _).trans ?_
    exact congrArg (Prod.mk stOk) (State.secCtrl_start _ v)
  case secAbandon =>
    refine .of_regWrite (a := 0x50000) rfl rfl rfl (by dsimp only) (by dsimp only; omega) fun _ => (State.regWrite_secCtrl _ _ _).trans ?_
    exact congrArg (Prod.mk stOk) (State.secCtrl_abandon _ v)

end Sys2Proof.Machine
end

section
/-! PROOF. What an access to memory leaves alone: the collective engines, the fabric's requests, and how the clusters are configured. -/

namespace Sys2Proof.Machine

open Sys2Proof

namespace State

/-- The collective block, the shared fabric block, and the configuration of each cluster. -/
def engines (s : State) : Coll × Fab × (Nat → W32) := (s.coll, s.fab, fun k => (s.cluster k).cfg)

/-! ### Notifications, records and counts -/

@[simp] theorem engines_updMc (s : State) (k : Nat) (f : Mc → Mc) : (s.updMc k f).engines = s.engines := rfl

@[simp] theorem engines_updCsu (s : State) (k : Nat) (f : Csu → Csu) : (s.updCsu k f).engines = s.engines := rfl

@[simp] theorem engines_updCore (s : State) (k : Nat) (f : Core → Core) : (s.updCore k f).engines = s.engines := rfl

@[simp] theorem engines_notify (s : State) (code : BitVec 16) (ws : List W32) : (s.notify code ws).engines = s.engines := by
  have beside := congrArg engines (besidePorts_notify s code ws)
  exact beside

@[simp] theorem engines_lmAdd (s : State) (type : Nat) (loc : BitVec 48) : (s.lmAdd type loc).engines = s.engines := by
  have beside := congrArg engines (lmAdd_beside s type loc)
  exact beside

@[simp] theorem engines_countTurn (s : State) (w : Turned) : (s.countTurn w).engines = s.engines := by
  cases w with
  | seam h => rfl
  | router k =>
    have cfg : (fun j => ((s.updCluster k (·.count 0x3C 1)).cluster j).cfg) = fun j => (s.cluster j).cfg := by
      funext j
      rw [updCluster_cluster]
      split
      · rename_i h; rw [h]; rfl
      · rfl
    exact congrArg (fun c => (s.coll, s.fab, c)) cfg

@[simp] theorem engines_mismatch (s : State) (pa : PA) (g : Option (BitVec 2)) : (s.mismatch pa g).engines = s.engines := by
  rcases s.mismatch_eq pa g with h | ⟨loc, ws, h⟩
  · rw [h]; rfl
  · rw [h, engines_notify, engines_updMc, engines_lmAdd]; rfl

/-! ### Reads (R216, R228) -/

@[simp] theorem engines_mscAllocate (s : State) (stack line : Nat) : (s.mscAllocate stack line).engines = s.engines := rfl

@[simp] theorem engines_fillSector (s : State) (p : Place) (noalloc : Bool) (bad : BitVec 16) :
    (s.fillSector p noalloc bad).engines = s.engines := by
  unfold fillSector
  dsimp only
  split
  · rfl
  · split <;> rfl

@[simp] theorem engines_cellRead (s : State) (pa : Nat) : (s.cellRead pa).2.engines = s.engines := by
  unfold cellRead
  dsimp only
  split
  · rfl
  · split
    · rw [engines_mismatch]; rfl
    · rfl

@[simp] theorem engines_noteShut (s : State) (stack : Nat) (st : Status) : (s.noteShut stack st).engines = s.engines := by
  unfold noteShut
  split <;> rfl

@[simp] theorem engines_mcRead (s : State) (pa : Nat) (noalloc : Bool) : (s.mcRead pa noalloc).2.engines = s.engines := by
  unfold mcRead
  dsimp only
  split
  · exact engines_noteShut _ _ _
  · split
    · rfl
    · split
      · rfl
      · exact (engines_fillSector _ _ _ _).trans (engines_cellRead s pa)

/-! ### Translation (R232 to R235) -/

theorem engines_readPte (s : State) (h table idx : Nat) : (s.readPte h table idx).2.engines = s.engines := by
  have read := engines_mcRead s (table + 8 * idx) false
  rw [readPte]
  split
  · rfl
  · split
    · exact engines_countTurn _ _
    · split <;> rename_i heq <;> rw [heq] at read
      · exact read
      · dsimp only
        split <;> exact read

/-- A walk keeps what its reads keep, whatever they answer. `id` has the goal stated for any function that reads entries, so that the kernel
never computes `readPte` while it compares forms of the walk. -/
theorem engines_walk (s : State) (h : Nat) (va : VA) : (s.walk h va).2.engines = s.engines := by
  have kept := engines_readPte
  rw [walk]
  generalize readPte = read at kept ⊢
  revert read
  refine id fun read kept => ?_
  have keeps {u v : State} {table i : Nat} {r : Except Byte W64} (e : read u h table i = (r, v)) : v.engines = u.engines := by
    rw [← kept u h table i, e]
  extract_lets s' root i1 i2 wc fromL3 fromL2
  have l3 (u : State) (table : Nat) : (fromL3 u table).2.engines = u.engines := by
    simp only [fromL3]
    split <;> rename_i e <;> rw [← keeps e]
    split
    · rfl
    · split <;> rfl
  have l2 (u : State) (table : Nat) : (fromL2 u table).2.engines = u.engines := by
    simp only [fromL2]
    split <;> rename_i e <;> rw [← keeps e]
    split
    · rfl
    · split
      · split <;> rfl
      · split <;> rename_i leaf <;> exact (congrArg (·.2.engines) leaf).symm.trans (l3 _ _)
  split
  · rfl
  · split
    · exact l3 _ _
    · split
      · exact l2 _ _
      · split <;> rename_i e <;> refine Eq.trans ?_ ((keeps e).trans rfl)
        · rfl
        · split
          · rfl
          · split <;> rename_i leaf <;> exact (congrArg (·.2.engines) leaf).symm.trans (l2 _ _)

/-- A translation keeps what its walk keeps, whatever leaf that finds; `id` is there for the kernel, as above. -/
theorem engines_translate (s : State) (who : Requester) (va : VA) (a : Access) : (s.translate who va a).2.engines = s.engines := by
  have kept := engines_walk
  rw [translate]
  generalize walk = walks at kept ⊢
  revert walks
  refine id fun walks kept => ?_
  dsimp only
  split
  · split <;> rfl
  · split <;> rename_i e <;> refine Eq.trans ?_ ((congrArg (·.2.engines) e).symm.trans (kept _ _ _))
    · rfl
    · split <;> rfl

/-! ### Ranges of bytes (R26) -/

theorem engines_resolve (s : State) (v : Via) (a : Nat) (acc : Access) : (s.resolve v a acc).2.engines = s.engines := by
  cases v with
  | va who => exact engines_translate _ _ _ _
  | pa port =>
    rw [resolve]
    split <;> rfl
  | walked h =>
    have kept := engines_walk s h (BitVec.ofNat 48 a)
    rw [resolve]
    split <;> rename_i e <;> rw [e] at kept
    · exact kept
    · split <;> exact kept

theorem engines_readParts (v : Via) (acc : Access) : ∀ (l : List (Nat × Nat × Nat)) (s : State) (bs : List MB) (st : Status),
    (s.readParts v acc l bs st).2.2.engines = s.engines
  | [], _, _, _ => rfl
  | (a, o, n) :: rest, s, bs, st => by
    have kept := engines_resolve s v a acc
    rw [readParts]
    split <;> rename_i e <;> rw [e] at kept
    · exact (engines_readParts v acc rest _ _ _).trans kept
    · split
      · exact ((engines_readParts v acc rest _ _ _).trans (engines_countTurn _ _)).trans kept
      · rename_i p noalloc u _ _
        have read := engines_mcRead u p noalloc
        split <;> rename_i e <;> rw [e] at read
        · exact (engines_readParts v acc rest _ _ _).trans (read.trans kept)
        · exact (engines_readParts v acc rest _ _ _).trans (read.trans kept)

theorem engines_readMem (s : State) (v : Via) (acc : Access) (a n : Nat) : (s.readMem v acc a n).2.2.engines = s.engines :=
  engines_readParts _ _ _ _ _ _

/-! ### Writes (R219, R221, R231) -/

@[simp] theorem engines_noteShutWrite (s : State) (stack pa : Nat) (st : Status) : (s.noteShutWrite stack pa st).engines = s.engines := by
  rw [noteShutWrite]
  split
  · rw [engines_notify, engines_noteShut]
  · exact engines_noteShut _ _ _

@[simp] theorem engines_dropWrite (s : State) (pa : Nat) : (s.dropWrite pa).engines = s.engines := by
  rw [dropWrite]
  split
  · rfl
  · rw [engines_notify]; rfl

@[simp] theorem engines_noteWrite (s : State) (p : Place) (noalloc : Bool) (bad : BitVec 16) (read : Bool) :
    (s.noteWrite p noalloc bad read).engines = s.engines := by
  rw [noteWrite]
  split
  · rfl
  · split <;> rfl

theorem engines_mergeWrite (s : State) (pa : Nat) (noalloc : Bool) (mask : BitVec 16) (data : List QW) :
    (s.mergeWrite pa noalloc mask data).engines = s.engines := by
  rw [mergeWrite]
  split
  · exact engines_noteWrite _ _ _ _ _
  · have read : (if decide (mask = 0xFFFF) then (false, s) else s.cellRead pa).2.engines = s.engines := by
      split
      · rfl
      · exact engines_cellRead s pa
    exact (engines_noteWrite _ _ _ _ _).trans read

theorem engines_updCsus {α : Type} (k : α → Nat) (f : α → Csu → Csu) (l : List α) (s : State) :
    (l.foldl (fun s i => s.updCsu (k i) (f i)) s).engines = s.engines :=
  foldl_keeps (f := fun (s : State) i => s.updCsu (k i) (f i)) (P := fun u : State => u.engines = s.engines) (fun _ _ h => h) l rfl

@[simp] theorem engines_writeInvals (s : State) (line : BitVec 32) (mask : BitVec 64) (wid : Nat) :
    (s.writeInvals line mask wid).engines = s.engines := by
  rw [writeInvals]
  split
  · exact engines_updCsus id (fun _ => (·.passWrite line)) _ s
  · rfl

theorem engines_landInvals (s : State) (line : BitVec 32) : (s.landInvals line).engines = s.engines :=
  engines_updCsus (fun i : Inval => i.csu.toNat) (fun i c => (c.dropLine line (if i.evict then 0x1C else 0x20)).passWrite line) _ _

theorem engines_dirWrite (s : State) (stack line : Nat) (paLine : BitVec 32) (wid : Nat) :
    (s.dirWrite stack line paLine wid).engines = s.engines := by
  have landed : (if wid = 0 ∧ s.net.invals ≠ [] then s.landInvals paLine else s).engines = s.engines := by
    split
    · exact engines_landInvals s paLine
    · rfl
  rw [dirWrite]
  split
  · exact landed
  · exact (engines_writeInvals _ _ _ _).trans landed

theorem engines_mcWrite (s : State) (pa : Nat) (noalloc : Bool) (mask : BitVec 16) (data : List QW) (wid : Nat) :
    (s.mcWrite pa noalloc mask data wid).2.engines = s.engines := by
  rw [mcWrite]
  split
  · exact engines_noteShutWrite _ _ _ _
  · split
    · rfl
    · split
      · exact engines_dropWrite s pa
      · exact (engines_dirWrite _ _ _ _ _).trans (engines_mergeWrite _ _ _ _ _)

theorem engines_writeParts (v : Via) (acc : Access) (wid : Nat) : ∀ (l : List (Nat × Nat × Nat)) (s : State) (bs : List MB) (st : Status),
    (s.writeParts v acc wid l bs st).2.engines = s.engines
  | [], _, _, _ => rfl
  | (a, o, n) :: rest, s, bs, st => by
    have kept := engines_resolve s v a acc
    rw [writeParts]
    split <;> rename_i e <;> rw [e] at kept
    · exact (engines_writeParts v acc wid rest _ _ _).trans kept
    · split
      · exact ((engines_writeParts v acc wid rest _ _ _).trans (engines_countTurn _ _)).trans kept
      · exact (engines_writeParts v acc wid rest _ _ _).trans ((engines_mcWrite _ _ _ _ _ _).trans kept)

theorem engines_writeMem (s : State) (v : Via) (acc : Access) (a : Nat) (bs : List MB) : (s.writeMem v acc a bs).2.engines = s.engines :=
  engines_writeParts _ _ _ _ _ _ _

end State

end Sys2Proof.Machine
end

section
/-! PROOF. CLOSE payloads (R313): their receiver reads what their sender wrote; and move rings (R176 to R178): what the start of a descriptor
comes to. -/

namespace Sys2Proof.Machine

open Sys2Proof

/-! ### CLOSE payloads (R313) -/

theorem leNat_leBytes (n x : Nat) : leNat (leBytes n x) = x % 256 ^ n := by
  induction n generalizing x with
  | zero => rw [Nat.pow_zero, Nat.mod_one]; rfl
  | succ n ih =>
    have cut : x % 256 ^ (n + 1) = x % 256 + 256 * (x / 256 % 256 ^ n) := by rw [Nat.pow_succ', Nat.mod_mul]
    rw [leBytes, leNat, ih, BitVec.toNat_ofNat, Nat.mod_mod, cut]

theorem bitsOf_leBytes (x : Nat) : bitsOf 32 (leBytes 4 x) = BitVec.ofNat 32 x := by
  apply BitVec.eq_of_toNat_eq
  rw [bitsOf, leNat_leBytes, BitVec.toNat_ofNat, BitVec.toNat_ofNat]
  omega

@[simp] theorem length_leBytes (n x : Nat) : (leBytes n x).length = n := by
  induction n generalizing x with
  | zero => rfl
  | succ n ih => rw [leBytes, List.length_cons, ih]

theorem leBytes_add (m n x : Nat) : leBytes (m + n) x = leBytes m x ++ leBytes n (x / 256 ^ m) := by
  induction m generalizing x with
  | zero => rw [Nat.zero_add, Nat.pow_zero, Nat.div_one]; rfl
  | succ m ih => rw [Nat.succ_add, leBytes, ih, leBytes, List.cons_append, Nat.div_div_eq_div_mul, Nat.pow_succ']

/-- The words that bytes spell do not depend on their marks. -/
theorem leNat_congr : ∀ {a b : List MB}, a.map (·.b) = b.map (·.b) → leNat a = leNat b
  | [], [], _ => rfl
  | x :: a, y :: b, h => by
    rw [List.map_cons, List.map_cons, List.cons.injEq] at h
    rw [leNat, leNat, h.1, leNat_congr h.2]

theorem closeOf_congr {a b : List MB} (h : a.map (·.b) = b.map (·.b)) : closeOf a = closeOf b := by
  have words (i : Nat) : (bitsOf 32 ((a.drop (4 * i)).take 4) : W32) = bitsOf 32 ((b.drop (4 * i)).take 4) := by
    rw [bitsOf, bitsOf, leNat_congr (b := (b.drop (4 * i)).take 4) (by rw [List.map_take, List.map_drop, h, List.map_take, List.map_drop])]
  simp only [closeOf, words]

theorem map_marked (poison : W64) (d : List Byte) : (marked poison d).map (·.b) = d := by
  rw [marked, List.map_map]
  exact List.map_snd_zip (by simp)

/-- The `i`-th word among the bytes of words. -/
theorem word_of_words : ∀ (l : List Nat) (i : Nat) (h : i < l.length),
    (bitsOf 32 (((l.flatMap (leBytes 4 ·)).drop (4 * i)).take 4) : W32) = BitVec.ofNat 32 l[i]
  | x :: l, 0, _ => by
    rw [List.flatMap_cons, Nat.mul_zero, List.drop_zero, List.take_left' (length_leBytes 4 x), bitsOf_leBytes]; rfl
  | x :: l, i + 1, h => by
    rw [List.flatMap_cons, show 4 * (i + 1) = (leBytes 4 x).length + 4 * i by rw [length_leBytes]; omega, List.drop_length_add_append,
      word_of_words l i (Nat.lt_of_succ_lt_succ h)]
    rfl

/-- The eight words of a CLOSE payload. -/
def closeWords (kind : Nat) (b : CloseBody) : List Nat :=
  [kind + (if b.dropped then 256 else 0), b.step.toNat, b.arg0.toNat, b.arg1.toNat, b.mark.toNat, b.mark.toNat / 256 ^ 4, b.cver.toNat, 0]

theorem closeData_eq (kind : Nat) (b : CloseBody) : closeData kind b = (closeWords kind b).flatMap (leBytes 4 ·) := by
  rw [closeData, show leBytes 8 b.mark.toNat = _ from leBytes_add 4 4 _, closeWords]
  simp only [List.flatMap_cons, List.flatMap_nil, List.append_nil, List.append_assoc]

/-- A 64-bit value is its two words. -/
theorem join64_words (x : W64) : join64 (BitVec.ofNat 32 x.toNat) (BitVec.ofNat 32 (x.toNat / 256 ^ 4)) = x := by
  have hx := x.isLt
  apply BitVec.eq_of_toNat_eq
  rw [join64, BitVec.toNat_append, ← Nat.shiftLeft_add_eq_or_of_lt (BitVec.isLt _), Nat.shiftLeft_eq, BitVec.toNat_ofNat, BitVec.toNat_ofNat]
  omega

theorem closeOf_closeData (kind : Nat) (b : CloseBody) (h : kind < 256) : closeOf (closeData kind b) = (kind, b) := by
  have first : (BitVec.ofNat 32 (kind + if b.dropped then 256 else 0)).toNat = kind + if b.dropped then 256 else 0 :=
    Nat.mod_eq_of_lt (by split <;> omega)
  have low : (kind + if b.dropped then 256 else 0) % 256 = kind := by split <;> omega
  have dropped : bit (BitVec.ofNat 32 (kind + if b.dropped then 256 else 0)) 8 = b.dropped := by
    rw [bit, BitVec.getLsbD, first, Nat.testBit_eq_decide_div_mod_eq]
    cases b.dropped with
    | false => exact decide_eq_false (by simp only [Bool.false_eq_true, if_false]; omega)
    | true => exact decide_eq_true (by simp only [if_true]; omega)
  have word (i : Nat) (h : i < 8) := word_of_words (closeWords kind b) i h
  rw [closeData_eq, closeOf]
  dsimp only
  rw [word 0 (by decide), word 1 (by decide), word 2 (by decide), word 3 (by decide), word 4 (by decide), word 5 (by decide),
    word 6 (by decide)]
  simp only [closeWords, List.getElem_cons_zero, List.getElem_cons_succ, first, low, dropped, join64_words]
  simp only [BitVec.ofNat_toNat, BitVec.setWidth_eq]

/-- The receiver of a CLOSE packet finds in it what its sender has put there (R313). -/
theorem closeOf_closePkt (kind : Nat) (dev : DevId) (cls : BitVec 3) (job count : Byte) (abort : Bool) (b : CloseBody) (h : kind < 256) :
    closeOf (closePkt kind dev cls job count abort b).payload = (kind, b) :=
  (closeOf_congr (map_marked _ _)).trans (closeOf_closeData kind b h)

/-! ### Move rings (R176 to R178) -/

/-- Where the next descriptor of a ring stands. -/
def MvRing.nextAt (r : MvRing) : Nat := addr48 r.baseLo r.baseHi + 32 * r.head.toNat

/-- A ring of a running engine is enabled, is owed a descriptor and executes none, and the next one has been read whole. -/
structure MoveDue (s u : State) (h k : Nat) (desc : BitVec 256) : Prop where
  runs : s.ceRuns h = true
  enabled : bit ((s.ce h).ring k).ctrl 31 = true
  owed : ((s.ce h).ring k).owed ≠ 0
  more : ((s.ce h).ring k).head ≠ ((s.ce h).ring k).tail
  idle : ((s.ce h).ring k).run = none
  read : ∃ bs, s.readMem (viaCe h) .r ((s.ce h).ring k).nextAt 32 = (bs, stOk, u) ∧ anyPoison bs = false ∧ bitsOf 256 bs = desc

namespace State

/-- The descriptor that a ring executes. -/
def moveRun (s : State) (h k : Nat) : Option MvRun := ((s.ce h).ring k).run

variable (s : State) {h k : Nat}

@[simp] theorem updRing_ring (f : MvRing → MvRing) : ((s.updRing h k f).ce h).ring k = f ((s.ce h).ring k) := by
  rw [updRing, updCe_ce_same, Ce.ring, Ce.updRing, SMap.get_upd_same]; rfl

@[simp] theorem updRing_lots (f : MvRing → MvRing) : ((s.updRing h k f).ce h).lots = (s.ce h).lots := by
  rw [updRing, updCe_ce_same, Ce.updRing]

/-- Ring `k` executes the descriptor `run`. -/
def moving (h k : Nat) (run : MvRun) : State := s.updRing h k fun r => { r with run := some run }

@[simp] theorem moving_lots (run : MvRun) : ((s.moving h k run).ce h).lots = (s.ce h).lots := s.updRing_lots _

@[simp] theorem moveRun_moving (run : MvRun) : (s.moving h k run).moveRun h k = some run := by
  rw [moveRun, moving, updRing_ring]

theorem moveRun_noteMove (n : Nat) : (s.noteMove h k n stOk).moveRun h k =
    (s.moveRun h k).map fun r => { r with left := r.left + n, status := if r.status = stOk then stOk else r.status } := by
  rw [moveRun, noteMove, updRun, updRing_ring]; rfl

variable {s}

theorem endMove_ends {run : MvRun} (here : s.moveRun h k = some run) (none_left : run.left = 0) : s.endMove h k = s.finishMove h k := by
  rw [moveRun] at here
  rw [endMove, here]
  exact if_pos none_left

theorem endMove_waits {run : MvRun} (here : s.moveRun h k = some run) (some_left : run.left ≠ 0) : s.endMove h k = s := by
  rw [moveRun] at here
  rw [endMove, here]
  exact if_neg some_left

end State

namespace MoveDue

variable {s u : State} {h k : Nat} {desc : BitVec 256} (d : MoveDue s u h k desc) {op : Nat}
include d

/-- The descriptor that is due stays where it is not of the kind that is to start, and else starts, or ends at once where it is malformed. -/
theorem start_eq : s.startMove h k op =
    if (mvFields desc).op ≠ op ∧ ((mvFields desc).op = 1 ∨ (mvFields desc).op = 2) then s
    else (if (mvFields desc).bad = true then u.moving h k { addr := ((s.ce h).ring k).nextAt, desc := desc, status := stBadParam }
      else (u.moving h k { addr := ((s.ce h).ring k).nextAt, desc := desc }).beginMove h k (mvFields desc)).endMove h k := by
  obtain ⟨runs, enabled, owed, more, idle, bs, read, sound, rfl⟩ := d
  have goes : (s.ceRuns h && bit ((s.ce h).ring k).ctrl 31 &&
      decide (((s.ce h).ring k).owed ≠ 0 ∧ ((s.ce h).ring k).head ≠ ((s.ce h).ring k).tail) && ((s.ce h).ring k).run.isNone) = true := by
    rw [runs, enabled, idle, decide_eq_true ⟨owed, more⟩]; rfl
  rw [MvRing.nextAt] at read
  rw [State.startMove]
  simp only [goes, read, sound, Bool.not_true, Bool.false_eq_true, if_false, and_false, if_true, true_and]
  split
  · rfl
  · cases (mvFields (bitsOf 256 bs)).bad <;> rfl

theorem start_other (kind : (mvFields desc).op = 1 ∨ (mvFields desc).op = 2) (other : (mvFields desc).op ≠ op) : s.startMove h k op = s :=
  d.start_eq.trans (if_pos ⟨other, kind⟩)

theorem start_good (same : (mvFields desc).op = op) (good : (mvFields desc).bad = false) : s.startMove h k op =
    ((u.moving h k { addr := ((s.ce h).ring k).nextAt, desc := desc }).beginMove h k (mvFields desc)).endMove h k := by
  rw [d.start_eq, if_neg (fun other => other.1 same), if_neg (by rw [good]; exact Bool.false_ne_true)]

theorem start_bad (same : (mvFields desc).op = op) (bad : (mvFields desc).bad = true) : s.startMove h k op =
    (u.moving h k { addr := ((s.ce h).ring k).nextAt, desc := desc, status := stBadParam }).finishMove h k := by
  rw [d.start_eq, if_neg (fun other => other.1 same), if_pos bad]
  exact State.endMove_ends (State.moveRun_moving _ _) rfl

end MoveDue

/-! ### The READs of a GET (R178) -/

/-- A length that is not 0 has some pieces. -/
theorem length_pieces_ne_zero {m n : Nat} (hm : 0 < m) (hn : n ≠ 0) : (pieces m n).length ≠ 0 := by
  rw [pieces, List.length_map, List.length_range]
  exact (Nat.div_pos (by omega) hm).ne'

/-- R177: a descriptor that is well formed has bytes to move. -/
theorem MvFields.len_of_good {f : MvFields} (good : f.bad = false) : f.len ≠ 0 := by
  rw [MvFields.bad, decide_eq_false_iff_not] at good
  omega

/-- A READ of one piece of a GET. -/
def Asks (h k : Nat) (f : MvFields) (e : Nat × Nat) (w : Waiting) : Prop :=
  w.pkt.op = opRead ∧ w.pkt.h.addr = BitVec.ofNat 48 (f.remote + e.1) ∧ w.pkt.h.len = BitVec.ofNat 13 e.2 ∧
    w.who = .move (BitVec.ofNat 1 h) (BitVec.ofNat 4 k) e.1

namespace State

theorem moveRun_want (s : State) (p : Pkt) (who : Issuer) (h k : Nat) : (s.want p who).moveRun h k = s.moveRun h k := rfl

/-- A GET asks for each of its pieces, and awaits as many answers. -/
theorem getPieces_asks (h k : Nat) (f : MvFields) : ∀ (ps : List (Nat × Nat)) (s : State),
    ((s.getPieces h k f ps).moveRun h k).map (·.left) = (s.moveRun h k).map (·.left + ps.length) ∧
    ∃ ws, (s.getPieces h k f ps).fab.waiting = s.fab.waiting ++ ws ∧ ws.length = ps.length ∧ ∀ e ∈ ps, ∃ w ∈ ws, Asks h k f e w
  | [], s => ⟨rfl, [], (List.append_nil _).symm, rfl, fun _ he => absurd he List.not_mem_nil⟩
  | (o, n) :: ps, s => by
    obtain ⟨left, ws, waiting, length, asks⟩ := getPieces_asks h k f ps _
    rw [getPieces]
    refine ⟨left.trans ?_, _ :: ws, waiting.trans (List.append_assoc _ _ _), congrArg (· + 1) length, fun e he => ?_⟩
    · rw [moveRun_want, moveRun_noteMove, Option.map_map]
      congr 1
      funext r
      simp only [Function.comp, List.length_cons]
      omega
    · rcases List.mem_cons.1 he with rfl | he
      · exact ⟨_, List.mem_cons_self, rfl, rfl, rfl, rfl⟩
      · obtain ⟨w, hw, asked⟩ := asks e he
        exact ⟨w, List.mem_cons_of_mem _ hw, asked⟩

theorem beginMove_put (s : State) (h k : Nat) {f : MvFields} (put : f.op = 1) : s.beginMove h k f = s.putPieces h k f (pieces 4096 f.len) :=
  if_pos put

/-- A GET that names no lot, or one that has been filled, asks for its pieces. -/
theorem beginMove_get (s : State) (h k : Nat) {f : MvFields} (get : f.op = 2)
    (lot : f.lotEn = false ∨ SMap.get false (s.ce h).lots f.lot = true) : s.beginMove h k f = s.getPieces h k f (pieces 4096 f.len) := by
  have filled : ¬(f.lotEn && !SMap.get false (s.ce h).lots f.lot) = true := by
    rcases lot with off | full
    · rw [off, Bool.false_and]; exact Bool.false_ne_true
    · rw [full, Bool.not_true, Bool.and_false]; exact Bool.false_ne_true
  rw [beginMove, if_neg (by rw [get]; decide), if_neg filled]

end State

/-- A GET that is due asks for each of its pieces with a READ, and awaits as many answers. -/
theorem MoveDue.get_asks {s u : State} {h k : Nat} {desc : BitVec 256} (d : MoveDue s u h k desc) (get : (mvFields desc).op = 2)
    (good : (mvFields desc).bad = false) (lot : (mvFields desc).lotEn = false ∨ SMap.get false (u.ce h).lots (mvFields desc).lot = true) :
    let ps := pieces 4096 (mvFields desc).len; let t := s.startMove h k 2
    (t.moveRun h k).map (·.left) = some ps.length ∧
      ∃ ws, t.fab.waiting = u.fab.waiting ++ ws ∧ ws.length = ps.length ∧ ∀ e ∈ ps, ∃ w ∈ ws, Asks h k (mvFields desc) e w := by
  intro ps t
  obtain ⟨left, asks⟩ := State.getPieces_asks h k (mvFields desc) ps (u.moving h k { addr := ((s.ce h).ring k).nextAt, desc := desc })
  rw [State.moveRun_moving, Option.map_some, Nat.zero_add] at left
  obtain ⟨run, here, left_run⟩ := Option.map_eq_some_iff.1 left
  have awaits : run.left ≠ 0 := by rw [left_run]; exact length_pieces_ne_zero (by decide) (MvFields.len_of_good good)
  have started : t = (u.moving h k { addr := ((s.ce h).ring k).nextAt, desc := desc }).getPieces h k (mvFields desc) ps := by
    have goes := d.start_good get good
    rw [State.beginMove_get _ _ _ get (by rwa [State.moving_lots])] at goes
    exact goes.trans (State.endMove_waits here awaits)
  rw [started]
  exact ⟨left, asks⟩

end Sys2Proof.Machine
end

section
/-! PROOF. Reduction lists (R293 to R325): what the start of a descriptor comes to, and what the end of others of its list leaves of it. -/

namespace Sys2Proof.Machine

open Sys2Proof

/-! ### The descriptors in execution of a list (R294) -/

namespace State

variable (s : State) {h k id : Nat}

@[simp] theorem updList_list (f : RList → RList) : ((s.updList h k f).ce h).list k = f ((s.ce h).list k) := by
  rw [updList, updCe_ce_same, Ce.list, Ce.updList, SMap.get_upd_same]; rfl

theorem drun_updList (f : RList → RList) : (s.updList h k f).drun h k id = (f ((s.ce h).list k)).runs.find? fun r => decide (r.id = id) := by
  rw [drun, updList_list]

/-- A change of the descriptor in execution under a number is one of that descriptor alone. -/
theorem drun_updDrun {f : DRun → DRun} (names : ∀ r, (f r).id = r.id) (id' : Nat) :
    (s.updDrun h k id' f).drun h k id = if id = id' then (s.drun h k id).map f else s.drun h k id := by
  have same (r : DRun) : (if r.id = id' then f r else r).id = r.id := by split <;> simp only [names]
  rw [updDrun, drun_updList, List.find?_map, drun]
  simp only [Function.comp_def, same]
  cases found : List.find? (fun r => decide (r.id = id)) ((s.ce h).list k).runs with
  | none => simp
  | some r =>
    have hr : r.id = id := by simpa using List.find?_some found
    simp only [Option.map_some, hr]
    split <;> rfl

theorem drun_noteDesc (n : Nat) (st : Status) : (s.noteDesc h k id n st).drun h k id =
    (s.drun h k id).map fun r => { r with left := r.left + n, status := if r.status = stOk then st else r.status } := by
  rw [noteDesc, drun_updDrun, if_pos rfl]
  exact fun _ => rfl

theorem drun_noteDesc_other {id' : Nat} (other : id ≠ id') (n : Nat) (st : Status) :
    (s.noteDesc h k id' n st).drun h k id = s.drun h k id := by
  rw [noteDesc, drun_updDrun, if_neg other]
  exact fun _ => rfl

variable {s}

theorem endDesc_waits {run : DRun} (here : s.drun h k id = some run) (some_left : run.left ≠ 0) : s.endDesc h k id = s := by
  rw [endDesc, here]
  exact if_neg fun ends => some_left ends.1

/-! ### What the end of one descriptor leaves of another -/

/-- What an ending descriptor leaves as it is: the requests that wait, and the descriptor in execution under number `id`. -/
def unended (s : State) (h k id : Nat) : Fab × Option DRun := (s.fab, s.drun h k id)

theorem unended_of_engines {t : State} (kept : t.engines = s.engines) : t.unended h k id = s.unended h k id := by
  have coll : t.coll = s.coll := congrArg (·.1) kept
  have fab : t.fab = s.fab := congrArg (·.2.1) kept
  rw [unended, unended, fab, drun, ce, coll]; rfl

theorem unended_countCe (s : State) (off n : Nat) : (s.countCe off n).unended h k id = s.unended h k id := rfl

theorem unended_updCg (s : State) (g : Nat) (f : Cg → Cg) : (s.updCg g f).unended h k id = s.unended h k id := rfl

theorem engines_ceTokens (s : State) (h : Nat) (core : CoreId) (tc : BitVec 3) (n : BitVec 16) :
    (s.ceTokens h core tc n).2.engines = s.engines := by
  rw [ceTokens]
  split
  · rfl
  · split
    · exact engines_countTurn _ _
    · rfl

theorem engines_notifyEnd (s : State) (h : Nat) (f : NotifyF) (st : Status) : (s.notifyEnd h f st).2.engines = s.engines := by
  rw [notifyEnd]
  split
  · rfl
  · split
    · exact engines_notify _ _ _
    · split
      · rfl
      · exact engines_ceTokens _ _ _ _ _

theorem unended_noteDesc (s : State) {id' : Nat} (other : id ≠ id') (n : Nat) (st : Status) :
    (s.noteDesc h k id' n st).unended h k id = s.unended h k id :=
  congrArg (Prod.mk s.fab) (s.drun_noteDesc_other other n st)

/-- The images that are widened leave it. -/
theorem unended_widenAll (s : State) {id' : Nat} (other : id ≠ id') (f : DFields) (bs : List MB) :
    (s.widenAll h k id' f bs).unended h k id = s.unended h k id := by
  rw [widenAll]
  refine foldl_keeps (P := fun t : State => t.unended h k id = s.unended h k id) ?_ _ rfl
  intro t e kept
  dsimp only
  rw [unended_countCe, unended_noteDesc _ other, unended_of_engines (engines_writeMem _ _ _ _ _), kept]

/-- Another descriptor leaves the list. -/
theorem unended_dropDesc (s : State) {id' : Nat} (other : id ≠ id') {f : RList → RList}
    (drops : ∀ l, (f l).runs = l.runs.filter fun r => decide (r.id ≠ id')) : (s.updList h k f).unended h k id = s.unended h k id := by
  have misses (r : DRun) : (decide (r.id ≠ id') = true ∧ decide (r.id = id) = true) ↔ r.id = id := by
    simp only [decide_eq_true_eq, and_iff_right_iff_imp]
    rintro rfl
    exact other
  rw [unended, drun_updList, drops, List.find?_filter]
  simp only [misses]
  rfl

/-- Another descriptor's end leaves it. -/
theorem unended_finishDesc (s : State) {id' : Nat} (other : id ≠ id') : (s.finishDesc h k id').unended h k id = s.unended h k id := by
  rw [finishDesc]
  split
  · rfl
  · rename_i r _
    extract_lets f widened st poisoned grouped
    have kept_widened : widened.unended h k id = s.unended h k id := by
      simp only [widened]
      split
      · exact unended_widenAll s other _ _
      · rfl
    have kept_poisoned : poisoned.unended h k id = s.unended h k id := by
      simp only [poisoned]
      split
      · rw [unended_countCe, poisonGather, poisonAt, unended_of_engines (engines_writeMem _ _ _ _ _), kept_widened]
      · exact kept_widened
    have kept_grouped : grouped.unended h k id = s.unended h k id := by
      simp only [grouped]
      split
      · rw [checkGroup, unended_updCg, unended_updCg, kept_poisoned]
      · exact kept_poisoned
    have notified := engines_notifyEnd grouped h f.note st
    split
    rename_i eq
    rw [eq] at notified
    rw [unended_dropDesc _ other, unended_of_engines (engines_writeMem _ _ _ _ _), unended_of_engines notified, kept_grouped]
    intro l
    dsimp only
    split <;> rfl

theorem unended_endDesc (s : State) {id' : Nat} (other : id ≠ id') : (s.endDesc h k id').unended h k id = s.unended h k id := by
  rw [endDesc]
  split
  · split
    · exact unended_finishDesc s other
    · rfl
  · rfl

/-- The GATHERs that end leave a descriptor of the list that awaits an answer. -/
theorem unended_endGathers {run : DRun} (here : s.drun h k id = some run) (some_left : run.left ≠ 0) :
    (s.endGathers h k).unended h k id = s.unended h k id := by
  rw [endGathers]
  refine foldl_keeps (P := fun t : State => t.unended h k id = s.unended h k id) ?_ _ rfl
  intro t r kept
  by_cases other : id = r.id
  · have there : t.drun h k id = some run := (congrArg (·.2) kept).trans here
    rw [← other, endDesc_waits there some_left, kept]
  · exact (unended_endDesc t other).trans kept

@[simp] theorem engines_yieldFrames (s : State) : s.yieldFrames.engines = s.engines := by
  rw [yieldFrames]
  refine foldl_keeps (P := fun t : State => t.engines = s.engines) ?_ _ rfl
  exact fun _ _ kept => kept

end State

/-! ### Starting a descriptor (R294) -/

theorem le_foldl_max : ∀ (l : List Nat) (m : Nat), m ≤ l.foldl Nat.max m ∧ ∀ x ∈ l, x ≤ l.foldl Nat.max m
  | [], m => ⟨Nat.le_refl m, fun _ hx => absurd hx List.not_mem_nil⟩
  | y :: l, m => by
    obtain ⟨low, all⟩ := le_foldl_max l (Nat.max m y)
    refine ⟨(Nat.le_max_left m y).trans low, fun x hx => ?_⟩
    rcases List.mem_cons.1 hx with rfl | hx
    · exact (Nat.le_max_right m x).trans low
    · exact all x hx

/-- The number of the next descriptor that a list starts, which none of it has. -/
def RList.newId (l : RList) : Nat := (l.runs.map (·.id)).foldl Nat.max 0 + 1

theorem RList.newId_fresh (l : RList) {r : DRun} (h : r ∈ l.runs) : r.id ≠ l.newId := by
  have low := (le_foldl_max (l.runs.map (·.id)) 0).2 r.id (List.mem_map_of_mem h)
  rw [newId]
  omega

/-- Where the next descriptor of a list stands. -/
def RList.nextAt (l : RList) : Nat := addr48 l.baseLo l.baseHi + 64 * l.next.toNat

/-- The next descriptor of a list, in execution. -/
def RList.newRun (l : RList) (desc : BitVec 512) : DRun := { id := l.newId, addr := l.nextAt, desc := desc }

/-- A list of a running engine is enabled, is owed an occurrence that has a descriptor left, and has room for it, which has been read whole
and is well formed. -/
structure DescDue (s u : State) (h k : Nat) (desc : BitVec 512) : Prop where
  runs : s.ceRuns h = true
  enabled : bit ((s.ce h).list k).ctrl 31 = true
  owed : ((s.ce h).list k).owed ≠ 0
  more : ((s.ce h).list k).next < ((s.ce h).list k).len
  room : ((s.ce h).list k).runs.length < 8
  read : ∃ bs, s.readMem (viaCe h) .r ((s.ce h).list k).nextAt 64 = (bs, stOk, u) ∧ anyPoison bs = false ∧ bitsOf 512 bs = desc
  good : (dFields desc).bad = false

/-- List `k` takes up its next descriptor as `run`. -/
def State.takenUp (s : State) (h k : Nat) (run : DRun) : State :=
  s.updList h k fun l => { l with next := l.next + 1, runs := l.runs ++ [run] }

theorem State.drun_takenUp {s : State} {h k : Nat} {run : DRun} (fresh : ∀ r ∈ ((s.ce h).list k).runs, r.id ≠ run.id) :
    (s.takenUp h k run).drun h k run.id = some run := by
  have others : ((s.ce h).list k).runs.find? (fun r => decide (r.id = run.id)) = none :=
    List.find?_eq_none.2 fun r hr => by simpa using fresh r hr
  rw [takenUp, drun_updList, List.find?_append, others]
  simp

/-- R294: a descriptor that is well formed has one of the four operations. -/
theorem DFields.op_of_good {f : DFields} (good : f.bad = false) : 1 ≤ f.op ∧ f.op ≤ 4 := by
  simp only [bad, Bool.or_eq_false_iff, decide_eq_false_iff_not, not_or] at good
  omega

namespace DescDue

variable {s u : State} {h k : Nat} {desc : BitVec 512} (d : DescDue s u h k desc) {op : Nat}
include d

/-- A well-formed descriptor that is due stays where it is not of the kind that is to start, or waits for its group, and else starts. -/
theorem start_eq : let f := dFields desc; let l := (s.ce h).list k
    let t := if f.op = 3 ∧ f.hold = true then u.useGroup f.group else u
    s.startDesc h k op = if f.op ≠ op ∨ (f.op = 3 ∧ f.hold = true ∧ (t.cg f.group).st ≠ 3) then s
      else ((t.takenUp h k (l.newRun desc)).beginDesc h k l.newId f).endDesc h k l.newId := by
  obtain ⟨runs, enabled, owed, more, room, ⟨bs, read, sound, rfl⟩, good⟩ := d
  obtain ⟨low, high⟩ := DFields.op_of_good good
  have goes : (s.ceRuns h && bit ((s.ce h).list k).ctrl 31 &&
      decide (((s.ce h).list k).owed ≠ 0 ∧ ((s.ce h).list k).next < ((s.ce h).list k).len ∧ ((s.ce h).list k).runs.length < 8)) = true := by
    rw [runs, enabled, decide_eq_true ⟨owed, more, room⟩]; rfl
  rw [RList.nextAt] at read
  rw [State.startDesc]
  simp only [goes, read, sound, good, low, high, Bool.not_true, Bool.false_eq_true, if_false, and_false, if_true, true_and, and_true,
    decide_eq_true_eq]
  rfl

theorem start_other (other : (dFields desc).op ≠ op) : s.startDesc h k op = s := d.start_eq.trans (if_pos (.inl other))

theorem start_held (close : (dFields desc).op = 3) (hold : (dFields desc).hold = true)
    (unreleased : ((u.useGroup (dFields desc).group).cg (dFields desc).group).st ≠ 3) : s.startDesc h k op = s :=
  d.start_eq.trans (if_pos (.inr ⟨close, hold, by rw [if_pos ⟨close, hold⟩]; exact unreleased⟩))

/-- A descriptor that waits for no group starts. -/
theorem start_goes (same : (dFields desc).op = op)
    (free : ¬((dFields desc).op = 3 ∧ (dFields desc).hold = true)) :
    s.startDesc h k op = ((u.takenUp h k (((s.ce h).list k).newRun desc)).beginDesc h k ((s.ce h).list k).newId (dFields desc)).endDesc h k
      ((s.ce h).list k).newId := by
  have starts : ¬((dFields desc).op ≠ op ∨ ((dFields desc).op = 3 ∧ (dFields desc).hold = true ∧
      ((if (dFields desc).op = 3 ∧ (dFields desc).hold = true then u.useGroup (dFields desc).group else u).cg
        (dFields desc).group).st ≠ 3)) := by
    rintro (other | ⟨close, hold, -⟩)
    · exact other same
    · exact free ⟨close, hold⟩
  rw [d.start_eq, if_neg starts, if_neg free]

/-- Reading the descriptor leaves the engines. -/
theorem kept : u.engines = s.engines := by
  have read := State.engines_readMem s (viaCe h) .r ((s.ce h).list k).nextAt 64
  obtain ⟨bs, whole, -⟩ := d.read
  rwa [whole] at read

theorem drun_takenUp : (u.takenUp h k (((s.ce h).list k).newRun desc)).drun h k ((s.ce h).list k).newId =
    some (((s.ce h).list k).newRun desc) := by
  have coll : u.coll = s.coll := congrArg (·.1) d.kept
  refine State.drun_takenUp (run := ((s.ce h).list k).newRun desc) fun r hr => ?_
  rw [State.ce, coll] at hr
  exact RList.newId_fresh _ hr

theorem csuUnits_kept (c : Nat) : u.csuUnits c = s.csuUnits c := by
  have cfg : (u.cluster c).cfg = (s.cluster c).cfg := congrFun (congrArg (·.2.2) d.kept) c
  rw [State.csuUnits, cfg, State.csuUnits]

end DescDue

/-! ### CLOSE and GATHER (R314, R323) -/

namespace State

section
variable (s : State) (h k id : Nat) {f : DFields}

theorem beginDesc_send (send : f.op = 1) : s.beginDesc h k id f = s.beginSend h k id f := by simp only [beginDesc, send]

theorem beginDesc_pass (pass : f.op = 2) : s.beginDesc h k id f = s.beginPass h k id f := by simp only [beginDesc, pass]

theorem beginDesc_close (close : f.op = 3) : s.beginDesc h k id f = s.beginClose h k id f := by simp only [beginDesc, close]

theorem beginDesc_gather (gather : f.op = 4) : s.beginDesc h k id f = s.beginGather h k id f := by simp only [beginDesc, gather]

end

/-- A CLOSE without HOLD sends one CONTRIB, whose contribution is the descriptor's count. -/
theorem beginClose_free {s : State} {h k id : Nat} {f : DFields} (free : f.hold = false) : ∃ count,
    s.beginClose h k id f = (s.noteDesc h k id 1 stOk).want (closePkt 1 f.dev (BitVec.ofNat 3 f.cls) f.job count false
      { step := s.coll.commit.step, arg0 := f.ccount.signExtend 32 }) (.desc (BitVec.ofNat 1 h) (BitVec.ofNat 4 k) id 0) := by
  rw [beginClose]
  simp only [free, Bool.false_and, Bool.false_eq_true, if_false]
  exact ⟨_, rfl⟩

theorem drun_want (s : State) (p : Pkt) (who : Issuer) (h k id : Nat) : (s.want p who).drun h k id = s.drun h k id := rfl

/-- A GATHER asks for each of its pieces, and awaits as many answers. -/
theorem gatherPieces_asks (h k id : Nat) (f : DFields) : ∀ (ps : List (Nat × Nat)) (s : State),
    ((s.gatherPieces h k id f ps).drun h k id).map (·.left) = (s.drun h k id).map (·.left + ps.length) ∧
    (s.gatherPieces h k id f ps).fab.waiting.length = s.fab.waiting.length + ps.length
  | [], s => ⟨rfl, rfl⟩
  | (o, n) :: ps, s => by
    obtain ⟨left, waiting⟩ := gatherPieces_asks h k id f ps _
    rw [gatherPieces]
    refine ⟨left.trans ?_, waiting.trans ?_⟩
    · rw [drun_want, drun_noteDesc, Option.map_map]
      congr 1
      funext r
      simp only [Function.comp, List.length_cons]
      omega
    · rw [want, List.length_append, List.length_cons, List.length_nil, List.length_cons]
      exact (Nat.add_assoc _ _ _).trans (congrArg _ (by omega))

end State

namespace DescDue

variable {s u : State} {h k : Nat} {desc : BitVec 512} (d : DescDue s u h k desc)
include d

theorem close_sends (close : (dFields desc).op = 3) (free : (dFields desc).hold = false) :
    let f := dFields desc; let t := s.startDesc h k 3
    (t.drun h k ((s.ce h).list k).newId).map (·.left) = some 1 ∧ ∃ w, t.fab.waiting = u.fab.waiting ++ [w] ∧ w.pkt.op = opClose ∧
      w.pkt.h.dstDev = f.dev ∧ w.pkt.h.job = f.job ∧
      closeOf w.pkt.payload = (1, { step := u.coll.commit.step, arg0 := f.ccount.signExtend 32 }) := by
  intro f t
  obtain ⟨count, begun⟩ := State.beginClose_free (s := u.takenUp h k (((s.ce h).list k).newRun desc)) (h := h) (k := k)
    (id := ((s.ce h).list k).newId) free
  have here : ((u.takenUp h k (((s.ce h).list k).newRun desc)).beginClose h k ((s.ce h).list k).newId f).drun h k ((s.ce h).list k).newId =
      some { ((s.ce h).list k).newRun desc with left := 1 } := by
    rw [begun, State.drun_want, State.drun_noteDesc, d.drun_takenUp]; rfl
  have started : t = (u.takenUp h k (((s.ce h).list k).newRun desc)).beginClose h k ((s.ce h).list k).newId f := by
    have goes := d.start_goes close fun held => Bool.false_ne_true (free.symm.trans held.2)
    rw [State.beginDesc_close _ _ _ _ close] at goes
    exact goes.trans (State.endDesc_waits here Nat.one_ne_zero)
  rw [started, here, begun]
  exact ⟨rfl, _, rfl, rfl, rfl, rfl, closeOf_closePkt 1 _ _ _ _ _ _ (by decide)⟩

/-- A GATHER awaits an answer for each of its pieces, also when other GATHERs of its list have ended. -/
theorem gather_asks (gather : (dFields desc).op = 4) (units : s.csuUnits (dFields desc).widenCl ≠ 0) (some_bytes : (dFields desc).len ≠ 0) :
    let n := (pieces 4088 (dFields desc).len).length; let t := (s.startDesc h k 4).yieldFrames.endGathers h k
    (t.drun h k ((s.ce h).list k).newId).map (·.left) = some n ∧ t.fab.waiting.length = u.fab.waiting.length + n := by
  intro n t
  let id := ((s.ce h).list k).newId
  let begun := u.takenUp h k (((s.ce h).list k).newRun desc)
  let v := begun.gatherPieces h k id (dFields desc) (pieces 4088 (dFields desc).len)
  obtain ⟨left, waiting⟩ := State.gatherPieces_asks h k id (dFields desc) (pieces 4088 (dFields desc).len) begun
  have left_n : (v.drun h k id).map (·.left) = some n := by
    rw [left, d.drun_takenUp, Option.map_some]
    exact congrArg some (Nat.zero_add n)
  obtain ⟨r, here, left_r⟩ := Option.map_eq_some_iff.1 left_n
  have awaits : r.left ≠ 0 := by rw [left_r]; exact length_pieces_ne_zero (by decide) some_bytes
  have started : s.startDesc h k 4 = v := by
    have goes := d.start_goes gather fun close => absurd (gather.symm.trans close.1) (by decide)
    have some_units : begun.csuUnits (dFields desc).widenCl ≠ 0 := fun none => units ((d.csuUnits_kept _).symm.trans none)
    rw [State.beginDesc_gather _ _ _ _ gather, State.beginGather, if_neg some_units] at goes
    exact goes.trans (State.endDesc_waits here awaits)
  have yielded : v.yieldFrames.unended h k id = v.unended h k id := State.unended_of_engines (State.engines_yieldFrames v)
  have ended : t.unended h k id = v.unended h k id := by
    have there : v.yieldFrames.drun h k id = some r := (congrArg (·.2) yielded).trans here
    rw [← yielded, ← State.unended_endGathers there awaits, ← started]
  have drun : t.drun h k id = v.drun h k id := congrArg (·.2) ended
  have fab : t.fab = v.fab := congrArg (·.1) ended
  exact ⟨(congrArg _ drun).trans left_n, (congrArg (·.waiting.length) fab).trans waiting⟩

end DescDue

/-! ### The obligation -/

/-- What an engine event leaves goes on its way. -/
theorem flushed_of_eq {t u : State} (h : t = u) : flushed (.next t) = .next u.flush := congrArg (fun t => flushed (.next t)) h

/-- Settles O31: an equation says what `startMove` and `startDesc` come to where a descriptor is due (`MoveDue.start_eq`, `DescDue.start_eq`);
what a GET, a CLOSE and a GATHER have asked for then follows from their pieces. -/
theorem descriptorsStart : Obligations.DescriptorsStart := by
  unfold Obligations.DescriptorsStart
  refine ⟨?moves, ?reductions⟩
  case moves =>
    intro s u half ring bs h k r a d f ps started runs enabled owed more idle read sound
    have due : MoveDue s u h k d := ⟨runs, enabled, owed, more, idle, bs, read, sound, rfl⟩
    refine ⟨fun put good => ⟨?put, ?notGet⟩, fun get good lot => ?get, fun bad => ⟨fun put => ?badPut, fun get => ?badGet⟩⟩
    case put =>
      have goes := due.start_good put good
      rw [State.beginMove_put _ _ _ put] at goes
      exact flushed_of_eq goes
    case notGet => exact flushed_of_eq (due.start_other (op := 2) (.inl put) (by rw [put]; decide))
    case get =>
      obtain ⟨left, ws, waiting, length, asks⟩ := due.get_asks get good lot
      refine ⟨s.startMove h k 2, rfl, left, ?_, fun e he => ?_, ?_⟩
      · rw [waiting, List.length_append, length]
      · obtain ⟨w, hw, op, addr, len, who⟩ := asks e he
        rw [BitVec.ofNat_toNat, BitVec.ofNat_toNat, BitVec.setWidth_eq, BitVec.setWidth_eq] at who
        exact ⟨w, waiting ▸ List.mem_append_right _ hw, op, addr, len, who⟩
      · exact flushed_of_eq (due.start_other (op := 1) (.inr get) (by rw [get]; decide))
    case badPut => exact flushed_of_eq (due.start_bad put bad)
    case badGet => exact flushed_of_eq (due.start_bad get bad)
  case reductions =>
    intro s u half list bs h k l a d f id started runs enabled owed more room read sound good
    have due : DescDue s u h k d := ⟨runs, enabled, owed, more, room, ⟨bs, read, sound, rfl⟩, good⟩
    have not_close {n : Nat} (other : f.op = n) (n3 : n ≠ 3) : ¬(f.op = 3 ∧ f.hold = true) := fun close => n3 (other.symm.trans close.1)
    refine ⟨fun send => ?send, fun pass => ?pass, fun close free => ?close, fun close hold unreleased => ?held,
      fun gather units some_bytes => ?gather, fun other => ?notClose⟩
    case send =>
      have goes := due.start_goes send (not_close send (by decide))
      rw [State.beginDesc_send _ _ _ _ send] at goes
      exact flushed_of_eq goes
    case pass =>
      have goes := due.start_goes pass (not_close pass (by decide))
      rw [State.beginDesc_pass _ _ _ _ pass] at goes
      exact flushed_of_eq goes
    case close => exact ⟨s.startDesc h k 3, rfl, due.close_sends close free⟩
    case held => exact flushed_of_eq (due.start_held close hold unreleased)
    case gather => exact ⟨(s.startDesc h k 4).yieldFrames.endGathers h k, rfl, due.gather_asks gather units some_bytes⟩
    case notClose => exact flushed_of_eq (due.start_other other)

end Sys2Proof.Machine
end

section
/-! PROOF. Clock steps (R29, R202, R398, R424, R434): why CLOCK_STEP is refused, what a commanded step makes of the clock of each half, and
the request whose halves step one after the other. -/

namespace Sys2Proof.Machine

open Sys2Proof

/-! ### Why a step is refused (R29) -/

namespace State

/-- Some half of a mask is such that `p`. -/
theorem any_named {halves : BitVec 2} {p : Nat → Bool} :
    ((List.range 2).any fun n => halves.getLsbD n && p n) = true ↔ ∃ n, (n < 2 ∧ halves.getLsbD n = true) ∧ p n = true := by
  simp only [List.any_eq_true, List.mem_range, Bool.and_eq_true, and_assoc]

section
variable {s : State} {halves : BitVec 2}

theorem clockBad_absent (absent : ∃ n, (n < 2 ∧ halves.getLsbD n = true) ∧ s.hasHalf n = false) : s.clockBad halves = stNotPresent := by
  have named : ((List.range 2).any fun n => halves.getLsbD n && !s.hasHalf n) = true := any_named.2 (by simpa using absent)
  exact if_pos named

theorem clockBad_present (present : ∀ n, n < 2 ∧ halves.getLsbD n = true → s.hasHalf n = true) :
    s.clockBad halves = if ((List.range 2).any fun n => halves.getLsbD n && s.pwr.gated.getLsbD n) then stBusy else stOk := by
  refine if_neg fun named => ?_
  obtain ⟨n, bad, absent⟩ := any_named.1 named
  rw [present n bad] at absent
  exact Bool.noConfusion absent

theorem clockBad_gated (present : ∀ n, n < 2 ∧ halves.getLsbD n = true → s.hasHalf n = true)
    (gated : ∃ n, (n < 2 ∧ halves.getLsbD n = true) ∧ s.pwr.gated.getLsbD n = true) : s.clockBad halves = stBusy := by
  rw [clockBad_present present, if_pos (any_named.2 gated)]

theorem clockBad_ok (good : ∀ n, n < 2 ∧ halves.getLsbD n = true → s.hasHalf n = true ∧ s.pwr.gated.getLsbD n = false) :
    s.clockBad halves = stOk := by
  rw [clockBad_present fun n bad => (good n bad).1]
  refine if_neg fun named => ?_
  obtain ⟨n, bad, gated⟩ := any_named.1 named
  rw [(good n bad).2] at gated
  exact Bool.noConfusion gated

end

/-! ### What a step makes of the clocks (R398, R424, R434) -/

@[simp] theorem notify_pwr (s : State) (code : BitVec 16) (ws : List W32) : (s.notify code ws).pwr = s.pwr := by
  have h := congrArg pwr (besidePorts_notify s code ws); exact h

theorem clockOf_updClock (s : State) (h j : Nat) (f : HalfClock → HalfClock) :
    (s.updClock h f).clockOf j = if j = h then f (s.clockOf h) else s.clockOf j := SMap.get_upd _ _ _ _ _

end State

/-- The clock of a half that runs at the slower of the step requested and its ceiling. -/
def HalfClock.settled (c : HalfClock) : HalfClock := { c with step := BitVec.ofNat 2 (Nat.max c.req.toNat (State.capStep c)) }

theorem HalfClock.settled_step (c : HalfClock) : c.settled.step.toNat = max c.req.toNat (max c.therm.toNat c.curr.toNat) := by
  have req := c.req.isLt
  have therm := c.therm.isLt
  have curr := c.curr.isLt
  refine (BitVec.toNat_ofNat _ _).trans (Nat.mod_eq_of_lt ?_)
  exact max_lt req (max_lt therm curr)

/-- A clock whose step is the slower of the two already is settled. -/
theorem HalfClock.settled_of_step {c : HalfClock} (same : Nat.max c.req.toNat (State.capStep c) = c.step.toNat) : c.settled = c := by
  rw [HalfClock.settled, same, BitVec.ofNat_toNat, BitVec.setWidth_eq]

namespace State

/-- A half moves to its step whether or not that is reported, and the other stays as it is. -/
theorem clockOf_settleClock (s : State) (h cause : Nat) (always : Bool) (j : Nat) :
    (s.settleClock h cause always).clockOf j = if j = h then (s.clockOf h).settled else s.clockOf j := by
  have reported (t : State) (b : Prop) [Decidable b] (old new : Nat) :
      (if b then t.noteClock h old new cause else t).clockOf j = t.clockOf j := by
    split
    · rw [clockOf, noteClock, notify_pwr]; rfl
    · rfl
  refine (reported _ _ _ _).trans ?_
  split
  next same =>
    rw [HalfClock.settled_of_step same]
    split
    next here => rw [here]
    next => rfl
  next => exact clockOf_updClock s h j fun c => { c with step := BitVec.ofNat 2 (Nat.max (s.clockOf h).req.toNat (capStep (s.clockOf h))) }

/-- A commanded step in one half, where the mask has it. -/
def stepHalf (s : State) (halves step : BitVec 2) (h : Nat) : State :=
  if halves.getLsbD h then (s.updClock h fun c => { c with req := step }).settleClock h 0 false else s

theorem stepClocks_eq (s : State) (halves step : BitVec 2) :
    s.stepClocks halves step = (s.stepHalf halves step 0).stepHalf halves step 1 := rfl

theorem clockOf_stepHalf_same (s : State) (halves step : BitVec 2) (h : Nat) :
    (s.stepHalf halves step h).clockOf h =
      if halves.getLsbD h = true then ({ s.clockOf h with req := step } : HalfClock).settled else s.clockOf h := by
  rw [stepHalf]
  split
  · rw [clockOf_settleClock, if_pos rfl, clockOf_updClock, if_pos rfl]
  · rfl

theorem clockOf_stepHalf_other (s : State) (halves step : BitVec 2) {h j : Nat} (other : j ≠ h) :
    (s.stepHalf halves step h).clockOf j = s.clockOf j := by
  rw [stepHalf]
  split
  · rw [clockOf_settleClock, if_neg other, clockOf_updClock, if_neg other]
  · rfl

theorem clockOf_stepClocks (s : State) (halves step : BitVec 2) : ∀ {n : Nat}, n < 2 → (s.stepClocks halves step).clockOf n =
    if halves.getLsbD n = true then ({ s.clockOf n with req := step } : HalfClock).settled else s.clockOf n
  | 0, _ => by rw [stepClocks_eq, clockOf_stepHalf_other _ _ _ (by decide), clockOf_stepHalf_same]
  | 1, _ => by rw [stepClocks_eq, clockOf_stepHalf_same, clockOf_stepHalf_other _ _ _ (by decide)]

end State

/-! ### CLOCK_STEP -/

/-- What an admitted CLOCK_STEP comes to. -/
def clockStepBody (p : List W32) (s : State) : CtlRes :=
  if s.clockBad (clockHalves (word p 0)) ≠ stOk then turnAway (s.clockBad (clockHalves (word p 0))) s
  else if word64 p 1 ≤ s.sh.count ∨ clockHalves (word p 0) = 0 then ok (s.stepClocks (clockHalves (word p 0)) (clockTo (word p 0)))
  else .hold (.clockStep (clockHalves (word p 0)) (clockTo (word p 0)) (word64 p 1)) s

theorem exec_clockStep {s : State} {h : CpHdr} {p : List W32} (a : Admitted s h cpClockStep p) (len : p.length = 3) :
    exec (.clockStep h p) s = .next (State.finish h cpClockStep p false (clockStepBody p (s.taken h))).flush := requestOf_admitted a len _

section
variable {s u : State} {h : CpHdr} {p : List W32}

theorem replies_clockStep {st : Status} (a : Admitted s h cpClockStep p) (len : p.length = 3)
    (body : clockStepBody p (s.taken h) = say st [] u) : Replies (.clockStep h p) s h cpClockStep st [] u := by
  rw [Replies, exec_clockStep a len, body]; rfl

theorem holds_clockStep {w : Wait} (a : Admitted s h cpClockStep p) (len : p.length = 3)
    (body : clockStepBody p (s.taken h) = .hold w u) : Holds (.clockStep h p) s h cpClockStep p w u := by
  rw [Holds, exec_clockStep a len, body]; rfl

theorem clockStepBody_refused {st : Status} (refused : u.clockBad (clockHalves (word p 0)) = st) (bad : st ≠ stOk) :
    clockStepBody p u = turnAway st u := by
  rw [clockStepBody, refused, if_pos bad]

theorem clockStepBody_now (good : u.clockBad (clockHalves (word p 0)) = stOk) (now : word64 p 1 ≤ u.sh.count ∨ clockHalves (word p 0) = 0) :
    clockStepBody p u = ok (u.stepClocks (clockHalves (word p 0)) (clockTo (word p 0))) := (if_neg (not_not.2 good)).trans (if_pos now)

theorem clockStepBody_later (good : u.clockBad (clockHalves (word p 0)) = stOk) (later : u.sh.count < word64 p 1)
    (some_half : clockHalves (word p 0) ≠ 0) :
    clockStepBody p u = .hold (.clockStep (clockHalves (word p 0)) (clockTo (word p 0)) (word64 p 1)) u := by
  refine (if_neg (not_not.2 good)).trans (if_neg ?_)
  rintro (now | none)
  · exact absurd later (BitVec.not_lt.2 now)
  · exact some_half none

end

/-! ### CLOCK_STEP_AT (R202) -/

/-- A request in flight whose step is due in half `k`. -/
def State.stepDue (s : State) (k : Nat) (r : Inflight) : Bool :=
  match r.wait with
  | .clockStep halves _ at_ => halves.getLsbD k && decide (at_ ≤ s.sh.count)
  | _ => false

theorem State.stepDue_of_not {s : State} {k : Nat} {r : Inflight}
    (not_due : ∀ a b c, r.wait = .clockStep a b c → a.getLsbD k = false ∨ s.sh.count < c) : s.stepDue k r = false := by
  unfold stepDue
  split
  next halves step at_ waits =>
    rcases not_due halves step at_ waits with out | later
    · rw [out]; rfl
    · rw [decide_eq_false (BitVec.not_le.2 later), Bool.and_false]
  next => rfl

/-- The oldest step that is due in a half is taken there: it fails where the half is gated, and its request ends with its last half. -/
theorem exec_clockStepAt {s : State} {half : BitVec 1} {r : Inflight} {halves step : BitVec 2} {at_ : W64}
    (oldest : s.ctl.inflight.find? (s.stepDue half.toNat) = some r) (waits : r.wait = .clockStep halves step at_) :
    exec (.clockStepAt half) s =
      let t := s.stepClocks (BitVec.ofNat 2 (2 ^ half.toNat)) step
      let left := halves &&& ~~~ (BitVec.ofNat 2 (2 ^ half.toNat))
      if s.pwr.gated.getLsbD half.toNat = true then .next (s.endRequest r stBusy []).flush
      else if left = 0 then .next (t.endRequest r stOk []).flush
      else .next { t with ctl := { t.ctl with
        inflight := t.ctl.inflight.map fun x => if x = r then { x with wait := .clockStep left step at_ } else x } } := by
  show execClockStepAt half s = _
  unfold execClockStepAt
  dsimp only
  split
  next none_due => exact absurd (none_due.symm.trans oldest) nofun
  next found =>
    cases found.symm.trans oldest
    rw [waits]
    rfl

/-! ### The obligation -/

/-- Settles O49: `clockBad` says why a step is refused, `clockOf_stepClocks` what it makes of each half, and the oldest step that is due
in a half is taken there. -/
theorem clocksStep : Obligations.ClocksStep := by
  unfold Obligations.ClocksStep
  intro s h p half halves step at_ pre post r u k hs step2 when_ t left bad
  refine ⟨fun a len => ⟨fun absent => ?absent, fun present gated => ?gated, fun good => ⟨fun now => ?now, fun later some_half => ?later⟩⟩,
    fun flight waits here due before => ?at_, fun n hn named => ?steps, fun n hn other => ?stays⟩
  case absent => exact replies_clockStep a len (clockStepBody_refused (State.clockBad_absent absent) (by decide))
  case gated => exact replies_clockStep a len (clockStepBody_refused (State.clockBad_gated present gated) (by decide))
  case now => exact replies_clockStep a len (clockStepBody_now (State.clockBad_ok good) now)
  case later => exact holds_clockStep a len (clockStepBody_later (State.clockBad_ok good) later some_half)
  case at_ =>
    have is_due : s.stepDue k r = true := by rw [State.stepDue, waits]; exact Bool.and_eq_true_iff.2 ⟨here, decide_eq_true due⟩
    have oldest : s.ctl.inflight.find? (s.stepDue k) = some r :=
      List.find?_eq_some_iff_append.2 ⟨is_due, pre, post, flight, fun x hx => by rw [State.stepDue_of_not (before x hx)]; rfl⟩
    have run := exec_clockStepAt oldest waits
    dsimp only at run
    refine ⟨fun gated => ?_, fun live last => ?_, fun live more => ?_⟩
    · rw [run, if_pos gated]
    · rw [run, if_neg (by rw [live]; decide), if_pos last]
    · rw [run, if_neg (by rw [live]; decide), if_neg more]
  case steps =>
    intro c
    have clock : c = ({ s.clockOf n with req := step } : HalfClock).settled := (s.clockOf_stepClocks halves step hn).trans (if_pos named)
    rw [clock]
    exact ⟨rfl, HalfClock.settled_step _⟩
  case stays => exact (s.clockOf_stepClocks halves step hn).trans (if_neg (by rw [other]; decide))

end Sys2Proof.Machine
end

section
/-! PROOF. The seam (R199, R200) and the auditor (R193, R194): a transfer and its replay, where the transfers go that the sender of a failed
channel keeps, and what a check of the audit records and fences. -/

namespace Sys2Proof.Machine

open Sys2Proof

namespace State

@[simp] theorem notify_half (s : State) (code : BitVec 16) (ws : List W32) (g : Nat) : (s.notify code ws).half g = s.half g := by
  have h := congrArg (half · g) (besidePorts_notify s code ws); exact h

theorem lmAdd_half (s : State) (type : Nat) (loc : BitVec 48) (g : Nat) : (s.lmAdd type loc).half g = s.half g := by
  have h := congrArg (half · g) (lmAdd_beside s type loc); exact h

end State

/-! ### The channels of the seam (R199) -/

/-- A channel of the seam as this side holds it. -/
def Half.channel (x : Half) (n : Nat) : SeamCh := SMap.get {} x.seamCh n

/-- What moving kept transfers may change of a half, blanked. -/
def Half.besideChannels (x : Half) : Half := { x with seamCh := [] }

namespace State

variable (s : State)

theorem channel_updSeamCh (h n : Nat) (f : SeamCh → SeamCh) (m : Nat) :
    ((s.updSeamCh h n f).half h).channel m = if m = n then f ((s.half h).channel n) else (s.half h).channel m := by
  rw [updSeamCh, updHalf_half_same]
  exact SMap.get_upd _ _ _ _ _

theorem half_updSeamCh_other {h g : Nat} (other : g ≠ h) (n : Nat) (f : SeamCh → SeamCh) : (s.updSeamCh h n f).half g = s.half g :=
  updHalf_half_other _ _ other

theorem besideChannels_updSeamCh (h n : Nat) (f : SeamCh → SeamCh) (g : Nat) :
    ((s.updSeamCh h n f).half g).besideChannels = (s.half g).besideChannels := by
  rw [updSeamCh, updHalf_half]
  split
  next here => rw [here]; rfl
  next => rfl

/-- The channel of a pair is one of the 34. -/
theorem seamChannel_lt {r src dst n : Nat} (serves : s.seamChannel r src dst = some n) : n < 34 := by
  unfold seamChannel at serves
  split at serves
  · exact absurd serves nofun
  next some_channel =>
    have inside : (src ^^^ dst) % (s.rowChannels r).length < (s.rowChannels r).length :=
      Nat.mod_lt _ (List.length_pos_iff.2 some_channel)
    rw [nth_getElem 0 inside] at serves
    have mem : n ∈ s.rowChannels r := Option.some.inj serves ▸ List.getElem_mem inside
    exact List.mem_range.1 (List.mem_filter.1 mem).1

/-! ### What the sender of a failed channel keeps (R200) -/

/-- A transfer is kept on some channel of half `h`. -/
def KeptIn (h : Nat) (p : SeamPath) : Prop := ∃ m, p ∈ ((s.half h).channel m).kept

/-- A transfer goes ahead of what its new channel keeps, where it has one. -/
def reseatOne (dest : SeamPath → Option Nat) (h : Nat) (t : State) (p : SeamPath) : State :=
  match dest p with
  | some c => t.updSeamCh h c fun y => { y with kept := p :: y.kept }
  | none => t

/-- The channel that serves the pair of a transfer now. -/
def seamDest (p : SeamPath) : Option Nat := s.seamChannel p.row.toNat p.src.toNat p.dst.toNat

/-- The transfers without a channel stay; the others go, the latest first. -/
theorem reseat_eq (h n : Nat) : s.reseat h n = ((s.half h).channel n).kept.reverse.foldl (reseatOne s.seamDest h)
    (s.updSeamCh h n fun _ => { kept := ((s.half h).channel n).kept.filter fun p => (s.seamDest p).isNone }) :=
  List.foldr_eq_foldl_reverse

variable {s}

theorem half_reseatOne_other (dest : SeamPath → Option Nat) {h g : Nat} (other : g ≠ h) (t : State) (p : SeamPath) :
    (reseatOne dest h t p).half g = t.half g := by
  unfold reseatOne
  split
  · exact half_updSeamCh_other _ other _ _
  · rfl

theorem besideChannels_reseatOne (dest : SeamPath → Option Nat) (h g : Nat) (t : State) (p : SeamPath) :
    ((reseatOne dest h t p).half g).besideChannels = (t.half g).besideChannels := by
  unfold reseatOne
  split
  · exact besideChannels_updSeamCh _ _ _ _ _
  · rfl

theorem keptIn_reseatOne (dest : SeamPath → Option Nat) (h : Nat) (t : State) (q p : SeamPath) (kept : t.KeptIn h p) :
    (reseatOne dest h t q).KeptIn h p := by
  obtain ⟨m, mem⟩ := kept
  unfold reseatOne
  split
  next c _ =>
    refine ⟨m, ?_⟩
    rw [channel_updSeamCh]
    split
    next here => exact List.mem_cons_of_mem _ (here ▸ mem)
    next => exact mem
  next => exact ⟨m, mem⟩

theorem keptIn_reseatOne_self {dest : SeamPath → Option Nat} {p : SeamPath} {c : Nat} (serves : dest p = some c) (h : Nat) (t : State) :
    (reseatOne dest h t p).KeptIn h p := by
  refine ⟨c, ?_⟩
  rw [reseatOne, serves]
  dsimp only
  rw [channel_updSeamCh, if_pos rfl]
  exact List.mem_cons_self

variable (s)

theorem half_reseat_other {h g : Nat} (other : g ≠ h) (n : Nat) : (s.reseat h n).half g = s.half g := by
  rw [reseat_eq]
  exact foldl_keeps (P := fun t : State => t.half g = s.half g) (fun t p kept => (half_reseatOne_other _ other t p).trans kept) _
    (half_updSeamCh_other _ other _ _)

theorem besideChannels_reseat (h n g : Nat) : ((s.reseat h n).half g).besideChannels = (s.half g).besideChannels := by
  rw [reseat_eq]
  exact foldl_keeps (P := fun t : State => (t.half g).besideChannels = (s.half g).besideChannels)
    (fun t p kept => (besideChannels_reseatOne _ h g t p).trans kept) _ (besideChannels_updSeamCh _ _ _ _ _)

/-- What the sender of a channel keeps stands on a channel still: on that of its pair, or where it was. -/
theorem keptIn_reseat {h n : Nat} {p : SeamPath} (kept : p ∈ ((s.half h).channel n).kept) : (s.reseat h n).KeptIn h p := by
  have keeps (t : State) (q : SeamPath) : t.KeptIn h p → (reseatOne s.seamDest h t q).KeptIn h p := keptIn_reseatOne _ h t q p
  rw [reseat_eq]
  cases serves : s.seamDest p with
  | none =>
    refine foldl_keeps (P := fun t : State => t.KeptIn h p) keeps _ ⟨n, ?_⟩
    rw [channel_updSeamCh, if_pos rfl]
    exact List.mem_filter.2 ⟨kept, by rw [serves]; rfl⟩
  | some c =>
    exact foldl_makes (P := fun t : State => t.KeptIn h p) keeps (keptIn_reseatOne_self serves h) _ (List.mem_reverse.2 kept)

end State

/-! ### A channel fails (R200) -/

/-- A channel is out of use on this side. -/
def Half.closeSeam (n : Nat) (x : Half) : Half :=
  { x with seamActive := setBits x.seamActive n n 0, seamFenced := setBits x.seamFenced n n 1 }

theorem Half.closeSeam_active (x : Half) {n j : Nat} (hj : j < 34) :
    (x.closeSeam n).seamActive.getLsbD j = if j = n then false else x.seamActive.getLsbD j := by
  refine (getLsbD_setBits _ _ hj).trans ?_
  by_cases here : j = n
  · rw [if_pos (by omega), if_pos here, Nat.zero_testBit]
  · rw [if_neg (by omega), if_neg here]

theorem Half.closeSeam_fenced (x : Half) {n : Nat} (hn : n < 34) : (x.closeSeam n).seamFenced.getLsbD n = true := by
  refine (getLsbD_setBits _ _ hn).trans ?_
  rw [if_pos (by omega), Nat.sub_self]
  rfl

/-- What the failure of a channel of the seam may change of a half, blanked. -/
def Half.besideSeam (x : Half) : Half := { x with seamActive := 0, seamFenced := 0, seamCh := [] }

section
variable (x : Half)

theorem Half.besideChannels_seamActive : x.besideChannels.seamActive = x.seamActive := rfl
theorem Half.besideChannels_seamFenced : x.besideChannels.seamFenced = x.seamFenced := rfl
theorem Half.besideSeam_besideChannels : x.besideChannels.besideSeam = x.besideSeam := rfl
theorem Half.count_seamActive (off k : Nat) : (x.count off k).seamActive = x.seamActive := rfl
theorem Half.besideSeam_closeSeam (n : Nat) : (x.closeSeam n).besideSeam = x.besideSeam := rfl

end

namespace State

variable (s : State)

/-- A channel is out of use on both sides. -/
def closeSeam (n : Nat) : State := (s.updHalf 0 (·.closeSeam n)).updHalf 1 (·.closeSeam n)

theorem half_closeSeam (n : Nat) : ∀ {g : Nat}, g < 2 → (s.closeSeam n).half g = (s.half g).closeSeam n
  | 0, _ => by rw [closeSeam, updHalf_half_other _ _ (by decide), updHalf_half_same]
  | 1, _ => by rw [closeSeam, updHalf_half_same, updHalf_half_other _ _ (by decide)]

theorem half_closeSeam_other (n : Nat) {g : Nat} (other : ¬g < 2) : (s.closeSeam n).half g = s.half g := by
  rw [closeSeam, updHalf_half_other _ _ (by omega), updHalf_half_other _ _ (by omega)]

/-- The record and the report of a failure touch no half. -/
theorem half_failSeam (h n g : Nat) : (s.failSeam h n).half g = (((s.closeSeam n).reseat 0 n).reseat 1 n).half g := by
  unfold failSeam report
  rw [notify_half, lmAdd_half]
  rfl

theorem besideChannels_failSeam (h n g : Nat) : ((s.failSeam h n).half g).besideChannels = ((s.closeSeam n).half g).besideChannels := by
  rw [half_failSeam, besideChannels_reseat, besideChannels_reseat]

theorem besideSeam_failSeam (h n g : Nat) : ((s.failSeam h n).half g).besideSeam = (s.half g).besideSeam := by
  rw [← Half.besideSeam_besideChannels, besideChannels_failSeam, Half.besideSeam_besideChannels]
  by_cases side : g < 2
  · rw [half_closeSeam s n side, Half.besideSeam_closeSeam]
  · rw [half_closeSeam_other s n side]

theorem failSeam_active (h n : Nat) {g j : Nat} (side : g < 2) (hj : j < 34) :
    ((s.failSeam h n).half g).seamActive.getLsbD j = if j = n then false else (s.half g).seamActive.getLsbD j := by
  rw [← Half.besideChannels_seamActive, besideChannels_failSeam, Half.besideChannels_seamActive, half_closeSeam s n side,
    Half.closeSeam_active _ hj]

theorem failSeam_fenced (h : Nat) {n g : Nat} (side : g < 2) (hn : n < 34) : ((s.failSeam h n).half g).seamFenced.getLsbD n = true := by
  rw [← Half.besideChannels_seamFenced, besideChannels_failSeam, Half.besideChannels_seamFenced, half_closeSeam s n side,
    Half.closeSeam_fenced _ hn]

/-- What is kept on a channel that fails stands on a channel of its side still. -/
theorem keptIn_failSeam (h : Nat) {n : Nat} {p : SeamPath} : ∀ {g : Nat}, g < 2 → p ∈ ((s.half g).channel n).kept → (s.failSeam h n).KeptIn g p
  | 0, side, kept => by
    rw [KeptIn, half_failSeam, half_reseat_other _ (by decide)]
    exact keptIn_reseat _ ((s.half_closeSeam n side).symm ▸ kept)
  | 1, side, kept => by
    rw [KeptIn, half_failSeam]
    refine keptIn_reseat _ ?_
    rw [half_reseat_other _ (by decide), half_closeSeam s n side]
    exact kept

/-! ### SEAM_TRANSFER (R200) -/

/-- A transfer that crosses advances its channel. -/
def seamTaken (h n : Nat) : State := s.updSeamCh h n fun c => { seq := c.seq + 1, kept := c.kept.tail }

/-- What a sender keeps of a channel when a transfer on it has not crossed: that which is to be replayed, or else the transfer. -/
def keptBehind (path : SeamPath) (c : SeamCh) : List SeamPath := if c.kept.isEmpty then [path] else c.kept

/-- A transfer with wrong parity is counted on both sides and kept. -/
def seamRefused (h n : Nat) (path : SeamPath) : State :=
  ((s.updSeamCh h n fun c => { c with kept := keptBehind path c }).updHalf h (·.count 0x401C 1)).updHalf (1 - h) (·.count 0x4018 1)

section
variable {h : Nat} (side : h < 2) (n : Nat) (path : SeamPath)
include side

theorem other_side_ne : 1 - h ≠ h := by omega

theorem half_seamRefused : (s.seamRefused h n path).half h =
    ((s.updSeamCh h n fun c => { c with kept := keptBehind path c }).half h).count 0x401C 1 := by
  rw [seamRefused, updHalf_half_other _ _ (other_side_ne side).symm, updHalf_half_same]

theorem half_seamRefused_other : (s.seamRefused h n path).half (1 - h) = (s.half (1 - h)).count 0x4018 1 := by
  rw [seamRefused, updHalf_half_same, updHalf_half_other _ _ (other_side_ne side), half_updSeamCh_other _ (other_side_ne side)]

theorem channel_seamRefused : ((s.seamRefused h n path).half h).channel n =
    { (s.half h).channel n with kept := keptBehind path ((s.half h).channel n) } := by
  rw [half_seamRefused s side]
  exact (channel_updSeamCh s h n _ n).trans (if_pos rfl)

/-- A transfer that is refused takes no channel out of use. -/
theorem seamRefused_active {g : Nat} (there : g < 2) : ((s.seamRefused h n path).half g).seamActive = (s.half g).seamActive := by
  by_cases here : g = h
  · rw [here, half_seamRefused s side, Half.count_seamActive, ← Half.besideChannels_seamActive, besideChannels_updSeamCh]; rfl
  · rw [show g = 1 - h by omega, half_seamRefused_other s side, Half.count_seamActive]

/-- A transfer that is refused short of its eighth replay is one more replay in succession that has failed. -/
theorem seamRefused_again : let t := (s.seamRefused h n path).updSeamCh h n fun c => { c with fails := c.fails + 1 }
    let c := (s.half h).channel n
    (t.half h).channel n = { c with fails := c.fails + 1, kept := keptBehind path c } ∧
    SMap.get 0 (t.half h).counts 0x401C = SMap.get 0 (s.half h).counts 0x401C + 1 ∧
    SMap.get 0 (t.half (1 - h)).counts 0x4018 = SMap.get 0 (s.half (1 - h)).counts 0x4018 + 1 := by
  refine ⟨?_, ?_, ?_⟩
  · rw [channel_updSeamCh, if_pos rfl, channel_seamRefused s side]
  · rw [updSeamCh, updHalf_half_same, half_seamRefused s side, updSeamCh, updHalf_half_same]
    exact get_bump_one _ _
  · rw [half_updSeamCh_other _ (other_side_ne side), half_seamRefused_other s side]
    exact get_bump_one _ _

/-- With the eighth replay in succession that fails the channel is out of use on both sides, and what its sender keeps is kept still. -/
theorem seamRefused_fails (hn : n < 34) : let t := (s.seamRefused h n path).failSeam h n
    (∀ p ∈ keptBehind path ((s.half h).channel n), t.KeptIn h p) ∧ ∀ g, g < 2 →
    (t.half g).seamActive.getLsbD n = false ∧ (t.half g).seamFenced.getLsbD n = true ∧
    ∀ j, j < 34 → j ≠ n → (t.half g).seamActive.getLsbD j = (s.half g).seamActive.getLsbD j := by
  refine ⟨fun p kept => keptIn_failSeam _ h side ?_, fun g there => ⟨?_, failSeam_fenced _ _ there hn, fun j hj other => ?_⟩⟩
  · rw [channel_seamRefused s side]
    exact kept
  · rw [failSeam_active _ _ _ there hn, if_pos rfl]
  · rw [failSeam_active _ _ _ there hj, if_neg other, seamRefused_active s side n path there]

end

variable {s} {half : BitVec 1} {path : SeamPath} {n : Nat} (serves : s.seamChannel path.row.toNat path.src.toNat path.dst.toNat = some n)
  (seam : s.hasSeam = true) (up : (s.half half.toNat).seamUp = true) (open_ : (s.half half.toNat).seamStilled = false)
include serves seam up open_

/-- A transfer waits behind one that is to be replayed. -/
theorem exec_seamTransfer_behind (parityOk : Bool)
    (behind : ¬(((s.half half.toNat).channel n).kept = [] ∨ ((s.half half.toNat).channel n).kept.head? = some path)) :
    exec (.seamTransfer half path parityOk) s = .next s := by
  show execSeamTransfer half path parityOk s = _
  rw [not_or] at behind
  simp only [execSeamTransfer, serves, seam, up, open_]
  exact if_pos (by simpa [Half.channel] using behind)

theorem exec_seamTransfer (parityOk : Bool)
    (first : ((s.half half.toNat).channel n).kept = [] ∨ ((s.half half.toNat).channel n).kept.head? = some path) :
    exec (.seamTransfer half path parityOk) s = .next (
      if parityOk = true then s.seamTaken half.toNat n
      else if 8 ≤ ((s.half half.toNat).channel n).fails then (s.seamRefused half.toNat n path).failSeam half.toNat n
      else (s.seamRefused half.toNat n path).updSeamCh half.toNat n fun c => { c with fails := c.fails + 1 }) := by
  show execSeamTransfer half path parityOk s = _
  simp only [execSeamTransfer, serves, seam, up, open_]
  refine (if_neg ?_).trans ?_
  · simpa [Half.channel, imp_iff_not_or] using first
  · cases parityOk with
    | true => rfl
    | false =>
      rw [if_neg Bool.false_ne_true, if_neg Bool.false_ne_true]
      by_cases fails : 8 ≤ ((s.half half.toNat).channel n).fails
      · rw [if_pos fails]
        exact if_pos fails
      · rw [if_neg fails]
        exact if_neg fails

end State

/-! ### What the auditor fences (R194) -/

/-- What a half shows of the last check that failed. -/
def Half.lastCheck (x : Half) : W32 × W32 × BitVec 16 := (x.auditLink, x.auditDiff, x.auditCount)

theorem Half.lastCheck_besideSeam (x : Half) : x.besideSeam.lastCheck = x.lastCheck := rfl

namespace State

variable (s : State) (h : Nat) (o : AuditObs)

theorem half_fenceCore (core : CoreId) (cause g : Nat) : (s.fenceCore core cause).half g = s.half g := by
  rw [fenceCore]
  split
  · rfl
  · rw [notify_half]; rfl

/-- The half's list of fenced links takes one more. -/
def fenceMesh (l : W32) : State := s.updHalf h fun x => { x with meshFenced := x.meshFenced ++ [l] }

theorem lastCheck_fenceMesh (l : W32) (g : Nat) : ((s.fenceMesh h l).half g).lastCheck = (s.half g).lastCheck := by
  rw [fenceMesh, updHalf_half]
  split
  next here => rw [here]; rfl
  next => rfl

/-- Fencing a link changes no record of a check. -/
theorem lastCheck_fenceLink (l : W32) (g : Nat) : ((s.fenceLink h l).half g).lastCheck = (s.half g).lastCheck := by
  unfold fenceLink
  split
  · dsimp only
    split
    · rw [half_fenceCore]; exact lastCheck_fenceMesh s h l g
    · exact lastCheck_fenceMesh s h l g
  · rw [← Half.lastCheck_besideSeam, besideSeam_failSeam, Half.lastCheck_besideSeam]
  · rfl
  · exact lastCheck_fenceMesh s h l g

/-- A check that fails is recorded in its half, and counted up to what the register holds. -/
def noteCheck : State := s.updHalf h fun x =>
  { x with auditLink := o.link, auditDiff := BitVec.ofInt 32 ((s.poolSize h o : Int) - s.auditSum h o),
           auditCount := if x.auditCount = 65535 then x.auditCount else x.auditCount + 1 }

theorem half_auditFail (g : Nat) : (s.auditFail h o).half g = ((s.noteCheck h o).fenceLink h o.link).half g := notify_half _ _ _ _

theorem core_auditFail (k : Nat) : (s.auditFail h o).core k = ((s.noteCheck h o).fenceLink h o.link).core k := notify_core _ _ _ _

theorem lastCheck_auditFail : ((s.auditFail h o).half h).lastCheck =
    (o.link, BitVec.ofInt 32 ((s.poolSize h o : Int) - s.auditSum h o),
      if (s.half h).auditCount = 65535 then (s.half h).auditCount else (s.half h).auditCount + 1) := by
  rw [half_auditFail, lastCheck_fenceLink, noteCheck, updHalf_half_same]; rfl

theorem auditFail_fences_mesh (mesh : auKind o.link = 1) : o.link ∈ ((s.auditFail h o).half h).meshFenced := by
  have fenced : (s.noteCheck h o).fenceLink h o.link = (s.noteCheck h o).fenceMesh h o.link := by rw [fenceLink, mesh]; rfl
  rw [half_auditFail, fenced, fenceMesh, updHalf_half_same]
  exact List.mem_append_right _ List.mem_cons_self

/-- A queue of a core is fenced. -/
def bindFencedAt (k q : Nat) : Prop := SMap.get false (s.core k).bindFenced q = true

/-- The auditor fences one end of a binding. -/
def fenceEnd (k q : Nat) : State := s.updCore k fun c => { c with bindFenced := SMap.set false c.bindFenced q true }

theorem bindFencedAt_fenceEnd (k q : Nat) : (s.fenceEnd k q).bindFencedAt k q := by
  rw [bindFencedAt, fenceEnd, updCore_core_same]
  exact SMap.get_set_same false _ q true

variable {s} in
theorem bindFencedAt_fenceEnd_of {k q : Nat} (fenced : s.bindFencedAt k q) (j r : Nat) : (s.fenceEnd j r).bindFencedAt k q := by
  rw [bindFencedAt, fenceEnd, updCore_core]
  split
  next here =>
    refine (SMap.get_set false _ r q true).trans ?_
    split
    · rfl
    · exact here ▸ fenced
  next => exact fenced

theorem auditFail_fences_binding (binding : auKind o.link = 5) :
    let core := auCore h o.link
    let q := 10 + auDir o.link
    let p := peerOf core ((s.core core.toNat).bind q)
    (s.auditFail h o).bindFencedAt core.toNat q ∧ (s.auditFail h o).bindFencedAt p.1.toNat p.2 := by
  intro core q p
  have fenced : (s.noteCheck h o).fenceLink h o.link = ((s.noteCheck h o).fenceEnd core.toNat q).fenceEnd p.1.toNat p.2 := by
    rw [fenceLink, binding]; rfl
  rw [bindFencedAt, bindFencedAt, core_auditFail, core_auditFail, fenced]
  exact ⟨bindFencedAt_fenceEnd_of (bindFencedAt_fenceEnd _ _ _) _ _, bindFencedAt_fenceEnd _ _ _⟩

/-! ### AUDIT_CHECK (R193) -/

/-- A check has been taken: one whose sum differs from P has failed, but where its pool is skipped. -/
def audited : State := if s.auditSum h o = s.poolSize h o ∨ s.auditSkips h o.link = true then s else s.auditFail h o

/-- With the last check of its turn the audit ends. -/
def endAudit (turn : W32) : State := s.updHalf h fun x => { x with auditTurn := turn, auditing := none }

theorem half_endAudit (turn : W32) : (s.endAudit h turn).half h = { s.half h with auditTurn := turn, auditing := none } :=
  updHalf_half_same _ _ _

theorem core_endAudit (turn : W32) (k : Nat) : (s.endAudit h turn).core k = s.core k := rfl

theorem exec_auditCheck {half : BitVec 1} {turn : W32} (running : (s.half half.toNat).auditing = some turn) :
    exec (.auditCheck half o) s =
      .next (if o.last = true then (s.audited half.toNat o).endAudit half.toNat turn else s.audited half.toNat o) := by
  show execAuditCheck half o s = _
  have taken : (if (decide (s.auditSum half.toNat o = s.poolSize half.toNat o) || s.auditSkips half.toNat o.link) = true then s
      else s.auditFail half.toNat o) = s.audited half.toNat o := by
    simp only [audited, Bool.or_eq_true, decide_eq_true_eq]
  simp only [execAuditCheck, running, taken]
  rfl

end State

/-! ### The obligation -/

/-- R199, R200: a transfer crosses, waits, or is replayed, and a channel fails with its eighth replay. -/
theorem seamTransfer_completes (s : State) (half : BitVec 1) (path : SeamPath) (n : Nat) : let h := half.toNat; let x := s.half h
    let c : SeamCh := x.channel n
    s.seamChannel path.row.toNat path.src.toNat path.dst.toNat = some n → s.hasSeam = true → x.seamUp = true → x.seamStilled = false →
    let may := c.kept = [] ∨ c.kept.head? = some path
    (∀ b, ¬may → Completes (.seamTransfer half path b) s fun t => t = s) ∧
    (may → Completes (.seamTransfer half path true) s fun t =>
      (t.half h).channel n = { seq := c.seq + 1, kept := c.kept.tail } ∧ t.half (1 - h) = s.half (1 - h) ∧
      { t with halves := [] } = { s with halves := [] }) ∧
    (may → c.fails < 8 → Completes (.seamTransfer half path false) s fun t =>
      (t.half h).channel n = { c with fails := c.fails + 1, kept := State.keptBehind path c } ∧
      SMap.get 0 (t.half h).counts 0x401C = SMap.get 0 x.counts 0x401C + 1 ∧
      SMap.get 0 (t.half (1 - h)).counts 0x4018 = SMap.get 0 (s.half (1 - h)).counts 0x4018 + 1) ∧
    (may → 8 ≤ c.fails → Completes (.seamTransfer half path false) s fun t =>
      (∀ p ∈ State.keptBehind path c, t.KeptIn h p) ∧ ∀ g, g < 2 →
      (t.half g).seamActive.getLsbD n = false ∧ (t.half g).seamFenced.getLsbD n = true ∧
      ∀ j, j < 34 → j ≠ n → (t.half g).seamActive.getLsbD j = (s.half g).seamActive.getLsbD j) := by
  intro h x c serves seam up open_ may
  have side : h < 2 := half.isLt
  refine ⟨fun b behind => ⟨s, State.exec_seamTransfer_behind serves seam up open_ b behind, rfl⟩, fun first => ⟨s.seamTaken h n, ?_, ?_⟩,
    fun first few => ⟨(s.seamRefused h n path).updSeamCh h n fun c => { c with fails := c.fails + 1 }, ?_, ?_⟩,
    fun first eighth => ⟨(s.seamRefused h n path).failSeam h n, ?_, ?_⟩⟩
  · exact (State.exec_seamTransfer serves seam up open_ true first).trans (congrArg _ (if_pos rfl))
  · exact ⟨(State.channel_updSeamCh s h n _ n).trans (if_pos rfl), State.half_updSeamCh_other _ (State.other_side_ne side) _ _, rfl⟩
  · rw [State.exec_seamTransfer serves seam up open_ false first, if_neg Bool.false_ne_true, if_neg (Nat.not_le.2 few)]
  · exact State.seamRefused_again s side n path
  · rw [State.exec_seamTransfer serves seam up open_ false first, if_neg Bool.false_ne_true, if_pos eighth]
  · exact State.seamRefused_fails s side n path (s.seamChannel_lt serves)

/-- A count of 16 bits that stays at its highest value. -/
theorem toNat_counted (x : BitVec 16) : (if x = 65535 then x else x + 1).toNat = min 65535 (x.toNat + 1) := by
  split
  next full => rw [full]; rfl
  next more =>
    have short : x.toNat ≠ 65535 := fun full => more (BitVec.eq_of_toNat_eq full)
    have bound := x.isLt
    rw [BitVec.toNat_add, show (1 : BitVec 16).toNat = 1 from rfl, Nat.mod_eq_of_lt (by omega), Nat.min_eq_right (by omega)]

/-- A check that fails is recorded and counted, and fences what it is about. -/
theorem State.auditFail_records (s : State) (h : Nat) (o : AuditObs) : let t := s.auditFail h o
    (t.half h).auditLink = o.link ∧ (t.half h).auditDiff = BitVec.ofInt 32 ((s.poolSize h o : Int) - (s.auditSum h o : Nat)) ∧
    (t.half h).auditCount.toNat = min 65535 ((s.half h).auditCount.toNat + 1) := by
  obtain ⟨link, rest⟩ := Prod.mk.inj (s.lastCheck_auditFail h o)
  obtain ⟨diff, count⟩ := Prod.mk.inj rest
  exact ⟨link, diff, count ▸ toNat_counted _⟩

/-- Settles O18: a transfer comes to what `seamTaken`, `seamRefused` and `failSeam` leave, and a check of the audit to what `auditFail` records and
fences; the end of the audit changes nothing of that. -/
theorem theSeamReplaysAndTheAuditFences : Obligations.TheSeamReplaysAndTheAuditFences := by
  unfold Obligations.TheSeamReplaysAndTheAuditFences
  refine ⟨seamTransfer_completes, ?_⟩
  intro s half o turn h x sum pool running
  have run := s.exec_auditCheck o running
  refine ⟨fun last => ⟨_, run, ?_⟩, fun more skipped => ⟨_, run, ?_⟩, fun differs checked => ⟨_, run, ?_⟩⟩
  · rw [if_pos last]
    dsimp only
    rw [State.half_endAudit]
    exact ⟨rfl, rfl⟩
  · rw [if_neg (by rw [more]; decide), State.audited, if_pos skipped]
  · have failed : s.audited h o = s.auditFail h o := if_neg (by rw [checked]; simpa using differs)
    rw [failed]
    obtain ⟨link, diff, count⟩ := s.auditFail_records h o
    have mesh := s.auditFail_fences_mesh h o
    have binding := s.auditFail_fences_binding h o
    split
    · simp only [State.core_endAudit]
      rw [State.half_endAudit]
      exact ⟨link, diff, count, mesh, binding⟩
    · exact ⟨link, diff, count, mesh, binding⟩

end Sys2Proof.Machine
end

section
/-! PROOF. What an access to memory and a translation leave alone: the cores, the stream units and the network (R216, R228, R232 to R235); and
the leaf of a walk, which covers the address that was walked, where the next translation finds it (R231, R234). -/

namespace Sys2Proof.Machine

open Sys2Proof

namespace State

/-- All of the Triat that neither a read of memory nor a translation touches. -/
def besideMemory (s : State) : State :=
  { s.besidePorts with clusters := [], halves := [], mcs := [], mem := {}, xl := {}, flash := {}, sec := {} }

/-! ### Reads (R216, R228) -/

theorem besideMemory_updMc (s : State) (k : Nat) (f : Mc → Mc) : (s.updMc k f).besideMemory = s.besideMemory := rfl

theorem besideMemory_notify (s : State) (code : BitVec 16) (ws : List W32) : (s.notify code ws).besideMemory = s.besideMemory := by
  have beside := congrArg besideMemory (besidePorts_notify s code ws)
  exact beside

theorem besideMemory_lmAdd (s : State) (type : Nat) (loc : BitVec 48) : (s.lmAdd type loc).besideMemory = s.besideMemory := by
  have beside := congrArg besideMemory (lmAdd_beside s type loc)
  exact beside

theorem besideMemory_countTurn (s : State) (w : Turned) : (s.countTurn w).besideMemory = s.besideMemory := by cases w <;> rfl

theorem besideMemory_mismatchSeen (s : State) (pa : PA) (g : Option (BitVec 2)) : (s.mismatchSeen pa g).besideMemory = s.besideMemory :=
  besideMemory_updMc _ _ _

theorem besideMemory_mismatch (s : State) (pa : PA) (g : Option (BitVec 2)) : (s.mismatch pa g).besideMemory = s.besideMemory := by
  rcases s.mismatch_eq pa g with h | ⟨loc, ws, h⟩
  · rw [h, besideMemory_mismatchSeen]
  · rw [h, besideMemory_notify, besideMemory_updMc, besideMemory_lmAdd, besideMemory_mismatchSeen]

theorem besideMemory_backMarks (s : State) (stack : Nat) (ls : List MLine) : (s.backMarks stack ls).besideMemory = s.besideMemory := rfl

theorem besideMemory_fillSector (s : State) (p : Place) (noalloc : Bool) (bad : BitVec 16) :
    (s.fillSector p noalloc bad).besideMemory = s.besideMemory := by
  unfold fillSector
  dsimp only
  split
  · exact besideMemory_updMc _ _ _
  · split
    · rfl
    · rw [besideMemory_updMc, mscAllocate, besideMemory_updMc, besideMemory_backMarks]

theorem besideMemory_cellRead (s : State) (pa : Nat) : (s.cellRead pa).2.besideMemory = s.besideMemory := by
  unfold cellRead
  dsimp only
  split
  · rw [besideMemory_updMc, besideMemory_updMc]
  · split
    · rw [besideMemory_mismatch, besideMemory_updMc, besideMemory_updMc]
    · exact besideMemory_updMc _ _ _

theorem besideMemory_noteShut (s : State) (stack : Nat) (st : Status) : (s.noteShut stack st).besideMemory = s.besideMemory := by
  unfold noteShut
  split <;> rfl

theorem besideMemory_mcRead (s : State) (pa : Nat) (noalloc : Bool) : (s.mcRead pa noalloc).2.besideMemory = s.besideMemory := by
  unfold mcRead
  dsimp only
  split
  · exact besideMemory_noteShut _ _ _
  · split
    · rfl
    · split
      · rfl
      · exact (besideMemory_fillSector _ _ _ _).trans (besideMemory_cellRead s pa)

theorem besideMemory_readPte (s : State) (h table idx : Nat) : (s.readPte h table idx).2.besideMemory = s.besideMemory := by
  have read := besideMemory_mcRead s (table + 8 * idx) false
  rw [readPte]
  split
  · rfl
  · split
    · exact besideMemory_countTurn _ _
    · split <;> rename_i heq <;> rw [heq] at read
      · exact read
      · dsimp only
        split <;> exact read

end State

/-! ### Walks (R232 to R235) -/

theorem page_toNat (va : VA) (d : Nat) : (BitVec.ofNat 48 (va.toNat / d * d)).toNat = va.toNat / d * d :=
  Nat.mod_eq_of_lt (Nat.lt_of_le_of_lt (Nat.div_mul_le_self _ _) va.isLt)

/-- A leaf of level 3 covers the 2 MiB of its address. -/
theorem TbEntry.covers_page (va : VA) (e : W64) :
    ({ base := BitVec.ofNat 48 (va.toNat / 2 ^ 21 * 2 ^ 21), giant := false, pte := e } : TbEntry).covers va = true := by
  rw [covers, if_neg Bool.false_ne_true, page_toNat, Nat.mul_div_cancel _ (Nat.two_pow_pos 21)]
  exact decide_eq_true rfl

/-- A leaf of level 2 covers the 1 GiB of its address. -/
theorem TbEntry.covers_giant (va : VA) (e : W64) :
    ({ base := BitVec.ofNat 48 (va.toNat / 2 ^ 30 * 2 ^ 30), giant := true, pte := e } : TbEntry).covers va = true := by
  rw [covers, if_pos rfl, page_toNat, Nat.mul_div_cancel _ (Nat.two_pow_pos 30)]
  exact decide_eq_true rfl

/-- The outcome of a walk of `va` from `s`: it has kept what reads of memory keep, and a leaf that it has found covers the address. -/
def Walked (s : State) (va : VA) (r : Except Byte TbEntry × State) : Prop :=
  r.2.besideMemory = s.besideMemory ∧ ∀ t, r.1 = .ok t → t.covers va = true

section
variable {s u : State} {va : VA}

theorem Walked.failed (kept : u.besideMemory = s.besideMemory) (c : Byte) : Walked s va (.error c, u) := ⟨kept, nofun⟩

theorem Walked.leaf {t : TbEntry} (kept : u.besideMemory = s.besideMemory) (covers : t.covers va = true) : Walked s va (.ok t, u) :=
  ⟨kept, fun _ found => Except.ok.inj found ▸ covers⟩

/-- What a walk does once it has a table's entry is a walk from where it began to read. -/
theorem Walked.of_before {r : Except Byte TbEntry × State} (walked : Walked u va r) (kept : u.besideMemory = s.besideMemory) : Walked s va r :=
  ⟨walked.1.trans kept, walked.2⟩

/-- A walk that enters a table pointer in the walk cache has found the same leaf. -/
theorem Walked.noted {t : TbEntry} (walked : Walked s va (.ok t, u)) (x : Xlat) : Walked s va (.ok t, { u with xl := x }) := walked

end

namespace State

/-- A walk keeps what its reads keep, whatever they answer. `id` has the goal stated for any function that reads entries, so that the kernel
never computes `readPte` while it compares forms of the walk. -/
theorem walked_walk (s : State) (h : Nat) (va : VA) : Walked s va (s.walk h va) := by
  have kept := besideMemory_readPte
  rw [walk]
  generalize readPte = read at kept ⊢
  revert read
  refine id fun read kept => ?_
  have keeps {u v : State} {table i : Nat} {r : Except Byte W64} (e : read u h table i = (r, v)) : v.besideMemory = u.besideMemory := by
    rw [← kept u h table i, e]
  extract_lets s' root i1 i2 wc fromL3 fromL2
  have l3 (u : State) (table : Nat) : Walked u va (fromL3 u table) := by
    simp only [fromL3]
    split <;> rename_i e
    · exact .failed (keeps e) _
    · split
      · exact .failed (keeps e) _
      · split
        · exact .failed (keeps e) _
        · exact .leaf (keeps e) (TbEntry.covers_page va _)
  have l2 (u : State) (table : Nat) : Walked u va (fromL2 u table) := by
    simp only [fromL2]
    split <;> rename_i e
    · exact .failed (keeps e) _
    · split
      · exact .failed (keeps e) _
      · split
        · split
          · exact .failed (keeps e) _
          · exact .leaf (keeps e) (TbEntry.covers_giant va _)
        · split <;> rename_i below
          · exact (below ▸ l3 _ _ : Walked _ va _).of_before (keeps e)
          · exact ((below ▸ l3 _ _ : Walked _ va _).of_before (keeps e)).noted _
  have started (x : Xlat) : ({ s with xl := x } : State).besideMemory = s.besideMemory := rfl
  split
  · exact .failed (started _) _
  · split
    · exact (l3 _ _).of_before (started _)
    · split
      · exact (l2 _ _).of_before (started _)
      · split <;> rename_i e
        · exact .failed ((keeps e).trans (started _)) _
        · split
          · exact .failed ((keeps e).trans (started _)) _
          · split <;> rename_i below
            · exact (below ▸ l2 _ _ : Walked _ va _).of_before ((keeps e).trans (started _))
            · exact ((below ▸ l2 _ _ : Walked _ va _).of_before ((keeps e).trans (started _))).noted _

/-! ### Translation (R234, R235) -/

theorem besideMemory_translate (s : State) (who : Requester) (va : VA) (a : Access) : (s.translate who va a).2.besideMemory = s.besideMemory := by
  have walked := walked_walk
  rw [translate]
  generalize walk = walks at walked ⊢
  revert walks
  refine id fun walks walked => ?_
  dsimp only
  split
  · split <;> rfl
  · split <;> rename_i e <;> refine Eq.trans ?_ ((congrArg (·.2.besideMemory) e).symm.trans (walked _ _ _).1)
    · rfl
    · split <;> rfl

/-- An address that a requester's buffer does not hold is translated through the leaf of a walk, which the buffer then takes. -/
theorem translate_ok_of_absent {s u : State} {who : Requester} {va : VA} {a : Access} {pa : Nat} {noalloc : Bool}
    (absent : s.resident who va = none) (found : s.translate who va a = (.ok pa noalloc, u)) :
    ∃ t : TbEntry, ∃ v : State, t.covers va = true ∧ permits a t.pte = true ∧ t.pa va = pa ∧ u = { v with xl := v.xl.noteTb who va t } := by
  have walked := walked_walk
  rw [translate, absent] at found
  generalize walk = walks at walked found
  revert walks
  refine id fun walks walked found => ?_
  dsimp only at found
  split at found <;> rename_i e
  · exact absurd (congrArg Prod.fst found) nofun
  next t v =>
    split at found
    next permitted =>
      obtain ⟨answer, state⟩ := Prod.mk.inj found
      exact ⟨t, v, (walked _ _ _).2 t (congrArg Prod.fst e), permitted, (Xl.ok.inj answer).1, state.symm⟩
    · exact absurd (congrArg Prod.fst found) nofun

/-- A buffer has room for one leaf at least. -/
theorem size_eq_succ (who : Requester) : ∃ n, who.size = n + 1 := by cases who <;> exact ⟨_, rfl⟩

/-- A buffer finds the leaf that it has taken last. -/
theorem resident_noteTb (s : State) (who : Requester) {va : VA} {t : TbEntry} (covers : t.covers va = true) :
    ({ s with xl := s.xl.noteTb who va t } : State).resident who va = some t := by
  obtain ⟨n, size⟩ := size_eq_succ who
  have front : ({ s with xl := s.xl.noteTb who va t } : State).tb who = t :: ((s.tb who).filter fun y => !y.covers va).take n := by
    rw [tb, Xlat.noteTb, SMap.get_upd_same, size]; rfl
  rw [resident, front]
  exact List.find?_cons_of_pos covers

end State

end Sys2Proof.Machine
end

section
/-! PROOF. Answers and windows of the stream units (R185, R248): the demands that wait for a sector, what a window's one request brings them,
and the windows of cluster shared memory. -/

namespace Sys2Proof.Machine

open Sys2Proof

/-! ### Demands that wait for a sector (R248, R254) -/

/-- What changes the entries of some keys is read back from those keys, where it leaves an unlisted value as it is. -/
theorem SMap.get_mapWhere {α : Type} {d : α} {p : Nat → Prop} [DecidablePred p] {f : α → α} (blank : f d = d) : ∀ (m : SMap α) (k : Nat),
    SMap.get d (m.map fun e => if p e.1 then (e.1, f e.2) else e) k = if p k then f (SMap.get d m k) else SMap.get d m k
  | [], k => by
    rw [List.map_nil, SMap.get, blank, ite_self]
  | (j, x) :: m, k => by
    have rest := SMap.get_mapWhere (p := p) blank m k
    by_cases here : j = k
    · subst here
      by_cases changed : p j <;> simp [SMap.get, changed]
    · by_cases changed : p j <;> simpa [SMap.get, here, changed] using rest

/-- A command in execution whose demands for one sector have come to `v`. -/
def Run.answered (pa : Nat) (prefetch : Option Nat) (v : Piece) (r : Run) : Run :=
  r.mapPieces fun p => if p = .waits (BitVec.ofNat 40 pa) prefetch then v else p

/-- A core whose demands for one sector have come to `v`. -/
def Core.answered (pa : Nat) (prefetch : Option Nat) (v : Piece) (c : Core) : Core := { c with runs := c.runs.map (Run.answered pa prefetch v) }

/-- A demand of cluster `k` waits for a sector, in a window or on a prefetch. -/
def State.Awaits (s : State) (k pa : Nat) (prefetch : Option Nat) : Prop :=
  ∃ j, j / 64 = k ∧ ∃ r ∈ (s.core j).runs, Piece.waits (BitVec.ofNat 40 pa) prefetch ∈ r.pieces

namespace State

section
variable (s : State) (k pa : Nat) (prefetch : Option Nat) (v : Piece)

theorem core_answer (j : Nat) : (s.answer k pa prefetch v).core j = if j / 64 = k then (s.core j).answered pa prefetch v else s.core j :=
  SMap.get_mapWhere (p := fun j => j / 64 = k) (f := Core.answered pa prefetch v) rfl s.cores j

theorem answer_csus : (s.answer k pa prefetch v).csus = s.csus := rfl

/-- An answer touches the cores only. -/
theorem answer_beside : { s.answer k pa prefetch v with cores := [] } = { s with cores := [] } := rfl

variable {v} (final : v.waiting = false)
include final

/-- Behind an answer only those wait who waited before, and for something else. -/
theorem Awaits.of_answer {j qa : Nat} {pf : Option Nat} (waits : (s.answer k pa prefetch v).Awaits j qa pf) :
    s.Awaits j qa pf ∧ ¬(j = k ∧ qa = pa ∧ pf = prefetch) := by
  obtain ⟨i, cluster, r, mem, piece⟩ := waits
  rw [core_answer] at mem
  by_cases own : i / 64 = k
  · rw [if_pos own] at mem
    obtain ⟨r, run, rfl⟩ := List.mem_map.1 mem
    obtain ⟨p, inside, eq⟩ := List.mem_map.1 piece
    by_cases asked : p = .waits (BitVec.ofNat 40 pa) prefetch
    · rw [if_pos asked] at eq
      rw [eq] at final
      exact absurd final nofun
    · rw [if_neg asked] at eq
      refine ⟨⟨i, cluster, r, run, eq ▸ inside⟩, ?_⟩
      rintro ⟨-, rfl, rfl⟩
      exact asked eq
  · rw [if_neg own] at mem
    exact ⟨⟨i, cluster, r, mem, piece⟩, fun same => own (cluster.trans same.1)⟩

end

theorem waiting_piece (a : SecAnswer) : a.piece.waiting = false := by cases a <;> rfl

/-- Who waits is seen in the cores. -/
theorem Awaits.of_cores {s t : State} {k pa : Nat} {pf : Option Nat} (waits : t.Awaits k pa pf) (cores : t.cores = s.cores) : s.Awaits k pa pf := by
  obtain ⟨j, cluster, waits⟩ := waits
  rw [core, cores] at waits
  exact ⟨j, cluster, waits⟩

/-! ### One request for sectors of a line (R248) -/

theorem mcRead_csus (s : State) (pa : Nat) (noalloc : Bool) : (s.mcRead pa noalloc).2.csus = s.csus := by
  have kept := congrArg csus (besideMemory_mcRead s pa noalloc); exact kept

theorem mcRead_cores (s : State) (pa : Nat) (noalloc : Bool) : (s.mcRead pa noalloc).2.cores = s.cores := by
  have kept := congrArg cores (besideMemory_mcRead s pa noalloc); exact kept

/-- A sector is read, and delivered to every demand that waits for it. -/
def serveSector (k : Nat) (line : BitVec 32) (noalloc : Bool) (s : State) (i : Nat) : State :=
  (s.mcRead (line.toNat * 256 + 64 * i) noalloc).2.answer k (line.toNat * 256 + 64 * i) none
    (s.mcRead (line.toNat * 256 + 64 * i) noalloc).1.piece

theorem serveLine_eq (s : State) (k : Nat) (line : BitVec 32) (secs : BitVec 4) (noalloc : Bool) :
    s.serveLine k line secs noalloc = (bitList 4 secs.toNat).foldl (serveSector k line noalloc) s := rfl

theorem serveLine_csus (s : State) (k : Nat) (line : BitVec 32) (secs : BitVec 4) (noalloc : Bool) :
    (s.serveLine k line secs noalloc).csus = s.csus :=
  foldl_keeps (f := serveSector k line noalloc) (P := fun t : State => t.csus = s.csus)
    (fun t i kept => (mcRead_csus t (line.toNat * 256 + 64 * i) noalloc).trans kept) _ rfl

theorem mem_bitList_of_getLsbD {n i : Nat} {x : BitVec n} (hi : i < n) (set : x.getLsbD i = true) : i ∈ bitList n x.toNat :=
  mem_bitList.2 ⟨hi, set⟩

/-- No demand waits for a sector that has been served. -/
theorem not_awaits_serveLine (s : State) (k : Nat) (line : BitVec 32) {secs : BitVec 4} (noalloc : Bool) {i : Nat} (hi : i < 4)
    (asked : secs.getLsbD i = true) : ¬(s.serveLine k line secs noalloc).Awaits k (line.toNat * 256 + 64 * i) none := by
  refine foldl_makes (f := serveSector k line noalloc) (P := fun t : State => ¬t.Awaits k (line.toNat * 256 + 64 * i) none)
    (fun t j none_waits waits => ?_) (a := i) (fun t waits => ?_) s (mem_bitList_of_getLsbD hi asked)
  · exact none_waits ((waits.of_answer (final := waiting_piece _)).1.of_cores (mcRead_cores _ _ _))
  · exact (waits.of_answer (final := waiting_piece _)).2 ⟨rfl, rfl, rfl⟩

/-! ### MERGE_WINDOW_SEND (R248) -/

theorem sendWindow_none {s : State} {k : Nat} {line : BitVec 32} {write : Bool} (closed : (s.csu k).win line write = none) :
    s.sendWindow k line write = s := by
  rw [sendWindow, closed]

theorem sendWindow_write {s : State} {k : Nat} {line : BitVec 32} {w : MWin} (opened : (s.csu k).win line true = some w) :
    s.sendWindow k line true = (s.updCsu k (·.dropWin line true)).sendWrites k line := by
  rw [sendWindow, opened]; rfl

theorem sendWindow_read {s : State} {k : Nat} {line : BitVec 32} {w : MWin} (opened : (s.csu k).win line false = some w) :
    s.sendWindow k line false = (s.updCsu k (·.dropWin line false)).serveLine k line w.sectors w.noalloc := by
  rw [sendWindow, opened]; rfl

/-- Of the stream units a request concerns its own window only. -/
theorem sendWindow_csus {s : State} {k : Nat} {line : BitVec 32} {write : Bool} {w : MWin} (opened : (s.csu k).win line write = some w) :
    (s.sendWindow k line write).csus = (s.updCsu k (·.dropWin line write)).csus := by
  cases write with
  | true => rw [sendWindow_write opened]; rfl
  | false => rw [sendWindow_read opened, serveLine_csus]

theorem csu_of_csus {s t : State} (same : t.csus = s.csus) (j : Nat) : t.csu j = s.csu j := by rw [csu, same]; rfl

end State

theorem Csu.mem_dropWin (c : Csu) (line : BitVec 32) (write : Bool) (w : MWin) :
    w ∈ (c.dropWin line write).wins ↔ w ∈ c.wins ∧ ¬(w.line = line ∧ w.write = write) := by
  rw [dropWin, List.mem_filter, decide_eq_true_eq, ← not_and_or]

/-! ### CSM_WINDOW_CLOSE (R185) -/

/-- The first that is found is the first to go. -/
theorem erase_of_find? {α : Type} [BEq α] [LawfulBEq α] {p : α → Bool} {l : List α} {x : α} (found : l.find? p = some x) :
    l.erase x = l.eraseP p := by
  obtain ⟨px, before, after, rfl, not_before⟩ := List.find?_eq_some_iff_append.1 found
  have absent : x ∉ before := fun mem => by simpa [px] using not_before x mem
  rw [List.erase_append_right _ absent, List.erase_cons_head, List.eraseP_append_right _ (by simpa using not_before), List.eraseP_cons_of_pos px]

/-- The read window of a sector closes. -/
def Cluster.closeWin (c : Cluster) (sector : BitVec 15) : Cluster := { c with wins := c.wins.eraseP fun w => decide (w.sector = sector) }

theorem exec_csmWindowClose (s : State) (cl : BitVec 6) (sector : BitVec 15) :
    exec (.csmWindowClose cl sector) s = .next (s.updCluster cl.toNat (·.closeWin sector)) := by
  show execCsmWindowClose cl sector s = _
  rw [execCsmWindowClose]
  congr 2
  funext c
  split
  next found => rw [Cluster.closeWin, erase_of_find? found]
  next none_there => rw [Cluster.closeWin, List.eraseP_of_forall_not (by simpa using none_there)]

end Sys2Proof.Machine
end

section
/-! PROOF. Prefetch (R250 to R256): the next request of a stream whose turn it is, or where it stops; a prefetch that returns; an invalidation of
a line; and page walks (R234). -/

namespace Sys2Proof.Machine

open Sys2Proof

namespace Csu

/-! ### Frames and streams (R250, R253) -/

/-- A stream unit without its frames and its counts. -/
def besideFrames (c : Csu) : Csu := { c with frames := [], counts := [] }

theorem besideFrames_evict {c d : Csu} {units : Nat} (taken : c.evict units = some d) : d.besideFrames = c.besideFrames := by
  rw [evict] at taken
  dsimp only at taken
  split at taken
  · exact Option.some.inj taken ▸ rfl
  · split at taken
    · exact Option.some.inj taken ▸ rfl
    · exact absurd taken nofun

theorem besideFrames_shrink (units room : Nat) : ∀ (fuel : Nat) (c : Csu), (shrink units room fuel c).besideFrames = c.besideFrames
  | 0, _ => rfl
  | fuel + 1, c => by
    rw [shrink]
    split
    · rfl
    · split
      next taken => exact (besideFrames_shrink units room fuel _).trans (besideFrames_evict taken)
      · rfl

/-- Making room for a line takes frames and nothing else. -/
theorem besideFrames_makeRoom {c d : Csu} {units room : Nat} {line : BitVec 32} (made : c.makeRoom units room line = some d) :
    d.besideFrames = c.besideFrames := by
  rw [makeRoom] at made
  split at made
  · exact Option.some.inj made ▸ rfl
  · split at made
    · exact absurd made nofun
    · dsimp only at made
      split at made
      · exact Option.some.inj made ▸ besideFrames_shrink _ _ _ _
      · exact absurd made nofun

/-- An invalidation takes every copy of its line (R255). -/
theorem mem_dropLine (c : Csu) (line : BitVec 32) (off : Nat) (f : CFrame) : f ∈ (c.dropLine line off).frames ↔ f ∈ c.frames ∧ f.line ≠ line := by
  rw [dropLine, List.mem_filter, decide_eq_true_eq]

/-- What a stream has still to issue. -/
def rowsOf (c : Csu) (k : Nat) : Option (List (VA × Nat)) := (SMap.get none c.streams k).map (·.rows)

variable (c : Csu)

@[simp] theorem useStream_inflight (k : Option (BitVec 4)) : (c.useStream k).inflight = c.inflight := by
  unfold useStream
  split
  · rfl
  · dsimp only
    split <;> rfl

@[simp] theorem rowsOf_useStream (k : BitVec 4) : (c.useStream (some k)).rowsOf k.toNat = c.rowsOf k.toNat := by
  unfold useStream
  dsimp only
  split
  next t there =>
    rw [rowsOf, rowsOf, there, SMap.get_set_same]; rfl
  · rfl

/-- The requests in flight of a stream that has ended belong to no active stream. -/
theorem endStream_inflight (k : Nat) : (c.endStream k).inflight =
    c.inflight.map fun r => { r with live := r.live && decide (r.stream.toNat ≠ k) } := by
  refine List.map_congr_left fun r _ => ?_
  by_cases own : r.stream.toNat = k <;> simp [own]

/-- The stream moves on behind its present line; at its end its entry is free. -/
def passStream (k : Nat) (rows : List (VA × Nat)) : Csu :=
  if (passLine rows).isEmpty = true then c.endStream k
  else { c with streams := SMap.upd none c.streams k fun t => t.map fun t => { t with rows := passLine rows } }

theorem passStream_inflight (k : Nat) (rows : List (VA × Nat)) :
    ∃ live : PfReq → Bool, (c.passStream k rows).inflight = c.inflight.map fun r => { r with live := live r } := by
  rw [passStream]
  split
  · exact ⟨_, c.endStream_inflight k⟩
  · exact ⟨(·.live), (List.map_id _).symm⟩

theorem rowsOf_passStream {k : Nat} {rows : List (VA × Nat)} (here : c.rowsOf k = some rows) :
    (c.passStream k rows).rowsOf k = if passLine rows = [] then none else some (passLine rows) := by
  rw [passStream]
  by_cases ended : passLine rows = []
  · rw [if_pos ended, if_pos (by rw [ended]; rfl)]
    exact congrArg (Option.map (·.rows)) (SMap.get_set_same none c.streams k none)
  · rw [if_neg ended, if_neg (by simpa using ended), rowsOf, SMap.get_upd_same]
    obtain ⟨t, there, -⟩ := Option.map_eq_some_iff.1 here
    rw [there]; rfl

end Csu

/-! ### The request that a stream issues (R251) -/

/-- A set of sectors as a mask. -/
theorem getLsbD_maskOf (l : List Nat) {i : Nat} (hi : i < 4) : (maskOf l).getLsbD i = l.contains i := by
  have masked : ∀ (l : List Nat) (m : BitVec 4), (l.foldl (fun m k => m ||| secMask k) m).getLsbD i = (m.getLsbD i || l.contains i) := by
    intro l
    induction l with
    | nil => intro m; rw [List.foldl_nil, List.contains_nil, Bool.or_false]
    | cons k l ih =>
      intro m
      have sector : (secMask k).getLsbD i = (i == k) := by
        rw [secMask, BitVec.getLsbD_ofNat, Nat.testBit_two_pow, decide_eq_true hi, Bool.true_and]
        exact decide_eq_decide.2 eq_comm
      rw [List.foldl_cons, ih, BitVec.getLsbD_or, sector, List.contains_cons, Bool.or_assoc]
  exact (masked l 0#4).trans (by rw [BitVec.getLsbD_zero, Bool.false_or])

namespace State

/-- Reading the sectors of a line changes no stream unit. -/
theorem pfRead_csus (s : State) (k : Nat) (line : BitVec 32) (noalloc : Bool) (secs win : BitVec 4) :
    (s.pfRead k line noalloc secs win).2.2.csus = s.csus := by
  refine foldl_keeps (P := fun a : List QW × Status × State => a.2.2.csus = s.csus) (fun a i kept => ?_) _ rfl
  have read := (mcRead_csus a.2.2 (line.toNat * 256 + 64 * i) noalloc).trans kept
  dsimp only
  split
  · have delivered (v : Piece) : (if win.getLsbD i = true then (a.2.2.mcRead (line.toNat * 256 + 64 * i) noalloc).2.answer k
        (line.toNat * 256 + 64 * i) none v else (a.2.2.mcRead (line.toNat * 256 + 64 * i) noalloc).2).csus = s.csus := by
      split
      · exact read
      · exact read
    split
    · split <;> exact delivered _
    · exact delivered _
  · exact kept

theorem dirRecord_csus (s : State) (stack line : Nat) (paLine : BitVec 32) (csu : Nat) : (s.dirRecord stack line paLine csu).csus = s.csus := by
  unfold dirRecord
  dsimp only
  split
  · rfl
  · split <;> rfl

theorem countTurn_csus (s : State) (w : Turned) : (s.countTurn w).csus = s.csus := by cases w <;> rfl

/-- What the stream unit holds while its request is served: the open read window of the line has gone with it. -/
def windowSent (s : State) (k : Nat) (line : BitVec 32) (n m : Nat) : State :=
  s.updCsu k fun c => ((c.dropWin line false).count 0x10 n).count 0x38 m

/-- What the controller answers a request for sectors of a line. -/
def pfAnswer (s : State) (k : Nat) (line : BitVec 32) (p : Place) (noalloc : Bool) (secs win : BitVec 4) : List QW × Status × State :=
  match s.turned (.csu k) (.stack p.stack) with
  | some t => (List.replicate 64 ({} : QW), stFenced, (s.countTurn t).serveLine k line win noalloc)
  | none =>
    match s.pfRead k line noalloc secs win with
    | (d, e, s) => (d, e, if e = stOk then s.dirRecord p.stack (p.off / 256) line k else s)

theorem pfAnswer_csus (s : State) (k : Nat) (line : BitVec 32) (p : Place) (noalloc : Bool) (secs win : BitVec 4) :
    (s.pfAnswer k line p noalloc secs win).2.2.csus = s.csus := by
  rw [pfAnswer]
  split
  · exact (serveLine_csus _ _ _ _ _).trans (countTurn_csus _ _)
  · have read := pfRead_csus s k line noalloc secs win
    dsimp only
    split
    · exact (dirRecord_csus _ _ _ _ _).trans read
    · exact read

end State

/-- A request joins those in flight, and its stream has issued. -/
def Csu.launch (r : PfReq) (c : Csu) : Csu := ({ c with inflight := c.inflight ++ [r] } : Csu).useStream (some r.stream)

namespace State

/-- A request that is sent joins those in flight, whatever its controller has answered. -/
theorem csu_pfSend (s : State) (k st pa : Nat) (noalloc : Bool) (secs : BitVec 4) : ∃ n m data status seq,
    (s.pfSend k st pa noalloc secs).csu k = ((s.windowSent k (lineOfPa pa) n m).csu k).launch
      { stream := BitVec.ofNat 4 st, line := lineOfPa pa, sectors := secs, data := data, status := status, seq := seq } := by
  let win : BitVec 4 := match (s.csu k).win (lineOfPa pa) false with
    | some w => w.sectors
    | none => 0
  let n := popcount 4 secs.toNat
  let m := if win = 0 then 0 else n
  let a := (s.windowSent k (lineOfPa pa) n m).pfAnswer k (lineOfPa pa) (s.place (pa / 256 * 256)) noalloc secs win
  have sent : s.pfSend k st pa noalloc secs =
      ({ a.2.2 with net := { a.2.2.net with seq := a.2.2.net.seq + 1 } } : State).updCsu k (Csu.launch
        { stream := BitVec.ofNat 4 st, line := lineOfPa pa, sectors := secs, data := a.1, status := a.2.1, seq := a.2.2.net.seq }) := rfl
  refine ⟨n, m, a.1, a.2.1, a.2.2.net.seq, ?_⟩
  rw [sent, updCsu_csu_same]
  exact congrArg _ (csu_of_csus (pfAnswer_csus _ _ _ _ _ _ _) k)

/-- What a request leaves in flight, and of its stream. -/
theorem pfSend_launches (s : State) (k : Nat) (st : BitVec 4) (pa : Nat) (noalloc : Bool) (secs : BitVec 4) : ∃ r : PfReq,
    ((s.pfSend k st.toNat pa noalloc secs).csu k).inflight = (s.csu k).inflight ++ [r] ∧
    ((s.pfSend k st.toNat pa noalloc secs).csu k).rowsOf st.toNat = (s.csu k).rowsOf st.toNat ∧
    r.line = lineOfPa pa ∧ r.stream = st ∧ r.cancelled = false ∧ r.demanded = 0 ∧ r.sectors = secs := by
  obtain ⟨n, m, data, status, seq, sent⟩ := s.csu_pfSend k st.toNat pa noalloc secs
  rw [BitVec.ofNat_toNat, BitVec.setWidth_eq] at sent
  rw [sent, Csu.launch, Csu.useStream_inflight, Csu.rowsOf_useStream, windowSent, updCsu_csu_same]
  exact ⟨_, rfl, rfl, rfl, rfl, rfl, rfl, rfl⟩

/-- The stream moves on behind the line that it has asked for. -/
theorem csu_pfPass {s : State} {k st : Nat} {rows : List (VA × Nat)} (here : (s.csu k).rowsOf st = some rows) :
    (s.pfPass k st).csu k = (s.csu k).passStream st rows := by
  obtain ⟨t, there, rfl⟩ := Option.map_eq_some_iff.1 here
  rw [pfPass, updCsu_csu_same, there, Csu.passStream, SMap.upd, there]
  rfl

/-! ### PREFETCH_ISSUE (R251, R252) -/

/-- The stream is active, has not stopped, and has bytes of its first row to issue. -/
structure Issuing (s : State) (k : Nat) (st : BitVec 4) (t0 : Stream) (va : VA) (n : Nat) (rest : List (VA × Nat)) : Prop where
  active : SMap.get none (s.csu k).streams st.toNat = some t0
  runs : t0.stopped = false
  trackers : bits (s.csu k).cfg 27 16 ≠ 0
  rows : t0.rows = (va, n) :: rest
  bytes : n ≠ 0

/-- The translation of the address that a stream issues next; a page of which a walk has failed counts as one that fails. -/
def pfXlate (s : State) (cl : BitVec 6) (t : Stream) (va : VA) : Xl × State :=
  if t.barred.contains (va.toNat / 2 ^ 21) then (.bad causeNotValid, s) else s.translate (.csu cl) va .r

theorem pfXlate_csus (s : State) (cl : BitVec 6) (t : Stream) (va : VA) : (s.pfXlate cl t va).2.csus = s.csus := by
  rw [pfXlate]
  split
  · rfl
  · have kept := congrArg csus (besideMemory_translate s (.csu cl) va .r); exact kept

/-- The stream stops where its address does not translate (R252). -/
def pfStop (s : State) (k st : Nat) (t : Stream) : State :=
  s.updCsu k fun c => { c.count 0x28 1 with streams := SMap.set none c.streams st (some { t with stopped := true }) }

section
variable {s : State} {cl : BitVec 6} {st : BitVec 4} {t0 : Stream} {va : VA} {n : Nat} {rest : List (VA × Nat)}
  (issuing : s.Issuing cl.toNat st t0 va n rest)
include issuing

theorem Issuing.pfTurn : ∃ fuel, s.pfTurn cl.toNat st.toNat = s.pfIssue cl.toNat st.toNat (fuel + 1) := by
  refine ⟨(t0.rows.map fun r => r.2 / 256 + 2).sum, ?_⟩
  rw [State.pfTurn, issuing.active]
  exact if_neg (by rw [issuing.runs]; simpa using issuing.trackers)

theorem Issuing.pfIssue_stops {cause : Byte} {v : State} (bad : s.pfXlate cl t0 va = (.bad cause, v)) (fuel : Nat) :
    s.pfIssue cl.toNat st.toNat (fuel + 1) = v.pfStop cl.toNat st.toNat t0 := by
  rw [pfXlate] at bad
  rw [State.pfIssue, issuing.active]
  dsimp only
  rw [issuing.rows]
  dsimp only
  rw [if_neg issuing.bytes, BitVec.ofNat_toNat, BitVec.setWidth_eq, bad, pfStop, issuing.rows]

/-- The sectors that a stream lacks of the line at `pa`. -/
abbrev unheld (s : State) (k : Nat) (va : VA) (n pa : Nat) : List Nat := (lineSectors va n).filter fun i => !(s.csu k).has (lineOfPa pa) i

/-- The stream has room for the sectors that it lacks of the line at `pa`, and no STORE of its cluster goes before them; `c` is the stream
unit with a frame for the line. -/
structure Fits (s : State) (k : Nat) (st : BitVec 4) (va : VA) (n pa : Nat) (c : Csu) : Prop where
  some_sector : s.unheld k va n pa ≠ []
  window : (s.csu k).held st.toNat + 64 * (s.unheld k va n pa).length ≤
    (s.csu k).window (s.csuUnits k)
  most : (s.csu k).trackers + (s.unheld k va n pa).length ≤ bits (s.csu k).cfg 27 16
  free : s.trackersIn k + s.demandNeed k + (s.unheld k va n pa).length ≤ 3072
  stores : s.storePending k (lineOfPa pa) = false
  frame : (s.csu k).makeRoom (s.csuUnits k) (s.frameRoom k) (lineOfPa pa) = some c

theorem Issuing.pfIssue_sends {v : State} {pa : Nat} {noalloc : Bool} {c : Csu} (good : s.pfXlate cl t0 va = (.ok pa noalloc, v))
    (fits : s.Fits cl.toNat st va n pa c) (fuel : Nat) : s.pfIssue cl.toNat st.toNat (fuel + 1) =
      ((v.updCsu cl.toNat fun _ => c).pfSend cl.toNat st.toNat pa noalloc
        (maskOf (s.unheld cl.toNat va n pa))).pfPass cl.toNat st.toNat := by
  obtain ⟨some_sector, window, most, free, stores, frame⟩ := fits
  rw [unheld] at window most free
  rw [pfXlate] at good
  rw [State.pfIssue, issuing.active]
  dsimp only
  rw [issuing.rows]
  dsimp only
  rw [if_neg issuing.bytes, BitVec.ofNat_toNat, BitVec.setWidth_eq, good]
  dsimp only
  rw [if_neg (by simpa using some_sector), if_neg (by omega), if_neg (by rw [stores]; decide), frame]

/-- A stream that stops keeps its place, and issues nothing. -/
theorem Issuing.pfTurn_stops {cause : Byte} {v : State} (bad : s.pfXlate cl t0 va = (.bad cause, v)) :
    SMap.get none ((s.pfTurn cl.toNat st.toNat).csu cl.toNat).streams st.toNat = some { t0 with stopped := true } ∧
    ((s.pfTurn cl.toNat st.toNat).csu cl.toNat).inflight = (s.csu cl.toNat).inflight := by
  obtain ⟨fuel, turn⟩ := issuing.pfTurn
  have kept : v.csus = s.csus := by
    have kept := pfXlate_csus s cl t0 va
    rwa [bad] at kept
  rw [turn, issuing.pfIssue_stops bad, pfStop, updCsu_csu_same, csu_of_csus kept]
  dsimp only
  exact ⟨SMap.get_set_same none _ _ _, rfl⟩

/-- A stream that fits issues one request for the sectors that it lacks, and moves on behind the line. -/
theorem Issuing.pfTurn_sends {v : State} {pa : Nat} {noalloc : Bool} {c : Csu} (good : s.pfXlate cl t0 va = (.ok pa noalloc, v))
    (fits : s.Fits cl.toNat st va n pa c) : ∃ r : PfReq,
    (∃ live : PfReq → Bool, ((s.pfTurn cl.toNat st.toNat).csu cl.toNat).inflight =
      ((s.csu cl.toNat).inflight ++ [r]).map fun r => { r with live := live r }) ∧
    ((s.pfTurn cl.toNat st.toNat).csu cl.toNat).rowsOf st.toNat = (if passLine t0.rows = [] then none else some (passLine t0.rows)) ∧
    r.line = lineOfPa pa ∧ r.stream = st ∧ r.cancelled = false ∧ r.demanded = 0 ∧
    r.sectors = maskOf (s.unheld cl.toNat va n pa) := by
  obtain ⟨fuel, turn⟩ := issuing.pfTurn
  have room := Csu.besideFrames_makeRoom fits.frame
  have streams : c.streams = (s.csu cl.toNat).streams := by have kept := congrArg Csu.streams room; exact kept
  have flying : c.inflight = (s.csu cl.toNat).inflight := by have kept := congrArg Csu.inflight room; exact kept
  obtain ⟨r, sent, rows, request⟩ := (v.updCsu cl.toNat fun _ => c).pfSend_launches cl.toNat st pa noalloc
    (maskOf (s.unheld cl.toNat va n pa))
  rw [updCsu_csu_same] at sent rows
  have here : c.rowsOf st.toNat = some t0.rows := by rw [Csu.rowsOf, streams, issuing.active]; rfl
  rw [here] at rows
  rw [turn, issuing.pfIssue_sends good fits, csu_pfPass rows, ← flying]
  exact ⟨r, sent ▸ Csu.passStream_inflight _ _ _, Csu.rowsOf_passStream _ rows, request⟩

end

section
variable {s : State} {cl : BitVec 6} {st : BitVec 4}

theorem exec_prefetchIssue_idle (idle : s.pfCan cl.toNat st.toNat = false) :
    exec (.prefetchIssue cl st) s = .next (s.pfTurn cl.toNat st.toNat) := by
  show execPrefetchIssue cl st s = _
  exact if_pos (by rw [idle]; rfl)

theorem exec_prefetchIssue_waits (can : s.pfCan cl.toNat st.toNat = true) (other : s.pfNext cl.toNat ≠ some st.toNat) :
    exec (.prefetchIssue cl st) s = .next s := by
  show execPrefetchIssue cl st s = _
  exact (if_neg (by rw [can]; decide)).trans (if_pos other)

theorem exec_prefetchIssue_next (next : s.pfNext cl.toNat = some st.toNat) :
    exec (.prefetchIssue cl st) s = .next ((s.pfTurn cl.toNat st.toNat).updCsu cl.toNat fun c => { c with turn := st }) := by
  have can : s.pfCan cl.toNat st.toNat = true := List.find?_some next
  show execPrefetchIssue cl st s = _
  exact (if_neg (by rw [can]; decide)).trans (if_neg (not_not.2 next))

end

end State

/-! ### PREFETCH_RETURN (R254, R256) -/

/-- What a prefetch that returns does to its stream unit. -/
def PfReq.land (r : PfReq) (a : PfAnswer) (c : Csu) : Csu :=
  if r.cancelled then c.noFill r
  else match r.answer a with
    | .data => if r.stale then c.pass r else c.fill r
    | .aborted => c.noFill r
    | .busy | .fenced => (c.noFill r).stop r

/-- What the demands that waited on it come to, each with the words of its sector. -/
def PfReq.brings (r : PfReq) (a : PfAnswer) (d : List QW) : Piece :=
  if r.cancelled then .todo
  else match r.answer a with
    | .data => .got d stOk
    | .aborted => (SecAnswer.bad stAborted).piece
    | .busy | .fenced => .todo

section
variable (r : PfReq) (a : PfAnswer)

theorem PfReq.brings_final (d : List QW) : (r.brings a d).waiting = false := by
  unfold brings
  split
  · rfl
  · split <;> rfl

theorem Csu.stop_frames (c : Csu) : (c.stop r).frames = c.frames := by
  rw [Csu.stop]
  split <;> rfl

theorem Csu.stop_inflight (c : Csu) : (c.stop r).inflight = c.inflight := by
  rw [Csu.stop]
  split <;> rfl

theorem Csu.fill_inflight (c : Csu) : (c.fill r).inflight = c.inflight := by simp only [Csu.fill, Csu.count]
theorem Csu.pass_inflight (c : Csu) : (c.pass r).inflight = c.inflight := by simp only [Csu.pass, Csu.count]
theorem Csu.pass_frames (c : Csu) : (c.pass r).frames = c.frames := by simp only [Csu.pass, Csu.count]

theorem PfReq.land_inflight (c : Csu) : (r.land a c).inflight = c.inflight := by
  unfold land
  split
  · rfl
  · split
    · split
      · exact Csu.pass_inflight r c
      · exact Csu.fill_inflight r c
    · rfl
    · exact Csu.stop_inflight r _
    · exact Csu.stop_inflight r _

variable {r a}

theorem PfReq.land_fills (c : Csu) (sound : r.cancelled = false) (fresh : r.stale = false) (data : r.answer a = .data) :
    r.land a c = c.fill r := by
  rw [land, sound, data, fresh]; rfl

theorem PfReq.land_frames (c : Csu) (lost : r.cancelled = true ∨ r.stale = true ∨ r.answer a ≠ .data) : (r.land a c).frames = c.frames := by
  unfold land
  split
  · rfl
  next sound =>
    split
    next data =>
      rcases lost with cancelled | stale | other
      · exact absurd cancelled sound
      · rw [if_pos stale, Csu.pass_frames]
      · exact absurd data other
    · rfl
    · exact Csu.stop_frames r _
    · exact Csu.stop_frames r _

theorem bitVec_or_and_self {n : Nat} (x y : BitVec n) : (x ||| y) &&& y = y := by
  ext i hi
  simp +contextual

/-- Data that are kept stand in a frame of their line, valid in their sectors. -/
theorem Csu.fill_holds (c : Csu) : ∃ f ∈ (c.fill r).frames, f.line = r.line ∧ f.valid &&& r.sectors = r.sectors := by
  refine ⟨_, List.mem_cons_self, ?_, bitVec_or_and_self _ _⟩
  show ((c.frames.find? fun f => decide (f.line = r.line)).getD _).line = r.line
  cases found : c.frames.find? fun f => decide (f.line = r.line) with
  | none => rfl
  | some f => simpa using List.find?_some found

end

namespace State

/-- A sector's demands on a prefetch that returns are answered. -/
def handSector (k : Nat) (r : PfReq) (f : List QW → Piece) (s : State) (i : Nat) : State :=
  s.answer k (r.line.toNat * 256 + 64 * i) (some r.seq) (f ((r.data.drop (16 * i)).take 16))

theorem handOut_eq (s : State) (k : Nat) (r : PfReq) (f : List QW → Piece) :
    s.handOut k r f = (bitList 4 (r.sectors &&& r.demanded).toNat).foldl (handSector k r f) s := rfl

/-- What a prefetch brings reaches the cores and nothing else. -/
theorem handOut_beside (s : State) (k : Nat) (r : PfReq) (f : List QW → Piece) :
    { s.handOut k r f with cores := [] } = { s with cores := [] } :=
  foldl_keeps (f := handSector k r f) (P := fun t : State => { t with cores := [] } = { s with cores := [] })
    (fun t _ kept => (t.answer_beside _ _ _ _).trans kept) _ rfl

theorem handOut_csus (s : State) (k : Nat) (r : PfReq) (f : List QW → Piece) : (s.handOut k r f).csus = s.csus := by
  have kept := congrArg csus (s.handOut_beside k r f); exact kept

/-- No demand waits on a prefetch any more that has returned. -/
theorem not_awaits_handOut (s : State) (k : Nat) {r : PfReq} {f : List QW → Piece} (final : ∀ d, (f d).waiting = false) {i : Nat} (hi : i < 4)
    (asked : r.sectors.getLsbD i = true) (demanded : r.demanded.getLsbD i = true) :
    ¬(s.handOut k r f).Awaits k (r.line.toNat * 256 + 64 * i) (some r.seq) := by
  have both : (r.sectors &&& r.demanded).getLsbD i = true := by rw [BitVec.getLsbD_and, asked, demanded]; rfl
  refine foldl_makes (f := handSector k r f) (P := fun t : State => ¬t.Awaits k (r.line.toNat * 256 + 64 * i) (some r.seq))
    (fun t j none_waits waits => ?_) (a := i) (fun t waits => ?_) s (mem_bitList_of_getLsbD hi both)
  · exact none_waits (waits.of_answer (final := final _)).1
  · exact (waits.of_answer (final := final _)).2 ⟨rfl, rfl, rfl⟩

/-- The oldest prefetch of a unit has returned. -/
def pfReturned (s : State) (k : Nat) (r : PfReq) (rest : List PfReq) (a : PfAnswer) : State :=
  (s.updCsu k fun c => r.land a { c with inflight := rest }).handOut k r (r.brings a)

theorem updCsu_updCsu (s : State) (k : Nat) (f g : Csu → Csu) : (s.updCsu k f).updCsu k g = s.updCsu k fun c => g (f c) := by
  simp [updCsu, SMap.upd]

theorem exec_prefetchReturn {s : State} {cl : BitVec 6} {a : PfAnswer} {r : PfReq} {rest : List PfReq}
    (oldest : (s.csu cl.toNat).inflight = r :: rest) (ahead : ∀ i ∈ s.net.invals, ¬(i.csu = cl ∧ i.line = r.line ∧ i.seq < r.seq)) :
    exec (.prefetchReturn cl a) s = .next (s.pfReturned cl.toNat r rest a) := by
  show execPrefetchReturn cl a s = _
  have clear : ¬(s.net.invals.any fun i => decide (i.csu = cl ∧ i.line = r.line ∧ i.seq < r.seq)) = true := by
    simpa only [List.any_eq_true, decide_eq_true_eq, not_exists, not_and] using ahead
  rw [execPrefetchReturn, oldest]
  dsimp only
  rw [if_neg clear]
  unfold pfReturned PfReq.land PfReq.brings
  simp only [updCsu_updCsu]
  cases r.cancelled with
  | true => rfl
  | false => cases r.answer a <;> rfl

theorem csu_pfReturned (s : State) (k : Nat) (r : PfReq) (rest : List PfReq) (a : PfAnswer) :
    (s.pfReturned k r rest a).csu k = r.land a { s.csu k with inflight := rest } :=
  (csu_of_csus (handOut_csus _ _ _ _) k).trans (updCsu_csu_same _ _ _)

theorem csu_pfReturned_other (s : State) {k j : Nat} (other : j ≠ k) (r : PfReq) (rest : List PfReq) (a : PfAnswer) :
    (s.pfReturned k r rest a).csu j = s.csu j :=
  (csu_of_csus (handOut_csus _ _ _ _) j).trans (updCsu_csu_other _ _ other)

/-! ### CSU_INVALIDATION (R231, R255) -/

/-- An invalidation of a line has arrived. -/
def invalidated (s : State) (k : Nat) (line : BitVec 32) (i : Inval) : State :=
  ({ s with net := { s.net with invals := s.net.invals.erase i } } : State).updCsu k (·.dropLine line (if i.evict then 0x1C else 0x20))

theorem exec_csuInvalidation {s : State} {cl : BitVec 6} {line : BitVec 32} {i : Inval}
    (oldest : s.net.invals.find? (fun i => decide (i.csu = cl ∧ i.line = line)) = some i)
    (behind : (s.csu cl.toNat).inflight.any (fun r => decide (r.line = line ∧ r.seq < i.seq ∧ r.status = stOk)) = false) :
    exec (.csuInvalidation cl line) s = .next (s.invalidated cl.toNat line i) := by
  show execCsuInvalidation cl line s = _
  rw [execCsuInvalidation, oldest]
  dsimp only
  rw [if_neg (by rw [behind]; decide)]
  rfl

/-! ### PAGE_WALK (R234) -/

/-- A walk whose address translates comes to what the translation leaves. -/
theorem exec_pageWalk {s u : State} {who : Requester} {va : VA} {acc : Access} {pa : Nat} {noalloc : Bool} (there : s.hasRequester who = true)
    (may : s.mayWalk who va = true) (absent : s.resident who va = none) (found : s.translate who va acc = (.ok pa noalloc, u)) :
    exec (.pageWalk who va acc) s = .next u := by
  show execPageWalk who va acc s = _
  have walks : (s.hasRequester who && s.mayWalk who va && (s.resident who va).isNone) = true := by rw [there, may, absent]; rfl
  refine (if_pos walks).trans ?_
  rw [found]

end State

/-! ### The obligation -/

/-- R251, R252: the stream whose turn it is issues, or stops. -/
theorem prefetchIssue_completes (s : State) (cl : BitVec 6) (st : BitVec 4) (t0 : Stream) (va : VA) (n : Nat) (rest : List (VA × Nat)) (u : State)
    (issuing : s.Issuing cl.toNat st t0 va n rest) : let k := cl.toNat; let c := s.csu k; let units := s.csuUnits k
    (∀ cause, s.translate (.csu cl) va .r = (.bad cause, u) → Completes (.prefetchIssue cl st) s fun t =>
      SMap.get none (t.csu k).streams st.toNat = some { t0 with stopped := true } ∧ (t.csu k).inflight = c.inflight) ∧
    (s.pfCan k st.toNat = true → s.pfNext k ≠ some st.toNat → Completes (.prefetchIssue cl st) s fun t => t = s) ∧
    (∀ pa noalloc c', s.translate (.csu cl) va .r = (.ok pa noalloc, u) → t0.barred.contains (va.toNat / 2 ^ 21) = false →
      s.unheld k va n pa ≠ [] → c.held st.toNat + 64 * (s.unheld k va n pa).length ≤ c.window units →
      c.trackers + (s.unheld k va n pa).length ≤ bits c.cfg 27 16 →
      s.trackersIn k + s.demandNeed k + (s.unheld k va n pa).length ≤ 3072 → s.storePending k (lineOfPa pa) = false →
      c.makeRoom units (s.frameRoom k) (lineOfPa pa) = some c' → s.pfNext k = some st.toNat → Completes (.prefetchIssue cl st) s fun t =>
        (t.csu k).inflight.length = c.inflight.length + 1 ∧ (t.csu k).turn = st ∧
        (∃ r, (t.csu k).inflight.getLast? = some r ∧ r.line = lineOfPa pa ∧ r.stream = st ∧ r.cancelled = false ∧ r.demanded = 0 ∧
          ∀ i, i < 4 → r.sectors.getLsbD i = (s.unheld k va n pa).contains i) ∧
        (t.csu k).rowsOf st.toNat = if passLine t0.rows = [] then none else some (passLine t0.rows)) := by
  intro k c units
  refine ⟨fun cause bad => ?stops, fun can other => ⟨s, State.exec_prefetchIssue_waits can other, rfl⟩,
    fun pa noalloc c' good unbarred some_sector window most free stores frame next => ?sends⟩
  case stops =>
    have xlate : ∃ cause v, s.pfXlate cl t0 va = (.bad cause, v) := by
      rw [State.pfXlate]
      split
      · exact ⟨_, _, rfl⟩
      · exact ⟨_, _, bad⟩
    obtain ⟨cause, v, xlate⟩ := xlate
    have stopped := issuing.pfTurn_stops xlate
    have idle : s.pfCan k st.toNat = false := decide_eq_false (not_not.2 (congrArg List.length stopped.2))
    exact ⟨_, State.exec_prefetchIssue_idle idle, stopped⟩
  case sends =>
    have xlate : s.pfXlate cl t0 va = (.ok pa noalloc, u) := by
      rw [State.pfXlate, if_neg (by rw [unbarred]; decide), good]
    obtain ⟨r, ⟨live, flying⟩, rows, line, stream, kept, undemanded, sectors⟩ :=
      issuing.pfTurn_sends xlate ⟨some_sector, window, most, free, stores, frame⟩
    refine ⟨_, State.exec_prefetchIssue_next next, ?_⟩
    dsimp only
    rw [State.updCsu_csu_same]
    refine ⟨?_, rfl, ⟨{ r with live := live r }, ?_, line, stream, kept, undemanded, fun i hi => ?_⟩, rows⟩
    · rw [flying, List.length_map, List.length_append]; rfl
    · rw [flying, List.map_append, List.map_singleton, List.getLast?_concat]
    · exact sectors ▸ getLsbD_maskOf _ hi

/-- R254, R256: a prefetch that returns is held, or lost, and no demand waits on it any more. -/
theorem prefetchReturn_completes (s : State) (cl : BitVec 6) (a : PfAnswer) (r : PfReq) (rest : List PfReq) : let k := cl.toNat
    (s.csu k).inflight = r :: rest → (∀ i ∈ s.net.invals, ¬(i.csu = cl ∧ i.line = r.line ∧ i.seq < r.seq)) →
    Completes (.prefetchReturn cl a) s fun t =>
      (t.csu k).inflight = rest ∧ { t with csus := [], cores := [] } = { s with csus := [], cores := [] } ∧ (∀ j, j ≠ k → t.csu j = s.csu j) ∧
      (∀ i, i < 4 → r.sectors.getLsbD i = true → r.demanded.getLsbD i = true → ¬t.Awaits k (r.line.toNat * 256 + 64 * i) (some r.seq)) ∧
      (r.cancelled = false → r.stale = false → r.answer a = .data →
        ∃ f ∈ (t.csu k).frames, f.line = r.line ∧ f.valid &&& r.sectors = r.sectors) ∧
      (r.cancelled = true ∨ r.stale = true ∨ r.answer a ≠ .data → (t.csu k).frames = (s.csu k).frames) := by
  intro k oldest ahead
  refine ⟨_, State.exec_prefetchReturn oldest ahead, ?_⟩
  dsimp only
  rw [State.csu_pfReturned]
  refine ⟨PfReq.land_inflight r a _, ?_, fun j other => State.csu_pfReturned_other s other r rest a,
    fun i hi asked demanded => State.not_awaits_handOut _ _ (PfReq.brings_final r a) hi asked demanded, fun sound fresh data => ?_,
    PfReq.land_frames _⟩
  · have beside := congrArg (fun t : State => { t with csus := [] })
      (State.handOut_beside (s.updCsu k fun c => r.land a { c with inflight := rest }) k r (r.brings a))
    exact beside
  · rw [PfReq.land_fills _ sound fresh data]
    exact Csu.fill_holds _

/-- Settles O15: a window goes to its controller as one request (`sendWindow_csus`, `not_awaits_serveLine`); a stream issues or stops
(`prefetchIssue_completes`), a prefetch returns (`prefetchReturn_completes`), and a walk's leaf is where the next translation looks first
(`resident_noteTb`). -/
theorem streamUnitEventsComplete : Obligations.StreamUnitEventsComplete := by
  unfold Obligations.StreamUnitEventsComplete
  intro s waits
  refine ⟨?shared, ?merge, ?issue, prefetchReturn_completes s, ?invalidation, ?walk⟩
  case shared =>
    intro cl sector
    refine ⟨_, exec_csmWindowClose s cl sector, ?_, ?_, fun j other => State.updCluster_cluster_other _ _ other, rfl⟩ <;>
      rw [State.updCluster_cluster_same] <;> rfl
  case merge =>
    intro cl line write k
    refine ⟨fun closed => ⟨_, rfl, State.sendWindow_none closed⟩, fun w opened => ⟨_, rfl, ?_⟩⟩
    have units := State.sendWindow_csus opened
    have own : (s.sendWindow k line write).csu k = (s.csu k).dropWin line write :=
      (State.csu_of_csus units k).trans (State.updCsu_csu_same _ _ _)
    dsimp only
    rw [own]
    refine ⟨fun w => Csu.mem_dropWin _ _ _ w, rfl, fun j other => (State.csu_of_csus units j).trans (State.updCsu_csu_other _ _ other),
      fun writes => ?_, fun reads i hi asked => ?_⟩
    · subst writes
      rw [State.sendWindow_write opened]
      exact ⟨rfl, rfl⟩
    · subst reads
      rw [State.sendWindow_read opened]
      exact State.not_awaits_serveLine _ _ _ _ hi asked
  case issue =>
    intro cl st t0 va n rest u k c units active runs trackers rows bytes
    exact prefetchIssue_completes s cl st t0 va n rest u ⟨active, runs, trackers, rows, bytes⟩
  case invalidation =>
    intro cl line i k oldest behind
    refine ⟨_, State.exec_csuInvalidation oldest behind, rfl, rfl, fun j other => State.updCsu_csu_other _ _ other, fun f => ?_⟩
    rw [State.invalidated, State.updCsu_csu_same]
    exact Csu.mem_dropLine _ _ _ f
  case walk =>
    intro who va acc pa noalloc u there may absent found
    obtain ⟨t, v, covers, permitted, address, rfl⟩ := State.translate_ok_of_absent absent found
    exact ⟨_, State.exec_pageWalk there may absent found, rfl, t, State.resident_noteTb v who covers, permitted, address⟩

end Sys2Proof.Machine
end

section
/-! PROOF. READ, WRITE and PING (R178, R234, R282, R376): what serving a well-formed request of each comes to. -/

namespace Sys2Proof.Machine

open Sys2Proof

namespace State

/-! ### What a port's intake leaves alone (R270, R283) -/

theorem besidePorts_rxRelease (s : State) (n : Nat) (pool : BitVec 4) : (s.rxRelease n pool).besidePorts = s.besidePorts := by
  unfold rxRelease
  split
  · rfl
  · rw [besidePorts_giveBack, rxTake]
    split <;> rfl

/-- A request that its port takes in changes no shaft time. -/
@[simp] theorem received_sh (s : State) (n : Nat) (p : Pkt) : (s.received n p).sh = s.sh := by
  have released := congrArg sh (besidePorts_rxRelease (s.updPort n fun q => q.count 0x12C 1) n p.pool)
  rw [received, noteOrder]
  split <;> exact released

section
variable {s u w : State} {v : Via} {ra wa acc : Access} {p : Pkt} {bs : List MB} {st : Status}

/-! ### READ (R234, R282) -/

theorem serve_read (well : p.okRequest = true) (op : p.op = opRead) :
    s.serve v ra wa p = (.answer (s.serveRead v ra p).1, (s.serveRead v ra p).2) := by
  rw [serve, if_neg (by rw [well]; decide), if_pos op]

theorem serveRead_found (reached : s.reach v acc p.h.addr.toNat p.h.len.toNat = (stOk, u))
    (found : u.readMem v acc p.h.addr.toNat p.h.len.toNat = (bs, stOk, w)) : s.serveRead v acc p = ({ status := stOk, data := bs }, w) := by
  rw [serveRead, reached]
  dsimp only
  rw [if_neg (not_not.2 rfl), found]
  exact if_pos rfl

theorem serveRead_unreached (bad : st ≠ stOk) (reached : s.reach v acc p.h.addr.toNat p.h.len.toNat = (st, u)) :
    s.serveRead v acc p = ({ status := st }, u) := by
  rw [serveRead, reached]
  exact if_pos bad

/-! ### WRITE (R178, R282) -/

theorem serve_write (well : p.okRequest = true) (op : p.op = opWrite) :
    s.serve v ra wa p = (.answer { status := (s.serveWrite v wa p).1 }, (s.serveWrite v wa p).2) := by
  rw [serve, if_neg (by rw [well]; decide), if_neg (by rw [op]; decide), if_pos op]

theorem serveWrite_opened (opened : s.openRange v acc p.h.addr.toNat p.data.length = (stOk, u)) :
    s.serveWrite v acc p = u.writeMem v acc p.h.addr.toNat p.payload := by
  rw [serveWrite, opened]
  exact if_neg (not_not.2 rfl)

theorem serveWrite_unopened (bad : st ≠ stOk) (opened : s.openRange v acc p.h.addr.toNat p.data.length = (st, u)) :
    s.serveWrite v acc p = (st, u) := by
  rw [serveWrite, opened]
  exact if_pos bad

/-- The notify of a PUT whose bytes are not all in memory reaches nobody. -/
theorem remoteNoted_of_failed (s : State) (port : BitVec 4) (bad : st ≠ stOk) (note : Option RemoteNote) :
    s.remoteNoted port st note = (st, s) := by
  cases note with
  | none => rfl
  | some x => exact if_neg bad

/-! ### PING (R376) -/

theorem serve_ping (well : p.okRequest = true) (op : p.op = opPing) : s.serve v ra wa p =
    (.answer { status := stOk, data := p.payload ++ leBytes 8 s.sh.count.toNat ++ leBytes 8 s.sh.count.toNat }, s) := by
  rw [serve, if_neg (by rw [well]; decide), if_neg (by rw [op]; decide), if_neg (by rw [op]; decide), if_neg (by rw [op]; decide),
    if_neg (by rw [op]; decide), if_neg (by rw [op]; decide), if_pos op]

end

end State

/-! ### Each request on its port (R281, R282) -/

section
variable {s u : State} {port : BitVec 4} {p : Pkt} {a : Answer}

/-- A request with nothing more to do behind it is answered as it has been served. -/
theorem inbound_answers (reaches : Reaches s port p) (served : (s.received port.toNat p).serve (.va (.port port)) .rFab .wFab p = (.answer a, u)) :
    inbound port p s = .next (u.respond port.toNat p.op p.h a).flush := inbound_reaches (fun st s => (st, s)) reaches served

theorem read_answers {h : FabHdr} (reaches : Reaches s port (bare opRead h)) (well : (bare opRead h).okRequest = true)
    (served : (s.received port.toNat (bare opRead h)).serveRead (.va (.port port)) .rFab (bare opRead h) = (a, u)) :
    Answers (.read port h) s port (bare opRead h) a u :=
  (show exec (.read port h) s = inbound port (bare opRead h) s from rfl).trans
    (inbound_answers reaches (by rw [State.serve_read well rfl, served]))

/-- R178: behind a WRITE its notify goes out, whose status is the answer's. -/
theorem write_answers {h : FabHdr} {data : List Byte} {st : Status} (note : Option RemoteNote) (reaches : Reaches s port (laden opWrite h data))
    (well : (laden opWrite h data).okRequest = true)
    (served : (s.received port.toNat (laden opWrite h data)).serveWrite (.va (.port port)) .wFab (laden opWrite h data) = (st, u)) :
    Answers (.write port h { data := data, note := note }) s port (laden opWrite h data) { status := (u.remoteNoted port st note).1 }
      (u.remoteNoted port st note).2 :=
  (show exec (.write port h { data := data, note := note }) s =
      inboundThen port (laden opWrite h data) (fun st s => s.remoteNoted port st note) s from rfl).trans
    (inbound_reaches _ reaches (a := { status := st }) (by rw [State.serve_write well rfl, served]))

/-- R376: T2 and T3 are the shaft count at which the PING is served. -/
theorem ping_answers {h : FabHdr} {t1 : W64} (p : Pkt) (ping : p = laden opPing h ((leBytes 8 t1.toNat).map (·.b))) (reaches : Reaches s port p)
    (well : p.okRequest = true) :
    Answers (.ping port h t1) s port p { status := stOk, data := p.payload ++ leBytes 8 s.sh.count.toNat ++ leBytes 8 s.sh.count.toNat }
      (s.received port.toNat p) := by
  have served : exec (.ping port h t1) s = inbound port p s := by rw [ping]; rfl
  exact served.trans (inbound_answers reaches (by rw [State.serve_ping well (by rw [ping]; rfl), State.received_sh]))

end

/-! ### The obligation -/

/-- Settles O26: a request that reaches this Triat is answered as it is served, and each of the three is served by one function
(`read_answers`, `write_answers`, `ping_answers`). -/
theorem readWriteAndPingAreServed : Obligations.ReadWriteAndPingAreServed := by
  unfold Obligations.ReadWriteAndPingAreServed
  intro s u v port h data note t1 bs st via k a
  refine ⟨?read, ?write, fun p ping reaches well => ping_answers p ping reaches well⟩
  case read =>
    rintro p rfl reaches well
    exact ⟨fun reached found => read_answers reaches well (State.serveRead_found reached found),
      fun bad reached => read_answers reaches well (State.serveRead_unreached bad reached)⟩
  case write =>
    rintro p rfl reaches well
    refine ⟨fun opened written => write_answers note reaches well ((State.serveWrite_opened opened).trans written), fun bad opened => ?_⟩
    have answered := write_answers note reaches well (State.serveWrite_unopened bad opened)
    rwa [State.remoteNoted_of_failed u port bad] at answered

end Sys2Proof.Machine
end

section
/-! PROOF. Memory maintenance (R237 to R240): what MEM_MAINT, MEM_PPR, MEM_TEST and MEM_RETRAIN make of their stacks; and the requests of the
lichen map (R350, R352). -/

namespace Sys2Proof.Machine

open Sys2Proof

/-! ### Requests of a fixed length (R358) -/

section
variable {s u : State} {h : CpHdr} {op : BitVec 16} {p : List W32} {n : Nat} {body : State → CtlRes}

theorem requestOf_replies {st : Status} {ws : List W32} (admitted : Admitted s h op p) (len : p.length = n) (reply : body (s.taken h) = say st ws u) :
    requestOf n h op p body s = .next (u.reply h.port op h.tag st ws).flush := by
  rw [requestOf_admitted admitted len, reply]; rfl

theorem requestOf_holds {w : Wait} (admitted : Admitted s h op p) (len : p.length = n) (waits : body (s.taken h) = .hold w u) :
    requestOf n h op p body s = .next (u.undertaken h op p w).flush := by
  rw [requestOf_admitted admitted len, waits]; rfl

end

namespace Mem

/-! ### Marks that a write-back sets (R229) -/

theorem bytes_foldl_setPoison (p : Bool) (l : List Nat) (m : Mem) : (l.foldl (fun m a => m.setPoison a p) m).bytes = m.bytes :=
  foldl_keeps (f := fun (m : Mem) a => m.setPoison a p) (P := fun n : Mem => n.bytes = m.bytes) (fun _ _ kept => kept) l rfl

theorem clean_foldl_setPoison_true (l : List Nat) {m : Mem} {k : Nat} (marked : SMap.get false m.clean k = false) :
    SMap.get false (l.foldl (fun m a => m.setPoison a true) m).clean k = false := by
  refine foldl_keeps (f := fun (m : Mem) a => m.setPoison a true) (P := fun n : Mem => SMap.get false n.clean k = false)
    (fun n a kept => ?_) l marked
  rw [setPoison, SMap.get_set, kept]
  exact ite_self _

end Mem

namespace State

/-! ### A stack enters or leaves MAINT (R237) -/

/-- Between `s` and `t` no byte has changed, no mark has gone, and what holds a controller is as it was, but for its own state. -/
structure KeptInMaint (s t : State) : Prop where
  bytes : t.mem.bytes = s.mem.bytes
  marks : ∀ a, SMap.get false s.mem.clean a = false → SMap.get false t.mem.clean a = false
  gated : t.pwr.gated = s.pwr.gated
  reset : t.ctl.fnReset = s.ctl.fnReset

namespace KeptInMaint

theorem refl (s : State) : KeptInMaint s s := ⟨rfl, fun _ h => h, rfl, rfl⟩

theorem trans {s u t : State} (h : KeptInMaint s u) (h' : KeptInMaint u t) : KeptInMaint s t :=
  ⟨h'.bytes.trans h.bytes, fun a marked => h'.marks a (h.marks a marked), h'.gated.trans h.gated, h'.reset.trans h.reset⟩

theorem updMc (s : State) (k : Nat) (f : Mc → Mc) : KeptInMaint s (s.updMc k f) := ⟨rfl, fun _ h => h, rfl, rfl⟩

theorem backMarks (s : State) (stack : Nat) (ls : List MLine) : KeptInMaint s (s.backMarks stack ls) :=
  ⟨Mem.bytes_foldl_setPoison true _ _, fun _ marked => Mem.clean_foldl_setPoison_true _ marked, rfl, rfl⟩

/-- What holds a controller but for its own state is held on. -/
theorem mcHeld {s t : State} (kept : KeptInMaint s t) {j : Nat} (same : t.mc j = s.mc j) : t.mcHeld j = s.mcHeld j := by
  rw [State.mcHeld, State.mcHeld, kept.gated, kept.reset, same]

end KeptInMaint

/-- One entry of a directory is cleared. -/
def evictEntry (stack : Nat) (s : State) (e : DirEntry) : State :=
  (s.updMc stack fun m => m.count 0x11C (popcount 64 e.mask.toNat)).sendInvals e.line e.mask true 0

theorem evictEntry_mc_other {stack j : Nat} (other : j ≠ stack) (s : State) (e : DirEntry) : (evictEntry stack s e).mc j = s.mc j :=
  updMc_mc_other s (fun m => m.count 0x11C (popcount 64 e.mask.toNat)) other

theorem dirClear_eq (s : State) (stack : Nat) : s.dirClear stack =
    ((s.mc stack).dir.flatMap (·.2)).foldl (evictEntry stack) (s.updMc stack fun m => { m with dir := [] }) := rfl

/-- Clearing a directory concerns its controller and what is on its way. -/
theorem dirClear_kept (s : State) (stack : Nat) : KeptInMaint s (s.dirClear stack) := by
  rw [dirClear_eq]
  exact foldl_keeps (f := evictEntry stack) (P := KeptInMaint s) (fun _ _ kept => ⟨kept.bytes, kept.marks, kept.gated, kept.reset⟩) _
    (.updMc s stack _)

theorem dirClear_mc_other (s : State) {stack j : Nat} (other : j ≠ stack) : (s.dirClear stack).mc j = s.mc j := by
  rw [dirClear_eq]
  exact foldl_keeps (f := evictEntry stack) (P := fun t : State => t.mc j = s.mc j)
    (fun t e kept => (evictEntry_mc_other other t e).trans kept) _ (updMc_mc_other s _ other)

theorem mscDrop_kept (s : State) (stack : Nat) : KeptInMaint s (s.mscDrop stack) :=
  ((KeptInMaint.backMarks s stack _).trans (.updMc _ stack _)).trans (.updMc _ stack _)

theorem mscDrop_mc_other (s : State) {stack j : Nat} (other : j ≠ stack) : (s.mscDrop stack).mc j = s.mc j := by
  rw [mscDrop, updMc_mc_other _ _ other, mscFlush, updMc_mc_other _ _ other]; rfl

theorem enterMaint_kept (s : State) (k : Nat) : KeptInMaint s (s.enterMaint k) :=
  ((mscDrop_kept s k).trans (dirClear_kept _ k)).trans (.updMc _ k _)

theorem enterMaint_mc_other (s : State) {k j : Nat} (other : j ≠ k) : (s.enterMaint k).mc j = s.mc j := by
  rw [enterMaint, updMc_mc_other _ _ other, dirClear_mc_other _ other, mscDrop_mc_other _ other]

/-- MEM_MAINT of one stack: into MAINT or back UP, unless its controller is held. -/
def maintain (enter : Bool) (s : State) (k : Nat) : State :=
  if s.mcHeld k then s
  else if enter then (if (s.mc k).st = 2 then s else s.enterMaint k) else s.updMc k fun m => { m with st := 1 }

theorem maintain_kept (enter : Bool) (s : State) (k : Nat) : KeptInMaint s (s.maintain enter k) := by
  unfold maintain
  split
  · exact .refl s
  · split
    · split
      · exact .refl s
      · exact enterMaint_kept s k
    · exact .updMc s k _

theorem maintain_mc_other (enter : Bool) (s : State) {k j : Nat} (other : j ≠ k) : (s.maintain enter k).mc j = s.mc j := by
  unfold maintain
  split
  · rfl
  · split
    · split
      · rfl
      · exact enterMaint_mc_other s other
    · exact updMc_mc_other s _ other

theorem maintain_st (enter : Bool) (s : State) (k : Nat) :
    ((s.maintain enter k).mc k).st = if s.mcHeld k = false then (if enter then 2 else 1) else (s.mc k).st := by
  unfold maintain
  cases held : s.mcHeld k with
  | true => rfl
  | false =>
    cases enter with
    | false => exact congrArg Mc.st (updMc_mc_same s k _)
    | true =>
      show ((if (s.mc k).st = 2 then s else s.enterMaint k).mc k).st = 2
      split
      next already => exact already
      next => rw [enterMaint, updMc_mc_same]

/-- One stack, with the status of its part. -/
def maintainPart (enter : Bool) (r : Parts × State) (k : Nat) : Parts × State :=
  (r.1 ++ [(k, if r.2.mcHeld k then stBusy else stOk)], r.2.maintain enter k)

theorem memMaintBody_eq (p : List W32) (s : State) : memMaintBody p s =
    if !s.stacksThere (stackMask p) then turnAway stNotPresent s
    else
      let r := (stackMask p).foldl (maintainPart (bit (word p 0) 16)) ([], s)
      splitSay 1 12 r.1 r.2 := by
  have step : (fun (r : Parts × State) k => if r.2.mcHeld k then (r.1 ++ [(k, stBusy)], r.2)
      else (r.1 ++ [(k, stOk)], if bit (word p 0) 16 then (if (r.2.mc k).st = 2 then r.2 else r.2.enterMaint k)
        else r.2.updMc k fun m => { m with st := 1 })) = maintainPart (bit (word p 0) 16) := by
    funext r k
    rw [maintainPart, maintain]
    split <;> rfl
  rw [memMaintBody, ← step]

/-- No stack's part hangs on the others: each ends as it would alone. -/
theorem maintainParts_eq (enter : Bool) : ∀ {ks : List Nat} (parts : Parts) (s : State), ks.Nodup → ks.foldl (maintainPart enter) (parts, s) =
    (parts ++ ks.map fun k => (k, if s.mcHeld k then stBusy else stOk), ks.foldl (maintain enter) s)
  | [], parts, s, _ => by rw [List.map_nil, List.append_nil]; rfl
  | k :: ks, parts, s, distinct => by
    obtain ⟨fresh, distinct⟩ := List.nodup_cons.1 distinct
    have same : ks.map (fun j => (j, if (s.maintain enter k).mcHeld j then stBusy else stOk)) =
        ks.map fun j => (j, if s.mcHeld j then stBusy else stOk) := by
      refine List.map_congr_left fun j mem => ?_
      have other : j ≠ k := fun e => fresh (e ▸ mem)
      rw [(maintain_kept enter s k).mcHeld (maintain_mc_other enter s other)]
    rw [List.foldl_cons, maintainPart, maintainParts_eq enter _ _ distinct, same, List.append_assoc]
    rfl

theorem maintainAll_kept (enter : Bool) (ks : List Nat) (s : State) : KeptInMaint s (ks.foldl (maintain enter) s) :=
  foldl_keeps (f := maintain enter) (P := KeptInMaint s) (fun t k kept => kept.trans (maintain_kept enter t k)) ks (.refl s)

/-- R237: the stacks of the mask change state, but those that are held. -/
theorem maintainAll_st (enter : Bool) : ∀ {ks : List Nat} (s : State), ks.Nodup → ∀ j, ((ks.foldl (maintain enter) s).mc j).st =
    if j ∈ ks ∧ s.mcHeld j = false then (if enter then 2 else 1) else (s.mc j).st
  | [], s, _, j => by rw [if_neg fun both => List.not_mem_nil both.1]; rfl
  | k :: ks, s, distinct, j => by
    obtain ⟨fresh, distinct⟩ := List.nodup_cons.1 distinct
    rw [List.foldl_cons, maintainAll_st enter _ distinct j]
    by_cases here : j = k
    · subst here
      rw [if_neg fun both => fresh both.1, maintain_st]
      simp only [List.mem_cons_self, true_and]
    · have same := maintain_mc_other enter s here
      rw [(maintain_kept enter s k).mcHeld same, same]
      simp only [List.mem_cons, here, false_or]

theorem stacksThere_iff (s : State) (ks : List Nat) : s.stacksThere ks = true ↔ ∀ k ∈ ks, s.hasStack k = true := List.all_eq_true

theorem memMaintBody_there {p : List W32} {s : State} (there : s.stacksThere (stackMask p) = true) : memMaintBody p s =
    splitSay 1 12 ((stackMask p).map fun k => (k, if s.mcHeld k then stBusy else stOk))
      ((stackMask p).foldl (maintain (bit (word p 0) 16)) s) := by
  have parts := maintainParts_eq (bit (word p 0) 16) [] s (nodup_bitList 12 (bits (word p 0) 11 0))
  rw [memMaintBody_eq, if_neg (by rw [there]; decide)]
  dsimp only
  rw [stackMask, parts, List.nil_append]

theorem memMaintBody_absent {p : List W32} {s : State} (absent : ¬s.stacksThere (stackMask p) = true) :
    memMaintBody p s = say stNotPresent [] s := by
  rw [memMaintBody_eq, if_pos (by simpa using absent)]; rfl

/-! ### A row is repaired (R238) -/

/-- The row that MEM_PPR names. -/
def pprRow (w : W32) : Loc :=
  { stack := bits w 3 0, channel := bits w 7 4, rank := bits w 11 8, bank := 4 * bits w 13 12 + bits w 15 14, row := bits w 29 16, sector := 0 }

/-- The entry that counts the repair rows of its bank group. -/
def pprEntry (w : W32) : Nat := 48 * (pprRow w).channel + 4 * (pprRow w).rank + bits w 13 12

/-- MEM_PPR of a stack that is present. -/
theorem memPprBody_there {p : List W32} {s : State} (small : bits (word p 0) 3 0 < 12) (there : s.hasStack (bits (word p 0) 3 0) = true) :
    let w := word p 0; let m := s.mc (bits w 3 0)
    memPprBody p s =
      if m.st ≠ 2 then turnAway stBusy s
      else if 12 ≤ (pprRow w).rank ∨ 12288 ≤ (pprRow w).row then turnAway stBadParam s
      else if bit w 31 then say stOk (rowWords m) s
      else if rowsLeft m (pprEntry w) = 0 then turnAway stDenied s
      else say stOk [w32 (rowsLeft m (pprEntry w) - 1)] (s.repairRow (pprRow w) (pprEntry w)) := by
  intro w m
  rw [memPprBody, if_neg (Nat.not_le.2 small), if_neg (by rw [there]; decide)]
  rfl

section
variable {p : List W32} {s : State} (small : bits (word p 0) 3 0 < 12) (there : s.hasStack (bits (word p 0) 3 0) = true)
include small there

theorem memPprBody_busy (busy : (s.mc (bits (word p 0) 3 0)).st ≠ 2) : memPprBody p s = say stBusy [] s := by
  rw [memPprBody_there small there, if_pos busy]; rfl

variable (maint : (s.mc (bits (word p 0) 3 0)).st = 2)
include maint

theorem memPprBody_bad (bad : 12 ≤ (pprRow (word p 0)).rank ∨ 12288 ≤ (pprRow (word p 0)).row) : memPprBody p s = say stBadParam [] s := by
  rw [memPprBody_there small there, if_neg (not_not.2 maint), if_pos bad]; rfl

variable (rank : (pprRow (word p 0)).rank < 12) (row : (pprRow (word p 0)).row < 12288)
include rank row

theorem memPprBody_query (query : bit (word p 0) 31 = true) : memPprBody p s = say stOk (rowWords (s.mc (bits (word p 0) 3 0))) s := by
  rw [memPprBody_there small there, if_neg (not_not.2 maint), if_neg (by omega), if_pos query]

variable (repair : bit (word p 0) 31 = false)
include repair

theorem memPprBody_spent (spent : 2 ≤ SMap.get 0 (s.mc (bits (word p 0) 3 0)).pprUsed (pprEntry (word p 0))) :
    memPprBody p s = say stDenied [] s := by
  rw [memPprBody_there small there, if_neg (not_not.2 maint), if_neg (by omega), if_neg (by rw [repair]; decide), rowsLeft,
    if_pos (Nat.sub_eq_zero_of_le spent)]
  rfl

theorem memPprBody_repairs (left : SMap.get 0 (s.mc (bits (word p 0) 3 0)).pprUsed (pprEntry (word p 0)) < 2) : memPprBody p s =
    say stOk [w32 (1 - SMap.get 0 (s.mc (bits (word p 0) 3 0)).pprUsed (pprEntry (word p 0)))]
      (s.repairRow (pprRow (word p 0)) (pprEntry (word p 0))) := by
  rw [memPprBody_there small there, if_neg (not_not.2 maint), if_neg (by omega), if_neg (by rw [repair]; decide), rowsLeft,
    if_neg (Nat.sub_ne_zero_of_lt left), Nat.sub_right_comm]

end

/-! ### Tests (R239) -/

/-- A stack that MEM_TEST and MEM_RETRAIN take: in MAINT, and not held. -/
def inMaint (s : State) (k : Nat) : Bool := decide ((s.mc k).st = 2) && !s.mcHeld k

theorem inMaint_iff (s : State) (k : Nat) : s.inMaint k = true ↔ (s.mc k).st = 2 ∧ s.mcHeld k = false := by
  rw [inMaint, Bool.and_eq_true, decide_eq_true_eq, Bool.not_eq_true']

/-- A set of stacks as a mask. -/
def stackBits (l : List Nat) : BitVec 12 := BitVec.ofNat 12 (l.map fun k => 2 ^ k).sum

theorem getLsbD_stackBits {l : List Nat} (rising : l.SortedLT) {j : Nat} (small : j < 12) : (stackBits l).getLsbD j = true ↔ j ∈ l := by
  rw [stackBits, BitVec.getLsbD_ofNat, decide_eq_true small, Bool.true_and, ← Nat.mem_bitIndices, Nat.bitIndices_sum_map_two_pow rising]

/-- Those of a mask's stacks that `q` picks, as a mask. -/
theorem getLsbD_stackBits_filter (n x : Nat) (q : Nat → Bool) {j : Nat} (small : j < 12) :
    (stackBits ((bitList n x).filter q)).getLsbD j = true ↔ j ∈ bitList n x ∧ q j = true := by
  have rising : ((bitList n x).filter q).SortedLT := ((List.pairwise_lt_range.filter _).filter _).sortedLT
  rw [getLsbD_stackBits rising small, List.mem_filter]

/-- A stack goes under test, its passes counted. -/
def goUnderTest (pattern : Nat) (s : State) (k : Nat) : State := (s.updMc k fun m => { m with st := 3 }).testCounts k pattern

theorem goUnderTest_st (pattern : Nat) (s : State) (k j : Nat) : ((goUnderTest pattern s k).mc j).st = if j = k then 3 else (s.mc j).st := by
  rw [goUnderTest, testCounts]
  by_cases here : j = k
  · rw [if_pos here, here, updMc_mc_same, updMc_mc_same]; rfl
  · rw [if_neg here, updMc_mc_other _ _ here, updMc_mc_other _ _ here]

theorem allUnderTest_st (pattern : Nat) : ∀ (l : List Nat) (s : State) (j : Nat),
    ((l.foldl (goUnderTest pattern) s).mc j).st = if j ∈ l then 3 else (s.mc j).st
  | [], s, j => by rw [if_neg List.not_mem_nil]; rfl
  | k :: l, s, j => by
    rw [List.foldl_cons, allUnderTest_st pattern l, goUnderTest_st]
    by_cases here : j = k
    · rw [if_pos here, ite_self, if_pos (by rw [here]; exact List.mem_cons_self)]
    · simp only [List.mem_cons, here, false_or, if_false]

/-- A test touches no byte and no mark before it ends. -/
theorem allUnderTest_kept (pattern : Nat) (l : List Nat) (s : State) :
    (l.foldl (goUnderTest pattern) s).mem = s.mem ∧ (l.foldl (goUnderTest pattern) s).fresh = s.fresh :=
  foldl_keeps (f := goUnderTest pattern) (P := fun t : State => t.mem = s.mem ∧ t.fresh = s.fresh) (fun _ _ kept => kept) l ⟨rfl, rfl⟩

theorem memTestBody_holds {p : List W32} (found : List TestResult) {s : State} (there : s.stacksThere (stackMask p) = true)
    (pattern : bits (word p 0) 15 12 < 5) (some_ready : (stackMask p).filter s.inMaint ≠ []) : memTestBody p found s =
    .hold (.memTest found (stackBits ((stackMask p).filter s.inMaint)) 0 (stackBits ((stackMask p).filter fun k => !s.inMaint k))
        ((Config.free64 s.fresh).toNat + 1))
      (((stackMask p).filter s.inMaint).foldl (goUnderTest (bits (word p 0) 15 12)) { s with fresh := s.fresh + 1 }) := by
  rw [memTestBody, if_neg (by rw [there]; decide), if_neg (Nat.not_le.2 pattern)]
  exact if_neg some_ready

/-! ### Retraining (R240) -/

theorem memRetrainBody_ready {p : List W32} {lanes : List LaneTest} {s : State} (there : s.stacksThere (stackMask p) = true)
    (ready : ∀ k ∈ stackMask p, s.inMaint k = true) :
    let t := (stackMask p).foldl (fun s k => s.trainStack k lanes) s
    memRetrainBody p lanes s = say stOk ((stackMask p).flatMap fun k => (List.range 16).map fun c => ((t.mc k).chan c).statusWord) t := by
  have all : (stackMask p).filter s.inMaint = stackMask p := List.filter_eq_self.2 ready
  have every : (stackMask p).all s.inMaint = true := List.all_eq_true.2 ready
  unfold inMaint at all every
  rw [memRetrainBody, if_neg (by rw [there]; decide)]
  dsimp only
  rw [if_pos every, all]

theorem memRetrainBody_absent {p : List W32} {lanes : List LaneTest} {s : State} (absent : ¬s.stacksThere (stackMask p) = true) :
    memRetrainBody p lanes s = say stNotPresent [] s := by
  rw [memRetrainBody, if_pos (by simpa using absent)]; rfl

/-! ### The lichen map (R350, R352) -/

theorem lichenReadBody_read {p : List W32} {s : State} (inside : bits (word p 0) 13 0 < lmRecords) : lichenReadBody p s =
    say stOk (s.lm.header s.flash.serial ++ (List.range (min (min (bits (word p 0) 23 16) 252) (lmRecords - bits (word p 0) 13 0))).flatMap fun i =>
      (List.range 4).map fun k => (s.lm.record (bits (word p 0) 13 0 + i)).extractLsb' (32 * k) 32) s := by
  rw [lichenReadBody, if_neg (Nat.not_le.2 inside)]

theorem lichenReadBody_beyond {p : List W32} {s : State} (beyond : lmRecords ≤ bits (word p 0) 13 0) :
    lichenReadBody p s = say stBadParam [] s := by
  rw [lichenReadBody, if_pos beyond]; rfl

/-- The record that LICHEN_EDIT adds, as its four words spell it. -/
def editRecord (p : List W32) : BitVec 128 := BitVec.ofNat 128 (((List.range 4).map fun k => (word p (1 + k)).toNat * 2 ^ (32 * k)).sum)

/-- A record that LICHEN_EDIT may add: of a core or a cluster, at a site that a half may have. -/
structure EditsSite (r : BitVec 128) : Prop where
  type : (lmType r = lmCoreRetired ∧ bits (lmLoc r) 13 7 < 66) ∨ lmType r = lmClusterRetired
  site : bits (lmLoc r) 6 1 < 34

theorem lichenEditBody_add {p : List W32} {s : State} (act : bits (word p 0) 7 0 = 1) (len : p.length = 5) (edits : EditsSite (editRecord p)) :
    lichenEditBody p s = if !s.hasHalf (bits (lmLoc (editRecord p)) 0 0) then turnAway stNotPresent s
      else ok (s.lmAdd (lmType (editRecord p)) (lmLoc (editRecord p))) := by
  obtain ⟨type, site⟩ := edits
  have good : ¬(p.length ≠ 5 ∨ (lmType (editRecord p) ≠ lmCoreRetired ∧ lmType (editRecord p) ≠ lmClusterRetired) ∨
      34 ≤ bits (lmLoc (editRecord p)) 6 1 ∨ (lmType (editRecord p) = lmCoreRetired ∧ 66 ≤ bits (lmLoc (editRecord p)) 13 7)) := by
    unfold lmCoreRetired lmClusterRetired at *
    omega
  rw [lichenEditBody, if_pos act]
  exact if_neg good

theorem lichenEditBody_clear {p : List W32} {s : State} (act : bits (word p 0) 7 0 = 2) (len : p.length = 2) (inside : (word p 1).toNat < lmRecords) :
    lichenEditBody p s = ok (if s.lm.record (word p 1).toNat = lmErased then s
      else s.updLm fun a => { a with recs := SMap.set lmErased a.recs (word p 1).toNat (lmCleared (s.lm.record (word p 1).toNat)) }) := by
  rw [lichenEditBody, if_neg (by omega), if_pos act]
  exact if_neg (by omega)

theorem lichenEditBody_bad {p : List W32} {s : State} (act : bits (word p 0) 7 0 = 0 ∨ 2 < bits (word p 0) 7 0) :
    lichenEditBody p s = say stBadParam [] s := by
  rw [lichenEditBody, if_neg (by omega), if_neg (by omega)]; rfl

end State

/-! ### The obligation -/

/-- R239: the stacks of the mask that are ready go under test, and the others are noted as busy. -/
theorem memTest_holds {s : State} {h : CpHdr} {p : List W32} (found : List TestResult) (admitted : Admitted s h cpMemTest p) (len : p.length = 2)
    (there : (s.taken h).stacksThere (State.stackMask p) = true) (pattern : bits (word p 0) 15 12 < 5)
    (some_ready : ∃ k ∈ State.stackMask p, ((s.taken h).mc k).st = 2 ∧ (s.taken h).mcHeld k = false) :
    let u := s.taken h; let ready (k : Nat) : Prop := (u.mc k).st = 2 ∧ u.mcHeld k = false
    ∃ (go busy : BitVec 12) (t : State),
      Holds (.memTest h p found) s h cpMemTest p (.memTest found go 0 busy ((Config.free64 u.fresh).toNat + 1)) t ∧
      t.fresh = u.fresh + 1 ∧ t.mem = u.mem ∧
      (∀ j, j < 12 → (go.getLsbD j = true ↔ j ∈ State.stackMask p ∧ ready j) ∧
        (busy.getLsbD j = true ↔ j ∈ State.stackMask p ∧ ¬ready j)) ∧
      (∀ j, (t.mc j).st = if j < 12 ∧ go.getLsbD j = true then 3 else (u.mc j).st) := by
  intro u ready
  have picked : (State.stackMask p).filter u.inMaint ≠ [] := by
    obtain ⟨k, mem, k_ready⟩ := some_ready
    exact List.ne_nil_of_mem (List.mem_filter.2 ⟨mem, (u.inMaint_iff k).2 k_ready⟩)
  have kept := State.allUnderTest_kept (bits (word p 0) 15 12) ((State.stackMask p).filter u.inMaint) { u with fresh := u.fresh + 1 }
  have going (j : Nat) (small : j < 12) := State.getLsbD_stackBits_filter 12 (bits (word p 0) 11 0) u.inMaint small
  refine ⟨_, _, _, requestOf_holds admitted len (State.memTestBody_holds found there pattern picked), kept.2, kept.1,
    fun j small => ⟨?_, ?_⟩, fun j => ?_⟩
  · exact (going j small).trans (and_congr_right' (u.inMaint_iff j))
  · refine (State.getLsbD_stackBits_filter 12 (bits (word p 0) 11 0) _ small).trans (and_congr_right' ?_)
    rw [Bool.not_eq_true', ← Bool.not_eq_true, u.inMaint_iff]
  · rw [State.allUnderTest_st]
    refine if_congr ?_ rfl rfl
    rw [List.mem_filter]
    refine ⟨fun mem => ?_, fun both => (going j both.1).1 both.2⟩
    have small : j < 12 := (mem_bitList.1 mem.1).1
    exact ⟨small, (going j small).2 mem⟩

/-- Settles O46: what each request comes to is said of its body, MEM_MAINT's stack by stack (`State.maintainAll_st`). -/
theorem memoryAndTheLichenMapAreMaintained : Obligations.MemoryAndTheLichenMapAreMaintained := by
  unfold Obligations.MemoryAndTheLichenMapAreMaintained
  refine ⟨?memory, ?lichen⟩
  case memory =>
    intro s h p found lanes u w ks there k l e used ready
    have there_iff : u.stacksThere (State.stackMask p) = true ↔ there := u.stacksThere_iff _
    refine ⟨fun admitted len all => ?maint, fun admitted len small present => ?ppr, fun admitted len all pattern some_ready => ?test,
      fun admitted len all ready => ?retrain, fun absent => ⟨fun admitted len => ?maintAbsent, fun admitted len => ?retrainAbsent⟩⟩
    case maint =>
      have kept := State.maintainAll_kept (bit w 16) ks u
      exact ⟨_, requestOf_replies admitted len (State.memMaintBody_there (there_iff.2 all)), kept.bytes, kept.marks,
        State.maintainAll_st (bit w 16) u (nodup_bitList _ _)⟩
    case ppr =>
      exact ⟨fun busy => requestOf_replies admitted len (State.memPprBody_busy small present busy),
        fun maint bad => requestOf_replies admitted len (State.memPprBody_bad small present maint bad),
        fun maint rank row query => requestOf_replies admitted len (State.memPprBody_query small present maint rank row query),
        fun maint rank row repair =>
          ⟨fun spent => requestOf_replies admitted len (State.memPprBody_spent small present maint rank row repair spent),
            fun left => requestOf_replies admitted len (State.memPprBody_repairs small present maint rank row repair left)⟩⟩
    case test => exact memTest_holds found admitted len (there_iff.2 all) pattern some_ready
    case retrain =>
      exact requestOf_replies admitted len
        (State.memRetrainBody_ready (there_iff.2 all) fun k mem => (u.inMaint_iff k).2 (ready k mem))
    case maintAbsent => exact requestOf_replies admitted len (State.memMaintBody_absent (mt there_iff.1 absent))
    case retrainAbsent => exact requestOf_replies admitted len (State.memRetrainBody_absent (mt there_iff.1 absent))
  case lichen =>
    intro s h p u w first act n i r
    refine ⟨fun admitted len => ⟨fun inside => requestOf_replies admitted len (State.lichenReadBody_read inside),
      fun beyond => requestOf_replies admitted len (State.lichenReadBody_beyond beyond)⟩, fun admitted => ⟨?add, ?clear, ?bad⟩⟩
    case add =>
      intro add len type site
      have body := State.lichenEditBody_add (s := u) add len ⟨type, site⟩
      refine ⟨fun absent => request_replies admitted (body.trans ?_), fun present => request_replies admitted (body.trans ?_)⟩
      · exact if_pos (by rw [Bool.not_eq_true']; exact absent)
      · exact if_neg (by rw [Bool.not_eq_true', Bool.not_eq_false]; exact present)
    case clear =>
      intro clear len inside
      have body := State.lichenEditBody_clear (s := u) clear len inside
      refine ⟨fun erased => request_replies admitted (body.trans ?_), fun written => request_replies admitted (body.trans ?_)⟩
      · exact congrArg ok (if_pos erased)
      · exact congrArg ok (if_neg written)
    case bad => exact fun bad => request_replies admitted (State.lichenEditBody_bad bad)

end Sys2Proof.Machine
end

section
/-! PROOF. The memory controllers: STORE sectors served (R215, R219 to R221, R248, R381), lanes repaired (R213, R214), and stacks that run hot
(R211, R428). -/

namespace Sys2Proof.Machine

open Sys2Proof

/-! ### What a write into a sector makes of its bytes (R219) -/

/-- The bytes of a sector behind a write hang on the bytes before and on the words that the mask picks. -/
theorem Mem.read_writeSector_congr {m n : Mem} (same : ∀ b, m.read b = n.read b) (a : Nat) {mask : BitVec 16} {data words : List QW}
    (agree : ∀ i, i < 16 → mask.getLsbD i = true → nth {} data i = nth {} words i) (b : Nat) :
    (m.writeSector a mask data).read b = (n.writeSector a mask words).read b := by
  by_cases written : ∃ i, i < 16 ∧ mask.getLsbD i = true ∧ a / 64 * 64 + 4 * i ≤ b ∧ b < a / 64 * 64 + 4 * i + 4
  · obtain ⟨i, small, picked, start, within⟩ := written
    obtain ⟨j, rfl⟩ := Nat.exists_eq_add_of_le start
    have byte : j < 4 := by omega
    rw [read_writeSector m a mask data small byte picked, read_writeSector n a mask words small byte picked, agree i small picked]
  · have beside (i : Nat) (small : i < 16) (picked : mask.getLsbD i = true) : b < a / 64 * 64 + 4 * i ∨ a / 64 * 64 + 4 * i + 4 ≤ b :=
      or_iff_not_imp_left.2 fun above => not_lt.1 fun below => written ⟨i, small, picked, not_lt.1 above, below⟩
    rw [read_writeSector_other m a mask data beside, read_writeSector_other n a mask words beside, same]

theorem CacheMoved.noteWrite (s : State) (p : Place) (noalloc : Bool) (bad : BitVec 16) (read : Bool) :
    CacheMoved s (s.noteWrite p noalloc bad read) := by
  have entered (u : State) : CacheMoved u (u.updMc p.stack fun m =>
      (m.count 0x108 (if read then 0 else 1)).enter (p.off / 256) (p.off / 64 % 4) true bad) :=
    updMc u _ fun m c => Mc.chan_enter (m.count 0x108 (if read then 0 else 1)) _ _ _ _ c
  unfold State.noteWrite
  dsimp only
  split
  · exact entered s
  · split
    · exact updMc s _ fun _ _ => rfl
    · exact (mscAllocate s p.stack _).trans (entered _)

/-- The log entries of these sectors say LINK. -/
def Mc.logLink (m : Mc) (pas : List PA) : Mc := { m with log := m.log.map fun e => if pas.contains e.2.1 then (e.1, (e.2.1, true)) else e }

namespace State

theorem mc_of_mcs {s t : State} (same : t.mcs = s.mcs) (k : Nat) : t.mc k = s.mc k := by rw [mc, same]; rfl

@[simp] theorem notify_mc (s : State) (code : BitVec 16) (ws : List W32) (k : Nat) : (s.notify code ws).mc k = s.mc k :=
  mc_of_mcs (notify_mcs s code ws) k

/-- A read of the cells changes no byte. -/
theorem cellRead_read (s : State) (pa b : Nat) : (s.cellRead pa).2.mem.read b = s.mem.read b := by
  unfold cellRead
  dsimp only
  split
  · rfl
  · split
    · rw [mismatch_mem, Mem.read_setWrong]; rfl
    · rfl

/-- R219: behind a write that goes to the cache memory reads as written. -/
theorem mergeWrite_read (s : State) (pa : Nat) (noalloc : Bool) (mask : BitVec 16) (data : List QW) (b : Nat) :
    (s.mergeWrite pa noalloc mask data).mem.read b = (s.mem.writeSector pa mask data).read b := by
  have marked (m : Mem) (spoilt : Bool) : (if spoilt = true then m.setPoison pa true else m).read b = m.read b := by cases spoilt <;> rfl
  have before (c : Nat) : (if decide (mask = 0xFFFF) then (false, s) else s.cellRead pa).2.mem.read c = s.mem.read c := by
    split
    · rfl
    · exact cellRead_read s pa c
  rw [mergeWrite]
  split
  · exact ((CacheMoved.noteWrite _ _ _ _ _).read b).trans (marked _ _)
  · exact (((CacheMoved.noteWrite _ _ _ _ _).read b).trans (marked _ _)).trans (Mem.read_writeSector_congr before pa (fun _ _ _ => rfl) b)

/-! ### What a write leaves on its way (R221, R231) -/

/-- The STORE sectors that wait to be served, and the acknowledgements on their way back. -/
def storesAndAcks (s : State) : List StoreSec × List StoreAck := (s.net.stores, s.net.acks)

theorem storesAndAcks_notify (s : State) (code : BitVec 16) (ws : List W32) : (s.notify code ws).storesAndAcks = s.storesAndAcks := by
  have beside := congrArg storesAndAcks (besidePorts_notify s code ws)
  exact beside

theorem storesAndAcks_cellRead (s : State) (pa : Nat) : (s.cellRead pa).2.storesAndAcks = s.storesAndAcks := by
  have beside := congrArg storesAndAcks (besideMemory_cellRead s pa)
  exact beside

theorem storesAndAcks_noteWrite (s : State) (p : Place) (noalloc : Bool) (bad : BitVec 16) (read : Bool) :
    (s.noteWrite p noalloc bad read).storesAndAcks = s.storesAndAcks := by
  have beside := congrArg storesAndAcks (CacheMoved.noteWrite s p noalloc bad read).rest
  exact beside

theorem storesAndAcks_mergeWrite (s : State) (pa : Nat) (noalloc : Bool) (mask : BitVec 16) (data : List QW) :
    (s.mergeWrite pa noalloc mask data).storesAndAcks = s.storesAndAcks := by
  have read : (if decide (mask = 0xFFFF) then (false, s) else s.cellRead pa).2.storesAndAcks = s.storesAndAcks := by
    split
    · rfl
    · exact storesAndAcks_cellRead s pa
  rw [mergeWrite]
  split
  · exact storesAndAcks_noteWrite _ _ _ _ _
  · exact (storesAndAcks_noteWrite _ _ _ _ _).trans read

/-- The invalidations of a write that is acknowledged go on their way, and nothing else of it does. -/
theorem dirWrite_acknowledged (s : State) (stack line : Nat) (paLine : BitVec 32) {wid : Nat} (acknowledged : wid ≠ 0) :
    (s.dirWrite stack line paLine wid).mem = s.mem ∧ (s.dirWrite stack line paLine wid).storesAndAcks = s.storesAndAcks := by
  rw [dirWrite, if_neg (fun both => acknowledged both.1)]
  split
  · exact ⟨rfl, rfl⟩
  · rw [writeInvals, if_neg acknowledged]
    exact ⟨rfl, rfl⟩

theorem dropWrite_mem (s : State) (pa : Nat) : (s.dropWrite pa).mem = s.mem := by
  rw [dropWrite]
  split
  · rfl
  · rw [notify_mem]; rfl

theorem storesAndAcks_dropWrite (s : State) (pa : Nat) : (s.dropWrite pa).storesAndAcks = s.storesAndAcks := by
  rw [dropWrite]
  split
  · rfl
  · rw [storesAndAcks_notify]; rfl

theorem storesAndAcks_noteShutWrite (s : State) (stack pa : Nat) (st : Status) : (s.noteShutWrite stack pa st).storesAndAcks = s.storesAndAcks := by
  have shut : (s.noteShut stack st).storesAndAcks = s.storesAndAcks := by
    rw [noteShut]
    split <;> rfl
  rw [noteShutWrite]
  split
  · exact (storesAndAcks_notify _ _ _).trans shut
  · exact shut

theorem storesAndAcks_mcWrite (s : State) (pa : Nat) (noalloc : Bool) (mask : BitVec 16) (data : List QW) {wid : Nat} (acknowledged : wid ≠ 0) :
    (s.mcWrite pa noalloc mask data wid).2.storesAndAcks = s.storesAndAcks := by
  rw [mcWrite]
  split
  · exact storesAndAcks_noteShutWrite _ _ _ _
  · split
    · rfl
    · split
      · exact storesAndAcks_dropWrite s pa
      · exact (dirWrite_acknowledged _ _ _ _ acknowledged).2.trans (storesAndAcks_mergeWrite _ _ _ _ _)

/-! ### The outcome of a write at a controller that is open (R215, R219, R381) -/

section
variable {s : State} {pa : Nat} (noalloc : Bool) (mask : BitVec 16) (data : List QW) (wid : Nat) (opened : s.mcShut (s.place pa).stack = none)
include opened

theorem mcWrite_locked (locked : s.locked (pa / 64 * 64) 64 = true) : s.mcWrite pa noalloc mask data wid =
    (stImageLocked, { s with ctl := { s.ctl with counts := bump s.ctl.counts 0x21C 1 } }) := by
  rw [mcWrite, opened]
  exact if_pos locked

variable (unlocked : s.locked (pa / 64 * 64) 64 = false)
include unlocked

theorem mcWrite_dropped (failed : (s.chanAt (s.place pa)).st = 4) : s.mcWrite pa noalloc mask data wid = (stOk, s.dropWrite pa) := by
  rw [mcWrite, opened]
  exact (if_neg (by rw [unlocked]; decide)).trans (if_pos failed)

theorem mcWrite_written (sound : (s.chanAt (s.place pa)).st ≠ 4) : s.mcWrite pa noalloc mask data wid =
    (stOk, (s.mergeWrite pa noalloc mask data).dirWrite (s.place pa).stack ((s.place pa).off / 256) (BitVec.ofNat 32 (pa / 256)) wid) := by
  rw [mcWrite, opened]
  exact (if_neg (by rw [unlocked]; decide)).trans (if_neg sound)

end

/-! ### One request of STORE sectors (R220, R221, R248) -/

/-- A writer is answered. -/
def answerStore (st : Status) (wid : Nat) (pa : PA) (s : State) (u : StoreSec) : State :=
  s.addAck { site := u.site, va := u.va, status := st, wid := wid, line := lineOfPa pa.toNat, seq := s.net.seq }

/-- The request's STOREs in one sector are written as one, and answered. -/
def serveStores (noalloc : Bool) (wid : Nat) (mine : List StoreSec) (s : State) (pa : PA) : State :=
  let us := mine.filter fun u => decide (u.pa = pa)
  let w := s.mcWrite pa.toNat noalloc (joinStores us).1 (joinStores us).2 wid
  us.foldl (answerStore w.1 wid pa) w.2

/-- The request's STORE sectors are taken off the network. -/
def takeStores (s : State) (r : Nat) : State :=
  { s with net := { s.net with stores := s.net.stores.filter fun u => decide (u.req ≠ some r), seq := s.net.seq + 1 } }

/-- The STORE sectors of a request. -/
def storesOf (s : State) (r : Nat) : List StoreSec := s.net.stores.filter fun u => decide (u.req = some r)

/-- MC_SECTOR_WRITE serves the request, sector by sector. -/
theorem exec_mcSectorWrite {s : State} {site : Site} {t : StoreSec} {r : Nat}
    (oldest : s.net.stores.find? (fun t => decide (t.site = site) && t.req.isSome) = some t) (first : s.firstWrite t = some r) :
    exec (.mcSectorWrite site) s =
      .next (((s.storesOf r).map (·.pa)).eraseDups.foldl (serveStores t.noalloc (s.net.seq + 1) (s.storesOf r)) (s.takeStores r)) := by
  show execMcSectorWrite site s = _
  rw [execMcSectorWrite, oldest]
  dsimp only
  rw [first]
  rfl

/-- A writer that has just been answered is told `st`. -/
theorem answerStore_last (st : Status) (wid : Nat) (pa : PA) (s : State) (u : StoreSec) :
    (answerStore st wid pa s u).net.acks.getLast?.map (·.status) = some st := by
  rw [answerStore, addAck, List.getLast?_concat]; rfl

/-- What an acknowledgement says of whose it is. -/
def ackHead (a : StoreAck) : Site × VA × Nat := (a.site, a.va, a.wid)

theorem answerStores_stores (st : Status) (wid : Nat) (pa : PA) (us : List StoreSec) (s : State) :
    (us.foldl (answerStore st wid pa) s).net.stores = s.net.stores :=
  foldl_keeps (f := answerStore st wid pa) (P := fun t : State => t.net.stores = s.net.stores) (fun _ _ kept => kept) us rfl

theorem answerStores_acks (st : Status) (wid : Nat) (pa : PA) : ∀ (us : List StoreSec) (s : State),
    (us.foldl (answerStore st wid pa) s).net.acks.map ackHead = s.net.acks.map ackHead ++ us.map fun u => (u.site, u.va, wid)
  | [], s => by rw [List.map_nil, List.append_nil]; rfl
  | u :: us, s => by
    rw [List.foldl_cons, answerStores_acks st wid pa us, answerStore, addAck, List.map_append, List.append_assoc]
    rfl

section
variable (noalloc : Bool) {wid : Nat} (acknowledged : wid ≠ 0) (mine : List StoreSec)
include acknowledged

theorem serveStores_stores (s : State) (pa : PA) : (serveStores noalloc wid mine s pa).net.stores = s.net.stores :=
  (answerStores_stores _ _ _ _ _).trans (congrArg Prod.fst (storesAndAcks_mcWrite s pa.toNat noalloc _ _ acknowledged))

theorem serveStores_acks (s : State) (pa : PA) : (serveStores noalloc wid mine s pa).net.acks.map ackHead =
    s.net.acks.map ackHead ++ (mine.filter fun u => decide (u.pa = pa)).map fun u => (u.site, u.va, wid) := by
  have acks := congrArg Prod.snd (storesAndAcks_mcWrite s pa.toNat noalloc (joinStores (mine.filter fun u => decide (u.pa = pa))).1
    (joinStores (mine.filter fun u => decide (u.pa = pa))).2 acknowledged)
  rw [serveStores, answerStores_acks]
  exact congrArg (fun l => l.map ackHead ++ _) acks

theorem serveAllStores_stores (pas : List PA) (s : State) : (pas.foldl (serveStores noalloc wid mine) s).net.stores = s.net.stores :=
  foldl_keeps (f := serveStores noalloc wid mine) (P := fun t : State => t.net.stores = s.net.stores)
    (fun t pa kept => (serveStores_stores noalloc acknowledged mine t pa).trans kept) pas rfl

/-- R221: each writer's answer starts back, sector by sector. -/
theorem serveAllStores_acks : ∀ (pas : List PA) (s : State), (pas.foldl (serveStores noalloc wid mine) s).net.acks.map ackHead =
    s.net.acks.map ackHead ++ pas.flatMap fun pa => (mine.filter fun u => decide (u.pa = pa)).map fun u => (u.site, u.va, wid)
  | [], s => by rw [List.flatMap_nil, List.append_nil]; rfl
  | pa :: pas, s => by
    rw [List.foldl_cons, serveAllStores_acks pas, serveStores_acks noalloc acknowledged mine, List.flatMap_cons, List.append_assoc]

end

/-! ### A request of one STORE sector -/

theorem joinStores_mask (u : StoreSec) : (joinStores [u]).1 = u.mask := BitVec.zero_or

/-- Alone a STORE keeps its words. -/
theorem nth_joinStores (u : StoreSec) {i : Nat} (small : i < 16) (picked : u.mask.getLsbD i = true) :
    nth {} (joinStores [u]).2 i = nth {} u.data i := by
  show nth {} ((List.range 16).map fun i => if u.mask.getLsbD i then nth {} u.data i else nth {} (List.replicate 16 {}) i) i = _
  rw [nth_getElem _ (by rw [List.length_map, List.length_range]; exact small), List.getElem_map, List.getElem_range, if_pos picked]

/-- What the controller makes of a request of one STORE sector, without its acknowledgement. -/
def writeStore (s : State) (u : StoreSec) (r : Nat) : Status × State :=
  (s.takeStores r).mcWrite u.pa.toNat u.noalloc (joinStores [u]).1 (joinStores [u]).2 (s.net.seq + 1)

theorem exec_mcSectorWrite_single {s : State} {site : Site} {u : StoreSec} {r : Nat}
    (oldest : s.net.stores.find? (fun t => decide (t.site = site) && t.req.isSome) = some u) (first : s.firstWrite u = some r)
    (single : s.storesOf r = [u]) :
    exec (.mcSectorWrite site) s = .next (answerStore (s.writeStore u r).1 (s.net.seq + 1) u.pa (s.writeStore u r).2 u) := by
  have own : [u].filter (fun x => decide (x.pa = u.pa)) = [u] := List.filter_cons_of_pos (decide_eq_true rfl)
  rw [exec_mcSectorWrite oldest first, single]
  show Host.Outcome.next (serveStores u.noalloc (s.net.seq + 1) [u] (s.takeStores r) u.pa) = _
  rw [serveStores, own]
  rfl

/-- The writer of such a request is told how its write has ended, and memory is as the write has left it. -/
theorem mcSectorWrite_single_completes {s v : State} {site : Site} {u : StoreSec} {r : Nat} {st : Status} {P : Mem → Prop}
    (oldest : s.net.stores.find? (fun t => decide (t.site = site) && t.req.isSome) = some u) (first : s.firstWrite u = some r)
    (single : s.storesOf r = [u]) (written : s.writeStore u r = (st, v)) (left : P v.mem) :
    Completes (.mcSectorWrite site) s fun t => t.net.acks.getLast?.map (·.status) = some st ∧ P t.mem := by
  refine ⟨_, exec_mcSectorWrite_single oldest first single, ?_⟩
  rw [written]
  exact ⟨answerStore_last _ _ _ _ _, left⟩

section
variable {s : State} {site : Site} {u : StoreSec} {r : Nat}
  (oldest : s.net.stores.find? (fun t => decide (t.site = site) && t.req.isSome) = some u) (first : s.firstWrite u = some r)
  (single : s.storesOf r = [u]) (opened : s.mcShut (s.place u.pa.toNat).stack = none)
include oldest first single opened

theorem mcSectorWrite_locked (locked : s.locked (u.pa.toNat / 64 * 64) 64 = true) :
    Completes (.mcSectorWrite site) s fun t => t.net.acks.getLast?.map (·.status) = some stImageLocked ∧ t.mem = s.mem :=
  mcSectorWrite_single_completes (P := (· = s.mem)) oldest first single (mcWrite_locked (s := s.takeStores r) _ _ _ _ opened locked) rfl

variable (unlocked : s.locked (u.pa.toNat / 64 * 64) 64 = false)
include unlocked

theorem mcSectorWrite_dropped (failed : (s.chanAt (s.place u.pa.toNat)).st = 4) :
    Completes (.mcSectorWrite site) s fun t => t.net.acks.getLast?.map (·.status) = some stOk ∧ t.mem = s.mem :=
  mcSectorWrite_single_completes (P := (· = s.mem)) oldest first single
    (mcWrite_dropped (s := s.takeStores r) _ _ _ _ opened unlocked failed) (dropWrite_mem _ _)

theorem mcSectorWrite_written (sound : (s.chanAt (s.place u.pa.toNat)).st ≠ 4) :
    Completes (.mcSectorWrite site) s fun t => t.net.acks.getLast?.map (·.status) = some stOk ∧
      ∀ a, t.mem.read a = (s.mem.writeSector u.pa.toNat u.mask u.data).read a := by
  refine mcSectorWrite_single_completes (P := fun m => ∀ a, m.read a = (s.mem.writeSector u.pa.toNat u.mask u.data).read a) oldest first single
    (mcWrite_written (s := s.takeStores r) _ _ _ _ opened unlocked sound) fun a => ?_
  rw [(dirWrite_acknowledged _ _ _ _ (Nat.succ_ne_zero _)).1, mergeWrite_read, joinStores_mask]
  exact Mem.read_writeSector_congr (fun _ => rfl) _ (fun i small picked => nth_joinStores u small picked) a

end

/-! ### LANE_REPAIR (R213, R214) -/

/-- The lanes of the group of a channel's run that fail, and the spares that carry one of it. -/
def failingHere (c : Channel) (failing : List (BitVec 6)) : List (BitVec 6) :=
  failing.filter fun l => inGroup c.runGroup l || (decide (36 ≤ l.toNat ∧ l.toNat < 40) && inGroup c.runGroup (c.spare (l.toNat - 36)))

/-- The run of mismatches of a channel is over. -/
def endRun (s : State) (k n : Nat) : State := s.updMc k fun m => m.updChan n fun c => { c with run := 0, runPas := [] }

theorem chan_endRun (s : State) (k n : Nat) : ((s.endRun k n).mc k).chan n = { (s.mc k).chan n with run := 0, runPas := [] } := by
  rw [endRun, updMc_mc_same, Mc.chan_updChan]

/-- A channel is given spares anew. -/
def respare (s : State) (k n : Nat) (new : Channel) : State :=
  (s.updMc k fun m => (m.updChan n fun _ => new).count 0x124 1).recordSpares k n ((s.mc k).chan n) new

theorem recordSpares_kept (s : State) (stack ch : Nat) (old new : Channel) :
    (s.recordSpares stack ch old new).mcs = s.mcs ∧ (s.recordSpares stack ch old new).mem = s.mem := by
  refine foldl_keeps (P := fun t : State => t.mcs = s.mcs ∧ t.mem = s.mem) (fun t d kept => ?_) _ ⟨rfl, rfl⟩
  split
  · rw [lmAdd_mcs, lmAdd_mem]; exact kept
  · exact kept

theorem chan_respare (s : State) (k n : Nat) (new : Channel) : ((s.respare k n new).mc k).chan n = new := by
  rw [respare, mc_of_mcs (recordSpares_kept _ _ _ _ _).1, updMc_mc_same, Mc.chan_count, Mc.chan_updChan]

theorem respare_mem (s : State) (k n : Nat) (new : Channel) : (s.respare k n new).mem = s.mem := (recordSpares_kept _ _ _ _ _).2

/-- The sectors that a lane fault has poisoned, and theirs only, are known as wrong no more. -/
theorem clearLink_mem (s : State) (stack : Nat) (pas : List PA) :
    (s.clearLink stack pas).mem = pas.foldl (fun m a => m.setWrong a.toNat 0) s.mem := rfl

theorem clearLink_read (s : State) (stack : Nat) (pas : List PA) (b : Nat) : (s.clearLink stack pas).mem.read b = s.mem.read b := by
  rw [clearLink_mem]
  exact foldl_keeps (f := fun (m : Mem) (a : PA) => m.setWrong a.toNat 0) (P := fun m : Mem => m.read b = s.mem.read b)
    (fun _ _ kept => kept) pas rfl

theorem clearLink_right (s : State) (stack : Nat) {pas : List PA} {a : PA} (poisoned : a ∈ pas) :
    (s.clearLink stack pas).mem.wrongAt a.toNat = 0 := by
  rw [clearLink_mem]
  refine foldl_makes (f := fun (m : Mem) (b : PA) => m.setWrong b.toNat 0) (P := fun m : Mem => m.wrongAt a.toNat = 0)
    (fun m b right => ?_) (fun m => Mem.wrongAt_setWrong_same m _ 0) s.mem poisoned
  rw [Mem.wrongAt, Mem.setWrong, SMap.get_set]
  split
  · rfl
  · exact right

theorem mc_clearLink (s : State) (stack : Nat) (pas : List PA) : (s.clearLink stack pas).mc stack = (s.mc stack).logLink pas :=
  updMc_mc_same (s.lmClear _) stack (·.logLink pas)

theorem chan_clearLink (s : State) (stack : Nat) (pas : List PA) (n : Nat) : ((s.clearLink stack pas).mc stack).chan n = (s.mc stack).chan n := by
  rw [mc_clearLink]; rfl

theorem chan_failChannel (s : State) (stack ch : Nat) : (((s.failChannel stack ch).mc stack).chan ch).st = 4 := by
  have added (u : State) (type : Nat) (loc : BitVec 48) : (u.lmAddNew type loc).mcs = u.mcs := by
    rw [lmAddNew]
    split
    · rfl
    · exact lmAdd_mcs _ _ _
  rw [failChannel, notify_mc, mc_of_mcs (added _ _ _), updMc_mc_same, Mc.chan_updChan]

/-- A channel that eight mismatches in one group have brought to repair. -/
structure RepairDue (s : State) (stack ch : BitVec 4) : Prop where
  there : s.hasStack stack.toNat = true
  up : ((s.mc stack.toNat).chan ch.toNat).st = 2
  run : 8 ≤ ((s.mc stack.toNat).chan ch.toNat).run

section
variable {s : State} {stack ch : BitVec 4} {failing : List (BitVec 6)} (due : RepairDue s stack ch)
include due

theorem exec_laneRepair : exec (.laneRepair stack ch failing) s = let k := stack.toNat; let n := ch.toNat; let c := (s.mc k).chan n
    let mine := failingHere c failing
    if (c.needing mine).isEmpty then .next (s.endRun k n)
    else match c.repair mine with
      | none => .next (s.failChannel k n)
      | some new => .next ((((s.respare k n new).endRun k n).clearLink k c.runPas).notify 0x0007 ([w32 k, w32 n, 2] ++ paWords 0)) := by
  obtain ⟨there, up, run⟩ := due
  show execLaneRepair stack ch failing s = _
  rw [execLaneRepair, if_neg (by simp only [there, up, Nat.not_lt.2 run]; decide)]
  rfl

theorem exec_laneRepair_needless
    (needless : ((s.mc stack.toNat).chan ch.toNat).needing (failingHere ((s.mc stack.toNat).chan ch.toNat) failing) = []) :
    exec (.laneRepair stack ch failing) s = .next (s.endRun stack.toNat ch.toNat) := by
  rw [exec_laneRepair due]
  exact if_pos (List.isEmpty_iff.2 needless)

variable (needed : ((s.mc stack.toNat).chan ch.toNat).needing (failingHere ((s.mc stack.toNat).chan ch.toNat) failing) ≠ [])
include needed

theorem exec_laneRepair_spared {new : Channel}
    (repaired : ((s.mc stack.toNat).chan ch.toNat).repair (failingHere ((s.mc stack.toNat).chan ch.toNat) failing) = some new) :
    exec (.laneRepair stack ch failing) s = let k := stack.toNat; let n := ch.toNat
      .next ((((s.respare k n new).endRun k n).clearLink k ((s.mc k).chan n).runPas).notify 0x0007 ([w32 k, w32 n, 2] ++ paWords 0)) := by
  rw [exec_laneRepair due]
  dsimp only
  rw [if_neg (by rwa [List.isEmpty_iff]), repaired]

theorem exec_laneRepair_unspared
    (unrepaired : ((s.mc stack.toNat).chan ch.toNat).repair (failingHere ((s.mc stack.toNat).chan ch.toNat) failing) = none) :
    exec (.laneRepair stack ch failing) s = .next (s.failChannel stack.toNat ch.toNat) := by
  rw [exec_laneRepair due]
  dsimp only
  rw [if_neg (by rwa [List.isEmpty_iff]), unrepaired]

end

/-! ### REFRESH_HOT (R211, R428) -/

/-- THERM_N is at `b`. -/
def setTherm (s : State) (b : Bool) : State := { s with pwr := { s.pwr with thermN := b } }

theorem setTherm_self {s : State} {b : Bool} (at_ : s.pwr.thermN = b) : s.setTherm b = s := by rw [← at_]; rfl

/-- R428: below 95 degrees THERM_N stays, or goes where both halves are down to 90. -/
theorem driveTherm_below {s : State} {h : Nat} (told : Bool) (below : s.hottest h < 95) :
    s.driveTherm h told = s.setTherm (s.pwr.thermN && !decide (s.hottest 0 ≤ 90 ∧ s.hottest 1 ≤ 90)) := by
  rw [driveTherm, if_neg (Nat.not_le.2 below)]
  by_cases cool : s.hottest 0 ≤ 90 ∧ s.hottest 1 ≤ 90
  · rw [if_pos cool, decide_eq_true cool, Bool.not_true, Bool.and_false]; rfl
  · rw [if_neg cool, decide_eq_false cool, Bool.not_false, Bool.and_true, setTherm_self rfl]

/-- R428: from 95 degrees on THERM_N is driven, and what is new of it is told. -/
theorem driveTherm_from {s : State} {h : Nat} (hot : 95 ≤ s.hottest h) :
    s.driveTherm h false = if s.pwr.thermN then s else (s.setTherm true).noteThermal h := by
  rw [driveTherm, if_pos hot]
  dsimp only
  rw [Bool.or_false]
  split
  next driven => exact setTherm_self driven
  next => rfl

theorem driveTherm_mcs (s : State) (h : Nat) (told : Bool) : (s.driveTherm h told).mcs = s.mcs := by
  unfold driveTherm
  split
  · dsimp only
    split
    · rfl
    · exact notify_mcs _ _ _
  · split <;> rfl

/-- A stack's hottest die is at `temp`. -/
def readDie (s : State) (k : Nat) (temp : Byte) : State := s.updMc k fun m => { m with temp := temp, hot := decide (85 < temp.toNat) }

theorem exec_refreshHot {s : State} {stack : BitVec 4} (temp : Byte) (there : s.hasStack stack.toNat = true) (awake : s.dormant = false) :
    exec (.refreshHot stack temp) s = .next ((s.readDie stack.toNat temp).driveTherm (stack.toNat / 6) false) := by
  show execRefreshHot stack temp s = _
  rw [execRefreshHot]
  exact if_pos (by rw [there, awake]; rfl)

end State

/-! ### The obligation -/

/-- Settles O17: a request of STOREs is served sector by sector, and its writers answered (`State.serveAllStores_acks`); of one sector it is what
its controller makes of it (`State.writeStore`); a repair comes to one of three ends (`State.exec_laneRepair`); and the heat of a stack concerns
its controller and THERM_N (`State.driveTherm_from`). -/
theorem memoryControllersServe : Obligations.MemoryControllersServe := by
  unfold Obligations.MemoryControllersServe
  intro s
  refine ⟨?stores, ?lanes, ?hot⟩
  case stores =>
    -- By `intro` the place would become a local definition, which the kernel then computes.
    refine fun site t0 r oldest first => ⟨?all, fun single opened => ⟨fun locked => ?locked, fun unlocked failed => ?dropped,
      fun unlocked sound => ?written⟩⟩
    case all =>
      have acknowledged : s.net.seq + 1 ≠ 0 := Nat.succ_ne_zero _
      exact ⟨_, State.exec_mcSectorWrite oldest first, State.serveAllStores_stores t0.noalloc acknowledged _ _ _,
        State.serveAllStores_acks t0.noalloc acknowledged _ _ _⟩
    case locked => exact State.mcSectorWrite_locked oldest first single opened locked
    case dropped => exact State.mcSectorWrite_dropped oldest first single opened unlocked failed
    case written => exact State.mcSectorWrite_written oldest first single opened unlocked sound
  case lanes =>
    intro stack ch failing k n c mine there up run
    have due : State.RepairDue s stack ch := ⟨there, up, run⟩
    refine ⟨fun needless => ⟨_, State.exec_laneRepair_needless due needless, State.chan_endRun s k n, rfl⟩,
      fun needed new repaired => ⟨_, State.exec_laneRepair_spared due needed repaired, ?_, fun a => ?_, fun a poisoned => ?_⟩,
      fun needed unrepaired => ⟨_, State.exec_laneRepair_unspared due needed unrepaired, State.chan_failChannel s k n⟩⟩
    · rw [State.notify_mc, State.chan_clearLink, State.chan_endRun, State.chan_respare]
    · rw [State.notify_mem, State.clearLink_read]
      exact congrArg (·.read a) (s.respare_mem k n new)
    · rw [State.notify_mem]
      exact State.clearLink_right _ _ poisoned
  case hot =>
    intro stack temp there awake
    refine ⟨_, State.exec_refreshHot temp there awake, ?_, fun j other => ?_, fun below => State.driveTherm_below false below,
      fun hot => State.driveTherm_from hot⟩
    · rw [State.mc_of_mcs (State.driveTherm_mcs _ _ _)]
      exact State.updMc_mc_same _ _ _
    · rw [State.mc_of_mcs (State.driveTherm_mcs _ _ _)]
      exact State.updMc_mc_other _ _ other

end Sys2Proof.Machine
end

section
/-! PROOF. Training (R263, R271, R273, R274, R277): what a change of the link state makes of a port, and the lanes that a port chooses. -/

namespace Sys2Proof.Machine

open Sys2Proof

/-! ### A change of the link state (R273, R277) -/

/-- What a change of one port makes of the Triat. -/
theorem PortMoved.of_updPort {s : State} {n : Nat} {f blank : Port → Port} (kept : blank (f (s.port n)) = blank (s.port n)) :
    PortMoved s (s.updPort n f) n id blank :=
  ⟨rfl, fun _ other => State.updPort_port_other _ _ other, by rwa [State.updPort_port_same]⟩

namespace Port

/-- A port that begins to train in step `ph`: in RESUME the state stays. -/
def trained (p : Port) (ph : BitVec 3) : Port :=
  let p := { p with nonce := none, partnerNonce := none, helloIn := false, identIn := false, moving := none, training := none }
  if p.st = psResume then { p with phase := ph } else { p with st := ph.setWidth 4 }

/-- A port that goes back to DARK with no lane. -/
def darkened (p : Port) : Port := { p with txLanes := 0, rxLanes := 0 }.trained 1

/-- A port whose link is lost. -/
def lost (p : Port) : Port := { p.count 0x118 1 with before := p.st, st := psResume, txLanes := 0, rxLanes := 0 }.trained 1

variable (p : Port) {ph : BitVec 3}

@[simp] theorem trained_untrained : (p.trained ph).untrained = p.untrained := by
  unfold trained
  dsimp only
  split <;> rfl

theorem trained_of_resume (resume : p.st = psResume) : (p.trained ph).st = psResume ∧ (p.trained ph).phase = ph := by
  rw [trained]
  dsimp only
  rw [if_pos resume]
  exact ⟨resume, rfl⟩

theorem trained_of_other (other : p.st ≠ psResume) : (p.trained ph).st = ph.setWidth 4 := by
  rw [trained]
  dsimp only
  rw [if_neg other]

variable {p}

theorem setWidth_ne_resume (small : ph ≠ 7) : ph.setWidth 4 ≠ psResume := by
  revert ph; decide

/-- A port keeps on training in RESUME or outside it. -/
theorem trained_resume_iff (small : ph ≠ 7) : (p.trained ph).st = psResume ↔ p.st = psResume := by
  by_cases resume : p.st = psResume
  · exact iff_of_true (p.trained_of_resume resume).1 resume
  · exact iff_of_false (by rw [p.trained_of_other resume]; exact setWidth_ne_resume small) resume

theorem trained_stage (small : ph ≠ 7) : (p.trained ph).stage = ph.toNat := by
  rw [stage]
  by_cases resume : p.st = psResume
  · obtain ⟨st, phase⟩ := p.trained_of_resume (ph := ph) resume
    rw [if_pos st, phase]
  · rw [p.trained_of_other resume, if_neg (setWidth_ne_resume small), BitVec.toNat_setWidth]
    exact Nat.mod_eq_of_lt (by omega)

section
variable (p : Port) (ph : BitVec 3)

@[simp] theorem trained_txLanes : (p.trained ph).txLanes = p.txLanes := by unfold trained; dsimp only; split <;> rfl
@[simp] theorem trained_rxLanes : (p.trained ph).rxLanes = p.rxLanes := by unfold trained; dsimp only; split <;> rfl
@[simp] theorem trained_lanes : (p.trained ph).lanes = p.lanes := by unfold trained; dsimp only; split <;> rfl
@[simp] theorem trained_counts : (p.trained ph).counts = p.counts := by unfold trained; dsimp only; split <;> rfl
@[simp] theorem trained_before : (p.trained ph).before = p.before := by unfold trained; dsimp only; split <;> rfl
@[simp] theorem trained_down : (p.trained ph).down = p.down := by unfold trained; dsimp only; split <;> rfl
@[simp] theorem trained_lane (l : Nat) : (p.trained ph).lane l = p.lane l := by rw [lane, trained_lanes]; rfl

end

theorem darkened_stage : p.darkened.stage = 1 := trained_stage (by decide)

theorem darkened_st (other : p.st ≠ psResume) : p.darkened.st = psDark := by
  rw [darkened, trained_of_other _ (by exact other)]; rfl

/-- A port under a new nonce. -/
def named (p : Port) (nonce : BitVec 256) : Port := { p with nonce := some nonce }

theorem named_stage (p : Port) (nonce : BitVec 256) : (p.named nonce).stage = p.stage := rfl

theorem named_rxLanes (p : Port) (nonce : BitVec 256) : (p.named nonce).rxLanes = p.rxLanes := rfl

theorem named_txLanes (p : Port) (nonce : BitVec 256) : (p.named nonce).txLanes = p.txLanes := rfl

theorem named_lane (p : Port) (nonce : BitVec 256) (l : Nat) : (p.named nonce).lane l = p.lane l := rfl

/-- A count of a port goes up by one. -/
theorem counted_count (p : Port) (off : Nat) : p.Counted (p.count off 1) off := get_bump_one_at _ _

theorem Counted.of_counts {p q r : Port} {off : Nat} (counted : p.Counted q off) (same : r.counts = q.counts) : p.Counted r off :=
  fun k => by rw [same]; exact counted k

theorem lost_counted : p.Counted p.lost 0x118 := (counted_count p _).of_counts (trained_counts _ _)

theorem lost_st : p.lost.st = psResume ∧ p.lost.phase = 1 := trained_of_resume _ rfl

theorem lost_before : p.lost.before = p.st := trained_before _ _

end Port

namespace State

variable {s : State} {n : Nat}

theorem trainFrom_eq (s : State) (n : Nat) (ph : BitVec 3) : s.trainFrom n ph = s.updPort n (·.trained ph) := rfl

theorem updPort_trainFrom (s : State) (n : Nat) (f : Port → Port) (ph : BitVec 3) :
    (s.updPort n f).trainFrom n ph = s.updPort n fun p => (f p).trained ph := updPort_updPort _ _ _ _

/-- R277: a link with a partner is lost. -/
theorem linkLost_partnered (up : (s.port n).st = psHeld ∨ (s.port n).st = psActive) : s.linkLost n = s.updPort n Port.lost := by
  rw [linkLost]
  exact (if_pos up).trans (updPort_trainFrom _ _ _ _)

/-- A port that trains, in RESUME or outside it, begins anew. -/
theorem linkLost_training (training : (s.port n).st = psAcquire ∨ (s.port n).st = psDeskew ∨ (s.port n).st = psIdent ∨ (s.port n).st = psResume) :
    s.linkLost n = s.updPort n Port.darkened := by
  have unpartnered : ¬((s.port n).st = psHeld ∨ (s.port n).st = psActive) := by
    rcases training with st | st | st | st <;> rw [st] <;> decide
  rw [linkLost]
  exact (if_neg unpartnered).trans ((if_pos training).trans (updPort_trainFrom _ _ _ _))

/-- A port without a link has none to lose. -/
theorem linkLost_idle (idle : (s.port n).st = psOff ∨ (s.port n).st = psDark ∨ (s.port n).st = psFailed) : s.linkLost n = s := by
  rw [linkLost]
  dsimp only
  rcases idle with st | st | st <;> rw [st, if_neg (by decide), if_neg (by decide)]

end State

/-- What a training step moves: nothing but what a change of the link state may, and a port stays in RESUME or outside it. -/
theorem PortMoved.of_training {s : State} {n : Nat} {f : Port → Port} (kept : (f (s.port n)).untrained = (s.port n).untrained)
    (resume : (f (s.port n)).st = psResume ↔ (s.port n).st = psResume) :
    PortMoved s (s.updPort n f) n id Port.untrained ∧ (((s.updPort n f).port n).st = psResume ↔ (s.port n).st = psResume) :=
  ⟨.of_updPort kept, by rwa [State.updPort_port_same]⟩

/-! ### The commands of a port's link state (R271, R273) -/

section
variable {s : State} {port : BitVec 5} (here : s.hasPort port.toNat = true)
include here

theorem exec_portAcquire {signals : BitVec 9} (dark : (s.port port.toNat).stage = 1)
    (enough : minLanes port.toNat ≤ ((wavelengths port.toNat).filter fun l => signals.getLsbD l).length) :
    exec (.portAcquire port signals) s = .next (s.updPort port.toNat (·.trained 2)) :=
  congrArg Host.Outcome.next (if_pos (by rw [here, decide_eq_true ⟨dark, enough⟩]; rfl))

theorem exec_portLock (acquired : (s.port port.toNat).stage = 2) :
    exec (.portLock port) s = .next (s.updPort port.toNat (·.trained 3)) :=
  congrArg Host.Outcome.next (if_pos (by rw [here, decide_eq_true acquired]; rfl))

theorem exec_portStateTimeout (late : 2 ≤ (s.port port.toNat).stage ∧ (s.port port.toNat).stage ≤ 5 ∧
    ((s.port port.toNat).stage = 5 → (s.port port.toNat).st = psResume)) :
    exec (.portStateTimeout port) s = .next (s.updPort port.toNat Port.darkened) :=
  congrArg Host.Outcome.next ((if_pos (by rw [here, decide_eq_true late]; rfl)).trans (State.updPort_trainFrom _ _ _ _))

theorem exec_lossOfSignal {lost : BitVec 9} (few : ((List.range 9).filter fun l =>
    decide (((s.port port.toNat).lane l).rxLogical ≠ 15) && !lost.getLsbD l).length < minLanes port.toNat) :
    exec (.lossOfSignal port lost) s = .next (s.linkLost port.toNat) :=
  congrArg Host.Outcome.next (if_pos (by rw [here, decide_eq_true few]; rfl))

end

theorem exec_failedExpiry {s : State} {port : BitVec 5} (failed : (s.port port.toNat).st = psFailed) :
    exec (.failedExpiry port) s = .next (s.updPort port.toNat Port.darkened) :=
  congrArg Host.Outcome.next ((if_pos failed).trans (State.updPort_trainFrom _ _ _ _))

/-! ### The choice of lanes (R263, R271) -/

theorem nth_eq_getElem {α : Type} (d : α) {l : List α} {i : Nat} (h : i < l.length) : nth d l i = l[i] := by
  rw [nth, List.drop_eq_getElem_cons h]; rfl

/-- A sum of flags is the sum of the bits that are set. -/
theorem sum_flags (f : Nat → Bool) : ∀ l : List Nat, (l.map fun i => flag (f i) i).sum = ((l.filter f).map fun i => 2 ^ i).sum
  | [] => rfl
  | i :: l => by
    rw [List.map_cons, List.sum_cons, sum_flags f l, List.filter_cons, flag]
    cases f i
    · exact Nat.zero_add _
    · rfl

theorem getLsbD_lanePasses (errors : List (BitVec 29)) {l : Nat} (small : l < 9) :
    (lanePasses errors).getLsbD l = decide ((nth 0 errors l).toNat * 100000 ≤ 2 ^ 28) := by
  have rising (f : Nat → Bool) : ((List.range 9).filter f).SortedLT := (List.pairwise_lt_range.filter _).sortedLT
  rw [lanePasses, sum_flags, BitVec.getLsbD_ofNat, decide_eq_true small, Bool.true_and, Bool.eq_iff_iff, ← Nat.mem_bitIndices,
    Nat.bitIndices_sum_map_two_pow (rising _), List.mem_filter, and_iff_right (List.mem_range.2 small)]

/-- R263, R288: the wavelengths of a port, λ8 last. -/
theorem wavelengths_eq (n : Nat) : ∃ ls, wavelengths n = ls ++ [8] ∧ (ls ++ [8]).Sublist (List.range 9) ∧ ∀ l ∈ ls, l ≠ 8 := by
  rw [wavelengths]
  split
  · exact ⟨List.range 8, rfl, List.Sublist.refl _, by decide⟩
  · exact ⟨[0, 1], rfl, by decide, by decide⟩

/-- R271: the wavelengths that a direction takes are some of λ0 to λ8 in their order, and at most eight. -/
theorem chooseLanes_some (n : Nat) (pass : BitVec 9) :
    (chooseLanes n pass).1.Sublist (List.range 9) ∧ (chooseLanes n pass).1.length ≤ 8 := by
  obtain ⟨ls, all, sub, below⟩ := wavelengths_eq n
  have eight : (ls ++ [8]).length ≤ 9 := by simpa using sub.length_le
  rw [List.length_append, List.length_singleton] at eight
  have first : (wavelengths n).filter (fun l => decide (l ≠ 8) && pass.getLsbD l) = ls.filter fun l => pass.getLsbD l := by
    rw [all, List.filter_append, List.filter_singleton]
    simp only [ne_eq, not_true_eq_false, decide_false, Bool.false_and, cond_false, List.append_nil]
    refine List.filter_congr fun l hl => ?_
    rw [decide_eq_true (below l hl), Bool.true_and]
  have short := List.length_filter_le (fun l => pass.getLsbD l) ls
  rw [chooseLanes, first, all, List.length_append, List.length_singleton, Nat.add_sub_cancel]
  split
  next spare =>
    refine ⟨(List.filter_sublist.append (List.Sublist.refl _)).trans sub, ?_⟩
    rw [List.length_append, List.length_singleton]
    omega
  next => exact ⟨(List.filter_sublist.trans (List.sublist_append_left _ _)).trans sub, by dsimp only; omega⟩

namespace Port

/-- Puts lane i on the i-th of these wavelengths, of the direction that `put` is of. -/
def place (put : Port → Nat → Nat → Port) (ls : List Nat) (p : Port) : Port :=
  ((List.range ls.length).zip ls).foldl (fun p e => put p e.2 e.1) p

theorem place_append (put : Port → Nat → Nat → Port) (ls : List Nat) (l : Nat) (p : Port) :
    place put (ls ++ [l]) p = put (place put ls p) l ls.length := by
  rw [place, List.length_append, List.length_singleton, List.range_succ, List.zip_append List.length_range, List.foldl_append]
  rfl

variable (p : Port)

theorem lane_updLane (l j : Nat) (f : Lane → Lane) : (p.updLane l f).lane j = if j = l then f (p.lane l) else p.lane j :=
  SMap.get_upd _ _ _ _ _

/-- What is read of each wavelength's word once lane i stands on the i-th of `ls`. -/
theorem lane_place {α : Type} {put : Port → Nat → Nat → Port} (g : Lane → α) (v : Nat → α)
    (reads : ∀ (p : Port) (l i j : Nat), g ((put p l i).lane j) = if j = l then v i else g (p.lane j)) (p : Port) :
    ∀ (ls : List Nat), ls.Nodup → ∀ j, g ((place put ls p).lane j) = if j ∈ ls then v (ls.idxOf j) else g (p.lane j) := by
  intro ls
  induction ls using List.reverseRecOn with
  | nil => intro _ j; rw [if_neg List.not_mem_nil]; rfl
  | append_singleton ls l ih =>
    intro distinct j
    obtain ⟨first, -, apart⟩ := List.nodup_append.1 distinct
    have fresh : l ∉ ls := fun mem => apart l mem l List.mem_cons_self rfl
    rw [place_append, reads, ih first]
    by_cases last : j = l
    · rw [if_pos last, if_pos (by simp [last]), last, List.idxOf_append_of_notMem fresh, List.idxOf_cons_self, Nat.add_zero]
    · by_cases mem : j ∈ ls
      · rw [if_neg last, if_pos mem, if_pos (List.mem_append_left _ mem), List.idxOf_append_of_mem mem]
      · rw [if_neg last, if_neg mem, if_neg (by simp [mem, last])]

theorem setRx_rxLogical (l i j : Nat) : ((p.setRx l i).lane j).rxLogical = if j = l then BitVec.ofNat 4 i else (p.lane j).rxLogical := by
  rw [setRx, lane_updLane]; split <;> rfl

theorem setTx_txLogical (l i j : Nat) : ((p.setTx l i).lane j).txLogical = if j = l then BitVec.ofNat 4 i else (p.lane j).txLogical := by
  rw [setTx, lane_updLane]; split <;> rfl

theorem setTx_rxLogical (l i j : Nat) : ((p.setTx l i).lane j).rxLogical = (p.lane j).rxLogical := by
  rw [setTx, lane_updLane]; split <;> simp [*]

theorem setRx_txLogical (l i j : Nat) : ((p.setRx l i).lane j).txLogical = (p.lane j).txLogical := by
  rw [setRx, lane_updLane]; split <;> simp [*]

/-- What placing a lane leaves alone, placing all of them does. -/
theorem place_keeps {α : Type} {put : Port → Nat → Nat → Port} (g : Port → α) (keeps : ∀ p l i, g (put p l i) = g p) (ls : List Nat) (p : Port) :
    g (place put ls p) = g p :=
  foldl_keeps (P := fun q => g q = g p) (fun q e kept => (keeps q e.2 e.1).trans kept) _ rfl

/-- λ8 becomes the spare of the directions that leave it. -/
def spare (rx tx : Bool) (p : Port) : Port :=
  let p := if rx then p.updLane 8 fun x => { x with rxState := lnSpare } else p
  if tx then p.updLane 8 fun x => { x with txState := lnSpare } else p

theorem spare_logical (rx tx : Bool) (j : Nat) :
    ((p.spare rx tx).lane j).rxLogical = (p.lane j).rxLogical ∧ ((p.spare rx tx).lane j).txLogical = (p.lane j).txLogical := by
  have step (f : Lane → Lane) (q : Port) (kept : ∀ x, (f x).rxLogical = x.rxLogical ∧ (f x).txLogical = x.txLogical) :
      ((q.updLane 8 f).lane j).rxLogical = (q.lane j).rxLogical ∧ ((q.updLane 8 f).lane j).txLogical = (q.lane j).txLogical := by
    rw [lane_updLane]
    split
    next here => rw [here]; exact kept _
    next => exact ⟨rfl, rfl⟩
  cases rx <;> cases tx
  · exact ⟨rfl, rfl⟩
  · exact step _ p fun _ => ⟨rfl, rfl⟩
  · exact step _ p fun _ => ⟨rfl, rfl⟩
  · obtain ⟨rx1, tx1⟩ := step (fun x => { x with rxState := lnSpare }) p fun _ => ⟨rfl, rfl⟩
    obtain ⟨rx2, tx2⟩ := step (fun x => { x with txState := lnSpare }) (p.updLane 8 fun x => { x with rxState := lnSpare }) fun _ => ⟨rfl, rfl⟩
    exact ⟨rx2.trans rx1, tx2.trans tx1⟩

/-- A port that has chosen the lanes of its two directions. -/
def chosen (r x : List Nat × Bool) (p : Port) : Port :=
  ((place setTx x.1 (place setRx r.1 { p with lanes := [] })).spare r.2 x.2).countLanes

section
variable (r x : List Nat × Bool)

theorem chosen_rxLogical (distinct : r.1.Nodup) (j : Nat) :
    ((p.chosen r x).lane j).rxLogical = if j ∈ r.1 then BitVec.ofNat 4 (r.1.idxOf j) else 15 := by
  have spared := (spare_logical (place setTx x.1 (place setRx r.1 { p with lanes := [] })) r.2 x.2 j).1
  have sent := place_keeps (fun p => (p.lane j).rxLogical) (fun p l i => p.setTx_rxLogical l i j) x.1 (place setRx r.1 { p with lanes := [] })
  exact spared.trans (sent.trans (lane_place Lane.rxLogical _ setRx_rxLogical _ _ distinct j))

theorem chosen_txLogical (distinct : x.1.Nodup) (j : Nat) :
    ((p.chosen r x).lane j).txLogical = if j ∈ x.1 then BitVec.ofNat 4 (x.1.idxOf j) else 15 := by
  have spared := (spare_logical (place setTx x.1 (place setRx r.1 { p with lanes := [] })) r.2 x.2 j).2
  have received := place_keeps (fun p => (p.lane j).txLogical) (fun p l i => p.setRx_txLogical l i j) r.1 { p with lanes := [] }
  have sent := lane_place Lane.txLogical _ setTx_txLogical (place setRx r.1 { p with lanes := [] }) x.1 distinct j
  rw [received] at sent
  exact spared.trans sent

end

theorem chosen_rxLanes (r x : List Nat × Bool) : (p.chosen r x).rxLanes =
    BitVec.ofNat 4 ((List.range 9).filter fun l => decide (((p.chosen r x).lane l).rxLogical ≠ 15)).length := rfl

theorem chosen_txLanes (r x : List Nat × Bool) : (p.chosen r x).txLanes =
    BitVec.ofNat 4 ((List.range 9).filter fun l => decide (((p.chosen r x).lane l).txLogical ≠ 15)).length := rfl

/-- Where lane i of a direction stands on the i-th wavelength of `ls`, the wavelengths in use are those of `ls`. -/
theorem count_logical {ls : List Nat} (sub : ls.Sublist (List.range 9)) (few : ls.length ≤ 8) {g : Nat → BitVec 4}
    (reads : ∀ j, g j = if j ∈ ls then BitVec.ofNat 4 (ls.idxOf j) else 15) :
    ((List.range 9).filter fun l => decide (g l ≠ 15)).length = ls.length ∧
    (∀ i, i < ls.length → (g (nth 0 ls i)).toNat = i) ∧ ∀ l, l ∉ ls → g l = 15 := by
  have distinct : ls.Nodup := sub.nodup List.nodup_range
  have at_ (i : Nat) (h : i < ls.length) : (g (nth 0 ls i)).toNat = i := by
    rw [nth_eq_getElem 0 h, reads, if_pos (List.getElem_mem h), distinct.idxOf_getElem i h, BitVec.toNat_ofNat]
    exact Nat.mod_eq_of_lt (by omega)
  have unused (l : Nat) (h : l ∉ ls) : g l = 15 := by rw [reads, if_neg h]
  have used (l : Nat) (h : l ∈ ls) : g l ≠ 15 := by
    have small := List.idxOf_lt_length_of_mem h
    rw [reads, if_pos h, ne_eq, ← BitVec.toNat_inj, BitVec.toNat_ofNat, Nat.mod_eq_of_lt (by omega)]
    have top : (15 : BitVec 4).toNat = 15 := rfl
    omega
  refine ⟨(List.Perm.length_eq ?_), at_, unused⟩
  refine (List.perm_ext_iff_of_nodup (List.nodup_range.filter _) distinct).2 fun l => ?_
  rw [List.mem_filter, decide_eq_true_eq]
  exact ⟨fun h => by_contra fun out => h.2 (unused l out), fun h => ⟨sub.subset h, used l h⟩⟩

end Port

/-- Of the ports, of what they have put out and of the free values a record in the lichen map changes nothing. -/
theorem State.recordLanes_beside (s : State) (n : Nat) (rx : Bool) :
    { s.recordLanes n rx with flash := {}, sec := {} } = { s with flash := {}, sec := {} } := lmAdd_beside _ _ _

namespace State

@[simp] theorem link_out (s : State) (n : Nat) (f : LinkFrame) : (s.link n f).out = .link n f :: s.out := rfl

/-- The Triat once the lanes of port `n` are chosen and recorded. -/
def recordedLanes (s : State) (n : Nat) (r x : List Nat × Bool) : State :=
  ((s.updPort n (Port.chosen r x)).recordLanes n true).recordLanes n false

/-- The Triat once port `n` then begins its identity exchange under a new nonce. -/
def begunIdent (s : State) (n : Nat) (nonce : BitVec 256) : State :=
  { (s.trainFrom n 4).updPort n (·.named nonce) with fresh := (s.trainFrom n 4).fresh + 1 }

section
variable (s : State) (n : Nat) (r x : List Nat × Bool) (nonce : BitVec 256)

theorem recordedLanes_beside : { s.recordedLanes n r x with flash := {}, sec := {} } =
    { s.updPort n (Port.chosen r x) with flash := {}, sec := {} } := (recordLanes_beside _ _ _).trans (recordLanes_beside _ _ _)

theorem recordedLanes_port (j : Nat) : (s.recordedLanes n r x).port j = (s.updPort n (Port.chosen r x)).port j := by
  have ports := congrArg State.ports (recordedLanes_beside s n r x)
  exact congrArg (SMap.get {} · j) ports

theorem recordedLanes_fresh : (s.recordedLanes n r x).fresh = s.fresh := by
  have fresh := congrArg State.fresh (recordedLanes_beside s n r x)
  exact fresh

theorem recordedLanes_out : (s.recordedLanes n r x).out = s.out := by
  have out := congrArg State.out (recordedLanes_beside s n r x)
  exact out

theorem begunIdent_fresh : (s.begunIdent n nonce).fresh = s.fresh + 1 := rfl

theorem begunIdent_out : (s.begunIdent n nonce).out = s.out := rfl

theorem begunIdent_port (j : Nat) :
    (s.begunIdent n nonce).port j = if j = n then ((s.port n).trained 4).named nonce else s.port j := by
  have port : (s.begunIdent n nonce).port j = ((s.trainFrom n 4).updPort n (·.named nonce)).port j := rfl
  rw [port, trainFrom_eq, updPort_updPort]
  split
  next here => rw [here, updPort_port_same]
  next other => rw [updPort_port_other _ _ other]

end

end State

/-- R263, R271, R274: a port that has found enough wavelengths chooses its lanes and begins its identity exchange. -/
theorem exec_laneChoice {s : State} {port : BitVec 5} {errors : List (BitVec 29)} {tx : BitVec 9} (here : s.hasPort port.toNat = true)
    (ready : (s.port port.toNat).stage = 3 ∧ minLanes port.toNat ≤ (chooseLanes port.toNat (lanePasses errors)).1.length ∧
      minLanes port.toNat ≤ (chooseLanes port.toNat tx).1.length) :
    exec (.laneChoice port errors tx) s =
      .next ((((s.recordedLanes port.toNat (chooseLanes port.toNat (lanePasses errors)) (chooseLanes port.toNat tx)).begunIdent port.toNat
        (Config.nonce s.fresh)).link port.toNat (.laneMap ((chooseLanes port.toNat (lanePasses errors)).1.map (BitVec.ofNat 4)))).link port.toNat
        (.hello (Config.nonce s.fresh))) := by
  show execLaneChoice port errors tx s = _
  rw [execLaneChoice]
  exact if_neg (by rw [here, decide_eq_true ready]; decide)

/-! ### The obligation -/

/-- Settles O20: each step of training is one change of the port's link state (`Port.trained`, `Port.lost`), and of each direction the
wavelengths that are chosen carry the lanes in their order (`Port.chosen_rxLogical`, `Port.chosen_txLogical`). -/
theorem portsTrainStepByStep : Obligations.PortsTrainStepByStep := by
  unfold Obligations.PortsTrainStepByStep
  refine ⟨fun s port here => ?states, fun s port errors tx => ⟨fun l small => getLsbD_lanePasses errors small, fun here stage rx_enough tx_enough => ?choice⟩⟩
  case states =>
    refine ⟨fun signals dark enough => ⟨_, exec_portAcquire here dark enough, ?_, ?_⟩, fun acquired => ⟨_, exec_portLock here acquired, ?_, ?_⟩,
      fun low high resume => ⟨_, exec_portStateTimeout here ⟨low, high, resume⟩, ?_, ?_, ?_, ?_⟩,
      fun failed => ⟨_, exec_failedExpiry failed, ?_, ?_, ?_, ?_⟩, fun lost few => ⟨fun up => ⟨_, exec_lossOfSignal here few, ?_⟩,
      fun training => ⟨_, exec_lossOfSignal here few, ?_⟩, fun idle => ⟨_, exec_lossOfSignal here few, State.linkLost_idle idle⟩⟩⟩
    · exact PortMoved.of_training (Port.trained_untrained _) (Port.trained_resume_iff (by decide))
    · rw [State.updPort_port_same]; exact Port.trained_stage (by decide)
    · exact PortMoved.of_training (Port.trained_untrained _) (Port.trained_resume_iff (by decide))
    · rw [State.updPort_port_same]; exact Port.trained_stage (by decide)
    · exact PortMoved.of_training (Port.trained_untrained _) (Port.trained_resume_iff (by decide))
    · rw [State.updPort_port_same]; exact Port.darkened_stage
    · rw [State.updPort_port_same]; exact Port.trained_txLanes _ _
    · rw [State.updPort_port_same]; exact Port.trained_rxLanes _ _
    · exact PortMoved.of_training (Port.trained_untrained _) (Port.trained_resume_iff (by decide))
    · rw [State.updPort_port_same]; exact Port.darkened_st (by rw [failed]; decide)
    · rw [State.updPort_port_same]; exact Port.trained_txLanes _ _
    · rw [State.updPort_port_same]; exact Port.trained_rxLanes _ _
    · dsimp only; rw [State.linkLost_partnered up, State.updPort_port_same]
      exact ⟨.of_updPort (Port.trained_untrained _), Port.lost_st.1, Port.lost_st.2, Port.lost_before, Port.lost_counted⟩
    · have other : (s.port port.toNat).st ≠ psResume := by rcases training with st | st | st <;> rw [st] <;> decide
      have trains := training.imp_right (Or.imp_right (Or.inl (b := (s.port port.toNat).st = psResume)))
      dsimp only; rw [State.linkLost_training trains, State.updPort_port_same]
      have moved := PortMoved.of_training (s := s) (n := port.toNat) (f := Port.darkened) (Port.trained_untrained _) (Port.trained_resume_iff (by decide))
      rw [State.updPort_port_same] at moved
      exact ⟨moved, Port.darkened_st other⟩
  case choice =>
    generalize hr : chooseLanes port.toNat (lanePasses errors) = r
    generalize hx : chooseLanes port.toNat tx = x
    have runs := exec_laneChoice here ⟨stage, rx_enough, tx_enough⟩
    have rx_some := chooseLanes_some port.toNat (lanePasses errors)
    have tx_some := chooseLanes_some port.toNat tx
    rw [hr, hx] at runs
    rw [hr] at rx_some
    rw [hx] at tx_some
    obtain ⟨rx_sub, rx_few⟩ := rx_some
    obtain ⟨tx_sub, tx_few⟩ := tx_some
    have rx_at := (s.port port.toNat).chosen_rxLogical r x (rx_sub.nodup List.nodup_range)
    have tx_at := (s.port port.toNat).chosen_txLogical r x (tx_sub.nodup List.nodup_range)
    obtain ⟨rx_count, rx_on, rx_off⟩ := Port.count_logical rx_sub rx_few rx_at
    obtain ⟨tx_count, tx_on, tx_off⟩ := Port.count_logical tx_sub tx_few tx_at
    obtain ⟨t, ht⟩ : ∃ t, t = (((s.recordedLanes port.toNat r x).begunIdent port.toNat (Config.nonce s.fresh)).link port.toNat
      (.laneMap (r.1.map (BitVec.ofNat 4)))).link port.toNat (.hello (Config.nonce s.fresh)) := ⟨_, rfl⟩
    rw [← ht] at runs
    have mine : (t.port port.toNat) = (((s.port port.toNat).chosen r x).trained 4).named (Config.nonce s.fresh) := by
      rw [ht, State.link_port, State.link_port, State.begunIdent_port, if_pos rfl, State.recordedLanes_port, State.updPort_port_same]
    have lane (l : Nat) : (t.port port.toNat).lane l = ((s.port port.toNat).chosen r x).lane l := by
      rw [mine, Port.named_lane, Port.trained_lane]
    refine ⟨t, runs, ?_, by rw [mine]; rfl, ?_, ?_, fun j other => ?_, ?_, ?_, fun i hi => ?_, fun i hi => ?_, fun l _ off => ?_,
      fun l _ off => ?_⟩
    · rw [mine, Port.named_stage]; exact Port.trained_stage (by decide)
    · rw [ht, State.link_fresh, State.link_fresh, State.begunIdent_fresh, State.recordedLanes_fresh]
    · rw [ht, State.link_out, State.link_out, State.begunIdent_out, State.recordedLanes_out]
    · rw [ht, State.link_port, State.link_port, State.begunIdent_port, if_neg other, State.recordedLanes_port, State.updPort_port_other _ _ other]
    · rw [mine, Port.named_rxLanes, Port.trained_rxLanes, Port.chosen_rxLanes, rx_count, BitVec.toNat_ofNat, Nat.mod_eq_of_lt (by omega)]
    · rw [mine, Port.named_txLanes, Port.trained_txLanes, Port.chosen_txLanes, tx_count, BitVec.toNat_ofNat, Nat.mod_eq_of_lt (by omega)]
    · rw [lane]; exact rx_on i hi
    · rw [lane]; exact tx_on i hi
    · rw [lane]; exact rx_off l off
    · rw [lane]; exact tx_off l off

end Sys2Proof.Machine
end

section
/-! PROOF. Frames (R268 to R270, R277): what sending leaves of a port, and what a port does with a frame, a NACK and a time limit. -/

namespace Sys2Proof.Machine

open Sys2Proof

/-! ### What sending leaves of a port (R268 to R270) -/

/-- A port without what sending changes: its counts, what waits and what is kept to be sent again, and the credits of both sides. -/
def Port.unsent (p : Port) : Port := { p with counts := [], txSeq := 0, sent := [], queue := [], credit := [], owed := [] }

/-- A port without the credits that it owes. -/
def Port.unowed (p : Port) : Port := { p with owed := [] }

/-- A frame as it goes out again, with the ACK of the moment. -/
def Sent.again (n : Nat) (ack : W32) (f : Sent) : Out :=
  .frame n f.seq ack f.gives f.credits f.body (frameCrc f.seq ack f.gives f.credits f.body)

/-- The frames that an ACK leaves in the replay buffer. -/
def Sent.uncovered (sent : List Sent) (a : W32) : List Sent := sent.filter fun x => !covered x.seq a

namespace State

@[simp] theorem identSent_port (s : State) (b : Option FBody) (j : Nat) : (s.identSent b).port j = s.port j := by
  unfold identSent; split <;> rfl

@[simp] theorem identSent_out (s : State) (b : Option FBody) : (s.identSent b).out = s.out := by
  unfold identSent; split <;> rfl

theorem sendFrame_port_other (s : State) (n : Nat) (pool : BitVec 4) (b : Option FBody) {j : Nat} (other : j ≠ n) :
    (s.sendFrame n pool b).port j = s.port j := by
  rw [sendFrame, setPort_port_other _ _ other, identSent_port]
  rfl

theorem sendFrame_unsent (s : State) (n : Nat) (pool : BitVec 4) (b : Option FBody) (j : Nat) :
    ((s.sendFrame n pool b).port j).unsent = (s.port j).unsent := by
  by_cases here : j = n
  · rw [sendFrame, here, setPort_port_same]
    cases b <;> dsimp only [Port.unsent, Port.count, Option.map, Option.isSome] <;> rfl
  · rw [sendFrame_port_other _ _ _ _ here]

/-! What has been put out stays. -/

variable {o : List Out}

theorem sendFrame_out {s : State} (n : Nat) (pool : BitVec 4) (b : Option FBody) (before : o <:+ s.out) : o <:+ (s.sendFrame n pool b).out := by
  rw [sendFrame, setPort_out, identSent_out]
  exact before.trans (List.suffix_cons _ _)

theorem giveBack_unowed (s : State) (r : Option (Nat × BitVec 4 × Nat)) (j : Nat) : ((s.giveBack r).port j).unowed = (s.port j).unowed := by
  rcases r with _ | ⟨n, pool, k⟩
  · rfl
  · by_cases here : j = n
    · rw [giveBack, here, updPort_port_same]; rfl
    · rw [giveBack, updPort_port_other _ _ here]

theorem giveBack_unsent (s : State) (r : Option (Nat × BitVec 4 × Nat)) (j : Nat) : ((s.giveBack r).port j).unsent = (s.port j).unsent := by
  have unowed := congrArg Port.unsent (giveBack_unowed s r j)
  exact unowed

@[simp] theorem giveBack_out (s : State) (r : Option (Nat × BitVec 4 × Nat)) : (s.giveBack r).out = s.out := by cases r <;> rfl

theorem drainFrom_unsent (n j : Nat) : ∀ (qs kept : List QItem) (s : State), ((s.drainFrom n qs kept).port j).unsent = (s.port j).unsent
  | [], kept, s => by
    by_cases here : j = n
    · rw [drainFrom, here, updPort_port_same]; rfl
    · rw [drainFrom, updPort_port_other _ _ here]
  | q :: qs, kept, s => by
    rw [drainFrom]
    split
    · rw [drainFrom_unsent n j qs, giveBack_unsent, sendFrame_unsent]
    · exact drainFrom_unsent n j qs _ s

/-- What one port sends changes of another only the credits that it owes. -/
theorem drainFrom_unowed (n : Nat) {j : Nat} (other : j ≠ n) : ∀ (qs kept : List QItem) (s : State),
    ((s.drainFrom n qs kept).port j).unowed = (s.port j).unowed
  | [], kept, s => by rw [drainFrom, updPort_port_other _ _ other]
  | q :: qs, kept, s => by
    rw [drainFrom]
    split
    · rw [drainFrom_unowed n other qs, giveBack_unowed, sendFrame_port_other _ _ _ _ other]
    · exact drainFrom_unowed n other qs _ s

theorem drainFrom_out (n : Nat) : ∀ (qs kept : List QItem) {s : State}, o <:+ s.out → o <:+ (s.drainFrom n qs kept).out
  | [], _, _, before => before
  | q :: qs, kept, s, before => by
    rw [drainFrom]
    split
    · refine drainFrom_out n qs kept ?_
      rw [giveBack_out]
      exact sendFrame_out n _ _ before
    · exact drainFrom_out n qs _ before

section
variable (s : State) (n : Nat)

theorem drain_unsent (j : Nat) : ((s.drain n).port j).unsent = (s.port j).unsent := drainFrom_unsent n j _ _ _

theorem drain_out (before : o <:+ s.out) : o <:+ (s.drain n).out := drainFrom_out n _ _ before

variable {s n}

/-- Where nothing waits, nothing is sent. -/
theorem drain_empty (empty : (s.port n).queue = []) : s.drain n = s.updPort n fun p => { p with queue := [] } := by
  rw [drain, empty]; rfl

variable (s n) (q : QItem)

theorem enqueue_unsent (j : Nat) : ((s.enqueue n q).port j).unsent = (s.port j).unsent := by
  rw [enqueue, drain_unsent]
  by_cases here : j = n
  · rw [here, updPort_port_same]; rfl
  · rw [updPort_port_other _ _ here]

theorem enqueue_unowed {j : Nat} (other : j ≠ n) : ((s.enqueue n q).port j).unowed = (s.port j).unowed := by
  rw [enqueue, drain, drainFrom_unowed n other, updPort_port_other _ _ other]

theorem enqueue_out (before : o <:+ s.out) : o <:+ (s.enqueue n q).out := drain_out _ _ before

end

theorem enqueueAll_unsent (n j : Nat) (f : Note → QItem) (ns : List Note) (s : State) :
    ((ns.foldl (fun s x => s.enqueue n (f x)) s).port j).unsent = (s.port j).unsent :=
  foldl_keeps (f := fun (s : State) x => s.enqueue n (f x)) (P := fun t : State => (t.port j).unsent = (s.port j).unsent)
    (fun t x kept => (enqueue_unsent t n (f x) j).trans kept) ns rfl

theorem enqueueAll_unowed {n j : Nat} (other : j ≠ n) (f : Note → QItem) (ns : List Note) (s : State) :
    ((ns.foldl (fun s x => s.enqueue n (f x)) s).port j).unowed = (s.port j).unowed :=
  foldl_keeps (f := fun (s : State) x => s.enqueue n (f x)) (P := fun t : State => (t.port j).unowed = (s.port j).unowed)
    (fun t x kept => (enqueue_unowed t n (f x) other).trans kept) ns rfl

theorem enqueueAll_out (n : Nat) (f : Note → QItem) (ns : List Note) {s : State} (before : o <:+ s.out) :
    o <:+ (ns.foldl (fun s x => s.enqueue n (f x)) s).out :=
  foldl_keeps (f := fun (s : State) x => s.enqueue n (f x)) (P := fun t : State => o <:+ t.out) (fun t x => enqueue_out t n (f x)) ns before

section
variable (s : State)

theorem pumpNotes_unsent (j : Nat) : (s.pumpNotes.port j).unsent = (s.port j).unsent := by
  unfold pumpNotes
  split
  · rfl
  · exact enqueueAll_unsent _ _ _ _ _

theorem pumpNotes_out (before : o <:+ s.out) : o <:+ s.pumpNotes.out := by
  unfold pumpNotes
  split
  · exact before
  · exact enqueueAll_out _ _ _ before

/-- R363: the port that notifications take is live. -/
theorem live_of_notePort {n : Nat} (takes : s.notePort = some n) : (s.port n).live = true := by
  unfold notePort at takes
  dsimp only at takes
  by_cases first : (s.port (if s.ctl.notifyPort then 17 else 16)).live = true
  · rw [if_pos first] at takes
    rwa [← Option.some.inj takes]
  · rw [if_neg first] at takes
    by_cases second : (s.port (if s.ctl.notifyPort then 16 else 17)).live = true
    · rw [if_pos second] at takes
      rwa [← Option.some.inj takes]
    · rw [if_neg second] at takes
      exact absurd takes.symm (Option.some_ne_none _)

/-- Notifications leave a port that is not live as it is. -/
theorem pumpNotes_unowed {j : Nat} (still : (s.port j).live = false) : (s.pumpNotes.port j).unowed = (s.port j).unowed := by
  unfold pumpNotes
  split
  next => rfl
  next n takes =>
    refine enqueueAll_unowed ?_ _ _ _
    rintro rfl
    exact Bool.false_ne_true (still.symm.trans (live_of_notePort s takes))

variable (code : BitVec 16) (ws : List W32)

theorem notify_unsent (j : Nat) : ((s.notify code ws).port j).unsent = (s.port j).unsent := by
  unfold notify
  dsimp only
  split
  · exact pumpNotes_unsent _ j
  · rfl

theorem notify_unowed {j : Nat} (still : (s.port j).live = false) : ((s.notify code ws).port j).unowed = (s.port j).unowed := by
  unfold notify
  dsimp only
  split
  · exact pumpNotes_unowed _ still
  · rfl

theorem notify_out (before : o <:+ s.out) : o <:+ (s.notify code ws).out := by
  unfold notify
  dsimp only
  split
  · exact pumpNotes_out _ before
  · exact before

end

/-! ### Frames that go out again (R269) -/

theorem putFrames_port (n : Nat) (ack : W32) (fs : List Sent) (s : State) (j : Nat) :
    (fs.foldl (fun s t => s.putFrame n ack t) s).port j = s.port j :=
  foldl_keeps (f := fun (s : State) t => s.putFrame n ack t) (P := fun t : State => t.port j = s.port j) (fun _ _ kept => kept) fs rfl

theorem putFrames_out (n : Nat) (ack : W32) {fs : List Sent} {f : Sent} (s : State) (kept : f ∈ fs) :
    Sent.again n ack f ∈ (fs.foldl (fun s t => s.putFrame n ack t) s).out :=
  foldl_makes (f := fun (s : State) t => s.putFrame n ack t) (P := fun t : State => Sent.again n ack f ∈ t.out)
    (fun _ _ mem => List.mem_cons_of_mem _ mem) (fun _ => List.mem_cons_self) s kept

section
variable (s : State) (n : Nat)

/-- A port that has sent again what it keeps has counted it, and nothing else of it has changed. -/
theorem resendFrames_port : (s.resendFrames n).port n = (s.port n).count 0x100 (((s.port n).sent.filter fun t => t.body.isSome).length) := by
  rw [resendFrames, updPort_port_same, putFrames_port]

theorem resendFrames_out {f : Sent} (kept : f ∈ (s.port n).sent) : Sent.again n (s.port n).rxSeq f ∈ (s.resendFrames n).out :=
  putFrames_out n _ s kept

theorem acknowledge_port (a : W32) : (s.acknowledge n a).port n =
    { s.port n with
      sent := Sent.uncovered (s.port n).sent a
      replays := if (Sent.uncovered (s.port n).sent a).length < (s.port n).sent.length then 0 else (s.port n).replays } := by
  rw [acknowledge, updPort_port_same]; rfl

variable {s n}

/-- R269: a replay of what the port keeps, before the 33rd. -/
theorem replay_some (some_kept : (s.port n).sent ≠ []) (few : (s.port n).replays < 32) :
    s.replay n = (s.updPort n fun p => { p.count 0x10C 1 with replays := p.replays + 1 }).resendFrames n := by
  rw [replay]
  exact (if_neg (by rwa [List.isEmpty_iff])).trans (if_neg (Nat.not_le.2 few))

theorem replay_none (none_kept : (s.port n).sent = []) : s.replay n = s := by
  rw [replay]
  exact if_pos (by rw [none_kept]; rfl)

theorem replay_lost (some_kept : (s.port n).sent ≠ []) (many : 32 ≤ (s.port n).replays) : s.replay n = s.linkLost n := by
  rw [replay]
  exact (if_neg (by rwa [List.isEmpty_iff])).trans (if_pos many)

/-- What a replay leaves of its port, and what it puts out. -/
theorem replay_replays (some_kept : (s.port n).sent ≠ []) (few : (s.port n).replays < 32) :
    ((s.replay n).port n).sent = (s.port n).sent ∧ ((s.replay n).port n).replays = (s.port n).replays + 1 ∧
      ((s.replay n).port n).queue = (s.port n).queue ∧ ∀ f ∈ (s.port n).sent, Sent.again n (s.port n).rxSeq f ∈ (s.replay n).out := by
  rw [replay_some some_kept few, resendFrames_port, updPort_port_same]
  refine ⟨rfl, rfl, rfl, fun f kept => ?_⟩
  have out := resendFrames_out (s.updPort n fun p => { p.count 0x10C 1 with replays := p.replays + 1 }) n (f := f)
  rw [updPort_port_same] at out
  exact out kept

/-- A NACK goes out once. -/
theorem sendNack_port : (s.sendNack n).port n = { s.port n with nacked := true } ∧
    (s.sendNack n).out = if (s.port n).nacked then s.out else .link n (.nack (s.port n).rxSeq) :: s.out := by
  rw [sendNack]
  dsimp only
  split
  next nacked => exact ⟨by rw [← nacked], rfl⟩
  next => exact ⟨by rw [link_port, updPort_port_same], rfl⟩

end

end State

/-! ### The commands of frames (R268 to R270, R291) -/

/-- A port that has taken a frame in sequence, with its ACK and its credits; a packet holds its slots. -/
def Port.accepting (f : Frame) (p : Port) : Port :=
  let p := { p with rxSeq := p.rxSeq + 1, nacked := false, credit := SMap.upd 0 p.credit f.pool.toNat (· + f.credits.toNat) }
  if f.packet then { p.count 0x104 1 with rxHeld := p.rxHeld ++ [{ pool := f.bodyPool, slots := (f.bytes.toNat + 255) / 256 }] } else p

theorem Port.framed_of_active {p : Port} (active : p.st = psActive) : p.framed = true := by
  rw [framed, stage, active]; rfl

section
variable {s : State} {port : BitVec 5} (here : s.hasPort port.toNat = true)
include here

theorem exec_packetFrame_bad {f : Frame} (framed : (s.port port.toNat).framed = true) (bad : f.crcOk = false) :
    exec (.packetFrame port f) s = .next (if (s.port port.toNat).st = psActive then
      (s.updPort port.toNat fun p => p.count 0x108 1).sendNack port.toNat else s.updPort port.toNat fun p => p.count 0x108 1) := by
  show execPacketFrame port f s = _
  rw [execPacketFrame]
  exact (if_neg (by rw [here, framed]; decide)).trans (if_pos (by rw [bad]; rfl))

section
variable (active : (s.port port.toNat).st = psActive)
include active

theorem exec_packetFrame_good {f : Frame} (good : f.crcOk = true) :
    exec (.packetFrame port f) s = .next (if f.seq ≠ (s.port port.toNat).rxSeq then s.sendNack port.toNat
      else ((s.updPort port.toNat (Port.accepting f)).acknowledge port.toNat f.ack).drain port.toNat) := by
  show execPacketFrame port f s = _
  rw [execPacketFrame]
  refine (if_neg (by rw [here, Port.framed_of_active active]; decide)).trans ((if_neg (by rw [good]; decide)).trans
    ((if_neg (not_not.2 active)).trans ?_))
  split <;> rfl

theorem exec_nack (expected : W32) : exec (.nack port expected) s =
    .next (((s.acknowledge port.toNat expected).replay port.toNat).drain port.toNat) := by
  show execNack port expected s = _
  rw [execNack]
  exact if_neg (by rw [here, active]; decide)

theorem exec_replayTimeout : exec (.replayTimeout port) s = .next (s.replay port.toNat) :=
  congrArg Host.Outcome.next (if_pos (by rw [here, active]; rfl))

theorem exec_idleSend (room : (s.port port.toNat).retained + frameBytes none ≤ 2 ^ 20) :
    exec (.idleSend port) s = .next (s.sendFrame port.toNat 0 none) :=
  congrArg Host.Outcome.next (if_pos (by rw [here, decide_eq_true ⟨active, room⟩]; rfl))

end

end

/-! ### Frames in sequence and frames that are sent (R268 to R270) -/

theorem Port.accepting_fields (f : Frame) (p : Port) :
    (p.accepting f).rxSeq = p.rxSeq + 1 ∧ (p.accepting f).nacked = false ∧ (p.accepting f).sent = p.sent ∧ (p.accepting f).queue = p.queue ∧
      (p.accepting f).credit = SMap.upd 0 p.credit f.pool.toNat (· + f.credits.toNat) ∧
      (p.accepting f).rxHeld = p.rxHeld ++ (if f.packet then [{ pool := f.bodyPool, slots := (f.bytes.toNat + 255) / 256 }] else []) := by
  rw [accepting]
  dsimp only
  split
  · exact ⟨rfl, rfl, rfl, rfl, rfl, rfl⟩
  · exact ⟨rfl, rfl, rfl, rfl, rfl, (List.append_nil _).symm⟩

/-- What a drain leaves of its port where something waits, and where nothing does. -/
theorem State.drain_port (s : State) (n : Nat) : ((s.drain n).port n).rxSeq = (s.port n).rxSeq ∧
    ((s.drain n).port n).nacked = (s.port n).nacked ∧ ((s.drain n).port n).rxHeld = (s.port n).rxHeld ∧
    ((s.port n).queue = [] → (s.drain n).port n = s.port n ∧ (s.drain n).out = s.out) := by
  have unsent := s.drain_unsent n n
  refine ⟨?_, ?_, ?_, fun empty => ?_⟩
  · have field := congrArg Port.rxSeq unsent; exact field
  · have field := congrArg Port.nacked unsent; exact field
  · have field := congrArg Port.rxHeld unsent; exact field
  · rw [State.drain_empty empty, State.updPort_port_same, State.updPort_out, ← empty]
    exact ⟨rfl, rfl⟩

/-- An IDLE frame is kept as the others are, and uses no credit. -/
theorem State.sendFrame_idle (s : State) (n : Nat) : ((s.sendFrame n 0 none).port n).txSeq = (s.port n).txSeq + 1 ∧
    ((s.sendFrame n 0 none).port n).sent = (s.port n).sent ++
      [{ seq := (s.port n).txSeq, pool := 0, gives := (s.port n).returns.1, credits := BitVec.ofNat 12 (s.port n).returns.2, body := none }] ∧
    ∀ k, SMap.get 0 ((s.sendFrame n 0 none).port n).credit k = SMap.get 0 (s.port n).credit k := by
  rw [sendFrame, setPort_port_same]
  refine ⟨rfl, rfl, fun k => ?_⟩
  have credit := SMap.get_upd 0 (s.port n).credit 0 k (· - 0)
  rw [Nat.sub_zero] at credit
  refine credit.trans ?_
  split
  next here => rw [here]
  next => rfl

/-! ### The obligation -/

/-- Settles O22: the cases of a frame that arrives (`exec_packetFrame_bad`, `exec_packetFrame_good`) and of a replay
(`State.replay_replays`, `State.replay_lost`); what waits and is sent then changes nothing of what a port has received
(`State.drain_unsent`). -/
theorem framesArriveInOrder : Obligations.FramesArriveInOrder := by
  unfold Obligations.FramesArriveInOrder
  intro s port n p again' here
  refine ⟨fun inactive framed f bad => ?counted, fun active => ⟨fun f => ⟨fun bad => ?bad, fun good out_of => ?out_of, fun good in_ => ?in_sequence⟩,
    fun expected => ?nack, fun none_kept => ?idle, fun some_kept few => ?replays, fun some_kept many => ?lost,
    fun room => ⟨_, exec_idleSend here active room, s.sendFrame_idle n⟩⟩⟩
  case counted =>
    refine ⟨_, exec_packetFrame_bad here framed bad, ?_⟩
    rw [if_neg inactive]
    exact ⟨.of_updPort rfl, by rw [State.updPort_port_same]; exact Port.counted_count p _⟩
  case bad =>
    refine ⟨_, exec_packetFrame_bad here (Port.framed_of_active active) bad, ?_⟩
    obtain ⟨mine, out⟩ := State.sendNack_port (s := s.updPort n fun p => p.count 0x108 1) (n := n)
    rw [State.updPort_port_same] at mine out
    rw [if_pos active]
    refine ⟨⟨?_, ?_, ?_, out⟩, ?_⟩
    · rw [mine]
    · rw [mine]; rfl
    · rw [mine]; rfl
    · rw [mine]; exact Port.counted_count p _
  case out_of =>
    refine ⟨_, exec_packetFrame_good here active good, ?_⟩
    obtain ⟨mine, out⟩ := State.sendNack_port (s := s) (n := n)
    rw [if_pos out_of]
    refine ⟨?_, ?_, ?_, out⟩ <;> rw [mine]
  case in_sequence =>
    refine ⟨_, exec_packetFrame_good here active good, ?_⟩
    rw [if_neg (not_not.2 in_)]
    obtain ⟨rxSeq, nacked, sent, queue, credit, rxHeld⟩ := Port.accepting_fields f p
    obtain ⟨drained_seq, drained_nacked, drained_held, drained⟩ := ((s.updPort n (Port.accepting f)).acknowledge n f.ack).drain_port n
    rw [State.acknowledge_port, State.updPort_port_same] at drained_seq drained_nacked drained_held drained
    refine ⟨drained_seq.trans rxSeq, drained_nacked.trans nacked, drained_held.trans rxHeld, fun empty => ?_⟩
    obtain ⟨mine, -⟩ := drained (queue.trans empty)
    rw [mine]
    refine ⟨congrArg (Sent.uncovered · f.ack) sent, fun k => ?_⟩
    show SMap.get 0 (p.accepting f).credit k = _
    rw [credit, SMap.get_upd]
    split
    next here => rw [here]
    next => exact (Nat.add_zero _).symm
  case nack =>
    intro rest empty some_left goes
    have acked := s.acknowledge_port n expected
    have sent : ((s.acknowledge n expected).port n).sent = rest := by rw [acked]; rfl
    have replays : ((s.acknowledge n expected).port n).replays = if rest.length < p.sent.length then 0 else p.replays := by rw [acked]; rfl
    have few : ((s.acknowledge n expected).port n).replays < 32 := by
      rw [replays]
      split
      · decide
      next still => exact goes.resolve_left still
    obtain ⟨kept, counted, waiting, out⟩ := State.replay_replays (by rwa [sent]) few
    have quiet : (((s.acknowledge n expected).replay n).port n).queue = [] := waiting.trans (by rw [acked]; exact empty)
    obtain ⟨-, -, -, drained⟩ := ((s.acknowledge n expected).replay n).drain_port n
    obtain ⟨mine, drained_out⟩ := drained quiet
    rw [sent, acked] at out
    rw [← drained_out] at out
    exact ⟨_, exec_nack here active expected, (congrArg Port.sent mine).trans (kept.trans sent), out,
      (congrArg Port.replays mine).trans (counted.trans (congrArg (· + 1) replays))⟩
  case idle => exact ⟨_, exec_replayTimeout here active, State.replay_none none_kept⟩
  case replays =>
    obtain ⟨sent, replays, -, out⟩ := State.replay_replays some_kept few
    exact ⟨_, exec_replayTimeout here active, replays, sent, out⟩
  case lost =>
    have lost : s.replay n = s.updPort n Port.lost := (State.replay_lost some_kept many).trans (State.linkLost_partnered (.inr active))
    have mine : ((s.replay n).port n) = p.lost := by rw [lost, State.updPort_port_same]
    obtain ⟨st, -⟩ := p.lost_st
    refine ⟨_, exec_replayTimeout here active, (congrArg Port.st mine).trans st, (congrArg Port.before mine).trans (Port.lost_before.trans active), ?_⟩
    exact Port.lost_counted.of_counts (congrArg Port.counts mine)

end Sys2Proof.Machine
end

section
/-! PROOF. What every request on a fabric port is checked for (R198, R281 to R285, R344). -/

namespace Sys2Proof.Machine

open Sys2Proof

section
variable {s : State} {port : BitVec 4} {p : Pkt}

/-- Every request of the list is one that does nothing more once it is served, and its packet carries the header it came with. -/
theorem requests_inbound {h : FabHdr} {data : List Byte} {body : CloseBody} {head : PutHead} {parity : Bool} {n : W64} {x : Instr × Pkt}
    (mem : x ∈ requests port h data body head parity n) : (∀ s, exec x.1 s = inbound port x.2 s) ∧ x.2.h = h := by
  have all : ∀ x ∈ requests port h data body head parity n, (∀ s, exec x.1 s = inbound port x.2 s) ∧ x.2.h = h := by
    simp only [requests, List.forall_mem_cons]
    refine ⟨?_, ?_, ?_, ?_, ?_, ?_, ?_, ?_, ?_, ?_, ?_, ?_, ?_, ?_, ?_, ?_, ?_, ?_, ?_, fun x none => absurd none List.not_mem_nil⟩ <;>
      exact ⟨fun s => rfl, rfl⟩
  exact all x mem

/-- R344: a device that is down is refused, and the refusal is counted. -/
theorem inbound_refuses_down (taken : s.takesIn port.toNat p.pool = true) (own : p.h.dstDev = s.fab.devId)
    (free : s.heldBack port.toNat = false) (order : s.inOrder p.h = true) (down : s.isDown p.h.srcDev = true) :
    inbound port p s =
      .next (((s.received port.toNat p).countSec 0x124 1).respond port.toNat p.op p.h { status := stDenied }).flush := by
  have reached : ¬ (!s.takesIn port.toNat p.pool || decide (p.h.dstDev ≠ s.fab.devId) || s.heldBack port.toNat || !s.inOrder p.h) = true := by
    simp [taken, own, free, order]
  have down' : (s.received port.toNat p).isDown p.h.srcDev = true := by
    rw [State.isDown, State.received_sec]; exact down
  refine (if_neg reached).trans ?_
  exact congrArg (fun t : State => (Host.Outcome.next t.flush : Host.Outcome State Fault Refusal)) (if_pos down')

/-- R282: a request that is not well formed is served with BAD_PARAM. -/
theorem State.serve_malformed {v : Via} {ra wa : Access} (bad : p.okRequest = false) (s : State) :
    s.serve v ra wa p = (.answer { status := stBadParam }, s) := by
  rw [State.serve, if_pos (by rw [bad]; rfl)]

end

/-- Settles O25: every request goes through `inbound`, which makes the same checks of each before it looks at what the request asks. -/
theorem requestsAreChecked : Obligations.RequestsAreChecked := by
  intro s port h data body head parity n x mem
  obtain ⟨arrives, header⟩ := requests_inbound mem
  refine ⟨fun waits => ?_, fun taken own free order down => ?_, fun reaches bad => ?_⟩
  · exact (arrives s).trans (inbound_waits _ (by rw [header]; exact waits))
  · rw [← header] at own order down
    exact (arrives s).trans (inbound_refuses_down taken own free order down)
  · exact (arrives s).trans (inbound_answers reaches (State.serve_malformed bad _))

end Sys2Proof.Machine
end

section
/-! PROOF. Responses, packets in transit, and requests that are sent again (R281, R284 to R286, R299, R323, R340). -/

namespace Sys2Proof.Machine

open Sys2Proof

theorem next_flush_congr {t u : State} (same : t = u) : (.next t.flush : Host.Outcome State Fault Refusal) = .next u.flush := by rw [same]

/-! ### Requests that are sent again (R299, R323, R340) -/

section
variable {why : Resend} {dst : DevId}

theorem State.releaseHeld_other {w : Waiting} (other : State.heldFor why dst w = false) (k : Nat) (ws : List Waiting) :
    State.releaseHeld why dst k (w :: ws) = w :: State.releaseHeld why dst k ws := by
  cases k <;> simp [State.releaseHeld, other]

/-- The request that as many held ones stand before as the number says is the one that is released. -/
theorem State.releaseHeld_at {w : Waiting} (held : State.heldFor why dst w = true) (b : List Waiting) : ∀ a : List Waiting,
    State.releaseHeld why dst (a.filter (State.heldFor why dst)).length (a ++ w :: b) = a ++ { w with hold := none } :: b
  | [] => by simp [State.releaseHeld, held]
  | v :: a => by
    have later := State.releaseHeld_at held b a
    by_cases before : State.heldFor why dst v = true
    · rw [List.filter_cons_of_pos before, List.length_cons, List.cons_append, State.releaseHeld, if_neg (by rw [before]; decide)]
      exact congrArg (v :: ·) later
    · rw [List.filter_cons_of_neg before, List.cons_append, State.releaseHeld_other (Bool.eq_false_of_not_eq_true before), later]
      rfl

theorem State.releaseHeld_beyond : ∀ {ws : List Waiting} {k : Nat}, (ws.filter (State.heldFor why dst)).length ≤ k →
    State.releaseHeld why dst k ws = ws
  | [], _, _ => by rw [State.releaseHeld]
  | w :: ws, k, few => by
    by_cases held : State.heldFor why dst w = true
    · rw [List.filter_cons_of_pos held, List.length_cons] at few
      obtain ⟨k, rfl⟩ : ∃ m, k = m + 1 := ⟨k - 1, by omega⟩
      rw [State.releaseHeld, if_neg (by rw [held]; decide)]
      exact congrArg (w :: ·) (State.releaseHeld_beyond (by omega))
    · rw [List.filter_cons_of_neg held] at few
      rw [State.releaseHeld_other (Bool.eq_false_of_not_eq_true held), State.releaseHeld_beyond few]

theorem State.resendHeld_at {s : State} {a b : List Waiting} {w : Waiting} (waits : s.fab.waiting = a ++ w :: b)
    (held : State.heldFor why dst w = true) : s.resendHeld why dst (a.filter (State.heldFor why dst)).length =
      let t : State := { s with fab := { s.fab with waiting := a ++ { w with hold := none } :: b } }
      if why = .busy then t.countCe 0x118 1 else t := by
  have there : (a.filter (State.heldFor why dst)).length < (s.fab.waiting.filter (State.heldFor why dst)).length := by
    rw [waits, List.filter_append, List.filter_cons_of_pos held, List.length_append, List.length_cons]
    omega
  rw [State.resendHeld, waits, State.releaseHeld_at held b a, ← waits]
  by_cases busy : why = .busy
  · rw [if_pos ⟨busy, there⟩]
    exact (if_pos busy).symm
  · rw [if_neg fun both => busy both.1]
    exact (if_neg busy).symm

theorem State.resendHeld_beyond {s : State} {k : Nat} (few : (s.fab.waiting.filter (State.heldFor why dst)).length ≤ k) :
    s.resendHeld why dst k = s := by
  rw [State.resendHeld, State.releaseHeld_beyond few, if_neg fun both => absurd both.2 (Nat.not_lt.2 few)]
  rfl

end

/-! ### The choice of a port (R285) -/

/-- Only the route table and, of the ports, their link state and their credits decide which port is chosen. -/
theorem State.freest_congr {s t : State} (credit : ∀ j, (t.port j).credit = (s.port j).credit) (pool : Nat) :
    ∀ ps, t.freest pool ps = s.freest pool ps
  | [] => rfl
  | p :: ps => by rw [State.freest, State.freest, State.freest_congr credit pool ps]; simp only [credit]

theorem State.choosePort_congr {s t : State} (routes : t.fab.routes = s.fab.routes) (live : ∀ j, (t.port j).live = (s.port j).live)
    (credit : ∀ j, (t.port j).credit = (s.port j).credit) (src dst : DevId) (cls : BitVec 3) (resp : Bool) :
    t.choosePort src dst cls resp = s.choosePort src dst cls resp := by
  have open_ : t.routePorts dst = s.routePorts dst := by
    rw [State.routePorts, State.routePorts, routes]; simp only [live]
  rw [State.choosePort, State.choosePort, open_, State.freest_congr credit]

theorem State.choosePort_counted (s : State) (n off k : Nat) (src dst : DevId) (cls : BitVec 3) (resp : Bool) :
    (s.updPort n fun p => p.count off k).choosePort src dst cls resp = s.choosePort src dst cls resp := by
  have kept (j : Nat) : ((s.updPort n fun p => p.count off k).port j).live = (s.port j).live ∧
      ((s.updPort n fun p => p.count off k).port j).credit = (s.port j).credit := by
    by_cases here : j = n
    · rw [here, updPort_port_same]; exact ⟨rfl, rfl⟩
    · rw [updPort_port_other _ _ here]; exact ⟨rfl, rfl⟩
  exact State.choosePort_congr (s := s) (t := s.updPort n fun p => p.count off k) rfl (fun j => (kept j).1) (fun j => (kept j).2) src dst cls resp

/-! ### Responses (R281, R299) -/

/-- Passing a packet on frees no tag. -/
theorem State.rxTake_tags (s : State) (n : Nat) (pool : BitVec 4) (j : Nat) : ((s.rxTake n pool).port j).tags = (s.port j).tags := by
  unfold State.rxTake
  split
  · rfl
  · by_cases here : j = n
    · rw [here, updPort_port_same]
    · rw [updPort_port_other _ _ here]

theorem State.rxRelease_tags (s : State) (n : Nat) (pool : BitVec 4) (j : Nat) : ((s.rxRelease n pool).port j).tags = (s.port j).tags := by
  unfold State.rxRelease
  split
  · rfl
  · next e _ =>
    have kept := congrArg Port.tags (State.giveBack_unsent (s.rxTake n pool) (some (n, pool, e.slots)) j)
    exact kept.trans (State.rxTake_tags s n pool j)

theorem State.dropTag_tags (s : State) (n t : Nat) : ((s.dropTag n t).port n).tags = SMap.set none (s.port n).tags t none := by
  rw [State.dropTag, State.updPort_port_same]

section
variable {s u : State} {port : BitVec 4} {op : Byte} {h : FabHdr} {data : List Byte}

/-- What a response leaves when it has been taken in, before the request it answers is looked up. -/
def State.responded (s : State) (n : Nat) (h : FabHdr) : State := (s.updPort n fun p => p.count 0x12C 1).rxRelease n (poolOf h.cls true)

theorem State.responded_tags (s : State) (n : Nat) (h : FabHdr) (j : Nat) : ((s.responded n h).port j).tags = (s.port j).tags := by
  rw [State.responded, State.rxRelease_tags]
  by_cases here : j = n
  · rw [here, updPort_port_same]; rfl
  · rw [updPort_port_other _ _ here]

theorem State.responded_sec (s : State) (n : Nat) (h : FabHdr) : (s.responded n h).sec = s.sec := by
  rw [State.responded, State.rxRelease_sec]; rfl

theorem exec_fabricResponse (taken : s.takesIn port.toNat (poolOf h.cls true) = true) (own : h.dstDev = s.fab.devId)
    (up : s.isDown h.srcDev = false) : exec (.fabricResponse port op h data) s =
      .next ((s.responded port.toNat h).answered (State.tagPort h.tag) (State.tagNum h.tag) h.status (marked h.poison data)).flush := by
  have up' : (s.responded port.toNat h).isDown h.srcDev = false := by rw [State.isDown, State.responded_sec]; exact up
  refine (if_neg (by simp [taken, own])).trans ?_
  exact (if_neg (by rw [Bool.not_eq_true]; exact up')).trans rfl

theorem State.answered_none {n t : Nat} {st : Status} {bs : List MB} (free : SMap.get none (s.port n).tags t = none) :
    s.answered n t st bs = s := by
  rw [State.answered, free]

theorem State.answered_busy {n t : Nat} {r : Req} {bs : List MB} (held : SMap.get none (s.port n).tags t = some r)
    (again : State.retried r.pkt.op = true) : s.answered n t stBusy bs =
      (s.dropTag n t).keep { pkt := r.pkt, who := r.who, went := true } (some .busy) := by
  rw [State.answered, held]
  exact if_pos ⟨rfl, again⟩

theorem State.answered_settled {n t : Nat} {r : Req} {st : Status} {bs : List MB} (held : SMap.get none (s.port n).tags t = some r)
    (once : st ≠ stBusy ∨ State.retried r.pkt.op = false) : s.answered n t st bs = (s.dropTag n t).settleFree r.who r.pkt st bs := by
  rw [State.answered, held]
  refine if_neg fun both => ?_
  obtain h | h := once
  · exact h both.1
  · rw [h] at both; exact absurd both.2 (by decide)

theorem State.settleFree_done {who : Issuer} {req : Pkt} {st : Status} {bs : List MB} (done : s.settle who req st bs = (none, u)) :
    s.settleFree who req st bs = u := by
  rw [State.settleFree, done]

theorem State.settleFree_again {who : Issuer} {req : Pkt} {st : Status} {bs : List MB} {why : Resend}
    (again : s.settle who req st bs = (some why, u)) : s.settleFree who req st bs = { u with fab := { u.fab with
      waiting := u.fab.waiting ++ [{ pkt := req, who := who, hold := some why, late := true, went := true }] } } := by
  rw [State.settleFree, again]

end

/-! ### Packets in transit (R194, R284 to R286) -/

section
variable {s : State} {port : BitVec 4} {op : Byte} {resp settled : Bool} {h : FabHdr} {data : List Byte}

/-- A packet as it goes on, with one hop less. -/
def Pkt.onward (op : Byte) (resp : Bool) (h : FabHdr) (data : List Byte) : Pkt :=
  { op := op, resp := resp, h := { h with hops := h.hops - 1 }, data := data }

/-- The state in which a packet in transit is counted, if it has not been before. -/
def State.transiting (s : State) (n once : Nat) : State := s.updPort n fun p => p.count 0x12C once

theorem State.choosePort_transiting (n once : Nat) (src dst : DevId) (cls : BitVec 3) :
    (s.transiting n once).choosePort src dst cls resp = s.choosePort src dst cls resp :=
  State.choosePort_counted s n 0x12C once src dst cls resp

/-- R285: a request that would overtake an earlier one on another port waits. -/
theorem transit_waits {m : Nat} (to_ : s.choosePort h.srcDev h.dstDev h.cls false = some m) (up : s.isDown h.srcDev = false)
    (hops : h.hops ≠ 0) (changes : s.changesPort h.srcDev h.dstDev h.cls m = true) :
    exec (.transit port op { resp := false, settled := false } h data) s = .next s := by
  refine if_pos ?_
  have left : decide (h.hops ≠ 0) = true := decide_eq_true hops
  simp only [to_, up, changes, left, Bool.not_false, Bool.and_true, Bool.or_true]

section
variable (taken : s.takesIn port.toNat (Pkt.onward op resp h data).pool = true) (other : h.dstDev ≠ s.fab.devId)
  (free : s.heldBack port.toNat = false)
include taken other free

theorem transit_unheld {turns : Bool} (straight : (turns && !s.isDown h.srcDev && decide (h.hops ≠ 0)) = false) :
    ¬ (!s.takesIn port.toNat (Pkt.onward op resp h data).pool || decide (h.dstDev = s.fab.devId) || s.heldBack port.toNat ||
      (turns && !s.isDown h.srcDev && decide (h.hops ≠ 0))) = true := by
  rw [straight, taken, free, decide_eq_false other]
  decide

variable {once : Nat} (first : once = if ((s.rxOldest port.toNat (Pkt.onward op resp h data).pool).map (·.again)).getD false then 0 else 1)
include first

/-- R344: a packet whose source is down ends here. -/
theorem transit_down (down : s.isDown h.srcDev = true) : exec (.transit port op { resp := resp, settled := settled } h data) s = .next
    (let d := ((s.transiting port.toNat once).countSec 0x124 1).rxRelease port.toNat (Pkt.onward op resp h data).pool
     if resp then d else d.respond port.toNat op h { status := stDenied }) := by
  subst first
  refine (if_neg (transit_unheld taken other free ?_)).trans (if_pos down)
  rw [down, Bool.not_true, Bool.and_false, Bool.false_and]

/-- R284, R285: so does one that has no hop left, or no route. -/
theorem transit_lost (up : s.isDown h.srcDev = false) (lost : h.hops = 0 ∨ s.choosePort h.srcDev h.dstDev h.cls resp = none) :
    exec (.transit port op { resp := resp, settled := settled } h data) s = .next
    (let d := ((s.transiting port.toNat once).countFab 0x020 1).rxRelease port.toNat (Pkt.onward op resp h data).pool
     if resp then d else d.respond port.toNat op h { status := stNotPresent }) := by
  subst first
  by_cases hops : h.hops = 0
  · refine (if_neg (transit_unheld taken other free ?_)).trans ((if_neg (by rw [up]; decide)).trans (if_pos hops))
    rw [decide_eq_false (not_not.2 hops), Bool.and_false]
  · have none_ := lost.resolve_left hops
    refine (if_neg (transit_unheld taken other free ?_)).trans ((if_neg (by rw [up]; decide)).trans ((if_neg hops).trans ?_))
    · simp only [none_, Bool.false_and]
    · rw [← State.transiting, State.choosePort_transiting, none_]
      rfl

section
variable {m : Nat} (to_ : s.choosePort h.srcDev h.dstDev h.cls resp = some m) (up : s.isDown h.srcDev = false) (hops : h.hops ≠ 0)
  (straight : resp = true ∨ settled = true ∨ s.changesPort h.srcDev h.dstDev h.cls m = false)
include to_ up hops straight

/-- R194: a fenced link on its way turns it back. -/
theorem transit_fenced {w : Turned} (turned : (s.transiting port.toNat once).turned (.port port.toNat) (.port m) = some w) :
    exec (.transit port op { resp := resp, settled := settled } h data) s = .next
    (let d := ((s.transiting port.toNat once).countTurn w).rxRelease port.toNat (Pkt.onward op resp h data).pool
     if resp then d else d.respond port.toNat op h { status := stFenced }) := by
  subst first
  refine (if_neg (transit_unheld taken other free ?_)).trans ((if_neg (by rw [up]; decide)).trans ((if_neg hops).trans ?_))
  · simp only [to_]
    obtain response | answered | same := straight
    · rw [response]; rfl
    · rw [answered]; simp
    · rw [same]; simp
  · rw [← State.transiting, State.choosePort_transiting, to_]
    unfold Pkt.onward at turned
    simp only [turned]
    rfl

/-- R284, R285: else it goes on, and its slots go back when it has been sent. -/
theorem transit_forwarded (turned : (s.transiting port.toNat once).turned (.port port.toNat) (.port m) = none) :
    exec (.transit port op { resp := resp, settled := settled } h data) s = .next
    (let s1 := s.transiting port.toNat once
     let p := Pkt.onward op resp h data
     let d := (s1.rxTake port.toNat p.pool).countFab 0x024 once
     (if resp then d else d.tookPort h.srcDev h.dstDev h.cls m).enqueue m
       { pool := p.pool, body := .fab p, ret := some (port.toNat, p.pool, ((s1.rxOldest port.toNat p.pool).map (·.slots)).getD 0) }) := by
  subst first
  refine (if_neg (transit_unheld taken other free ?_)).trans ((if_neg (by rw [up]; decide)).trans ((if_neg hops).trans ?_))
  · simp only [to_]
    obtain response | answered | same := straight
    · rw [response]; rfl
    · rw [answered]; simp
    · rw [same]; simp
  · rw [← State.transiting, State.choosePort_transiting, to_]
    unfold Pkt.onward at turned
    simp only [turned]
    rfl

end

end

end

/-! ### The obligation -/

/-- Settles O30: what a response does is settled by the request that its tag names, a packet in transit ends, waits or goes on as its source,
its hops, its route and the fences on its way are, and the request that is sent again is the one with as many held before it. -/
theorem responsesTransitAndResends : Obligations.ResponsesTransitAndResends := by
  intro s u port op h data n
  refine ⟨?responses, ?transit, ?resends⟩
  case responses =>
    intro tp tn bs s1 taken own up
    have tags : (s1.port tp).tags = (s.port tp).tags := State.responded_tags s n h tp
    have answered := exec_fabricResponse (op := op) (data := data) taken own up
    refine ⟨fun free => ?_, fun r held => ?_⟩
    · rw [← tags] at free
      exact answered.trans (next_flush_congr (State.answered_none free))
    · rw [← tags] at held
      intro waits
      refine ⟨?_, fun busy again => ?_, fun once done => ?_, fun why once again => ?_⟩
      · rw [State.dropTag_tags, SMap.get_set_same]
      · rw [busy] at answered
        exact answered.trans (next_flush_congr (State.answered_busy held again))
      · exact answered.trans (next_flush_congr ((State.answered_settled held once).trans (State.settleFree_done done)))
      · exact answered.trans (next_flush_congr ((State.answered_settled held once).trans (State.settleFree_again again)))
  case transit =>
    intro resp settled p once s1 to_ taken other free
    have route : to_ = s.choosePort h.srcDev h.dstDev h.cls resp := State.choosePort_transiting n once _ _ _
    refine ⟨fun up hops m found request early changes => ?_, fun up hops m found straight => ⟨fun w turned => ?_, fun turned => ?_⟩,
      fun down => ?_, fun up lost => ?_⟩
    · subst request early
      exact transit_waits (route.symm.trans found) up hops changes
    · exact ⟨_, transit_fenced taken other free rfl (route.symm.trans found) up hops straight turned, rfl⟩
    · exact ⟨_, transit_forwarded taken other free rfl (route.symm.trans found) up hops straight turned, rfl⟩
    · exact ⟨_, transit_down taken other free rfl down, rfl⟩
    · exact ⟨_, transit_lost taken other free rfl up (by rw [← route]; exact lost), rfl⟩
  case resends =>
    intro dst k why held resend
    have sent : exec resend s = .next (s.resendHeld why dst k.toNat).flush := by cases why <;> rfl
    refine ⟨fun a b w waits why_ dst_ count => ?_, fun few => ?_⟩
    · have this : State.heldFor why dst w = true := decide_eq_true ⟨why_, dst_⟩
      intro t
      rw [sent, ← count]
      exact next_flush_congr (State.resendHeld_at waits this)
    · exact sent.trans (next_flush_congr (State.resendHeld_beyond few))

end Sys2Proof.Machine
end

section
/-! PROOF. The register commands of ports, the fabric block and alerts (R266, R275, R279, R284, R393, R404, R428). -/

namespace Sys2Proof.Machine

open Sys2Proof

/-! ### A register that refuses its write (R369) -/

/-- A burst of one word that its register refuses answers its status, and that no word was written. -/
theorem regWriteBody_refused {s u : State} {who a : Nat} {v : W32} {st : Status} (aligned : a % 4 = 0) (small : a < 2 ^ 32)
    (check : s.regCheck who a (some v) = stOk) (refused : s.regWrite who a v = (st, u)) (bad : st ≠ stOk) :
    regWriteBody who [w32 a, 1, v] s = say st [0] u := by
  have ha : (w32 a).toNat = a := Nat.mod_eq_of_lt small
  have first : word [w32 a, 1, v] 0 = w32 a := rfl
  have count : bits (word [w32 a, 1, v] 1) 8 0 = 1 := by show bits (1 : W32) 8 0 = 1; decide
  have burst : State.burst [w32 a, 1, v] = [a] := by rw [State.burst, count, first, ha]; rfl
  have good : burstBad [w32 a, 1, v] = false := by rw [burstBad, count, first, ha, aligned]; rfl
  have len : ¬(false = true ∨ [w32 a, 1, v].length ≠ 2 + 1) := by simp
  have zip : [a].zip ([w32 a, 1, v].drop 2) = [(a, v)] := rfl
  have checks : s.burstCheck who ([(a, v)].map fun e => (e.1, some e.2)) = stOk := by
    simp only [List.map_cons, List.map_nil, State.burstCheck, check, ne_eq, not_true_eq_false, if_false]
  have write : s.writeBurst who [(a, v)] 0 = (0, st, u) := by simp only [State.writeBurst, refused, if_neg bad]
  unfold regWriteBody
  rw [good, count, if_neg len, burst, zip]
  dsimp only
  rw [checks, if_neg (not_not.2 rfl), write]
  exact if_neg bad

/-- A command that is the write of one register answers what the register does. -/
theorem writeOne_refused {s u : State} {h : CpHdr} {c : Instr} {a : Nat} {v : W32} {st : Status} (cmd : exec c s = writeOne h a v s)
    (admitted : Admitted s h cpRegWrite [w32 a, 1, v]) (aligned : a % 4 = 0) (small : a < 2 ^ 32)
    (check : (s.taken h).regCheck h.port.toNat a (some v) = stOk) (refused : (s.taken h).regWrite h.port.toNat a v = (st, u))
    (bad : st ≠ stOk) : Replies c s h cpRegWrite st [0] u :=
  cmd.trans (request_replies admitted (regWriteBody_refused aligned small check refused bad))

theorem writeOne_written {s u : State} {h : CpHdr} {c : Instr} {a : Nat} {v : W32} (cmd : exec c s = writeOne h a v s)
    (admitted : Admitted s h cpRegWrite [w32 a, 1, v]) (aligned : a % 4 = 0) (small : a < 2 ^ 32)
    (written : (s.taken h).regWrite h.port.toNat a v = (stOk, u)) : Replies c s h cpRegWrite stOk [] u :=
  cmd.trans (request_replies admitted (regWriteBody_one aligned small written))

/-! ### PORT_CTRL (R275, R277, R279, R404) -/

theorem regBlock_port {n off : Nat} (hn : n < 18) (hoff : off < 0x800) : regBlock (0x30000 + 0x800 * n + off) = some (.port n off) := by
  unfold regBlock
  iterate 10 rw [if_neg (by omega)]
  rw [if_pos (by omega)]
  congr 2 <;> omega

namespace State

section
variable {s : State} {n : Nat} {b : Bool} {epoch : BitVec 16}

/-- A port's block can be reached: the port is there, and a fabric port's half is not power-gated (R29, R397). -/
def PortOpen (s : State) (n : Nat) : Prop := s.hasPort n = true ∧ (n < 16 → s.pwr.gated.getLsbD (n / 8) = false)

theorem lt_of_hasPort (there : s.hasPort n = true) : n < 18 := by
  by_contra absent
  rw [hasPort, if_neg (by omega), decide_eq_false absent, Bool.false_and] at there
  exact Bool.false_ne_true there

theorem regCheck_port {who off : Nat} {v : W32} (there : s.hasPort n = true) (hn : n < 18) (hoff : off < 0x800) :
    s.regCheck who (0x30000 + 0x800 * n + off) (some v) = stOk := by
  simp only [regCheck, regBlock_port hn hoff, there, if_true]

theorem regWrite_port {who off : Nat} {v : W32} (opened : s.PortOpen n) (hn : n < 18) (hoff : off < 0x800) :
    s.regWrite who (0x30000 + 0x800 * n + off) v = s.portRegWrite n off v := by
  obtain ⟨there, ungated⟩ := opened
  have awake : s.regAsleep (.port n off) = false := by
    by_cases fabric : n < 16
    · exact (congrArg _ (ungated fabric)).trans (Bool.and_false _)
    · exact (congrArg (· && _) (decide_eq_false fabric)).trans (Bool.false_and _)
  simp only [regWrite, regCheck_port there hn hoff, regBlock_port hn hoff, awake, ne_eq, not_true_eq_false, if_false, Bool.false_eq_true]

/-- A PORT_CTRL word. -/
def portWord (en adm re : Bool) (epoch : BitVec 16) : W32 := w32 (flag en 0 + flag adm 1 + flag re 2 + epoch.toNat * 2 ^ 16)

/-- The fields of a PORT_CTRL word. -/
theorem bits_portWord (en adm re : Bool) (epoch : BitVec 16) : bit (portWord en adm re epoch) 0 = en ∧ bit (portWord en adm re epoch) 1 = adm ∧
    bit (portWord en adm re epoch) 2 = re ∧ (portWord en adm re epoch).extractLsb' 16 16 = epoch := by
  obtain ⟨c, commands, e, a, r⟩ : ∃ c : BitVec 3, flag en 0 + flag adm 1 + flag re 2 = c.toNat ∧ c.getLsbD 0 = en ∧ c.getLsbD 1 = adm ∧
      c.getLsbD 2 = re := ⟨BitVec.ofNat 3 (flag en 0 + flag adm 1 + flag re 2), by cases en <;> cases adm <;> cases re <;> decide⟩
  obtain ⟨enable, admits, retrain, above⟩ := bits_command c epoch
  rw [portWord, commands]
  refine ⟨enable.trans e, admits.trans a, retrain.trans r, BitVec.eq_of_toNat_eq ?_⟩
  rw [BitVec.extractLsb'_toNat, Nat.shiftRight_eq_div_pow]
  exact above

/-- ENABLE as a PORT_CTRL word leaves it. -/
def withEnable (s : State) (n : Nat) (b : Bool) : State := if b ≠ (s.port n).enable then s.setEnable n b else s

/-- R404: a module in RETURNED does not enable a fabric port. -/
theorem setPortCtrl_allowed {v : W32} (allowed : n < 16 → bit v 0 = true → s.returned = false) :
    ¬(s.returned && decide (n < 16) && bit v 0) = true := by
  intro refused
  simp only [Bool.and_eq_true, decide_eq_true_eq] at refused
  obtain ⟨⟨returned, fabric⟩, on⟩ := refused
  rw [allowed fabric on] at returned
  exact Bool.false_ne_true returned

variable {v : W32} (allowed : n < 16 → bit v 0 = true → s.returned = false)
include allowed

/-- A word that admits nothing: ENABLE, then RETRAIN. -/
theorem setPortCtrl_plain (plain : bit v 1 = false ∨ 16 ≤ n) : s.setPortCtrl n v =
    (stOk, if bit v 2 then (s.withEnable n (bit v 0)).linkLost n else s.withEnable n (bit v 0)) := by
  have none_ : (bit v 1 && decide (n < 16)) = false := by
    obtain h | h := plain
    · rw [h, Bool.false_and]
    · rw [decide_eq_false (Nat.not_lt.2 h), Bool.and_false]
  rw [setPortCtrl, if_neg (setPortCtrl_allowed allowed)]
  dsimp only
  rw [none_]
  rfl

/-- ADMIT of a fabric port is refused as R275 says, and then nothing changes. -/
theorem setPortCtrl_refused (fabric : n < 16) (admits : bit v 1 = true) (bad : s.admitStatus n (v.extractLsb' 16 16) ≠ stOk) :
    s.setPortCtrl n v = (s.admitStatus n (v.extractLsb' 16 16), s) := by
  rw [setPortCtrl, if_neg (setPortCtrl_allowed allowed)]
  dsimp only
  rw [admits, decide_eq_true fabric]
  exact if_pos bad

/-- ADMIT makes the port ACTIVE; ENABLE follows. -/
theorem setPortCtrl_admitted (fabric : n < 16) (admits : bit v 1 = true) (stays : bit v 2 = false)
    (fits : s.admitStatus n (v.extractLsb' 16 16) = stOk) : s.setPortCtrl n v = (stOk, (s.enterActive n).withEnable n (bit v 0)) := by
  rw [setPortCtrl, if_neg (setPortCtrl_allowed allowed)]
  dsimp only
  rw [admits, decide_eq_true fabric, stays]
  exact if_neg (not_not.2 fits)

end

section
variable {s : State} {n : Nat} {epoch : BitVec 16}

/-! ### The rows of ADMIT (R275) -/

theorem admitStatus_unheld (st : (s.port n).st ≠ psHeld) : s.admitStatus n epoch = stBusy := if_pos st

theorem admitStatus_other (st : (s.port n).st = psHeld) (other : (s.port n).epoch ≠ epoch) : s.admitStatus n epoch = stVersionMismatch :=
  (if_neg (not_not.2 st)).trans (if_pos other)

theorem admitStatus_unnumbered (st : (s.port n).st = psHeld) (same : (s.port n).epoch = epoch) (bare : s.fab.devId = 0xFFFF) :
    s.admitStatus n epoch = stBadParam :=
  (if_neg (not_not.2 st)).trans ((if_neg (not_not.2 same)).trans (if_pos bare))

theorem admitStatus_ok (st : (s.port n).st = psHeld) (same : (s.port n).epoch = epoch) (numbered : s.fab.devId ≠ 0xFFFF) :
    s.admitStatus n epoch = stOk :=
  (if_neg (not_not.2 st)).trans ((if_neg (not_not.2 same)).trans (if_neg numbered))

end

/-! ### The shared block and the power block (R266, R284, R428) -/

theorem regWrite_laserCtrl (s : State) (who : Nat) (v : W32) : s.regWrite who 0x3900C v = (stOk, s.setLaserCtrl v) := rfl

theorem regWrite_routeLoad (s : State) (who : Nat) : s.regWrite who 0x39018 1 = s.routeLoad := by
  have block : regBlock 0x39018 = some (.fab 0x018) := rfl
  have awake : s.regAsleep (.fab 0x018) = false := rfl
  have check : s.regCheck who 0x39018 (some 1) = stOk := by rw [regCheck, block]
  rw [regWrite, check, if_neg (not_not.2 rfl), block]
  dsimp only
  rw [awake, if_neg (by decide), fabRegWrite, if_neg (by decide), if_neg (by decide), if_neg (by decide), if_neg (by decide),
    if_neg (by decide), if_pos rfl, if_pos (by decide)]

theorem regWrite_alertStatus (s : State) (who : Nat) (v : W32) : s.regWrite who 0x2814 v = (stOk, s.clearAlert v) := rfl

/-- A load that reaches no whole table changes nothing but what it reports. -/
def routeRefusedAt (s : State) (i : Nat) : State := { s with fab := { s.fab with routeRefused := true, routeBad := BitVec.ofNat 16 i } }

section
variable {s u : State} {ws : List QW}

/-- Where the route table stands in memory. -/
def routeBase (s : State) : Nat := bits s.fab.routeHi 7 0 * 2 ^ 32 + s.fab.routeLo.toNat

theorem routeLoad_still (still : s.pwr.st = 3) : s.routeLoad = (stBusy, s) := by
  rw [routeLoad]
  exact if_pos still

theorem routeLoad_outside (awake : s.pwr.st ≠ 3) (outside : s.capacity < s.routeBase + 2 ^ 18) :
    s.routeLoad = (stBadParam, s.routeRefusedAt 0) := by
  rw [routeLoad]
  exact (if_neg awake).trans (if_pos outside)

theorem routeLoad_read (awake : s.pwr.st ≠ 3) (inside : s.routeBase + 2 ^ 18 ≤ s.capacity) (read : s.routeWords s.routeBase = (ws, u)) :
    s.routeLoad = match u.routeScan 0 ws.reverse [] with
      | .error i => (u.routeRefusedAt i).refuse stBadParam
      | .ok t => ({ u with fab := { u.fab with routes := t, routeRefused := false, routeGen := u.fab.routeGen + 1 } } : State).wrote := by
  rw [routeLoad]
  rw [routeBase] at inside read
  refine (if_neg awake).trans ((if_neg (Nat.not_lt.2 inside)).trans ?_)
  rw [read]
  dsimp only
  cases u.routeScan 0 ws.reverse [] <;> rfl

end

end State

/-! ### Each command (R266, R275, R277, R279, R284) -/

section
variable {s : State} {h : CpHdr} {port : BitVec 5} {b : Bool} {epoch : BitVec 16}

theorem portCtrlAt_aligned (port : BitVec 5) : portCtrlAt port % 4 = 0 := by dsimp only [portCtrlAt]; omega

theorem portCtrlAt_small (port : BitVec 5) : portCtrlAt port < 2 ^ 32 := by have hp := port.isLt; dsimp only [portCtrlAt]; omega

/-- A port's ENABLE and RETRAIN bits take effect where its block can be reached; RETURNED lets no fabric port be enabled. -/
theorem State.regWrite_portCtrl {re : Bool} {who : Nat} (opened : s.PortOpen port.toNat)
    (allowed : port.toNat < 16 → b = true → s.returned = false) (hn : port.toNat < 18) :
    s.regWrite who (portCtrlAt port) (State.portWord b false re 0) =
      (stOk, if re then (s.withEnable port.toNat b).linkLost port.toNat else s.withEnable port.toNat b) := by
  obtain ⟨enable, admits, retrain, -⟩ := State.bits_portWord b false re 0
  refine (State.regWrite_port (off := 0) opened hn (by omega)).trans ((State.setPortCtrl_plain ?_ (.inl admits)).trans ?_)
  · rw [enable]; exact allowed
  · rw [enable, retrain]

end

/-! ### The obligation -/

/-- Settles O41: each command is the write of one register, and a port's register takes its bits in the order of R275 and log entry 37. -/
theorem fabricRegistersTakeEffect : Obligations.FabricRegistersTakeEffect := by
  refine ⟨?registers, ?admission⟩
  case registers =>
    intro s u1 h v port b ws tbl bad n pa t base awake on
    refine ⟨?rows, ?still, ?load, ?absent⟩
    case rows =>
      simp only [List.forall_mem_cons, List.not_mem_nil, false_imp_iff, implies_true, and_true]
      refine ⟨?laser, ?enable, ?retrain, ?alert⟩
      case laser =>
        exact .of_regWrite (a := 0x3900C) rfl rfl rfl (by dsimp only) (by dsimp only; omega) fun _ => State.regWrite_laserCtrl _ _ v
      case alert =>
        exact .of_regWrite (a := 0x2814) rfl rfl rfl (by dsimp only) (by dsimp only; omega) fun _ => State.regWrite_alertStatus _ _ v
      case enable =>
        intro admitted ⟨there, reached⟩
        have hn := State.lt_of_hasPort there
        have written := State.regWrite_portCtrl (re := false) (who := h.port.toNat) ⟨there, fun fabric => (reached fabric).1⟩
          (fun fabric => (reached fabric).2) hn
        exact writeOne_written (a := portCtrlAt port) (if_neg (Nat.not_le.2 hn)) admitted (portCtrlAt_aligned port) (portCtrlAt_small port) written
      case retrain =>
        intro admitted ⟨there, reached⟩
        have hn := State.lt_of_hasPort there
        have written := State.regWrite_portCtrl (re := true) (who := h.port.toNat) ⟨there, fun fabric => (reached fabric).1⟩
          (fun fabric => (reached fabric).2) hn
        exact writeOne_written (a := portCtrlAt port) (if_neg (Nat.not_le.2 hn)) admitted (portCtrlAt_aligned port) (portCtrlAt_small port) written
    case still =>
      exact fun admitted still => writeOne_refused rfl admitted rfl (by decide) rfl
        ((State.regWrite_routeLoad _ _).trans (State.routeLoad_still still)) (by decide)
    case load =>
      intro admitted up
      refine ⟨fun inside read => ⟨fun scan => ?_, fun scan => ?_⟩, fun outside => ?_⟩
      · refine writeOne_written rfl admitted rfl (by decide) ((State.regWrite_routeLoad _ _).trans ?_)
        rw [State.routeLoad_read up inside read, scan]; rfl
      · refine writeOne_refused rfl admitted rfl (by decide) rfl ((State.regWrite_routeLoad _ _).trans ?_) (by decide)
        rw [State.routeLoad_read up inside read, scan]; rfl
      · exact writeOne_refused rfl admitted rfl (by decide) rfl
          ((State.regWrite_routeLoad _ _).trans (State.routeLoad_outside up outside)) (by decide)
    case absent =>
      exact fun none_ => ⟨if_pos none_, if_pos none_⟩
  case admission =>
    intro s h port b epoch n v t p awake on answers
    refine ⟨fun absent => if_pos absent, fun admitted ⟨there, reached⟩ => ?_⟩
    have hn := State.lt_of_hasPort there
    have opened : t.PortOpen n := ⟨there, fun fabric => (reached fabric).1⟩
    have word : v = State.portWord b true false epoch := rfl
    obtain ⟨enable, admits, retrain, named⟩ := State.bits_portWord b true false epoch
    rw [← word] at enable admits retrain named
    have cmd : exec (.admitPort h port b epoch) s = writeOne h (portCtrlAt port) v s := if_neg (Nat.not_le.2 hn)
    have allowed : n < 16 → bit v 0 = true → t.returned = false := fun fabric on => (reached fabric).2 (enable.symm.trans on)
    have write : t.regWrite h.port.toNat (portCtrlAt port) v = t.setPortCtrl n v := State.regWrite_port (off := 0) opened hn (by omega)
    have refused (fabric : n < 16) {st : Status} (row : t.admitStatus n epoch = st) (bad : st ≠ stOk) : answers st := by
      have kept := State.setPortCtrl_refused allowed fabric admits (by rw [named, row]; exact bad)
      rw [named, row] at kept
      have reply := writeOne_refused cmd admitted (portCtrlAt_aligned port) (portCtrlAt_small port)
        (State.regCheck_port (off := 0) there hn (by omega)) (write.trans kept) bad
      dsimp only [answers]
      rwa [if_neg bad, if_neg bad]
    refine ⟨fun fabric => ⟨fun st => ?_, fun st other => ?_, fun st same bare => ?_, fun st same numbered => ?_⟩, fun control => ?_⟩
    · exact refused fabric (State.admitStatus_unheld st) (by decide)
    · exact refused fabric (State.admitStatus_other st other) (by decide)
    · exact refused fabric (State.admitStatus_unnumbered st same bare) (by decide)
    · have made := State.setPortCtrl_admitted allowed fabric admits retrain (by rw [named]; exact State.admitStatus_ok st same numbered)
      rw [enable] at made
      exact writeOne_written cmd admitted (portCtrlAt_aligned port) (portCtrlAt_small port) (write.trans made)
    · have left := State.setPortCtrl_plain allowed (.inr control)
      rw [enable, retrain] at left
      exact writeOne_written cmd admitted (portCtrlAt_aligned port) (portCtrlAt_small port) (write.trans left)

end Sys2Proof.Machine
end

section
/-! PROOF. The identity exchange and RESUME (R274 to R277, R288). -/

namespace Sys2Proof.Machine

open Sys2Proof

namespace State

/-! ### Events of a port (R280) -/

section
variable (s : State) (n ev reason : Nat)

theorem portEvent_unsent (j : Nat) : ((s.portEvent n ev reason).port j).unsent = (s.port j).unsent := notify_unsent s _ _ j

/-- A port that is not live takes no notification (R363). -/
theorem portEvent_unowed {j : Nat} (still : (s.port j).live = false) : ((s.portEvent n ev reason).port j).unowed = (s.port j).unowed :=
  notify_unowed s _ _ still

@[simp] theorem portEvent_noteSeq : (s.portEvent n ev reason).ctl.noteSeq = s.ctl.noteSeq + 1 := notify_noteSeq s _ _

theorem portEvent_out {o : List Out} {s : State} (before : o <:+ s.out) : o <:+ (s.portEvent n ev reason).out := notify_out s _ _ before

end

/-! ### HELLO and IDENT (R274) -/

@[simp] theorem sendIdent_port (s : State) (n j : Nat) : (s.sendIdent n).port j = s.port j := rfl

@[simp] theorem sendIdent_fresh (s : State) (n : Nat) : (s.sendIdent n).fresh = s.fresh + 1 := rfl

/-- What answers a HELLO, of the port as the HELLO leaves it. -/
theorem sendIdent_greeted_out (s : State) (n : Nat) (nonce : BitVec 256) :
    ((s.updPort n fun p => { p with helloIn := true, partnerNonce := some nonce }).sendIdent n).out = .link n (.ident s.flash.serial s.fab.devId
      (BitVec.ofNat 8 (portCode n)) ((s.port n).nonce.getD 0) nonce s.sh.count (if decide (s.flash.fused = 3) then 0 else Config.identityKey)
      (if decide (s.flash.fused = 3) then 0 else Config.signature s.fresh)) :: s.out := by
  unfold sendIdent
  rw [updPort_port_same]
  rfl

/-! ### A verified identity (R275, R276, R288) -/

section
variable {s : State} {n : Nat} {f : IdentFrame}

/-- The port with what its partner has presented. -/
def presented (s : State) (n : Nat) (f : IdentFrame) : State :=
  (s.updPort n fun p => { p with identIn := true }).updPort n fun p =>
    { p with dev := f.devId, pport := f.port, serial := f.serial, keyHash := f.keyHash }

theorem presented_port : (s.presented n f).port n =
    { s.port n with identIn := true, dev := f.devId, pport := f.port, serial := f.serial, keyHash := f.keyHash } := by
  rw [presented, updPort_port_same, updPort_port_same]

theorem identOk_fabric (st : (s.port n).st = psIdent) (fabric : n < 16) : s.identOk n f = (s.presented n f).enterHeld n := by
  rw [identOk]
  exact (if_neg (by rw [st]; decide)).trans (if_pos fabric)

theorem identOk_control (st : (s.port n).st = psIdent) (control : 16 ≤ n) :
    s.identOk n f = ((s.presented n f).updPort n fun p => { p with missed := 0 }).enterActive n := by
  rw [identOk]
  exact (if_neg (by rw [st]; decide)).trans (if_neg (Nat.not_lt.2 control))

theorem identOk_resumes (st : (s.port n).st = psResume) (up : (s.port n).down = false) (serial : (s.port n).serial = f.serial)
    (key : (s.port n).keyHash = f.keyHash) :
    s.identOk n f = (s.updPort n fun p => { p with identIn := true, phase := 5 }).link n (.resume (s.port n).rxSeq) := by
  rw [identOk]
  refine (if_pos st).trans ((if_pos ⟨by rw [up]; rfl, serial, key⟩).trans ?_)
  rw [updPort_updPort]

/-- A port without what sending changes, as it becomes HELD. -/
theorem enterHeld_unsent : ((s.enterHeld n).port n).unsent =
    ({ s.port n with st := psHeld, down := false, missed := 0, epoch := (s.port n).epoch + 1 } : Port).unsent := by
  rw [enterHeld, portEvent_unsent, updPort_port_same]

theorem enterHeld_noteSeq : (s.enterHeld n).ctl.noteSeq = s.ctl.noteSeq + 1 := portEvent_noteSeq _ _ _ _

@[simp] theorem ownerBack_port (j : Nat) : (s.ownerBack n).port j = s.port j := by
  unfold ownerBack; split <;> rfl

@[simp] theorem ownerBack_out : (s.ownerBack n).out = s.out := by
  unfold ownerBack; split <;> rfl

@[simp] theorem ownerBack_noteSeq : (s.ownerBack n).ctl.noteSeq = s.ctl.noteSeq := by
  unfold ownerBack; split <;> rfl

@[simp] theorem stepActive_port (j : Nat) : (s.stepActive n).port j = s.port j := by
  unfold stepActive; split <;> rfl

/-- A port without what sending changes, as it becomes ACTIVE. -/
theorem enterActive_unsent : ((s.enterActive n).port n).unsent =
    ({ s.port n with st := psActive, down := false, rxSeq := 0, nacked := false, replays := 0 } : Port).unsent := by
  rw [enterActive, pumpNotes_unsent, stepActive_port, ownerBack_port, updPort_port_same]
  rfl

/-- A port that is FAILED, counted. -/
def refusesPartner (s : State) (n : Nat) : State := s.updPort n fun p => { p.count 0x130 1 with st := psFailed, phase := 1 }

/-! ### RESUME (R277) -/

theorem resendFrames_noteSeq : (s.resendFrames n).ctl.noteSeq = s.ctl.noteSeq :=
  foldl_keeps (f := fun (t : State) x => t.putFrame n (s.port n).rxSeq x) (P := fun t : State => t.ctl.noteSeq = s.ctl.noteSeq)
    (fun _ _ kept => kept) (s.port n).sent rfl

theorem drain_noteSeq : (s.drain n).ctl.noteSeq = s.ctl.noteSeq := drainFrom_noteSeq n _ _ _

/-- A port back in the state in which it lost its link. -/
def resumed (s : State) (n : Nat) (expected : W32) : State :=
  (s.acknowledge n expected).updPort n fun p => { p.count 0x11C 1 with st := p.before, phase := 1, replays := 0 }

/-- The port's state is the one before the loss, and it keeps what the partner has not had. -/
theorem resumed_port (expected : W32) : ((s.resumed n expected).port n).st = (s.port n).before ∧
    ((s.resumed n expected).port n).down = (s.port n).down ∧ ((s.resumed n expected).port n).rxSeq = (s.port n).rxSeq ∧
    ((s.resumed n expected).port n).sent = Sent.uncovered (s.port n).sent expected := by
  rw [resumed, updPort_port_same, acknowledge_port]
  exact ⟨rfl, rfl, rfl, rfl⟩

/-- What follows: it sends again what it keeps, and all that waits goes on. -/
def goesOn (s : State) (n : Nat) : State := ((((s.resendFrames n).ownerBack n).portEvent n evResumed 0).drain n).pumpNotes

theorem goesOn_unsent : ((s.goesOn n).port n).unsent = (s.port n).unsent := by
  rw [goesOn, pumpNotes_unsent, drain_unsent, portEvent_unsent, ownerBack_port, resendFrames_port]
  rfl

theorem goesOn_noteSeq : (s.goesOn n).ctl.noteSeq = s.ctl.noteSeq + 1 := by
  rw [goesOn, pumpNotes_noteSeq, drain_noteSeq, portEvent_noteSeq, ownerBack_noteSeq, resendFrames_noteSeq]

theorem goesOn_out {x : Sent} (kept : x ∈ (s.port n).sent) : Sent.again n (s.port n).rxSeq x ∈ (s.goesOn n).out := by
  have suffix : (s.resendFrames n).out <:+ (s.goesOn n).out :=
    pumpNotes_out _ (drain_out _ _ (portEvent_out _ _ _ (by rw [ownerBack_out])))
  exact suffix.subset (resendFrames_out s n kept)

end

end State

/-! ### The commands (R274 to R277) -/

section
variable {s : State} {port : BitVec 5}

section
variable (exchanges : s.inIdent port.toNat = true)
include exchanges

theorem exec_ident_verified {f : IdentFrame} (signed : f.sigOk = true) (echo : (s.port port.toNat).nonce = some f.nonceEcho)
    (greeted : (s.port port.toNat).helloIn = true) : exec (.ident port f) s = .next (s.identOk port.toNat f).flush := by
  refine (if_neg (by rw [exchanges]; decide)).trans ((if_pos ⟨signed, echo⟩).trans ?_)
  exact congrArg (fun t : State => (.next (t.identOk port.toNat f).flush : Host.Outcome State Fault Refusal)) (if_pos greeted)

/-- R275: an identity that is not verified is counted, and leaves the port FAILED. -/
theorem exec_ident_failed {f : IdentFrame} (bad : f.sigOk = false ∨ (s.port port.toNat).nonce ≠ some f.nonceEcho)
    (st : (s.port port.toNat).st = psIdent) : exec (.ident port f) s =
      .next ((s.refusesPartner port.toNat).portEvent port.toNat evIdentFailed 0).flush := by
  refine (if_neg (by rw [exchanges]; decide)).trans ((if_neg ?_).trans ?_)
  · rintro ⟨signed, echo⟩
    obtain unsigned | other := bad
    · exact Bool.false_ne_true (unsigned.symm.trans signed)
    · exact other echo
  · refine congrArg (fun t : State => (.next ((t.refusesPartner port.toNat).portEvent port.toNat evIdentFailed 0).flush :
      Host.Outcome State Fault Refusal)) (if_neg ?_)
    rw [st]
    exact fun resume => absurd resume.1 (by decide)

end

theorem exec_resume {expected : W32} (here : s.hasPort port.toNat = true) (st : (s.port port.toNat).st = psResume)
    (phase : (s.port port.toNat).phase = 5) :
    exec (.resume port expected) s = .next ((s.resumed port.toNat expected).goesOn port.toNat).flush :=
  if_neg (by rw [here, st, phase]; decide)

end

/-- A port of which sending has changed no more than it may has kept its state, its partner and its epoch. -/
theorem Port.of_unsent {p q : Port} (same : p.unsent = q.unsent) : p.st = q.st ∧ p.down = q.down ∧ p.epoch = q.epoch ∧ p.rxSeq = q.rxSeq ∧
    p.serial = q.serial ∧ p.keyHash = q.keyHash ∧ p.dev = q.dev ∧ p.pport = q.pport := by
  have field {α : Type} (g : Port → α) : g p.unsent = g q.unsent := congrArg g same
  exact ⟨field Port.st, field Port.down, field Port.epoch, field Port.rxSeq, field Port.serial, field Port.keyHash, field Port.dev,
    field Port.pport⟩

/-! ### The obligation -/

/-- Settles O21: HELLO and IDENT go out by one function, a verified identity enters HELD or ACTIVE, and RESUME sends again what the partner has
not had; the notifications and frames that go out with it change nothing of the port that the statement names (`Port.unsent`). -/
theorem identityIsExchangedAndResumeReplays : Obligations.IdentityIsExchangedAndResumeReplays := by
  refine ⟨?exchange, ?resume⟩
  case exchange =>
    intro s port n p zeroed ident exchanges
    refine ⟨fun nonce => ?hello, fun ungreeted => ?helloRepeat, fun greeted open_ => ?identRepeat, fun f signed echo greeted => ?verified,
      fun f bad st => ?failed⟩
    case hello =>
      exact ⟨_, congrArg Host.Outcome.next (if_pos exchanges), State.sendIdent_greeted_out s n nonce, State.sendIdent_fresh _ n,
        (State.sendIdent_port _ n n).trans (State.updPort_port_same s n _),
        fun j other => (State.sendIdent_port _ n j).trans (State.updPort_port_other s _ other)⟩
    case helloRepeat =>
      exact ⟨_, congrArg Host.Outcome.next (if_pos ⟨exchanges, by rw [ungreeted]; rfl⟩), rfl⟩
    case identRepeat =>
      exact ⟨_, congrArg Host.Outcome.next (if_pos ⟨exchanges, greeted, by rw [open_]; rfl⟩), rfl⟩
    case verified =>
      have sent := exec_ident_verified exchanges signed echo greeted
      intro known
      refine ⟨fun st fabric => ?_, fun st control => ?_, fun st up serial key => ?_⟩
      · obtain ⟨held, -, epoch, -, serial, key, dev, pport⟩ := Port.of_unsent (State.enterHeld_unsent (s := s.presented n f) (n := n))
        rw [State.presented_port] at held epoch serial key dev pport
        rw [State.identOk_fabric st fabric] at sent
        exact ⟨_, sent, ⟨serial, key, dev, pport⟩, held, epoch, State.enterHeld_noteSeq⟩
      · obtain ⟨active, -, -, seq, serial, key, dev, pport⟩ := Port.of_unsent
          (State.enterActive_unsent (s := (s.presented n f).updPort n fun p => { p with missed := 0 }) (n := n))
        rw [State.updPort_port_same, State.presented_port] at active seq serial key dev pport
        rw [State.identOk_control st control] at sent
        exact ⟨_, sent, ⟨serial, key, dev, pport⟩, active, seq⟩
      · rw [State.identOk_resumes st up serial key] at sent
        exact ⟨_, sent, (State.link_port _ _ _ _).trans (State.updPort_port_same s n _), rfl⟩
    case failed =>
      have mine : (s.refusesPartner n).port n = { p.count 0x130 1 with st := psFailed, phase := 1 } := State.updPort_port_same s n _
      have kept := State.portEvent_unowed (s.refusesPartner n) n evIdentFailed 0 (j := n) (by rw [mine]; rfl)
      rw [mine] at kept
      have failed : (((s.refusesPartner n).portEvent n evIdentFailed 0).port n).unowed.st = psFailed := by rw [kept]; rfl
      have counted : (((s.refusesPartner n).portEvent n evIdentFailed 0).port n).unowed.counts = (p.count 0x130 1).counts := by rw [kept]; rfl
      exact ⟨_, exec_ident_failed exchanges bad st, failed, (Port.counted_count p 0x130).of_counts counted, State.portEvent_noteSeq _ _ _ _⟩
  case resume =>
    intro s port expected n p again here st phase
    obtain ⟨state, down, -⟩ := Port.of_unsent (State.goesOn_unsent (s := s.resumed n expected) (n := n))
    obtain ⟨before, stays, seq, left⟩ := State.resumed_port (s := s) (n := n) expected
    refine ⟨_, exec_resume here st phase, state.trans before, down.trans stays, fun x kept uncovered => ?_, State.goesOn_noteSeq⟩
    have out := State.goesOn_out (s := s.resumed n expected) (n := n) (x := x)
    rw [seq, left] at out
    exact out (List.mem_filter.2 ⟨kept, by rw [uncovered]; rfl⟩)

end Sys2Proof.Machine
end

section
/-! PROOF. What the end of a partner leaves of the ports: the link of each, and the lasers (R265, R277, R278). The requests that it ends reach
their issuers, which write memory, send, and notify; none of this touches a link. First, an access to memory. -/

namespace Sys2Proof.Machine

open Sys2Proof

/-- A port without what passes over it: what sending changes, the packets that it has received and not passed on, and the requests that await
their answers. -/
def Port.link (p : Port) : Port := { p.unsent with rxHeld := [], tags := [] }

namespace State

/-- The link of each port, and the lasers that light them. -/
def links (s : State) : (Nat → Port) × SMap Laser := (fun n => (s.port n).link, s.fab.lasers)

theorem links_of_unsent {s t : State} (ports : ∀ j, (t.port j).unsent = (s.port j).unsent) (lasers : t.fab.lasers = s.fab.lasers) :
    t.links = s.links := by
  have link (j : Nat) : (t.port j).link = (s.port j).link := by rw [Port.link, ports j, Port.link]
  rw [links, lasers, funext link]; rfl

theorem port_of_links {s t : State} (same : t.links = s.links) (n : Nat) : (t.port n).link = (s.port n).link :=
  congrFun (congrArg Prod.fst same) n

theorem lasers_of_links {s t : State} (same : t.links = s.links) : t.fab.lasers = s.fab.lasers := congrArg Prod.snd same

/-! ### Notifications, records and counts -/

theorem links_updMc (s : State) (k : Nat) (f : Mc → Mc) : (s.updMc k f).links = s.links := rfl

theorem links_updCore (s : State) (k : Nat) (f : Core → Core) : (s.updCore k f).links = s.links := rfl

/-- A notification goes out over a port, of which it changes nothing but what sending changes. -/
@[simp] theorem links_notify (s : State) (code : BitVec 16) (ws : List W32) : (s.notify code ws).links = s.links :=
  links_of_unsent (notify_unsent s code ws) (congrArg (·.fab.lasers) (besidePorts_notify s code ws))

theorem links_lmAdd (s : State) (type : Nat) (loc : BitVec 48) : (s.lmAdd type loc).links = s.links := by
  have beside := congrArg links (lmAdd_beside s type loc)
  exact beside

@[simp] theorem links_countTurn (s : State) (w : Turned) : (s.countTurn w).links = s.links := by
  cases w <;> rfl

@[simp] theorem links_mismatch (s : State) (pa : PA) (g : Option (BitVec 2)) : (s.mismatch pa g).links = s.links := by
  rcases s.mismatch_eq pa g with h | ⟨loc, ws, h⟩
  · rw [h]; rfl
  · rw [h, links_notify, links_updMc, links_lmAdd]; rfl

/-! ### Reads (R216, R228) -/

@[simp] theorem links_fillSector (s : State) (p : Place) (noalloc : Bool) (bad : BitVec 16) :
    (s.fillSector p noalloc bad).links = s.links := by
  unfold fillSector
  dsimp only
  split
  · rfl
  · split <;> rfl

@[simp] theorem links_cellRead (s : State) (pa : Nat) : (s.cellRead pa).2.links = s.links := by
  unfold cellRead
  dsimp only
  split
  · rfl
  · split
    · rw [links_mismatch]; rfl
    · rfl

@[simp] theorem links_noteShut (s : State) (stack : Nat) (st : Status) : (s.noteShut stack st).links = s.links := by
  unfold noteShut
  split <;> rfl

@[simp] theorem links_mcRead (s : State) (pa : Nat) (noalloc : Bool) : (s.mcRead pa noalloc).2.links = s.links := by
  unfold mcRead
  dsimp only
  split
  · exact links_noteShut _ _ _
  · split
    · rfl
    · split
      · rfl
      · exact (links_fillSector _ _ _ _).trans (links_cellRead s pa)

/-! ### Translation (R232 to R235) -/

theorem links_readPte (s : State) (h table idx : Nat) : (s.readPte h table idx).2.links = s.links := by
  have read := links_mcRead s (table + 8 * idx) false
  rw [readPte]
  split
  · rfl
  · split
    · exact links_countTurn _ _
    · split <;> rename_i heq <;> rw [heq] at read
      · exact read
      · dsimp only
        split <;> exact read

/-- A walk keeps what its reads keep, whatever they answer. `id` has the goal stated for any function that reads entries, so that the kernel
never computes `readPte` while it compares forms of the walk. -/
theorem links_walk (s : State) (h : Nat) (va : VA) : (s.walk h va).2.links = s.links := by
  have kept := links_readPte
  rw [walk]
  generalize readPte = read at kept ⊢
  revert read
  refine id fun read kept => ?_
  have keeps {u v : State} {table i : Nat} {r : Except Byte W64} (e : read u h table i = (r, v)) : v.links = u.links := by
    rw [← kept u h table i, e]
  extract_lets s' root i1 i2 wc fromL3 fromL2
  have l3 (u : State) (table : Nat) : (fromL3 u table).2.links = u.links := by
    simp only [fromL3]
    split <;> rename_i e <;> rw [← keeps e]
    split
    · rfl
    · split <;> rfl
  have l2 (u : State) (table : Nat) : (fromL2 u table).2.links = u.links := by
    simp only [fromL2]
    split <;> rename_i e <;> rw [← keeps e]
    split
    · rfl
    · split
      · split <;> rfl
      · split <;> rename_i leaf <;> exact (congrArg (·.2.links) leaf).symm.trans (l3 _ _)
  split
  · rfl
  · split
    · exact l3 _ _
    · split
      · exact l2 _ _
      · split <;> rename_i e <;> refine Eq.trans ?_ ((keeps e).trans rfl)
        · rfl
        · split
          · rfl
          · split <;> rename_i leaf <;> exact (congrArg (·.2.links) leaf).symm.trans (l2 _ _)

/-- A translation keeps what its walk keeps, whatever leaf that finds; `id` is there for the kernel, as above. -/
theorem links_translate (s : State) (who : Requester) (va : VA) (a : Access) : (s.translate who va a).2.links = s.links := by
  have kept := links_walk
  rw [translate]
  generalize walk = walks at kept ⊢
  revert walks
  refine id fun walks kept => ?_
  dsimp only
  split
  · split <;> rfl
  · split <;> rename_i e <;> refine Eq.trans ?_ ((congrArg (·.2.links) e).symm.trans (kept _ _ _))
    · rfl
    · split <;> rfl

/-! ### Ranges of bytes (R26) -/

theorem links_resolve (s : State) (v : Via) (a : Nat) (acc : Access) : (s.resolve v a acc).2.links = s.links := by
  cases v with
  | va who => exact links_translate _ _ _ _
  | pa port =>
    rw [resolve]
    split <;> rfl
  | walked h =>
    have kept := links_walk s h (BitVec.ofNat 48 a)
    rw [resolve]
    split <;> rename_i e <;> rw [e] at kept
    · exact kept
    · split <;> exact kept

theorem links_readParts (v : Via) (acc : Access) : ∀ (l : List (Nat × Nat × Nat)) (s : State) (bs : List MB) (st : Status),
    (s.readParts v acc l bs st).2.2.links = s.links
  | [], _, _, _ => rfl
  | (a, o, n) :: rest, s, bs, st => by
    have kept := links_resolve s v a acc
    rw [readParts]
    split <;> rename_i e <;> rw [e] at kept
    · exact (links_readParts v acc rest _ _ _).trans kept
    · split
      · exact ((links_readParts v acc rest _ _ _).trans (links_countTurn _ _)).trans kept
      · rename_i p noalloc u _ _
        have read := links_mcRead u p noalloc
        split <;> rename_i e <;> rw [e] at read
        · exact (links_readParts v acc rest _ _ _).trans (read.trans kept)
        · exact (links_readParts v acc rest _ _ _).trans (read.trans kept)

theorem links_readMem (s : State) (v : Via) (acc : Access) (a n : Nat) : (s.readMem v acc a n).2.2.links = s.links :=
  links_readParts _ _ _ _ _ _

/-! ### Writes (R219, R221, R231) -/

@[simp] theorem links_noteShutWrite (s : State) (stack pa : Nat) (st : Status) : (s.noteShutWrite stack pa st).links = s.links := by
  rw [noteShutWrite]
  split
  · rw [links_notify, links_noteShut]
  · exact links_noteShut _ _ _

@[simp] theorem links_dropWrite (s : State) (pa : Nat) : (s.dropWrite pa).links = s.links := by
  rw [dropWrite]
  split
  · rfl
  · rw [links_notify]; rfl

@[simp] theorem links_noteWrite (s : State) (p : Place) (noalloc : Bool) (bad : BitVec 16) (read : Bool) :
    (s.noteWrite p noalloc bad read).links = s.links := by
  rw [noteWrite]
  split
  · rfl
  · split <;> rfl

theorem links_mergeWrite (s : State) (pa : Nat) (noalloc : Bool) (mask : BitVec 16) (data : List QW) :
    (s.mergeWrite pa noalloc mask data).links = s.links := by
  rw [mergeWrite]
  split
  · exact links_noteWrite _ _ _ _ _
  · have read : (if decide (mask = 0xFFFF) then (false, s) else s.cellRead pa).2.links = s.links := by
      split
      · rfl
      · exact links_cellRead s pa
    exact (links_noteWrite _ _ _ _ _).trans read

theorem links_updCsus {α : Type} (k : α → Nat) (f : α → Csu → Csu) (l : List α) (s : State) :
    (l.foldl (fun s i => s.updCsu (k i) (f i)) s).links = s.links :=
  foldl_keeps (f := fun (s : State) i => s.updCsu (k i) (f i)) (P := fun u : State => u.links = s.links) (fun _ _ h => h) l rfl

@[simp] theorem links_writeInvals (s : State) (line : BitVec 32) (mask : BitVec 64) (wid : Nat) :
    (s.writeInvals line mask wid).links = s.links := by
  rw [writeInvals]
  split
  · exact links_updCsus id (fun _ => (·.passWrite line)) _ s
  · rfl

theorem links_landInvals (s : State) (line : BitVec 32) : (s.landInvals line).links = s.links :=
  links_updCsus (fun i : Inval => i.csu.toNat) (fun i c => (c.dropLine line (if i.evict then 0x1C else 0x20)).passWrite line) _ _

theorem links_dirWrite (s : State) (stack line : Nat) (paLine : BitVec 32) (wid : Nat) :
    (s.dirWrite stack line paLine wid).links = s.links := by
  have landed : (if wid = 0 ∧ s.net.invals ≠ [] then s.landInvals paLine else s).links = s.links := by
    split
    · exact links_landInvals s paLine
    · rfl
  rw [dirWrite]
  split
  · exact landed
  · exact (links_writeInvals _ _ _ _).trans landed

theorem links_mcWrite (s : State) (pa : Nat) (noalloc : Bool) (mask : BitVec 16) (data : List QW) (wid : Nat) :
    (s.mcWrite pa noalloc mask data wid).2.links = s.links := by
  rw [mcWrite]
  split
  · exact links_noteShutWrite _ _ _ _
  · split
    · rfl
    · split
      · exact links_dropWrite s pa
      · exact (links_dirWrite _ _ _ _ _).trans (links_mergeWrite _ _ _ _ _)

theorem links_writeParts (v : Via) (acc : Access) (wid : Nat) : ∀ (l : List (Nat × Nat × Nat)) (s : State) (bs : List MB) (st : Status),
    (s.writeParts v acc wid l bs st).2.links = s.links
  | [], _, _, _ => rfl
  | (a, o, n) :: rest, s, bs, st => by
    have kept := links_resolve s v a acc
    rw [writeParts]
    split <;> rename_i e <;> rw [e] at kept
    · exact (links_writeParts v acc wid rest _ _ _).trans kept
    · split
      · exact ((links_writeParts v acc wid rest _ _ _).trans (links_countTurn _ _)).trans kept
      · exact (links_writeParts v acc wid rest _ _ _).trans ((links_mcWrite _ _ _ _ _ _).trans kept)

theorem links_writeMem (s : State) (v : Via) (acc : Access) (a : Nat) (bs : List MB) : (s.writeMem v acc a bs).2.links = s.links :=
  links_writeParts _ _ _ _ _ _ _

end State

end Sys2Proof.Machine
end

section
/-! PROOF. What the answers to requests, and the end of a partner, leave of the ports (R138, R178, R277, R294, R306, R340, R345). -/

namespace Sys2Proof.Machine

open Sys2Proof

/-- What a port loses with its partner. -/
def Port.partnerless (p : Port) : Port :=
  { p.emptied with down := true, queue := [], sent := [], credit := [], owed := [], replays := 0, nacked := false }

namespace State

/-! ### Packets that go out (R281, R285) -/

theorem links_enqueue (s : State) (n : Nat) (q : QItem) : (s.enqueue n q).links = s.links :=
  links_of_unsent (enqueue_unsent s n q) (congrArg (·.fab.lasers) (besidePorts_enqueue s n q))

theorem links_giveBack (s : State) (r : Option (Nat × BitVec 4 × Nat)) : (s.giveBack r).links = s.links :=
  links_of_unsent (giveBack_unsent s r) (congrArg (·.fab.lasers) (besidePorts_giveBack s r))

theorem links_pumpNotes (s : State) : s.pumpNotes.links = s.links :=
  links_of_unsent (pumpNotes_unsent s) (congrArg (·.fab.lasers) (besidePorts_pumpNotes s))

theorem links_respond (s : State) (n : Nat) (op : Byte) (h : FabHdr) (a : Answer) : (s.respond n op h a).links = s.links := by
  rw [respond]
  split
  · exact links_enqueue _ _ _
  · split
    · exact links_enqueue _ _ _
    · rfl

theorem links_reply (s : State) (port : BitVec 1) (opcode tag : BitVec 16) (st : Status) (words : List W32) :
    (s.reply port opcode tag st words).links = s.links := by
  rw [reply]
  dsimp only
  split
  · exact links_enqueue _ _ _
  · rfl

/-- A change of a port that leaves its link leaves all links. -/
theorem links_updPort {s : State} {n : Nat} {f : Port → Port} (kept : (f (s.port n)).link = (s.port n).link) : (s.updPort n f).links = s.links := by
  have link (j : Nat) : ((s.updPort n f).port j).link = (s.port j).link := by
    by_cases here : j = n
    · rw [here, updPort_port_same, kept]
    · rw [updPort_port_other _ _ here]
  rw [links, funext link]; rfl

/-! ### Changes beside the ports -/

theorem links_updCe (s : State) (h : Nat) (f : Ce → Ce) : (s.updCe h f).links = s.links := rfl

theorem links_updRing (s : State) (h k : Nat) (f : MvRing → MvRing) : (s.updRing h k f).links = s.links := rfl

theorem links_updRun (s : State) (h k : Nat) (f : MvRun → MvRun) : (s.updRun h k f).links = s.links := rfl

theorem links_updList (s : State) (h k : Nat) (f : RList → RList) : (s.updList h k f).links = s.links := rfl

theorem links_updDrun (s : State) (h k id : Nat) (f : DRun → DRun) : (s.updDrun h k id f).links = s.links := rfl

theorem links_updCg (s : State) (g : Nat) (f : Cg → Cg) : (s.updCg g f).links = s.links := rfl

theorem links_checkGroup (s : State) (g : Nat) : (s.checkGroup g).links = s.links := rfl

theorem links_updSecAux (s : State) (i : Nat) (f : SecAux → SecAux) : (s.updSecAux i f).links = s.links := rfl

theorem links_want (s : State) (p : Pkt) (who : Issuer) : (s.want p who).links = s.links := rfl

theorem links_countCe (s : State) (off n : Nat) : (s.countCe off n).links = s.links := rfl

theorem links_countSec (s : State) (off n : Nat) : (s.countSec off n).links = s.links := rfl

theorem links_noteMove (s : State) (h k n : Nat) (st : Status) : (s.noteMove h k n st).links = s.links := rfl

theorem links_noteDesc (s : State) (h k id n : Nat) (st : Status) : (s.noteDesc h k id n st).links = s.links := rfl

theorem links_poisonAt (s : State) (h a n : Nat) : (s.poisonAt h a n).links = s.links := links_writeMem _ _ _ _ _

/-! ### Moves (R176 to R178) -/

theorem links_ceTokens (s : State) (h : Nat) (core : CoreId) (tc : BitVec 3) (n : BitVec 16) : (s.ceTokens h core tc n).2.links = s.links := by
  rw [ceTokens]
  split
  · rfl
  · split
    · exact links_countTurn _ _
    · rfl

theorem links_notifyEnd (s : State) (h : Nat) (f : NotifyF) (st : Status) : (s.notifyEnd h f st).2.links = s.links := by
  rw [notifyEnd]
  split
  · rfl
  · split
    · exact links_notify _ _ _
    · split
      · rfl
      · exact links_ceTokens s h f.core f.tc f.n

theorem links_finishMove (s : State) (h k : Nat) : (s.finishMove h k).links = s.links := by
  rw [finishMove]
  split
  · rfl
  · next r _ =>
    have told := links_notifyEnd s h (mvFields r.desc).note r.status
    dsimp only
    rw [links_updRing, links_writeMem]
    refine Eq.trans ?_ told
    split
    · exact links_updCe _ _ _
    · rfl

theorem links_endMove (s : State) (h k : Nat) : (s.endMove h k).links = s.links := by
  rw [endMove]
  split
  · split
    · exact links_finishMove s h k
    · rfl
  · rfl

theorem links_settleMove (s : State) (h k o : Nat) (req : Pkt) (st : Status) (data : List MB) :
    (s.settleMove h k o req st data).links = s.links := by
  rw [settleMove]
  split
  · rfl
  · next r _ =>
    have written : (if (mvFields r.desc).op = 2 then
        (if st = stOk then s.writeMem (viaCe h) .w ((mvFields r.desc).local_ + o) data
         else (st, s.poisonAt h ((mvFields r.desc).local_ + o) req.h.len.toNat))
      else (st, s)).2.links = s.links := by
      split
      · split
        · exact links_writeMem _ _ _ _ _
        · exact links_poisonAt _ _ _ _
      · rfl
    dsimp only
    rw [links_endMove, links_updRun, links_noteMove, written]

/-! ### Reduction descriptors (R294, R305 to R311, R323 to R325) -/

theorem links_sendVoid (s : State) (g : Option (BitVec 3)) (req : Pkt) : (s.sendVoid g req).links = s.links := by
  cases g <;> rfl

theorem links_widenAll (s : State) (h k id : Nat) (f : DFields) (bs : List MB) : (s.widenAll h k id f bs).links = s.links := by
  rw [widenAll]
  refine foldl_keeps (P := fun t : State => t.links = s.links) (fun t e kept => ?_) _ rfl
  extract_lets set
  split
  next st u found =>
    have written : (t.writeMem _ _ _ _).2.links = u.links := congrArg (·.2.links) found
    rw [links_countCe, links_noteDesc, ← written, links_writeMem, kept]

theorem links_finishDesc (s : State) (h k id : Nat) : (s.finishDesc h k id).links = s.links := by
  rw [finishDesc]
  split
  · rfl
  · next r _ =>
    extract_lets f s1 st s2 s3
    have widened : s1.links = s.links := by
      simp only [s1]
      split
      · exact links_widenAll _ _ _ _ _ _
      · rfl
    have poisoned : s2.links = s1.links := by
      simp only [s2]
      split
      · rw [links_countCe, poisonGather, links_poisonAt]
      · rfl
    have grouped : s3.links = s2.links := by
      simp only [s3]
      split
      · rw [links_checkGroup, links_updCg]
      · rfl
    dsimp only
    rw [links_updList, links_writeMem, links_notifyEnd, grouped, poisoned, widened]

theorem links_endDesc (s : State) (h k id : Nat) : (s.endDesc h k id).links = s.links := by
  rw [endDesc]
  split
  · split
    · exact links_finishDesc s h k id
    · rfl
  · rfl

theorem links_versionCheck (s : State) (h : Nat) (f : DFields) (v : W32) : (s.versionCheck h f v).2.links = s.links := by
  rw [versionCheck]
  split
  · rfl
  · exact foldl_keeps (P := fun t : Bool × State => t.2.links = s.links) (fun t _ kept => (links_readMem t.2 _ _ _ _).trans kept) _ rfl

theorem links_settleDesc (s : State) (h k id o : Nat) (req : Pkt) (st : Status) (data : List MB) :
    (s.settleDesc h k id o req st data).2.links = s.links := by
  rw [settleDesc]
  split
  · rfl
  · next r _ =>
    extract_lets f settled
    have ends (t : State) (st : Status) (kept : t.links = s.links) : (settled t st).2.links = s.links := by
      simp only [settled]
      rw [links_endDesc, links_updDrun, links_noteDesc, kept]
    split
    · refine ends _ _ ?_
      split
      · exact links_sendVoid _ _ _
      · rfl
    · refine ends _ _ ?_
      split
      · exact links_updCg _ _ _
      · rfl
    · split
      · exact ends _ _ rfl
      · have checked := links_versionCheck s h f (bitsOf 32 (data.take 4))
        split <;> rename_i e <;> rw [e] at checked
        · rw [links_countCe, checked]
        · exact ends _ _ ((links_updDrun _ _ _ _ _).trans checked)
        · exact ends _ _ checked
    · exact ends _ _ rfl

theorem links_settleRetract (s : State) (g : Nat) (req : Pkt) (st : Status) : (s.settleRetract g req st).links = s.links := by
  rw [settleRetract]
  rw [links_checkGroup, links_updCg]
  split
  · exact links_sendVoid _ _ _
  · rfl

/-! ### Events and commands of a core (R102, R125, R138, R157) -/

theorem links_failSlot (s : State) (site : Site) (opcode : Byte) (i : FaultInfo) : (s.failSlot site opcode i).links = s.links := by
  unfold failSlot coreFault
  dsimp only
  split
  · rfl
  · rw [links_notify]
    split <;> rfl

theorem links_boundary (s : State) (site : Site) : (s.boundary site).links = s.links := by
  unfold boundary
  dsimp only
  split
  · rfl
  · split
    · rfl
    · split
      · rfl
      · split
        · rw [links_failSlot]; rfl
        · rfl

theorem links_raiseAt (s : State) (h ev n : Nat) : (s.raiseAt h ev n).links = s.links := by
  rw [raiseAt]
  split
  · exact links_updCe _ _ _
  · rfl

theorem links_secEntry (s : State) (i : Nat) : (s.secEntry i).2.links = s.links := by
  have read := links_readMem s (viaCe 0) .r (s.secBase + 64 * i) 64
  rw [secEntry]
  split
  next bs st u found =>
    rw [found] at read
    exact read

theorem links_setSecEntry (s : State) (i : Nat) (e : BitVec 512) : (s.setSecEntry i e).links = s.links := links_writeMem _ _ _ _ _

theorem links_dirtyAt (s : State) (ev i : Nat) : (s.dirtyAt ev i).links = s.links := by
  have read := links_secEntry s i
  rw [dirtyAt]
  split
  next e u found =>
    rw [found] at read
    dsimp only
    split
    · rw [links_countSec, links_updSecAux, links_setSecEntry, read]
    · exact read

theorem links_layerEvent (s : State) (h ev : Nat) : (s.layerEvent h ev).links = s.links := by
  rw [layerEvent]
  refine foldl_keeps (P := fun t : State => t.links = s.links) (fun t i kept => (links_dirtyAt t ev i).trans kept) _ ?_
  refine foldl_keeps (P := fun t : State => t.links = s.links) (fun t j kept => ?_) _ (links_raiseAt s h ev 1)
  dsimp only
  split
  · exact kept
  · exact kept

theorem links_released (s : State) (site : Site) : (s.released site).links = s.links := by
  unfold released
  dsimp only
  split
  · rfl
  · split
    · exact links_boundary _ _
    · split
      · rw [links_boundary]
        split
        · rw [links_layerEvent, links_updCore]
        · rfl
      · split
        · rw [links_boundary, links_updCore]
        · rfl

theorem links_complete (s : State) (x : Ctx) (f : Option FaultInfo) : (s.complete x f).links = s.links := by
  cases f with
  | none => exact (links_released _ _).trans (links_updCore _ _ _)
  | some i => exact (links_failSlot _ _ _ _).trans ((links_updCore _ _ _).trans (links_updCore _ _ _))

theorem links_settleRun (s : State) (x : Ctx) : (s.settleRun x).links = s.links := by
  rw [settleRun]
  split
  · rfl
  · exact links_complete _ _ _

theorem links_settleRacc (s : State) (site : Site) (req : Pkt) (st : Status) : (s.settleRacc site req st).links = s.links := by
  rw [settleRacc]
  dsimp only
  split
  · split
    · exact links_countTurn _ _
    · rfl
  · split
    · rw [links_settleRun]; rfl
    · rfl

/-! ### Securing (R338 to R345) -/

theorem links_secEvent (s : State) (sub entry : Nat) (dev : DevId) : (s.secEvent sub entry dev).links = s.links := links_notify _ _ _

theorem links_entryAt (s : State) (i : Nat) : (s.entryAt i).2.links = s.links := by
  rw [entryAt]
  split
  · exact links_secEntry s i
  · rfl

theorem links_copyMem (s : State) (src dst n : Nat) : (s.copyMem src dst n).2.links = s.links := by
  have read := links_readMem s (viaCe 0) .r src n
  rw [copyMem]
  split
  next bs st u found =>
    rw [found] at read
    exact (links_writeMem u (viaCe 0) .w dst bs).trans read

theorem links_abandonEntry (s : State) (i : Nat) : (s.abandonEntry i).links = s.links := by
  rw [abandonEntry]
  split
  · have read := links_secEntry s i
    split
    next e u found =>
      rw [found] at read
      dsimp only
      rw [links_secEvent, links_countSec, links_setSecEntry, links_updSecAux, read]
  · rfl

theorem links_sendSeal (s : State) (i : Nat) (f : SecFields) : (s.sendSeal i f).links = s.links := links_want _ _ _

theorem links_sendData (s : State) (parity : Bool) (dev : DevId) (cls : BitVec 3) (addr : Nat) (p : PutHead) (who : Issuer) (bs : List MB) :
    (s.sendData parity dev cls addr p who bs).links = s.links := by
  rw [sendData]
  exact foldl_keeps (P := fun t : State => t.links = s.links) (fun t e kept => (links_want t _ _).trans kept) _ rfl

theorem links_settleData (s : State) (i : Nat) (req : Pkt) (st : Status) : (s.settleData i req st).2.links = s.links := by
  rw [settleData]
  split
  · rfl
  · have read := links_entryAt s i
    split
    next e u found =>
      rw [found] at read
      extract_lets f less last
      have ends (t : State) (kept : t.links = s.links) : (last t).links = s.links := by
        simp only [last]
        split
        · exact (links_sendSeal _ _ _).trans kept
        · exact kept
      split
      · exact ends _ read
      · split
        · exact ends _ read
        · split
          · exact read
          · exact (links_abandonEntry _ _).trans read

theorem links_settleSeal (s : State) (i : Nat) (req : Pkt) (st : Status) : (s.settleSeal i req st).links = s.links := by
  rw [settleSeal]
  split
  · rfl
  · split
    · exact links_abandonEntry _ _
    · have read := links_entryAt s i
      split
      next e u found =>
        rw [found] at read
        dsimp only
        rw [links_updSecAux, links_setSecEntry]
        split
        · exact read
        · rw [links_copyMem, read]

theorem links_sendRebuild (s : State) (i : Nat) (r : RebRun) : (s.sendRebuild i r).2.links = s.links := by
  have entry := links_entryAt s i
  rw [sendRebuild]
  split
  next e u found =>
    rw [found] at entry
    dsimp only
    split
    · exact entry
    · next src parity _ =>
      have read := links_readMem u (viaCe 0) .r src (secFields e).len
      split
      · exact read.trans entry
      · dsimp only
        rw [links_sendData, links_updSecAux, read, entry]

theorem links_settleRebData (s : State) (i : Nat) (st : Status) : (s.settleRebData i st).links = s.links := by
  rw [settleRebData]
  split
  · rfl
  · have entry := links_entryAt s i
    split
    next e u found =>
      rw [found] at entry
      extract_lets f r v
      have noted : v.links = s.links := (links_updSecAux _ _ _).trans entry
      split
      · exact noted
      · exact (links_want _ _ _).trans noted

/-! ### Replies of requests that wait (R357, R359) -/

theorem links_replyTo (s : State) (r : Inflight) (st : Status) (words : List W32) : (s.replyTo r st words).links = s.links := by
  rw [replyTo, links_reply]; rfl

theorem links_freeReplies : ∀ (fuel : Nat) (s : State), (freeReplies fuel s).links = s.links
  | 0, _ => rfl
  | fuel + 1, s => by
    rw [freeReplies]
    split
    · rfl
    · split
      · rw [links_freeReplies fuel, links_replyTo]
      · rfl

theorem links_endRequest (s : State) (r : Inflight) (st : Status) (words : List W32) : (s.endRequest r st words).links = s.links := by
  rw [endRequest]
  split
  · rfl
  · rw [links_freeReplies, links_replyTo]

theorem links_endRebuild (s : State) (i : Nat) (st : Status) : (s.endRebuild i st).links = s.links := by
  rw [endRebuild]
  split
  · rw [links_endRequest, links_updSecAux]
  · rfl

theorem links_wakeRebuild (s : State) (i : Nat) : (s.wakeRebuild i).links = s.links := by
  rw [wakeRebuild]
  split
  · rfl
  · next r _ =>
    have entry := links_entryAt s i
    split
    next e u found =>
      rw [found] at entry
      split
      · have sent := links_sendRebuild u i r
        split
        next st v found =>
          rw [found] at sent
          split
          · exact sent.trans entry
          · rw [links_endRebuild, sent, entry]
      · exact entry

/-! ### Every issuer -/

theorem links_settle (s : State) (who : Issuer) (req : Pkt) (st : Status) (data : List MB) : (s.settle who req st data).2.links = s.links := by
  cases who with
  | racc site => exact links_settleRacc _ _ _ _
  | move h k o => exact links_settleMove _ _ _ _ _ _ _
  | desc h k id o => exact links_settleDesc _ _ _ _ _ _ _ _
  | retract g => exact links_settleRetract _ _ _ _
  | void g =>
    have told : (if st = stOk then s else s.secEvent 1 0 req.h.dstDev).links = s.links := by
      split
      · rfl
      · exact links_secEvent _ _ _ _
    cases g with
    | none => exact told
    | some g => exact ((links_checkGroup _ _).trans (links_updCg _ _ _)).trans told
  | up =>
    rw [settle]
    dsimp only
    split
    · exact links_secEvent _ _ _ _
    · rfl
  | down => rfl
  | secData i => exact links_settleData _ _ _ _
  | secSeal i => exact (links_wakeRebuild _ _).trans (links_settleSeal _ _ _ _)
  | rebData i =>
    have less := links_settleRebData s i.toNat st
    rw [settle]
    split
    · split
      · rw [links_endRebuild, less]
      · exact less
    · exact less
  | rebSeal i => exact links_endRebuild _ _ _

theorem links_settleFree (s : State) (who : Issuer) (req : Pkt) (st : Status) (data : List MB) :
    (s.settleFree who req st data).links = s.links := by
  have settled := links_settle s who req st data
  rw [settleFree]
  split <;> rename_i found <;> rw [found] at settled
  · exact settled
  · exact settled

/-! ### Answers, and the end of a partner (R277, R281) -/

theorem links_dropTag (s : State) (n t : Nat) : (s.dropTag n t).links = s.links := links_updPort rfl

theorem links_answered (s : State) (n t : Nat) (st : Status) (data : List MB) : (s.answered n t st data).links = s.links := by
  rw [answered]
  split
  · rfl
  · dsimp only
    split
    · exact Eq.trans rfl (links_dropTag s n t)
    · rw [links_settleFree, links_dropTag]

theorem links_abortTags (s : State) (n : Nat) (p : Req → Bool) : (s.abortTags n p).links = s.links := by
  rw [abortTags]
  refine foldl_keeps (P := fun t : State => t.links = s.links) (fun t e kept => ?_) _ rfl
  split
  · exact kept
  · split
    · exact kept
    · rw [links_settleFree, links_dropTag, kept]

theorem links_abortVia (s : State) (n : Nat) (keep : List (BitVec 16)) : (s.abortVia n keep).links = s.links :=
  foldl_keeps (f := fun (t : State) k => t.abortTags k fun r => decide (r.via = n ∧ r.pkt.h.tag ∉ keep))
    (P := fun t : State => t.links = s.links) (fun t k kept => (links_abortTags t k _).trans kept) _ rfl

theorem links_backToRx (s : State) (q : QItem) : (s.backToRx q).links = s.links := by
  rw [backToRx]
  split
  · exact links_updPort rfl
  · rfl

theorem links_tookPort (s : State) (src dst : DevId) (cls : BitVec 3) (m : Nat) : (s.tookPort src dst cls m).links = s.links := by
  rw [tookPort]
  split <;> rfl

theorem links_countFab (s : State) (off n : Nat) : (s.countFab off n).links = s.links := rfl

theorem links_rehome (s : State) (q : QItem) : (s.rehome q).links = s.links := by
  rw [rehome]
  split
  · rfl
  · split
    · next m _ =>
      extract_lets own s1 s2
      have took : s1.links = s.links := by
        simp only [s1]
        split
        · rfl
        · exact links_tookPort _ _ _ _ _
      have named : s2.links = s1.links := by
        simp only [s2]
        split
        · rfl
        · exact links_updPort rfl
      split
      · exact links_backToRx _ _
      · rw [links_enqueue, named, took]
    · dsimp only
      split
      · split
        · split
          · rw [links_enqueue, links_giveBack]
          · rw [links_countFab, links_giveBack]
        · rw [links_countFab, links_giveBack]
      · split
        · rw [links_answered, links_giveBack]
        · rw [links_respond, links_giveBack]
  · rfl

theorem forgetSlots_port (s : State) (n j : Nat) : (s.forgetSlots n).port j =
    { s.port j with queue := (s.port j).queue.map (QItem.slotless n) } :=
  SMap.get_mapValues (f := fun p : Port => { p with queue := p.queue.map (QItem.slotless n) }) rfl s.ports j

/-- What the end of a partner leaves of the links: but for what the port itself loses, all of them. -/
theorem links_partnerDown (s : State) (n reason : Nat) : (s.partnerDown n reason).links = (s.updPort n Port.partnerless).links := by
  have lost : ((s.forgetSlots n).updPort n Port.partnerless).links = (s.updPort n Port.partnerless).links := by
    have link (j : Nat) : (((s.forgetSlots n).updPort n Port.partnerless).port j).link = ((s.updPort n Port.partnerless).port j).link := by
      by_cases here : j = n
      · rw [here, updPort_port_same, updPort_port_same, forgetSlots_port]; rfl
      · rw [updPort_port_other _ _ here, updPort_port_other _ _ here, forgetSlots_port]; rfl
    rw [links, funext link]; rfl
  rw [partnerDown]
  dsimp only
  rw [links_pumpNotes]
  refine foldl_keeps (P := fun t : State => t.links = (s.updPort n Port.partnerless).links) (fun t q kept => (links_rehome t q).trans kept) _ ?_
  rw [links_abortVia, portEvent, links_notify]
  exact lost

/-- The port whose partner is down keeps all of its link but that. -/
theorem partnerDown_link (s : State) (n reason : Nat) : ((s.partnerDown n reason).port n).link = (s.port n).partnerless.link :=
  (port_of_links (links_partnerDown s n reason) n).trans (by rw [updPort_port_same])

theorem partnerDown_link_other (s : State) (n reason : Nat) {j : Nat} (other : j ≠ n) :
    ((s.partnerDown n reason).port j).link = (s.port j).link :=
  (port_of_links (links_partnerDown s n reason) j).trans (by rw [updPort_port_other _ _ other])

theorem partnerDown_lasers (s : State) (n reason : Nat) : (s.partnerDown n reason).fab.lasers = s.fab.lasers :=
  (lasers_of_links (links_partnerDown s n reason)).trans rfl

end State

end Sys2Proof.Machine
end

section
/-! PROOF. Heartbeats, their absence, and link pings (R278, R376). -/

namespace Sys2Proof.Machine

open Sys2Proof

/-- A port keeps its state and what it knows of its partner where its link is the same. -/
theorem Port.of_link {p q : Port} (same : p.link = q.link) : p.st = q.st ∧ p.down = q.down := by
  have field {α : Type} (g : Port → α) : g p.link = g q.link := congrArg g same
  exact ⟨field Port.st, field Port.down⟩

/-- A port that holds a partner is HELD, ACTIVE, or in RESUME. -/
theorem State.st_of_holdsPartner {s : State} {n : Nat} (partner : s.holdsPartner n = true) :
    (s.port n).st = psHeld ∨ (s.port n).st = psActive ∨ (s.port n).st = psResume :=
  (of_decide_eq_true partner).imp_right (Or.imp_right And.left)

section
variable {s : State} {port : BitVec 5} (partner : s.holdsPartner port.toNat = true)
include partner

theorem exec_windowExpiry (late : s.hbWindow ≤ (s.port port.toNat).missed.toNat) : exec (.heartbeatWindowExpiry port) s =
    .next (if (s.port port.toNat).st = psResume then s.partnerDown port.toNat 1
      else (s.partnerDown port.toNat 1).linkLost port.toNat).flush :=
  if_pos (by rw [partner, decide_eq_true late]; rfl)

end

/-- The window's end leaves the port in RESUME, its partner down. -/
theorem State.windowExpired {s : State} {n : Nat} (partner : s.holdsPartner n = true) :
    let t := if (s.port n).st = psResume then s.partnerDown n 1 else (s.partnerDown n 1).linkLost n
    (t.port n).st = psResume ∧ (t.port n).down = true := by
  obtain ⟨st, down⟩ := Port.of_link (s.partnerDown_link n 1)
  intro t
  by_cases resume : (s.port n).st = psResume
  · rw [show t = s.partnerDown n 1 from if_pos resume]
    exact ⟨st.trans resume, down⟩
  · have up : ((s.partnerDown n 1).port n).st = psHeld ∨ ((s.partnerDown n 1).port n).st = psActive := by
      rw [st]
      exact (State.st_of_holdsPartner partner).imp_right fun h => h.resolve_right resume
    rw [show t = (s.partnerDown n 1).linkLost n from if_neg resume, State.linkLost_partnered up, State.updPort_port_same]
    exact ⟨Port.lost_st.1, (Port.trained_down _ _).trans down⟩

/-- Settles O23: HEARTBEAT sets the window's count to 0; at the window's end the partner is declared down, which leaves the port's state
(`State.partnerDown_link`), and the link is lost. -/
theorem heartbeatsKeepThePartner : Obligations.HeartbeatsKeepThePartner := by
  intro s port n p
  refine ⟨fun partner shaft => ?_, fun partner late => ?_, fun partner early => ?_, fun t1 here st => ?_⟩
  · refine ⟨_, congrArg Host.Outcome.next (if_pos partner), PortMoved.of_updPort rfl, ?_⟩
    rw [State.updPort_port_same]
  · exact ⟨_, exec_windowExpiry partner late, State.windowExpired partner⟩
  · exact ⟨_, if_neg (by rw [decide_eq_false (Nat.not_le.2 early), Bool.and_false]; decide), rfl⟩
  · exact ⟨_, congrArg Host.Outcome.next (if_pos (by rw [here, decide_eq_true st]; rfl)), rfl⟩

end Sys2Proof.Machine
end

section
/-! PROOF. Lanes move to the spare wavelength, and laser groups to their other input (R264 to R266, R272). -/

namespace Sys2Proof.Machine

open Sys2Proof

theorem get_bump (m : SMap W32) (off n j : Nat) : SMap.get 0 (bump m off n) j = SMap.get 0 m j + if j = off then w32 n else 0 := by
  rw [bump]
  split
  next none_ =>
    rw [none_]
    split <;> exact (BitVec.add_zero _).symm
  · rw [SMap.get_upd]
    split
    next here => rw [here]
    · exact (BitVec.add_zero _).symm

/-! ### The lanes of a port (R272) -/

namespace Port

variable {p q : Port}

theorem lane_of_unsent (same : p.unsent = q.unsent) (j : Nat) : p.lane j = q.lane j := by
  have lanes : p.unsent.lanes = q.unsent.lanes := by rw [same]
  exact congrArg (fun ls => SMap.get {} ls j) lanes

theorem moving_of_unsent (same : p.unsent = q.unsent) : p.moving = q.moving ∧ p.training = q.training := by
  have field {α : Type} (g : Port → α) : g p.unsent = g q.unsent := congrArg g same
  exact ⟨field Port.moving, field Port.training⟩

theorem retireRx_lane (l j : Nat) : (p.retireRx l).lane j =
    if j = l then { p.lane l with rxLogical := 15, rxState := lnRetired, uncor := false } else p.lane j := lane_updLane p l j _

theorem retireTx_txLogical (l j : Nat) : ((p.retireTx l).lane j).txLogical = if j = l then 15 else (p.lane j).txLogical := by
  rw [retireTx, lane_updLane]; split <;> rfl

/-- A port whose lane `lane` of the receive direction has moved to λ8, and the same of the other direction. -/
def movedRx (p : Port) (lane : BitVec 3) : Port :=
  let p := match p.rxOf lane with
    | some l => p.retireRx l
    | none => p
  ({ p.setRx 8 lane.toNat with moving := none } : Port).countLanes

def movedTx (p : Port) (lane : BitVec 3) : Port :=
  let p := match p.txOf lane with
    | some l => p.retireTx l
    | none => p
  ({ p.setTx 8 lane.toNat with training := none } : Port).countLanes

theorem movedRx_moving (p : Port) (lane : BitVec 3) : (p.movedRx lane).moving = none := by
  rw [movedRx]; rfl

theorem movedTx_training (p : Port) (lane : BitVec 3) : (p.movedTx lane).training = none := by
  rw [movedTx]; rfl

theorem movedRx_spare (lane : BitVec 3) : ((p.movedRx lane).lane 8).rxLogical = lane.setWidth 4 := by
  rw [movedRx]
  exact ((setRx_rxLogical _ _ _ _).trans (if_pos rfl)).trans (BitVec.ofNat_toNat 4 lane)

theorem movedTx_spare (lane : BitVec 3) : ((p.movedTx lane).lane 8).txLogical = lane.setWidth 4 := by
  rw [movedTx]
  exact ((setTx_txLogical _ _ _ _).trans (if_pos rfl)).trans (BitVec.ofNat_toNat 4 lane)

/-- The wavelength that the lane has left carries none. -/
theorem movedRx_left {lane : BitVec 3} {j : Nat} (carried : p.rxOf lane = some j) (other : j ≠ 8) : ((p.movedRx lane).lane j).rxLogical = 15 := by
  rw [movedRx, carried]
  refine ((setRx_rxLogical _ _ _ _).trans (if_neg other)).trans ?_
  rw [retireRx_lane, if_pos rfl]

theorem movedTx_left {lane : BitVec 3} {j : Nat} (carried : p.txOf lane = some j) (other : j ≠ 8) : ((p.movedTx lane).lane j).txLogical = 15 := by
  rw [movedTx, carried]
  refine ((setTx_txLogical _ _ _ _).trans (if_neg other)).trans ?_
  rw [retireTx_txLogical, if_pos rfl]

end Port

namespace State

section
variable {s : State} {n : Nat} {o : List Out}

/-- A change of lanes is counted, recorded and reported; of the port, nothing else changes but what sending changes. -/
theorem laneChange_unsent (rx : Bool) (j : Nat) : ((s.laneChange n rx).port j).unsent = (s.port j).unsent := by
  have recorded : ((s.updPort n fun p => p.count 0x120 1).recordLanes n rx).port j = (s.updPort n fun p => p.count 0x120 1).port j :=
    congrArg (·.port j) (recordLanes_beside (s.updPort n fun p => p.count 0x120 1) n rx)
  rw [laneChange, portEvent_unsent, recorded]
  by_cases here : j = n
  · rw [here, updPort_port_same]; rfl
  · rw [updPort_port_other _ _ here]

theorem laneChange_out (rx : Bool) (before : o <:+ s.out) : o <:+ (s.laneChange n rx).out := by
  have recorded : ((s.updPort n fun p => p.count 0x120 1).recordLanes n rx).out = s.out :=
    congrArg (·.out) (recordLanes_beside (s.updPort n fun p => p.count 0x120 1) n rx)
  exact portEvent_out _ _ _ (by rw [recorded]; exact before)

/-- A link that is lost keeps its wavelengths' words. -/
theorem linkLost_lane (j : Nat) : ((s.linkLost n).port n).lane j = (s.port n).lane j := by
  rw [linkLost]
  dsimp only
  split
  · rw [updPort_trainFrom, updPort_port_same, Port.trained_lane]; rfl
  · split
    · rw [updPort_trainFrom, updPort_port_same, Port.trained_lane]; rfl
    · rfl

theorem linkLost_out : (s.linkLost n).out = s.out := by
  rw [linkLost]
  dsimp only
  split
  · rfl
  · split <;> rfl

/-- The link is lost when a direction has fewer lanes than it needs: the words of the wavelengths stay, and what has been put out. -/
theorem lostBelow_lane (few : Prop) [Decidable few] (j : Nat) : ((if few then s.linkLost n else s).port n).lane j = (s.port n).lane j := by
  split
  · exact linkLost_lane j
  · rfl

theorem lostBelow_out (few : Prop) [Decidable few] : (if few then s.linkLost n else s).out = s.out := by
  split
  · exact linkLost_out
  · rfl

/-- A change of a port's lanes, counted, recorded and reported, which leaves those lanes. -/
theorem laneChange_updPort_lane (f : Port → Port) (rx : Bool) (j : Nat) :
    (((s.updPort n f).laneChange n rx).port n).lane j = (f (s.port n)).lane j := by
  rw [Port.lane_of_unsent (laneChange_unsent rx n), updPort_port_same]

theorem dropRx_lane (l j : Nat) : ((s.dropRx n l).port n).lane j = ((s.port n).retireRx l).lane j := by
  rw [dropRx]
  exact (lostBelow_lane _ j).trans (laneChange_updPort_lane (s := s.link n _) (fun p => (p.retireRx l).countLanes) true j)

theorem dropRx_out (l : Nat) : Out.link n (.laneDrop (((s.port n).lane l).rxLogical.setWidth 3)) ∈ (s.dropRx n l).out := by
  rw [dropRx, lostBelow_out]
  exact (laneChange_out true (o := .link n (.laneDrop (((s.port n).lane l).rxLogical.setWidth 3)) :: s.out) List.suffix_rfl).subset
    List.mem_cons_self

end

end State

/-! ### Windows of errors (R272, R290, R291) -/

/-- A port at the end of a window of errors on a wavelength. -/
def Port.windowed (p : Port) (l errors : Nat) (c : Codewords) : Port :=
  ((p.updLane l fun x => { x with rxBer := BitVec.ofNat 8 (berCode errors), uncor := decide (c.uncorrected ≠ 0) }).count 0x110
    c.corrected.toNat).count 0x114 c.uncorrected.toNat

namespace Port

variable (p : Port) (l errors : Nat) (c : Codewords)

theorem windowed_lane (j : Nat) : (p.windowed l errors c).lane j =
    if j = l then { p.lane l with rxBer := BitVec.ofNat 8 (berCode errors), uncor := decide (c.uncorrected ≠ 0) } else p.lane j :=
  lane_updLane p l j fun x => { x with rxBer := BitVec.ofNat 8 (berCode errors), uncor := decide (c.uncorrected ≠ 0) }

theorem windowed_rxLogical (j : Nat) : ((p.windowed l errors c).lane j).rxLogical = (p.lane j).rxLogical := by
  rw [windowed_lane]
  split
  next here => rw [here]
  · rfl

theorem windowed_rxOf (lane : BitVec 3) : (p.windowed l errors c).rxOf lane = p.rxOf lane := by
  rw [rxOf, rxOf]
  simp only [windowed_rxLogical]

theorem windowed_moving : (p.windowed l errors c).moving = p.moving := rfl

theorem windowed_count (off : Nat) : SMap.get 0 (p.windowed l errors c).counts off = SMap.get 0 p.counts off +
    (if off = 0x110 then w32 c.corrected.toNat else 0) + if off = 0x114 then w32 c.uncorrected.toNat else 0 :=
  (get_bump _ _ _ _).trans (congrArg (· + _) (get_bump _ _ _ _))

theorem windowed_corrected : SMap.get 0 (p.windowed l errors c).counts 0x110 = SMap.get 0 p.counts 0x110 + w32 c.corrected.toNat := by
  rw [windowed_count, if_pos rfl, if_neg (by decide)]
  exact BitVec.add_zero _

theorem windowed_uncorrected : SMap.get 0 (p.windowed l errors c).counts 0x114 = SMap.get 0 p.counts 0x114 + w32 c.uncorrected.toNat := by
  rw [windowed_count, if_neg (by decide), if_pos rfl]
  exact congrArg (· + _) (BitVec.add_zero _)

end Port

section
variable {s : State} {port : BitVec 5} {lam : BitVec 4} {errors : BitVec 25} {c : Codewords}

/-- The Triat once the window is recorded. -/
def State.windowed (s : State) (n l errors : Nat) (c : Codewords) : State := s.updPort n fun p => p.windowed l errors c

theorem State.windowed_port (n l errors : Nat) : (s.windowed n l errors c).port n = (s.port n).windowed l errors c := updPort_port_same s n _

theorem State.windowed_lane (n l errors j : Nat) : ((s.windowed n l errors c).port n).lane j =
    if j = l then { (s.port n).lane l with rxBer := BitVec.ofNat 8 (berCode errors), uncor := decide (c.uncorrected ≠ 0) }
    else (s.port n).lane j := by
  rw [State.windowed_port, Port.windowed_lane]

/-- A window is recorded in the wavelength's word and in the counts, and nowhere else. -/
theorem State.windowed_moved (n l errors : Nat) :
    PortMoved s (s.windowed n l errors c) n id (fun p => { p with lanes := [], counts := [] }) := PortMoved.of_updPort rfl

theorem State.windowed_moving (n l errors : Nat) : ((s.windowed n l errors c).port n).moving = (s.port n).moving := by
  rw [State.windowed_port]; rfl

theorem State.windowed_spareFree {n l : Nat} (other : l ≠ 8) : (s.windowed n l errors.toNat c).spareFree n = s.spareFree n := by
  rw [State.spareFree, State.windowed_port, Port.windowed_lane, if_neg (Ne.symm other)]
  rfl

section
variable (serves : s.inService port.toNat = true) (here : (wavelengths port.toNat).contains lam.toNat = true)
include serves here

theorem exec_berWindow_good (used : ((s.port port.toNat).lane lam.toNat).rxLogical ≠ 15)
    (good : (decide (24 * 2 ^ 24 < errors.toNat * 100000) ||
      (decide (c.uncorrected ≠ 0) && ((s.port port.toNat).lane lam.toNat).uncor)) = false) :
    exec (.berWindow port lam errors c) s = .next (s.windowed port.toNat lam.toNat errors.toNat c) := by
  refine (if_neg (by rw [serves, here]; decide)).trans ((if_pos used).trans (if_pos ?_))
  rw [good]; rfl

section
variable (used : ((s.port port.toNat).lane lam.toNat).rxLogical ≠ 15)
  (weak : (decide (24 * 2 ^ 24 < errors.toNat * 100000) ||
    (decide (c.uncorrected ≠ 0) && ((s.port port.toNat).lane lam.toNat).uncor)) = true)
include used weak

theorem exec_berWindow_spare (other : lam.toNat ≠ 8) (free : s.spareFree port.toNat = true) :
    exec (.berWindow port lam errors c) s = .next ((s.windowed port.toNat lam.toNat errors.toNat c).prepare port.toNat
      (((s.port port.toNat).lane lam.toNat).rxLogical.setWidth 3)) := by
  refine (if_neg (by rw [serves, here]; decide)).trans ((if_pos used).trans ((if_neg (by rw [weak]; decide)).trans (if_pos ⟨other, ?_⟩)))
  exact (State.windowed_spareFree other).trans free

theorem exec_berWindow_dropped (stuck : lam.toNat = 8 ∨ (s.spareFree port.toNat = false ∧
      (s.port port.toNat).moving ≠ some (((s.port port.toNat).lane lam.toNat).rxLogical.setWidth 3))) :
    exec (.berWindow port lam errors c) s = .next ((s.windowed port.toNat lam.toNat errors.toNat c).dropRx port.toNat lam.toNat) := by
  refine (if_neg (by rw [serves, here]; decide)).trans ((if_pos used).trans ((if_neg (by rw [weak]; decide)).trans
    ((if_neg ?_).trans (if_neg ?_))))
  · rintro ⟨other, free⟩
    have taken := (stuck.resolve_left other).1
    exact Bool.false_ne_true (taken.symm.trans ((State.windowed_spareFree other).symm.trans free))
  · rintro ⟨other, moves⟩
    exact (stuck.resolve_left other).2 ((State.windowed_moving _ _ _).symm.trans moves)

end

theorem exec_berWindow_moved {lane : BitVec 3} (unused : ((s.port port.toNat).lane lam.toNat).rxLogical = 15) (spare : lam.toNat = 8)
    (good : (decide (24 * 2 ^ 24 < errors.toNat * 100000) ||
      (decide (c.uncorrected ≠ 0) && ((s.port port.toNat).lane lam.toNat).uncor)) = false)
    (moves : (s.port port.toNat).moving = some lane) :
    exec (.berWindow port lam errors c) s = .next ((s.windowed port.toNat lam.toNat errors.toNat c).completeMove port.toNat lane) := by
  have moves' := (State.windowed_moving (c := c) port.toNat lam.toNat errors.toNat).trans moves
  refine (if_neg (by rw [serves, here]; decide)).trans ((if_neg (not_not.2 unused)).trans ?_)
  unfold State.windowed Port.windowed at moves'
  simp only [moves']
  exact congrArg Host.Outcome.next (if_pos ⟨spare, by rw [good]; rfl⟩)

end

end

/-! ### Lanes that are prepared, switched and dropped (R272) -/

/-- The sender takes a wavelength out of use. -/
def State.dropTx (s : State) (n l : Nat) : State :=
  let t := (s.updPort n fun p => (p.retireTx l).countLanes).laneChange n false
  if (t.port n).txLanes.toNat < minLanes n then t.linkLost n else t

theorem State.dropTx_lane {s : State} {n : Nat} (l j : Nat) : ((s.dropTx n l).port n).lane j = ((s.port n).retireTx l).lane j := by
  rw [State.dropTx]
  exact (State.lostBelow_lane _ j).trans (State.laneChange_updPort_lane (fun p => (p.retireTx l).countLanes) false j)

section
variable {s : State} {port : BitVec 5} (serves : s.inService port.toNat = true)
include serves

/-- R272: a wavelength that is dead loses its lane at once, and λ8 may be asked to take it. -/
theorem exec_deadWavelength {lam : BitVec 4} (used : ((s.port port.toNat).lane lam.toNat).rxLogical ≠ 15) :
    ∃ b : Bool, exec (.deadWavelength port lam) s = .next (if b then (s.dropRx port.toNat lam.toNat).prepare port.toNat
      (((s.port port.toNat).lane lam.toNat).rxLogical.setWidth 3) else s.dropRx port.toNat lam.toNat) :=
  ⟨_, if_neg (by rw [serves, decide_eq_false used]; decide)⟩

theorem exec_laneMapPrepare {lane : BitVec 3} (free : ((s.port port.toNat).lane 8).txLogical = 15) :
    exec (.laneMapPrepare port lane) s =
      .next ((s.updPort port.toNat fun p => { p with training := some lane }).link port.toNat .lanePattern) :=
  if_neg (by rw [serves, decide_eq_false (not_not.2 free)]; decide)

theorem exec_laneMapSwitch {lane : BitVec 3} (trained : (s.port port.toNat).training = some lane) :
    exec (.laneMapSwitch port lane) s =
      .next (((s.link port.toNat (.laneMark lane)).updPort port.toNat (·.movedTx lane)).laneChange port.toNat false) :=
  if_neg (by rw [serves, decide_eq_false (not_not.2 trained)]; decide)

theorem exec_laneMapDrop {lane : BitVec 3} {l : Nat} (carried : (s.port port.toNat).txOf lane = some l) :
    exec (.laneMapDrop port lane) s = .next (s.dropTx port.toNat l) := by
  refine (if_neg (by rw [serves]; decide)).trans ?_
  rw [carried]
  rfl

end

/-- What a move to λ8 in either direction leaves of the port, and that it has been announced. -/
theorem State.switched_port {s : State} {n : Nat} (f : LinkFrame) (g : Port → Port) (rx : Bool) :
    let t := ((s.link n f).updPort n g).laneChange n rx
    (t.port n).unsent = (g (s.port n)).unsent ∧ Out.link n f ∈ t.out := by
  refine ⟨(laneChange_unsent rx n).trans (congrArg Port.unsent (updPort_port_same (s.link n f) n g)), ?_⟩
  exact (laneChange_out (s := (s.link n f).updPort n g) rx (o := .link n f :: s.out) List.suffix_rfl).subset List.mem_cons_self

/-- The receiver asks for a lane on λ8. -/
theorem State.prepare_port (s : State) (n : Nat) (lane : BitVec 3) : (s.prepare n lane).port n = { s.port n with moving := some lane } :=
  (State.link_port _ _ _ _).trans (State.updPort_port_same s n _)

theorem State.prepare_lane (s : State) (n : Nat) (lane : BitVec 3) (j : Nat) : ((s.prepare n lane).port n).lane j = (s.port n).lane j := by
  rw [State.prepare_port]; rfl

/-! ### Laser groups (R264 to R266) -/

namespace State

section
variable {s : State}

theorem setLaser_laser (g : Nat) (l : Laser) : (s.setLaser g l).laser g = l := SMap.get_set_same _ _ _ _

theorem laser_of_fab {t : State} (same : t.fab.lasers = s.fab.lasers) (g : Nat) : t.laser g = s.laser g := by
  rw [laser, laser, same]

theorem switchLaser_laser (g : Nat) : (s.switchLaser g).laser g = { s.laser g with useB := !(s.laser g).useB } := setLaser_laser g _

theorem switchLaser_count (g : Nat) : SMap.get 0 (s.switchLaser g).fab.counts 0x028 = SMap.get 0 s.fab.counts 0x028 + 1 := get_bump_one _ _

theorem laserEvent_fab (g : Nat) : (s.laserEvent g).fab = s.fab := by
  have beside := besidePorts_notify s 0x0006
    ([w32 (evLaserSwitch + g * 2 ^ 8), 0, 0, 0, 0, lo32 s.sh.count, hi32 s.sh.count] ++ List.replicate 12 0)
  exact congrArg (·.fab) beside

theorem laserEvent_noteSeq (g : Nat) : (s.laserEvent g).ctl.noteSeq = s.ctl.noteSeq + 1 := notify_noteSeq _ _ _

theorem mem_groupPorts {g n : Nat} (mem : n ∈ s.groupPorts g) : n / 4 = g ∧ s.hasPort n = true := by
  rw [groupPorts, List.mem_filterMap] at mem
  obtain ⟨i, small, found⟩ := mem
  rw [List.mem_range] at small
  split at found
  next there =>
    rw [← Option.some.inj found]
    exact ⟨by omega, there⟩
  · exact absurd found (Option.some_ne_none _).symm

/-! A group that goes DARK: its ports are OFF (R265). -/

/-- What OFF leaves of the port itself. -/
theorem portOff_st (n reason : Nat) : ((s.portOff n reason).port n).st = psOff := by
  rw [portOff, updPort_port_same]

theorem portOff_st_other {n m : Nat} (reason : Nat) (other : n ≠ m) : ((s.portOff m reason).port n).st = (s.port n).st := by
  rw [portOff, updPort_port_other _ _ other]
  split
  · exact (Port.of_link (partnerDown_link_other s m reason other)).1
  · rfl

theorem portOff_lasers (n reason : Nat) : (s.portOff n reason).fab.lasers = s.fab.lasers := by
  rw [portOff, updPort_fab]
  split
  · exact partnerDown_lasers s n reason
  · rfl

theorem darkGroup_lasers (g : Nat) : (s.darkGroup g).fab.lasers = s.fab.lasers :=
  foldl_keeps (f := fun (t : State) n => t.portOff n 6) (P := fun t : State => t.fab.lasers = s.fab.lasers)
    (fun _ n kept => (portOff_lasers n 6).trans kept) _ rfl

theorem darkGroup_st {g n : Nat} (mem : n ∈ s.groupPorts g) : ((s.darkGroup g).port n).st = psOff :=
  foldl_makes (f := fun (t : State) n => t.portOff n 6) (P := fun t : State => (t.port n).st = psOff)
    (fun _ m off => by
      by_cases here : n = m
      · rw [here]; exact portOff_st m 6
      · exact (portOff_st_other 6 here).trans off)
    (fun t => portOff_st n 6) s mem

/-! A group that becomes lit: its ports that are enabled train (R266). -/

/-- A port that is there, lit, and under neither reset nor power gating. -/
def canTrain (s : State) (n : Nat) : Prop := s.portLit n = true ∧ s.hasPort n = true ∧ s.portShut n = false

theorem portOn_fab (n : Nat) : (s.portOn n).fab = s.fab := by
  rw [portOn]; split <;> rfl

theorem portOn_canTrain (m n : Nat) : (s.portOn m).canTrain n ↔ s.canTrain n := by
  rw [portOn]; split <;> rfl

theorem portOn_other {n m : Nat} (other : n ≠ m) : (s.portOn m).port n = s.port n := by
  rw [portOn]
  split
  · exact updPort_port_other _ _ other
  · rfl

theorem portOn_st {n : Nat} (off : (s.port n).st = psOff) (enabled : (s.port n).enable = true) (can : s.canTrain n) :
    ((s.portOn n).port n).st = psDark := by
  obtain ⟨lit, there, opened⟩ := can
  rw [portOn, if_pos ⟨off, enabled, lit, there, by rw [opened]; rfl⟩, updPort_port_same]

theorem portOn_dark {n : Nat} (m : Nat) (dark : (s.port n).st = psDark) : ((s.portOn m).port n).st = psDark := by
  by_cases here : n = m
  · rw [← here, portOn, if_neg (by rw [dark]; exact fun all => absurd all.1 (by decide))]
    exact dark
  · rw [portOn_other here]; exact dark

theorem portsOn_st {n : Nat} {ms : List Nat} (mem : n ∈ ms) {s : State} (off : (s.port n).st = psOff) (enabled : (s.port n).enable = true)
    (can : s.canTrain n) : ((ms.foldl portOn s).port n).st = psDark := by
  induction ms generalizing s with
  | nil => exact absurd mem List.not_mem_nil
  | cons m ms ih =>
    rw [List.foldl_cons]
    by_cases here : n = m
    · subst here
      exact foldl_keeps (P := fun t : State => (t.port n).st = psDark) (fun _ m dark => portOn_dark m dark) ms (portOn_st off enabled can)
    · exact ih ((List.mem_cons.1 mem).resolve_left here) (by rw [portOn_other here]; exact off) (by rw [portOn_other here]; exact enabled)
        ((portOn_canTrain m n).2 can)

theorem lightGroup_laser (g k : Nat) : (s.lightGroup g).laser k = s.laser k :=
  foldl_keeps (f := fun (t : State) n => t.portOn n) (P := fun t : State => t.laser k = s.laser k)
    (fun _ n kept => (laser_of_fab (congrArg (·.lasers) (portOn_fab n)) k).trans kept) _ rfl

/-- A group whose laser is lit lets each of its enabled ports train. -/
theorem lightGroup_st {g n : Nat} {l : Laser} (lit : l.lit = true) (mem : n ∈ s.groupPorts g) (off : (s.port n).st = psOff)
    (enabled : (s.port n).enable = true) (opened : s.portShut n = false) : (((s.setLaser g l).lightGroup g).port n).st = psDark := by
  obtain ⟨group, there⟩ := mem_groupPorts mem
  refine portsOn_st (s := s.setLaser g l) mem off enabled ⟨?_, there, opened⟩
  have shines : ((s.setLaser g l).laser (n / 4)).lit = true := by rw [group, setLaser_laser, lit]
  exact (congrArg (decide (16 ≤ n) || ·) shines).trans (Bool.or_true _)

end

end State

/-! ### The commands of lasers (R265, R266) -/

/-- A laser group whose input `b` has failed, and one whose input `b` has become OK. -/
def Laser.lose (l : Laser) (b : Bool) : Laser := if b then { l with bOk := false } else { l with aOk := false }
def Laser.find (l : Laser) (b : Bool) : Laser := if b then { l with bOk := true } else { l with aOk := true }

theorem Laser.lose_useB (l : Laser) (b : Bool) : (l.lose b).useB = l.useB := by
  cases b <;> rfl

section
variable {s : State} (awake : s.dormant = false) (input : BitVec 3) {g : Nat} {b : Bool}
  (group : g = input.toNat / 2) (which : b = decide (input.toNat % 2 = 1))
include awake group which

/-- R265: an input that fails and carries its group's light has the other input take over, or the group goes DARK. -/
theorem exec_laserLost : exec (.laserLost input) s =
    if !(s.laser g).lit || decide ((s.laser g).useB ≠ b) then .next (s.setLaser g ((s.laser g).lose b))
    else if (if b then (s.laser g).aOk else (s.laser g).bOk) then .next (((s.setLaser g ((s.laser g).lose b)).switchLaser g).laserEvent g)
    else .next (((s.setLaser g ((s.laser g).lose b)).setLaser g { (s.laser g).lose b with lit := false }).darkGroup g).flush := by
  show execLaserLost input s = _
  rw [execLaserLost, ← which, ← group]
  have asleep (l : Laser) : (s.setLaser g l).dormant = false := awake
  cases b <;> simp only [awake, asleep, Bool.false_eq_true, if_false, if_true, Bool.false_or] <;> rfl

/-- R266: an input that becomes OK. -/
theorem exec_laserOk (ports : s.groupPorts g ≠ []) : exec (.laserOk input) s =
    if (s.laser g).lit then .next (s.setLaser g ((s.laser g).find b))
    else if (s.laser g).started then .next ((s.setLaser g { (s.laser g).find b with lit := true, useB := b }).lightGroup g)
    else .next (s.setLaser g { (s.laser g).find b with starting := true }) := by
  show execLaserOk input s = _
  rw [execLaserOk, ← which, ← group]
  have some_ : (s.groupPorts g).isEmpty = false := by simpa using ports
  cases b <;> simp only [awake, some_, Bool.false_eq_true, if_false, if_true, Bool.or_false] <;> rfl

end

theorem exec_laserGroupStart {s : State} {group : BitVec 2} (starts : (s.laser group.toNat).starting = true)
    (found : (s.laser group.toNat).aOk = true ∨ (s.laser group.toNat).bOk = true) : exec (.laserGroupStart group) s =
      .next ((s.setLaser group.toNat { s.laser group.toNat with
        lit := true, starting := false, started := true
        useB := if s.fab.prefer.getLsbD group.toNat then (s.laser group.toNat).bOk else !(s.laser group.toNat).aOk }).lightGroup group.toNat) := by
  refine (if_neg (by rw [starts]; decide)).trans (if_neg ?_)
  obtain ok | ok := found <;> rw [ok] <;> simp

/-! ### The obligation -/

/-- Settles O24: each end of a lane's move is one change of the port's lanes that `State.laneChange` counts and reports; and a group that goes
DARK turns its ports off one by one, which leaves the link of every other port (`State.partnerDown_link_other`). -/
theorem lanesAndLasersSwitch : Obligations.LanesAndLasersSwitch := by
  refine ⟨?ports, ?lasers⟩
  case ports =>
    intro s port n p serves
    refine ⟨?window, ?dead, ?senders⟩
    case window =>
      intro lam errors corrected uncorrected l x bad weak here seen
      let c : Codewords := { corrected := corrected, uncorrected := uncorrected }
      have lane := s.windowed_lane (c := c) n l errors.toNat
      have ber : (((s.windowed n l errors.toNat c).port n).lane l).rxBer = BitVec.ofNat 8 (berCode errors.toNat) := by rw [lane, if_pos rfl]
      refine ⟨fun used good => ?good, fun used isWeak other free => ?spare, fun used isWeak stuck => ?dropped,
        fun lane unused spare good moves => ?moved⟩
      case good =>
        refine ⟨_, exec_berWindow_good serves here used good, ber, ?_, ?_, ?_, State.windowed_moved _ _ _, fun j other => ?_⟩
        · rw [lane, if_pos rfl]
        · rw [State.windowed_port, Port.windowed_corrected]
        · rw [State.windowed_port, Port.windowed_uncorrected]
        · rw [lane, if_neg other]
      case spare =>
        refine ⟨_, exec_berWindow_spare serves here used isWeak other free, ?_, ?_, rfl⟩
        · exact (congrArg Lane.rxBer (State.prepare_lane _ _ _ _)).trans ber
        · rw [State.prepare_port]
      case dropped =>
        have drops := State.dropRx_lane (s := s.windowed n l errors.toNat c) (n := n) l l
        have told := State.dropRx_out (s := s.windowed n l errors.toNat c) (n := n) l
        rw [Port.retireRx_lane, if_pos rfl] at drops
        rw [lane, if_pos rfl] at told
        exact ⟨_, exec_berWindow_dropped serves here used isWeak stuck, congrArg Lane.rxLogical drops, congrArg Lane.rxState drops, told⟩
      case moved =>
        obtain ⟨kept, told⟩ := State.switched_port (s := s.windowed n l errors.toNat c) (n := n) (.laneSwitch lane) (·.movedRx lane) true
        refine ⟨_, exec_berWindow_moved serves here unused spare good moves, ?_, ?_, told, fun j carried other => ?_⟩
        · exact (congrArg Lane.rxLogical (Port.lane_of_unsent kept 8)).trans (Port.movedRx_spare lane)
        · exact (Port.moving_of_unsent kept).1.trans (Port.movedRx_moving _ lane)
        · refine (congrArg Lane.rxLogical (Port.lane_of_unsent kept j)).trans (Port.movedRx_left ?_ other)
          rw [State.windowed_port, Port.windowed_rxOf]
          exact carried
    case dead =>
      intro lam l x used
      obtain ⟨prepares, done⟩ := exec_deadWavelength serves used
      have drops := State.dropRx_lane (s := s) (n := n) l l
      have told := State.dropRx_out (s := s) (n := n) l
      rw [Port.retireRx_lane, if_pos rfl] at drops
      refine ⟨_, done, ?_⟩
      cases prepares with
      | false => exact ⟨congrArg Lane.rxLogical drops, told⟩
      | true => exact ⟨congrArg Lane.rxLogical ((State.prepare_lane _ _ _ _).trans drops), List.mem_cons_of_mem _ told⟩
    case senders =>
      intro lane
      refine ⟨fun free => ?_, fun trained => ?_, fun l carried => ?_⟩
      · have mine : ((s.updPort n fun p => { p with training := some lane }).link n .lanePattern).port n = { p with training := some lane } :=
          (State.link_port _ _ _ _).trans (State.updPort_port_same s n _)
        refine ⟨_, exec_laneMapPrepare serves free, ⟨rfl, fun j other => ?_, ?_⟩, congrArg Port.training mine, rfl⟩
        · exact (State.link_port _ _ _ _).trans (State.updPort_port_other s _ other)
        · exact congrArg (fun p : Port => { p with training := none }) mine
      · obtain ⟨kept, told⟩ := State.switched_port (s := s) (n := n) (.laneMark lane) (·.movedTx lane) false
        refine ⟨_, exec_laneMapSwitch serves trained, ?_, ?_, told, fun j carried other => ?_⟩
        · exact (congrArg Lane.txLogical (Port.lane_of_unsent kept 8)).trans (Port.movedTx_spare lane)
        · exact (Port.moving_of_unsent kept).2.trans (Port.movedTx_training _ lane)
        · exact (congrArg Lane.txLogical (Port.lane_of_unsent kept j)).trans (Port.movedTx_left carried other)
      · refine ⟨_, exec_laneMapDrop serves carried, (congrArg Lane.txLogical (State.dropTx_lane l l)).trans ?_⟩
        rw [Port.retireTx_txLogical, if_pos rfl]
  case lasers =>
    intro s awake
    refine ⟨?inputs, ?groups⟩
    case inputs =>
      intro input g b l lost found
      have lose := exec_laserLost awake input (g := g) (b := b) rfl rfl
      have carries (lit : l.lit = true) (used : l.useB = b) : ¬(!l.lit || decide (l.useB ≠ b)) = true := by
        rw [lit, decide_eq_false (not_not.2 used)]; decide
      refine ⟨fun unused => ?_, fun lit used other => ?_, fun lit used none_ => ?_, fun ports => ?ok⟩
      · refine ⟨_, lose.trans (if_pos ?_), rfl⟩
        obtain dark | other := unused
        · rw [dark]; rfl
        · rw [decide_eq_true other, Bool.or_true]
      · have switched : ((((s.setLaser g (l.lose b)).switchLaser g).laserEvent g)).laser g = { lost with useB := !b } := by
          rw [State.laser_of_fab (congrArg (·.lasers) (State.laserEvent_fab g)), State.switchLaser_laser, State.setLaser_laser, Laser.lose_useB, used]
          rfl
        have counted := congrArg (fun f : Fab => SMap.get 0 f.counts 0x028) (State.laserEvent_fab (s := (s.setLaser g (l.lose b)).switchLaser g) g)
        exact ⟨_, lose.trans ((if_neg (carries lit used)).trans (if_pos other)), switched, State.laserEvent_noteSeq g,
          counted.trans (State.switchLaser_count g)⟩
      · have dark : (((s.setLaser g (l.lose b)).setLaser g { l.lose b with lit := false }).darkGroup g).laser g =
            { l.lose b with lit := false } := by
          rw [State.laser_of_fab (State.darkGroup_lasers g), State.setLaser_laser]
        exact ⟨_, lose.trans ((if_neg (carries lit used)).trans (if_neg (by rw [none_]; decide))), congrArg Laser.lit dark,
          fun n mem => State.darkGroup_st mem⟩
      case ok =>
        have ok := exec_laserOk awake input (g := g) (b := b) rfl rfl ports
        refine ⟨fun lit => ⟨_, ok.trans (if_pos lit), rfl⟩, fun dark new => ⟨_, ok.trans ((if_neg ?_).trans (if_neg ?_)), rfl⟩,
          fun dark again => ⟨_, ok.trans ((if_neg ?_).trans (if_pos again)), ?_, fun n mem off enabled opened =>
            State.lightGroup_st rfl mem off enabled opened⟩⟩
        · rw [dark]; decide
        · rw [new]; decide
        · rw [dark]; decide
        · rw [State.lightGroup_laser, State.setLaser_laser]; rfl
    case groups =>
      intro group g l starts ok
      refine ⟨_, exec_laserGroupStart starts ok, ?_, fun n mem off enabled opened => State.lightGroup_st rfl mem off enabled opened⟩
      rw [State.lightGroup_laser, State.setLaser_laser]

end Sys2Proof.Machine
end
